-- ==== Sys2Proof/Word.lean ====
section
/-! DEFINITION. The words of the part: bytes, 64-bit words, PS36 containers, and the numbering of its resources (R6, R8). -/
namespace Sys2Proof

/-- A byte of any memory. -/
abbrev Byte := BitVec 8
/-- A scalar register, a record word, a descriptor word. -/
abbrev Word := BitVec 64
/-- A PS36 container (R25). -/
abbrev Container := BitVec 40

/-- Logical core 0–1023 (R8). -/
abbrev CoreId := Fin 1024
/-- Cluster 0–63 (R8). -/
abbrev ClusterId := Fin 64
/-- DMA channel 0–511, cluster × 8 + channel (R8). -/
abbrev ChanId := Fin 512
/-- Seam link 0–19 (R8). -/
abbrev LinkId := Fin 20
/-- Context 0–255 (R8). -/
abbrev CtxId := Fin 256
/-- HBM stack 0–15 (R320). -/
abbrev StackId := Fin 16
/-- Collective group 0–63 (R348). -/
abbrev GroupId := Fin 64
/-- Window 0–7 of a core (R120). -/
abbrev WinId := Fin 8
/-- Host port 0 or 1 (R371). -/
abbrev PortId := Fin 2
/-- Compute die 0 or 1 (R13). -/
abbrev DieId := Fin 2
/-- Queue pair 0–511 (R376). -/
abbrev QpId := Fin 512
/-- Memory region 0–255 (R379). -/
abbrev RegionId := Fin 256

end Sys2Proof
end

