-- ==== Sys2Proof/Syntax.lean ====
section
/-! DEFINITION. The commands of the part: one constructor of `Instr` per row of spec/opcode_table.json, with the row's operands.
A command that a master, a peer or a requester sends carries what it sends; a command of the part itself names the unit that acts. -/
namespace Sys2Proof

/-- The three Ethernet ports (R371, R398). -/
inductive KocPort where
  | host0 | host1 | side
  deriving DecidableEq, Repr

/-- The four engine queues of a core (R69, R80). -/
inductive Queue where
  | load | matrix | vector | store
  deriving DecidableEq, Repr

/-- The three memories of a core (R99). -/
inductive CoreMem where
  | weight | scratch | psum
  deriving DecidableEq, Repr

/-- Where a wait stands: at the head of an engine queue, or at the sequencer (R86). -/
inductive WaitSite where
  | queue (q : Queue)
  | sequencer
  deriving DecidableEq, Repr

/-- The lossless classes of a host port (R373). -/
inductive LossClass where
  | llA | llB
  deriving DecidableEq, Repr

/-- What halts a DMA channel (R312): a fault that translation finds, or a bus error that the environment reports
on a read, a write or a descriptor fetch after `moved` bytes of the descriptor. -/
inductive HaltCause where
  | translation
  | busRead (moved : Nat)
  | busWrite (moved : Nat)
  | busFetch
  deriving DecidableEq, Repr

/-- Why a received frame is dropped (R337, R338, R343). -/
inductive RejectCause where
  | crc | order | malformed
  deriving DecidableEq, Repr

/-- What lies around a frame that reaches an Ethernet port (R371–R373, R385): destination MAC and IP address (of 4 or 16 bytes), the priority and
VLAN id of its 802.1Q tag where it has one, its UDP destination port, and its length in bytes. -/
structure NetHdr where
  mac : List Byte
  ip : List Byte
  vlan : Option (Nat × Nat)
  udp : Nat
  len : Nat
  deriving DecidableEq, Repr

/-- Header of a KOC frame as it arrives (R386): the port and source address it arrives on and what lies around it, version, type, fragments
(each its index, the count it names and its payload length), session id, sequence number, request id, the reserved fields of header and
payload, and the tag. -/
structure KocHdr where
  port : KocPort
  src : Nat
  net : NetHdr
  version : Nat
  typ : Nat
  frags : List (Nat × Nat × Nat)
  sid : Nat
  seq : Nat
  rid : Nat
  reserved : Nat
  pad : Nat
  tag : List Byte
  deriving DecidableEq, Repr

/-- Header of a Seam message as it arrives (R336): whether every frame's CRC holds; the type byte; the VC; whether LAST is set on its final
frame; the payload length of each frame in 16-byte units; the sequence number of its first frame, the acknowledged sequence, the credit
return, the ranks, the message tag. -/
structure SeamHdr where
  crcOk : Bool
  typ : Nat
  vc : Nat
  last : Bool
  lens : List Nat
  seq : Nat
  ack : Nat
  retVc : Nat
  retUnits : Nat
  dst : Nat
  src : Nat
  tag : Nat
  deriving DecidableEq, Repr

/-- A window write (R346): write header, copy of the destination descriptor, packed element bytes; `bad` names the elements that carry poison
marking (R165), for which the frames have no field: it is taken to travel with the payload (DEDUCED, log entry 133). -/
structure WinWrite where
  core : Nat
  win : Nat
  slot : Nat
  gen : Nat
  sender : Nat
  id : Nat
  desc : List Byte
  data : List Byte
  bad : List Nat
  deriving DecidableEq, Repr

/-- A contribution or result message (R356, R357): header, contributor mask, values as bytes. -/
structure CollMsg where
  kind : Nat
  group : Nat
  pos : Nat
  seq : Nat
  level : Nat
  avg : Bool
  poison : Bool
  failed : Bool
  node : Nat
  print : Nat
  elems : Nat
  srcFmt : Nat
  dstFmt : Nat
  accMode : Nat
  outMode : Nat
  stream : Nat
  tau : Nat
  crc : Word
  digest : List Byte
  srcPos : Nat
  first : Nat
  mask : List Byte
  values : List Byte
  deriving DecidableEq, Repr

/-- Header of a checkpoint message (R504). -/
structure CkptHdr where
  answer : Nat
  ctx : Nat
  step : Nat
  entry : Nat
  granule : Nat
  crc : Word
  deriving DecidableEq, Repr

/-- Payload of a Seam message (R337, R345, R504). -/
inductive FrameBody where
  | link
  | nak (seq : Nat)
  | heartbeat (rank state link : Nat)
  | ident (identity rank link variant : Nat)
  | lost (rank reporter : Nat)
  | wcredit (core win slot gen : Nat)
  | wwrite (w : WinWrite)
  | wanswer (id status : Nat)
  | wreturn (core win slot gen : Nat)
  | wclose (core win gen : Nat)
  | contrib (m : CollMsg)
  | result (m : CollMsg)
  | canswer (seq group answer level node first : Nat)
  | keepalive (group seq level node : Nat)
  | ckpt (op : Nat) (k : CkptHdr) (data : List Byte)
  deriving DecidableEq, Repr

/-- Where an RDMA WRITE goes, as its first packet says: R_Key, virtual address, length of the message (R376, R379). -/
structure WriteTo where
  rkey : Nat
  va : Nat
  len : Nat
  deriving DecidableEq, Repr

/-- One packet of an RDMA WRITE (R380): the target that the first packet of a message names, whether it is the last one, and its payload. -/
structure WritePkt where
  qp : Nat
  psn : Nat
  first : Option WriteTo
  last : Bool
  data : List Byte
  ce : Bool
  net : NetHdr
  deriving DecidableEq, Repr

/-- An RDMA READ request (R382). -/
structure ReadPkt where
  qp : Nat
  psn : Nat
  rkey : Nat
  va : Nat
  len : Nat
  ce : Bool
  net : NetHdr
  deriving DecidableEq, Repr

/-- A SEND (R383). -/
structure SendPkt where
  qp : Nat
  psn : Nat
  data : List Byte
  ce : Bool
  net : NetHdr
  deriving DecidableEq, Repr

/-- A request outside the supported subset (R377). -/
structure InvalidPkt where
  psn : Nat
  ce : Bool
  net : NetHdr
  deriving DecidableEq, Repr

/-- What a regulator reports over PMBus (R442): millivolts, milliamperes, milli-degrees, status word, output fault. -/
structure RegReading where
  mv : Nat
  ma : Nat
  mdeg : Int
  status : Nat
  fault : Bool
  deriving DecidableEq, Repr

/-- A unit tested in bring-up step 5 besides the physical cores (R449): a cluster-shared unit, or a cache slice. -/
inductive SharedUnit where
  | cluster (k : ClusterId)
  | slice (i : Nat)
  deriving DecidableEq, Repr

/-- The commands: one constructor per row of spec/opcode_table.json, in its order. -/
inductive Instr where
  -- records and the sequencer (R60–R89, R286)
  | commandFetch (c : CoreId)
  | engineRecordDispatch (c : CoreId)
  | recordComplete (c : CoreId) (q : Queue)
  | syncSignalDelivery (i : Nat)
  | waitTimeout (c : CoreId) (at_ : WaitSite)
  | nop (c : CoreId)
  | seti (c : CoreId)
  | addi (c : CoreId)
  | aluAdd (c : CoreId)
  | aluSub (c : CoreId)
  | aluAnd (c : CoreId)
  | aluOr (c : CoreId)
  | aluXor (c : CoreId)
  | aluShl (c : CoreId)
  | aluShr (c : CoreId)
  | aluSar (c : CoreId)
  | aluMul (c : CoreId)
  | aluMin (c : CoreId)
  | aluMax (c : CoreId)
  | aluSlt (c : CoreId)
  | aluSltu (c : CoreId)
  | lds (c : CoreId)
  | sts (c : CoreId)
  | br (c : CoreId)
  | loop (c : CoreId)
  | wait (c : CoreId)
  | signal (c : CoreId)
  | fence (c : CoreId)
  | dmagoStart (c : CoreId)
  | dmagoResume (c : CoreId)
  | dmagoPause (c : CoreId)
  | dmagoSkip (c : CoreId)
  | dmagoAbort (c : CoreId)
  | stepRec (c : CoreId)
  | eventRec (c : CoreId)
  | endRec (c : CoreId)
  -- load and store engines
  | load (c : CoreId)
  | loadwTiles (c : CoreId)
  | loadwPool (c : CoreId)
  | loadwValues (c : CoreId)
  | store (c : CoreId)
  | atomicCas (c : CoreId)
  | atomicFac (c : CoreId)
  | atomicCac (c : CoreId)
  | collAllreduce (c : CoreId)
  | collReduceScatter (c : CoreId)
  | collAllgather (c : CoreId)
  | collBroadcast (c : CoreId)
  | collGnorm (c : CoreId)
  | collDigest (c : CoreId)
  -- matrix queue
  | matmul (c : CoreId)
  | spmm (c : CoreId)
  | spmmt (c : CoreId)
  | sddmm (c : CoreId)
  | full (c : CoreId)
  | pruneThresh (c : CoreId)
  | pruneTilek (c : CoreId)
  | pruneRowk (c : CoreId)
  | regrowGrad (c : CoreId)
  | regrowRandt (c : CoreId)
  | regrowRandr (c : CoreId)
  | probeTile (c : CoreId)
  | probeRow (c : CoreId)
  | predictPredicted (c : CoreId)
  | predictExact (c : CoreId)
  | screen (c : CoreId)
  | crownSum (c : CoreId)
  | crownMeanvar (c : CoreId)
  | crownMax (c : CoreId)
  | crownPhaseStart (c : CoreId)
  | crownPhaseEnd (c : CoreId)
  -- vector queue
  | vewAdd (c : CoreId)
  | vewSub (c : CoreId)
  | vewMul (c : CoreId)
  | vewFma (c : CoreId)
  | vewMax (c : CoreId)
  | vewMin (c : CoreId)
  | vewAbs (c : CoreId)
  | vewNeg (c : CoreId)
  | vewScale (c : CoreId)
  | vewRecip (c : CoreId)
  | vewSqrt (c : CoreId)
  | vewRsqrt (c : CoreId)
  | vewExp (c : CoreId)
  | vewLog (c : CoreId)
  | vewTanh (c : CoreId)
  | vewSigmoid (c : CoreId)
  | vewErf (c : CoreId)
  | vewSelect (c : CoreId)
  | vewCmpgt (c : CoreId)
  | vewClip (c : CoreId)
  | vredSum (c : CoreId)
  | vredMax (c : CoreId)
  | vredMin (c : CoreId)
  | vredSumsq (c : CoreId)
  | vredMeanvar (c : CoreId)
  | vredAmax (c : CoreId)
  | vconv (c : CoreId)
  | vrandBits (c : CoreId)
  | vrandUniform (c : CoreId)
  | vrandBernoulli (c : CoreId)
  -- core memories, caches, windows
  | correctedWriteback (c : CoreId)
  | corePatrolScrub (k : ClusterId)
  | sacLineFill (d : DieId) (line : Nat)
  | cacheInvalidateAll (h : KocHdr) (v : List Byte)
  | coreResume (h : KocHdr) (c : CoreId) (v : List Byte)
  | windowOpen (h : KocHdr) (c : CoreId) (w : WinId)
  | windowClose (h : KocHdr) (c : CoreId) (w : WinId)
  | windowDrainTimeout (c : CoreId) (w : WinId)
  | dirtyMapClear (h : KocHdr) (c : CoreId) (v : List Byte)
  | predictorSlotsWrite (h : KocHdr) (n : CtxId) (v : List Byte)
  | seedWrite (h : KocHdr) (n : CtxId) (v : List Byte)
  | reseed (h : KocHdr) (n : CtxId) (v : List Byte)
  | pmxKnownAnswer (h : KocHdr)
  | snapshotRequest (h : KocHdr) (v : List Byte)
  | snapshotCopy
  | snapshotReady
  | snapshotRelease (h : KocHdr) (v : List Byte)
  -- contexts
  | contextCreate (h : KocHdr) (n : CtxId)
  | contextResume (h : KocHdr) (n : CtxId)
  | contextPreempt (h : KocHdr) (n : CtxId)
  | contextDestroy (h : KocHdr) (n : CtxId)
  | preemptSave (n : CtxId)
  | contextRestore (n : CtxId)
  | doorbell (h : KocHdr) (n : CtxId) (v : List Byte)
  | tlbInvalidateRequest (h : KocHdr) (n : CtxId) (v : List Byte)
  | tlbInvalidateComplete (n : CtxId)
  | contextImport (h : KocHdr) (n : CtxId) (image : List (Nat × Byte))
  -- DMA engines
  | dmaDescriptorFetch (d : ChanId)
  | dmaDescriptorComplete (d : ChanId)
  | dmaPauseDrained (d : ChanId) (moved : Nat)
  | dmaHalt (d : ChanId) (cause : HaltCause)
  | dmaWaitTimeout (d : ChanId)
  | dmaCtrlResume (h : KocHdr) (d : ChanId)
  | dmaCtrlPause (h : KocHdr) (d : ChanId)
  | dmaCtrlSkip (h : KocHdr) (d : ChanId)
  | dmaCtrlAbort (h : KocHdr) (d : ChanId)
  -- HBM
  | hbmPatrolScrub
  | hbmStackTrained (t : StackId) (ok : Bool)
  | hbmWipeDone (failed : Option StackId) (us : Nat)
  -- Seam links
  | linkSignalDetect (l : LinkId)
  | linkTrained (l : LinkId)
  | linkTrainTimeout (l : LinkId)
  | identSend (l : LinkId)
  | linkFecLoss (l : LinkId)
  | linkSilenceCheck (l : LinkId) (age : Nat)
  | linkRetrain (h : KocHdr) (l : LinkId) (v : List Byte)
  | heartbeatSend (l : LinkId)
  | ackSend (l : LinkId)
  | replayTimeout (l : LinkId)
  | frameReject (l : LinkId) (h : SeamHdr) (cause : RejectCause) (nakDue : Bool)
  | link (l : LinkId) (h : SeamHdr)
  | nak (l : LinkId) (h : SeamHdr) (seq : Nat)
  | heartbeat (l : LinkId) (h : SeamHdr) (rank state peer : Nat)
  | ident (l : LinkId) (h : SeamHdr) (identity rank peer variant : Nat)
  | lost (l : LinkId) (h : SeamHdr) (rank reporter : Nat)
  | frameForward (l : LinkId) (h : SeamHdr) (b : FrameBody)
  | lostRankClear (h : KocHdr) (v : List Byte)
  | wcredit (l : LinkId) (h : SeamHdr) (core win slot gen : Nat)
  | wwrite (l : LinkId) (h : SeamHdr) (w : WinWrite)
  | wanswer (l : LinkId) (h : SeamHdr) (id status : Nat)
  | wreturn (l : LinkId) (h : SeamHdr) (core win slot gen : Nat)
  | wclose (l : LinkId) (h : SeamHdr) (core win gen : Nat)
  | contrib (l : LinkId) (h : SeamHdr) (m : CollMsg)
  | result (l : LinkId) (h : SeamHdr) (m : CollMsg)
  | canswer (l : LinkId) (h : SeamHdr) (seq group answer level node first : Nat)
  | keepalive (l : LinkId) (h : SeamHdr) (group seq level node : Nat)
  | keepaliveSend (g : GroupId) (seq : Nat) (level node : Nat)
  | collInputTimeout (g : GroupId) (seq : Nat) (level node : Nat)
  | groupConfigWrite (h : KocHdr) (g : GroupId) (sub : Nat) (v : List Byte)
  -- host ports
  | hostLinkUp (p : PortId)
  | rdmaWrite (p : PortId) (k : WritePkt)
  | rdmaRead (p : PortId) (k : ReadPkt)
  | send (p : PortId) (k : SendPkt)
  | roceInvalidRequest (p : PortId) (q : QpId) (k : InvalidPkt)
  | cnp (p : PortId) (q : QpId)
  | rateIncreaseTimer (q : QpId)
  | pfc (p : PortId) (priority quanta : Nat)
  | pfcXoffRefresh (p : PortId) (k : LossClass)
  | arp (p : KocPort) (target : List Byte)
  | neighbourDiscovery (p : KocPort) (target : List Byte)
  | icmpEcho (p : KocPort) (target : List Byte) (payload : List Byte)
  | hostFrameDiscard (p : PortId)
  | qpReady (h : KocHdr) (q : QpId)
  | qpReset (h : KocHdr) (q : QpId)
  -- KOC
  | openReq (h : KocHdr) (nonce keyHash : List Byte)
  | openFinish (h : KocHdr) (sid : Nat) (cipher sig : List Byte)
  | openTimeout (p : KocPort) (sid : Nat)
  | close (h : KocHdr) (reason : Nat)
  | read (h : KocHdr) (idx sub : Nat)
  | write (h : KocHdr) (idx sub : Nat) (v : List Byte)
  | domainWriteOpen (h : KocHdr) (idx sub : Nat) (v : List Byte)
  | segRead (h : KocHdr) (idx sub seg : Nat)
  | segWrite (h : KocHdr) (idx sub seg len : Nat)
  | segData (h : KocHdr) (frame : Nat) (data : List Byte)
  | segAck (h : KocHdr) (bitmap status : Nat)
  | segmentTimeout (sid rid : Nat)
  | stagedWriteTimeout (sid idx sub : Nat)
  | eventAck (h : KocHdr) (seq : Nat)
  | eventResendTimer (sid : Nat)
  | ping (h : KocHdr)
  | sessionIdleTimeout (sid : Nat)
  | sessionLifetimeExpiry (sid : Nat)
  | kocKeyListWrite (h : KocHdr) (sub : Nat) (v : List Byte)
  | leaseRequest (h : KocHdr) (v : List Byte)
  | leaseRevoke (h : KocHdr) (v : List Byte)
  | leaseExpiry
  | resetWrite (h : KocHdr) (v : List Byte)
  | persistentFlush
  -- power
  | clusterIdleEntry (k : ClusterId)
  | clusterDozeEntry (k : ClusterId)
  | clusterNapEntry (k : ClusterId)
  | clusterEntryDone (k : ClusterId)
  | powerUpStart (d : DieId)
  | dozeRestartStart (d : DieId)
  | clusterRun (k : ClusterId)
  | clusterFloorWrite (h : KocHdr) (k : ClusterId) (v : List Byte)
  | mgmtCoreSleep (m : Fin 8)
  | governorPeriod (powerMw meanMw excursionUs : Nat) (tj0 tj1 : Int)
  | currentLimitTrip (currentMa : Nat)
  | thermalSample (readings : List Int)
  | pmbusPoll (rails : List RegReading)
  | railOutOfWindow (rail status : Nat)
  | railMarginWrite (h : KocHdr) (v : List Byte)
  | mainPowerOff (h : KocHdr)
  | mainPowerOn (h : KocHdr)
  -- bring-up
  | powerOn (straps : BitVec 4)
  | pgAonFall
  | resetPin (straps : BitVec 4)
  | bootVerifyDone
  | railSequenceStep
  | pgMainRise
  | pgMainTimeout
  | pllLockTimeout
  | selfTestDone (failedCores : List (ClusterId × Fin 17)) (failedUnits : List SharedUnit)
  | topologyDeadline
  | patternCacheLoaded (ok : Bool)
  -- security
  | licenceInstall (h : KocHdr) (v : List Byte)
  | topologyKeyAdd (h : KocHdr) (v : List Byte)
  | firmwareImageWrite (h : KocHdr) (v : List Byte)
  | securityFloorRaise (h : KocHdr) (v : List Byte)
  | quoteRequest (h : KocHdr) (v : List Byte)
  | attestationTokenRefill
  | lifecycleTransition (h : KocHdr) (v : List Byte)
  -- reliability
  | faultServiceTake
  | faultServiceWatchdog
  | errorRecordAck (h : KocHdr) (v : List Byte)
  | errorLogClear (h : KocHdr) (v : List Byte)
  | scanRequest (h : KocHdr) (v : List Byte)
  | scanComplete (pass : Bool) (patterns : Nat)
  | buddySet (h : KocHdr) (v : List Byte)
  | wardSet (h : KocHdr) (v : List Byte)
  | checkpointReadDone (n : CtxId)
  | ckptBegin (l : LinkId) (h : SeamHdr) (k : CkptHdr) (table : List Byte)
  | ckptState (l : LinkId) (h : SeamHdr) (k : CkptHdr) (data : List Byte)
  | ckptGranule (l : LinkId) (h : SeamHdr) (k : CkptHdr) (data : List Byte)
  | ckptEnd (l : LinkId) (h : SeamHdr) (k : CkptHdr)
  | ckptReplay (l : LinkId) (h : SeamHdr) (k : CkptHdr) (data : List Byte)
  | ckptAnswer (l : LinkId) (h : SeamHdr) (k : CkptHdr)
  | ckptPull (l : LinkId) (h : SeamHdr) (k : CkptHdr)
  | checkpointRestoreRequest (h : KocHdr) (n : CtxId) (v : List Byte)
  | hostLinkDown (p : PortId)
  | refreshRateChange (t : StackId) (celsius : Int)
  | predictorUpdateDone (n : CtxId)
  | quoteSigned
  | pfcPauseExpiry (p : PortId) (k : LossClass)
  deriving DecidableEq, Repr

end Sys2Proof
end

