-- ==== Sys2Proof/Decode.lean ====
section
/-! DEFINITION. Reading a command from a word of spec/opcode_table.json. -/
namespace Sys2Proof

/-- The command a table word spells: none, since no row of the table gives bits. Commands arrive as KOC requests, frames, packets
and events of the part, whose bytes their own rules lay out (DESIGN CHOICE, log entry 13). -/
def decodeTableWord (_nbits _w : Nat) : Option Instr := none

end Sys2Proof
end

