-- ==== Sys2Proof/Config.lean ====
section
/-! DEFINITION. What the spec leaves open, as constants without a body (log entries 3 and 4): nothing can be proved of their
values, so every statement holds whatever they are. -/
namespace Sys2Proof.Config

/-- Free byte number `n`, for values that the part draws from its entropy source (R389, R465) and that the spec does not state. -/
opaque freeByte : Nat → Byte
/-- Free yes-or-no number `n`: whether a cached translation is still held when an access asks for it (R280). -/
opaque freeBool : Nat → Bool
/-- Free natural number `n`: session ids, die and sensor figures that the spec does not state. -/
opaque freeNat : Nat → Nat

/-- The size code of a slot of another part's window, by rank, core, window and generation (R125; DESIGN CHOICE, log entry 131). -/
opaque remoteSlot : Nat → Nat → Nat → Nat → Nat

/-- Codewords that FEC corrected (kind 0) and could not correct (kind 1) on a Seam link up to a message (R334, R367; DESIGN CHOICE, log entry 116):
link, bytes received before it, kind. -/
opaque fecCount : Nat → Nat → Nat → Nat

/-- KMAC256 of SP 800-185 (R390): key, data, output bytes, customisation. -/
opaque kmac256 : List Byte → List Byte → Nat → String → List Byte
/-- SHAKE256 of FIPS 202 with so many output bytes (R389, R459, R461, R467). -/
opaque shake256 : List Byte → Nat → List Byte
/-- XMSS-SHAKE256_20_256 verification (R459): public key, message, signature. -/
opaque xmssVerify : List Byte → List Byte → List Byte → Bool
/-- XMSS verification under the key whose SHAKE256-256 hash is named (R389): key hash, message, signature. The key itself is not part
of the frames that R387 lays out. -/
opaque masterVerify : List Byte → List Byte → List Byte → Bool
/-- XMSS signature (2,820 bytes) with a secret seed and a signature index (R465). -/
opaque xmssSign : List Byte → Nat → List Byte → List Byte
/-- XMSS public key (68 bytes) of a secret seed (R465). -/
opaque xmssPublic : List Byte → List Byte
/-- ML-KEM-1024 key generation from 64 bytes of randomness (R389): the encapsulation key. -/
opaque mlkemEncapKey : List Byte → List Byte
/-- ML-KEM-1024 key generation: the decapsulation key. -/
opaque mlkemDecapKey : List Byte → List Byte
/-- ML-KEM-1024 decapsulation (R389): decapsulation key and ciphertext; none when FIPS 203 refuses the input. -/
opaque mlkemDecap : List Byte → List Byte → Option (List Byte)

/-- The bits with which the matrix array first takes an operand element that overflows before its tile is quantised again (R50; DESIGN CHOICE,
log entry 19): format, logical position, scale exponent. -/
opaque firstOverflow : Nat → Nat → Int → Nat

/-- What the spec does not state of a vector function at a zero or an infinity (R72): function code and operand case (0 for +0,
1 for −0, 2 for +infinity, 3 for −infinity) give the 36 value bits of a PS36 container. -/
opaque openResult : Nat → Nat → Nat

/-- The part of a transcendental result that the bounded evaluation of Machine/Transcend.lean does not settle (R72):
function code and operand give the magnitude bits. -/
opaque transcendental : Nat → Int → Int → Nat

end Sys2Proof.Config
end

