-- ==== Sys2Proof/Machine/Bits.lean ====
section
/-! DEFINITION. Bit fields, byte order (R6), signed numbers and small arithmetic used everywhere. -/
namespace Sys2Proof.Machine

/-- Field [hi:lo] of a number (R6). -/
def fld (x hi lo : Nat) : Nat := (x >>> lo) % 2 ^ (hi + 1 - lo)

/-- One bit of a number. -/
def bit (x i : Nat) : Bool := x.testBit i

/-- Two's complement reading of `w` bits. -/
def sx (w x : Nat) : Int :=
  if x % 2 ^ w < 2 ^ (w - 1) then (x % 2 ^ w : Nat) else (x % 2 ^ w : Nat) - (2 ^ w : Nat)

/-- An integer as `w` bits. -/
def ux (w : Nat) (x : Int) : Nat := (x % (2 ^ w : Nat)).toNat

/-- Little-endian number of a byte string (R6). -/
def leNat : List Byte → Nat
  | [] => 0
  | b :: bs => b.toNat + 256 * leNat bs

/-- `n` bytes of a number, little-endian. -/
def leBytes : Nat → Nat → List Byte
  | 0, _ => []
  | n + 1, x => BitVec.ofNat 8 x :: leBytes n (x / 256)

/-- `n` bytes of a byte string from offset `off`; missing bytes read as zero. -/
def sl (bs : List Byte) (off n : Nat) : List Byte :=
  (bs.drop off).take n ++ List.replicate (n - ((bs.drop off).take n).length) 0

/-- Little-endian field of a byte string: `n` bytes at `off`. -/
def le (bs : List Byte) (off n : Nat) : Nat := leNat (sl bs off n)

/-- A byte string with the bytes at `off` replaced. -/
def putAt (bs : List Byte) (off : Nat) (v : List Byte) : List Byte :=
  bs.take off ++ v ++ bs.drop (off + v.length)

/-- Whether a byte string holds zeros only. -/
def allZero (bs : List Byte) : Bool := bs.all (· == 0)

/-- ⌈a / b⌉. -/
def cdiv (a b : Nat) : Nat := (a + b - 1) / b

/-- Rounded up to a multiple. -/
def alignUp (a b : Nat) : Nat := cdiv a b * b

/-- Number of bits of a number: 0 for 0, else ⌊log2⌋ + 1. -/
def bitLen (n : Nat) : Nat := if n = 0 then 0 else Nat.log2 n + 1

/-- Trailing zero bits of a nonzero number, looking at `fuel` bits at most. -/
def trailingZeros : Nat → Nat → Nat
  | 0, _ => 0
  | fuel + 1, n => if n % 2 = 1 then 0 else trailingZeros fuel (n / 2) + 1

/-- An item put into a sorted list, before the items that it does not come after. -/
def insertBy {α : Type} (le : α → α → Bool) (a : α) : List α → List α
  | [] => [a]
  | b :: l => if le a b then a :: b :: l else b :: insertBy le a l

/-- A list in order; items that are alike keep their order. -/
def sortBy {α : Type} (le : α → α → Bool) (l : List α) : List α := l.foldr (insertBy le) []

/-- A list with element `i` replaced. -/
def setNth {α : Type} (l : List α) (i : Nat) (v : α) : List α := l.set i v

/-- Element of a list of numbers, 0 beyond its end. -/
def nth (l : List Nat) (i : Nat) : Nat := l.getD i 0

/-- Sum of a list of numbers. -/
def sumN (l : List Nat) : Nat := l.foldl (· + ·) 0

/-- A number counted up by `n`, staying below 2^w (a counter object of `w` bits). -/
def bump (w x n : Nat) : Nat := (x + n) % 2 ^ w

/-- A counter of a sequence number space of 32 bits. -/
def add32 (a b : Nat) : Nat := (a + b) % 2 ^ 32

/-- (a − b) mod 2^32. -/
def sub32 (a b : Nat) : Nat := (a + 2 ^ 32 - b % 2 ^ 32) % 2 ^ 32

/-- (a − b) mod 2^16. -/
def sub16 (a b : Nat) : Nat := (a + 2 ^ 16 - b % 2 ^ 16) % 2 ^ 16

/-- Insertion of a number in a strictly rising list, without a repeat. -/
def insertNat (k : Nat) : List Nat → List Nat
  | [] => [k]
  | j :: js => if k < j then k :: j :: js else if k = j then j :: js else j :: insertNat k js

/-- Distinct elements of a list of numbers, rising. -/
def distinct (l : List Nat) : List Nat := l.foldl (fun acc k => insertNat k acc) []

end Sys2Proof.Machine
end

