-- ==== Sys2Proof/Machine/State.lean ====
section
/-! DEFINITION. The state of the part as plain data: every register, memory, queue, counter, mode and pin that spec/ names,
the queue of waiting commands, and the state right after power comes up (`State.reset`). Defaults of fields are the reset
values of the object tables of spec/; a value the spec does not state is named in the assumption log. -/
namespace Sys2Proof.Machine

/-- A sparse table: entries with strictly rising keys; an absent key holds the kind's default. -/
abbrev Tab (α : Type) := List (Nat × α)

/-! ## Memories -/

/-- A latent error of an ECC word (R105, R325, R326): in a core memory a correctable one (the bit, and whether a read has corrected and reported it
already), in a block of HBM the bits that are flipped, 137 to each of its four words; uncorrectable by the part's own code; in HBM, one that the stack's on-die ECC reports as uncorrectable, or a block that is read at the
wrong address. The codes' check bits are not stated: the model keeps what a check finds (DEDUCED, log entry 121). -/
inductive Upset where
  | ce (bit : Nat) (seen : Bool)
  | flips (bits : List Nat)
  | ue
  | onDie
  | astray
  deriving DecidableEq, Repr

/-- Whether a check finds a latent error uncorrectable (R105, R325): of the flipped bits of a block of HBM, two in one of its four words of 137
bits, the check bits among them. -/
def Upset.fatal : Upset → Bool
  | .ce _ _ => false
  | .flips l => l.any fun a => l.any fun b => a != b && a / 137 == b / 137
  | _ => true

/-- A memory with ECC: bytes in canonical form (an unlisted byte reads 0), the ECC words with poison marking (R105, R326),
the latent errors no read has met yet. Words are numbered address / word size. -/
structure EccMem where
  cells : List Host.Cell := []
  marks : List Nat := []
  upsets : Tab Upset := []
  deriving DecidableEq, Repr

/-! ## Records and cores -/

/-- A 64-byte command record, field by field (R63). -/
structure Record where
  op : BitVec 8
  flags : BitVec 8
  tag : BitVec 16
  mode : BitVec 32
  sync : BitVec 64
  p0 : BitVec 64
  p1 : BitVec 64
  p2 : BitVec 64
  p3 : BitVec 64
  stream : BitVec 32
  opflags : BitVec 32
  imm : BitVec 64
  deriving DecidableEq, Repr

/-- Where a dispatched engine record stands (R81, R83): not started; a STORE sent and waiting for the owner's answer (R127);
a COLL in progress (R363); a CROWN record arrived at its group, with the accumulation mode it read (R92); run, with status, count and completion flags (R89). -/
inductive EntrySt where
  | waiting
  | sent (write : Nat)
  | collective (group seq : Nat)
  | arrived (acc : Nat)
  | done (status count flags : Nat)
  deriving DecidableEq, Repr

/-- What a matrix record that was stopped at a K-group boundary took at its start (R82, R255): the defaults of 0x3400:01 to :03, the seed, the
starting scales of its operands and its output by scale index; and its accumulators as PS36 containers by output, those of its first run
and those that go on (R50; DESIGN CHOICE, log entry 129). -/
structure Begun where
  accMode : Nat
  outMode : Nat
  rsrc : Nat
  seed : Word
  scales : List (List (Nat × Int))
  acc : List (Nat × Nat)
  kept : List (Nat × Nat)
  deriving DecidableEq, Repr

/-- An engine entry (R290): the record as dispatched, the values captured under IND and TREG (R82), its ring index; for a matrix record that
was stopped at a K-group boundary (R96), the next K-group index, the four descriptors that it read and what else it took at its start. -/
structure Entry where
  id : Nat
  cmd : Record
  ind : List Word
  thr : BitVec 16
  idx : Nat
  st : EntrySt := .waiting
  next : Nat := 0
  descs : List Byte := []
  begun : Option Begun := none
  deriving DecidableEq, Repr

/-- A SIGNAL record that waits for the listed earlier records (R69). -/
structure Deferred where
  cmd : Record
  idx : Nat
  ids : List Nat
  deriving DecidableEq, Repr

/-- Core states (R98). -/
inductive CoreSt where
  | idle | running | stopped | done
  deriving DecidableEq, Repr

/-- Stream generator (R244, R249): the ring x_N … x_N+606, its unread words, the position counter, the last epoch. -/
structure Stream where
  ring : List Word := []
  unread : Nat := 0
  pos : Word := 0
  epoch : Nat := 0
  deriving DecidableEq, Repr

/-- Window states (R121). -/
inductive WinSt where
  | closed | open_ | draining
  deriving DecidableEq, Repr

/-- A remote-write window (R120–R123): `credited` slots, `held` slots oldest first; every other slot is free. -/
structure Window where
  st : WinSt := .closed
  base : Nat := 0
  geom : Nat := 0x10000
  sender : Nat := 0
  ctrs : Nat := 0x0100
  gen : Nat := 0
  discarded : Nat := 0
  ignored : Nat := 0
  credited : List Nat := []
  held : List Nat := []
  owner : Nat := 0xFFFF
  deriving DecidableEq, Repr

/-- One logical core (R60, R98, R99): sequencer, queues, counters, memories, random number unit, objects of 0x4000 + c. -/
structure Core where
  state : CoreSt := .idle
  regs : List Word := List.replicate 32 0
  ctrs : List (BitVec 16) := List.replicate 64 0
  nextIdx : Nat := 0
  buf : List (Nat × Record) := []
  /-- the core dispatches nothing further: a record failed with CONT 0 (R88) -/
  halted : Bool := false
  /-- END was dispatched (R69); the tail it was dispatched under -/
  ended : Bool := false
  endTail : Nat := 0
  /-- the matrix engine has issued nothing since its cluster came to RUN (R91) -/
  cold : Bool := true
  /-- counter of the core's die when the matrix engine last took a record (R91) -/
  tookAt : Nat := 0
  nextId : Nat := 0
  load : List Entry := []
  matrix : List Entry := []
  vector : List Entry := []
  store : List Entry := []
  deferred : List Deferred := []
  dmaWait : Option (Nat × Option Nat) := none
  stepWait : Bool := false
  failIdx : Nat := 0
  failStatus : Nat := 0
  waitLimit : Nat := 100000
  phys : Nat := 0
  softStarts : Nat := 0
  drainLimit : Nat := 2000
  oobFill : Nat := 0
  oobDrop : Nat := 0
  dirty : BitVec 32 := 0
  ws : EccMem := {}
  sp : EccMem := {}
  ps : EccMem := {}
  /-- corrected words waiting for their write-back, at most 4 (R95): memory, ECC word -/
  wbq : List (CoreMem × Nat) := []
  wbDropped : Nat := 0
  stream : Stream := {}
  windows : Tab Window := []
  /-- the context most recently saved from the core (R283) -/
  savedCtx : Option Nat := none
  deriving DecidableEq, Repr

/-- A signal in flight (R66, R85): source core, targets, counter, increment. -/
structure Sig where
  src : Nat
  cores : List Nat
  ctr : Nat
  inc : Nat
  deriving DecidableEq, Repr

/-- A started Crown phase or a gathering group (R92, R93): first core, log2 of the group size, whether the pulse went out. -/
structure CrownPhase where
  first : Nat
  slog : Nat
  started : Bool := false
  deriving DecidableEq, Repr

/-! ## Clusters and dies -/

/-- Cluster power states (R432, R443). -/
inductive PowerSt where
  | run | idle | doze | nap | off | waking
  deriving DecidableEq, Repr

/-- A cached translation (R280): context, first DVA, page size, physical base; the first level of its walk that lacks the read right
and the first that lacks the write right, 0 where none does (R278). -/
structure TlbEntry where
  ctx : Nat
  va : Nat
  size : Nat
  pa : Nat
  r : Nat
  w : Nat
  deriving DecidableEq, Repr

/-- A cluster (R432, R435, R107, R280). -/
structure Cluster where
  power : PowerSt := .off
  entering : Option PowerSt := none
  floor : Nat := 0
  powerUps : Nat := 0
  tlb : List TlbEntry := []
  /-- the walk cache: level-2 table pointers, `pa` the level-3 table (R280) -/
  walks : List TlbEntry := []
  scrubW : Nat := 0
  scrubS : Nat := 0
  scrubP : Nat := 0
  deriving DecidableEq, Repr

/-- A line of a Shared Activation Cache (R117): its number, and which of its four 64-byte parts carry poison marking. Its bytes are those of
HBM, since every write of HBM removes the line (R18). -/
structure SacLine where
  line : Nat
  bad : List Nat := []
  deriving DecidableEq, Repr

/-- One set of a Shared Activation Cache (R115): sixteen ways, fifteen tree pseudo-LRU bits. -/
structure SacSet where
  ways : List (Option SacLine) := List.replicate 16 none
  plru : Nat := 0
  deriving DecidableEq, Repr

/-- A fill in progress (R117, R118): the line as it was read, requests merged on it, whether its line was invalidated meanwhile. -/
structure SacFill where
  line : Nat
  merged : Nat := 1
  dropped : Bool := false
  bad : List Nat := []
  deriving DecidableEq, Repr

/-- A compute die: duty (R439), wake arbiter (R436, R437), Shared Activation Cache (R115–R119). -/
structure Die where
  duty : Nat := 8
  /-- the duty that the current comparator allows until the governor's next period (R440) -/
  cap : Option Nat := none
  powerQ : List Nat := []
  restartQ : List Nat := []
  lastPower : Nat := 31
  lastRestart : Nat := 31
  poweringUp : List Nat := []
  restarting : List Nat := []
  sets : Tab SacSet := []
  fills : List SacFill := []
  hits : Nat := 0
  misses : Nat := 0
  deriving DecidableEq, Repr

/-! ## Contexts -/

/-- Context states (R298). -/
inductive CtxSt where
  | absent | saved | resident | saving | restoring
  deriving DecidableEq, Repr

/-- What a context becomes when its drain ends: SAVED, ABSENT (DESTROY), SAVED before another context's restore (RESUME). -/
inductive AfterSave where
  | stay | destroy | resume (other : Nat)
  deriving DecidableEq, Repr

/-- State and configuration of a context (R284, R285). -/
structure Resid where
  st : CtxSt := .absent
  cfg : List Byte := List.replicate 64 0
  after : AfterSave := .stay
  deriving DecidableEq, Repr

/-- Checkpoint states (R510). -/
inductive CkptSt where
  | off | idle | reading | sending | committing
  deriving DecidableEq, Repr

/-- A granule's CRC in a baseline or a message (R500): table entry, granule, CRC-64. -/
structure GranCrc where
  entry : Nat
  gran : Nat
  crc : Word
  deriving DecidableEq, Repr

/-- A piece of a checkpoint that stands in the Buddy Checkpoint Area (R498, R504): table entry, granule or piece of the state block, the number of its
64 KiB place in the part of the area that holds it, bytes, and the CRC that it travels with. -/
structure CkPiece where
  entry : Nat
  gran : Nat
  place : Nat
  len : Nat
  crc : Word
  deriving DecidableEq, Repr

/-- Checkpointing of a context at the source part (R499–R503). -/
structure Ckpt where
  cfg : List Byte := List.replicate 32 0
  table : List Byte := []
  st : CkptSt := .off
  step : Nat := 0
  lastStep : Nat := 0xFFFFFFFF
  committed : Nat := 0
  skipped : Nat := 0
  abandoned : Nat := 0
  granules : Nat := 0
  baseline : List GranCrc := []
  valid : Bool := false
  crcs : List GranCrc := []
  staged : List CkPiece := []
  /-- the buddy has accepted BEGIN; the END has gone out -/
  begun : Bool := false
  ending : Bool := false
  taken : List (Nat × Nat) := []
  /-- per table entry: the method that the last checkpoint used, the changed fraction c -/
  methods : List (Nat × Rat) := []
  replayDue : Bool := false
  deriving DecidableEq, Repr

/-- Restore states (R510). -/
inductive RestSt where
  | idle | checking | transferring | done | failed
  deriving DecidableEq, Repr

/-- Restore of a context from a buddy's image (R505, R506). -/
structure Restore where
  st : RestSt := .idle
  status : Nat := 0
  holder : Nat := 0
  srcCtx : Nat := 0
  step : Nat := 0
  table : List Byte := []
  state : List (Nat × List Byte) := []
  retried : List (Nat × Nat) := []
  replay : List Byte := List.replicate 64 0
  present : Bool := false
  deriving DecidableEq, Repr

/-- A context's previous DIGEST of a group (R492). -/
structure PrevDigest where
  group : Nat
  step : Nat
  digest : List Byte
  suspect : Bool
  noMajority : Bool
  deriving DecidableEq, Repr

/-- What the part keeps of a saved core beside its image (R289, R290; DEDUCED, log entry 34): deferred SIGNAL records by position of the
entries they wait for, END dispatched and the tail it was dispatched under, and per saved entry its ring index and the values
captured at dispatch beyond the four of R290. -/
structure HeldCore where
  deferred : List Deferred
  ended : Bool
  endTail : Nat
  ents : List (Nat × List Word × Option Begun)
  deriving DecidableEq, Repr

/-- The running state of a context (R286, R287, R297, R298, R255, R274, R510). -/
structure Ctx where
  tail : Nat := 0
  prod : Nat := 0
  cons : Nat := 0
  lost : Nat := 0
  faults : Nat := 0
  lastFault : List Byte := List.replicate 32 0
  invq : List (List Byte) := []
  invDone : Nat := 0
  step : Nat := 0
  saves : Nat := 0
  seed : Word := 0
  reseedable : Bool := false
  epoch : Nat := 0
  /-- the stream lane count that the images of a SAVED context have (R249, R289) -/
  lanes : Nat := 128
  wsRo : Bool := false
  wsRefused : Nat := 0
  hold : Nat := 0
  predWait : Bool := false
  digest : List Byte := List.replicate 16 0
  regionCrcs : List Byte := []
  verdict : List Byte := List.replicate 32 0
  prevDigests : List PrevDigest := []
  ck : Ckpt := {}
  rst : Restore := {}
  held : Tab HeldCore := []
  /-- channels of a saved context, by number in its group, whose current descriptor has met poison (DEDUCED, log entry 34) -/
  heldPoison : List Nat := []
  heldNext : List (Nat × List Byte) := []
  deriving DecidableEq, Repr

/-- Part-wide context counters (R297). -/
structure CtxCtr where
  preempts : Nat := 0
  restores : Nat := 0
  restFailed : Nat := 0
  longest : Nat := 0
  tlbMisses : Nat := 0
  xlateFaults : Nat := 0
  deriving DecidableEq, Repr

/-! ## DMA -/

/-- DMA channel states (R300). -/
inductive ChanSt where
  | idle | running | pausing | paused | halted
  deriving DecidableEq, Repr

/-- Who paused a channel (R301, R316): nobody, a master or DMAGO, or the part itself. -/
inductive PausedBy where
  | nobody | user | part
  deriving DecidableEq, Repr

/-- A DMA channel (R300, R313, R316, R317). `have_` says that the current descriptor is fetched, `nextDesc` is the one after it where it has been
fetched too (R306), `ahead` what the first reads of the current one delivered before its predecessor's writes were made (R307): bytes, poison. -/
structure Chan where
  st : ChanSt := .idle
  core : Nat := 0
  cur : Word := 0
  have_ : Bool := false
  desc : List Byte := List.replicate 64 0
  src : Word := 0
  dst : Word := 0
  rowLeft : Nat := 0
  rowsLeft : Nat := 0
  poisoned : Bool := false
  nextDesc : Option (List Byte) := none
  ahead : List (List Byte × Bool) := []
  latStatus : Nat := 0
  latAddr : Word := 0
  latDir : Nat := 0
  latKind : Nat := 0
  lastStatus : Nat := 0
  by_ : PausedBy := .nobody
  aborting : Bool := false
  done : Nat := 0
  bytes : Nat := 0
  deriving DecidableEq, Repr

/-! ## HBM -/

/-- An HBM stack's objects (R333) and its recent bus errors (R330). -/
structure Stack where
  train : Nat := 0
  corrected : Nat := 0
  uncorrected : Nat := 0
  onDie : Nat := 0
  bus : Nat := 0
  busTimes : List Nat := []
  temp : Int := 0
  refresh : Nat := 1
  bytesR : Nat := 0
  bytesW : Nat := 0
  deriving DecidableEq, Repr

/-- HBM (R320–R333). `corrected` holds the blocks corrected since the patrol last passed them (R326), `busBad` the blocks whose next
access fails on the command bus after its retries (R330; DEDUCED, log entry 64). -/
structure Hbm where
  mem : EccMem := {}
  stackTab : Tab Stack := []
  scrubPos : Nat := 0
  scrubHours : Nat := 8
  passes : Nat := 0
  wipe : Nat := 0
  wipeUs : Nat := 0
  merges : Nat := 0
  corrected : List Nat := []
  busBad : List Nat := []
  deriving DecidableEq, Repr

/-! ## Part-wide numerics and counters -/

/-- The objects of 0x3400, 0x3A00, 0x3C00–0x3C02, 0x3E00 and 0x2810:06 (R56, R119, R217, R242, R254). -/
structure Nums where
  accMode : Nat := 3
  outMode : Nat := 0
  rsrc : Nat := 0
  hist : Nat := 16
  margin : Nat := 1
  retries : Nat := 0
  satTiles : Nat := 0
  pruned : Nat := 0
  regrown : Nat := 0
  rewritten : Nat := 0
  refused : Nat := 0
  unchanged : Nat := 0
  probed : Nat := 0
  predicts : Nat := 0
  predActive : Nat := 0
  samples : Nat := 0
  misses : Nat := 0
  thrChanges : Nat := 0
  fallbacks : Nat := 0
  listReads : Nat := 0
  screens : Nat := 0
  selected : Nat := 0
  words : Nat := 0
  seedings : Nat := 0
  reseeds : Nat := 0
  invalidated : Nat := 0
  deriving DecidableEq, Repr

/-! ## Seam links and collectives -/

/-- Link states (R335, R367). -/
inductive LinkSt where
  | disabled | waitSignal | train | identify | up | failed
  deriving DecidableEq, Repr

/-- A message to a peer in the replay buffer or waiting for credit (R336–R339). -/
structure TxMsg where
  seq : Nat
  vc : Nat
  frames : Nat
  units : Nat
  dst : Nat
  src : Nat
  body : FrameBody
  /-- its frames acknowledged, and how often each frame has been replayed -/
  acked : Nat := 0
  tries : List Nat := []
  deriving DecidableEq, Repr

/-- A Seam link (R335–R340, R367). `resv` and `shared` are the sender's free credit units (R339); `toReturn` the receive
units freed and not yet returned, and `parts` the payload lengths of the frames held of a message whose last frame has not come, per VC. -/
structure Link where
  st : LinkSt := .waitSignal
  peerId : Nat := 0
  peerRank : Nat := 0xFFFF
  peerLink : Nat := 0xFF
  attempts : Nat := 0
  tries : Nat := 0
  fecFixed : Nat := 0
  fecBad : Nat := 0
  replayed : Nat := 0
  discarded : Nat := 0
  sent : Nat := 0
  received : Nat := 0
  downs : Nat := 0
  txSeq : Nat := 1
  rxSeq : Nat := 1
  replay : List TxMsg := []
  waitq : List TxMsg := []
  resv : List Nat := [256, 256, 256]
  shared : Nat := 15616
  toReturn : List Nat := [0, 0, 0]
  parts : List (List Nat) := [[], [], []]
  deriving DecidableEq, Repr

/-- A credit held by the Seam Fabric (R127): owner rank, link, core, window, slot, generation. -/
structure Credit where
  rank : Nat
  link : Nat
  core : Nat
  win : Nat
  slot : Nat
  gen : Nat
  deriving DecidableEq, Repr

/-- A window write sent and not yet answered (R127): write id, link, owner rank, core and window, generation, sending core, and
what its STORE's completion record will hold. -/
structure SentWrite where
  id : Nat
  link : Nat
  rank : Nat
  ocore : Nat
  win : Nat
  gen : Nat
  core : Nat
  count : Nat
  flags : Nat
  poison : Bool
  deriving DecidableEq, Repr

/-- A window of another part as its sender knows it (R127, R347): the generation of the last credit, its link, whether a close
notice has arrived for that generation. -/
structure RemoteWin where
  rank : Nat
  core : Nat
  win : Nat
  gen : Nat
  link : Nat
  closed : Bool := false
  deriving DecidableEq, Repr

/-- A window write taken whole whose commit waits in its link's receive buffer (R347). -/
structure Parked where
  link : Nat
  units : Nat
  src : Nat
  write : WinWrite
  deriving DecidableEq, Repr

/-- The Seam Fabric (R341–R343, R366, R127): rank, lost ranks, route table, credits and windows of other parts, writes in
flight, commits that wait. -/
structure Seam where
  rank : Nat := 0xFFFF
  lost : List Nat := []
  routes : List (List Nat) := []
  forwarded : Nat := 0
  credits : List Credit := []
  wins : List RemoteWin := []
  writes : List SentWrite := []
  nextWrite : Nat := 0
  parked : List Parked := []
  ownLost : Bool := false
  deriving DecidableEq, Repr

/-- A collective group (R348, R369). -/
structure Group where
  members : List Nat := []
  tau : Nat := 2000
  seed : Word := 0
  owner : Nat := 0xFFFF
  next : Nat := 0
  last : Nat := 0xFFFFFFFF
  /-- contributor masks of results that passed before the part's own COLL started (R362) -/
  passed : Tab (List Nat) := []
  /-- collectives that have ended here and are no longer held, each with its inputs declared missing (R359) -/
  through : List (Nat × List (Nat × Nat)) := []
  deriving DecidableEq, Repr

/-- Values of a collective by index in the full result (R356, R357): bytes, and whether they are poisoned. -/
abbrev CollVals := Tab (List Byte × Bool)

/-- A value held for a node of a collective's tree (R353, R356): contributor positions, values received so far, whether all of
them are there, whether the value is a failure (R358). -/
structure NodeVal where
  level : Nat
  node : Nat
  mask : List Nat := []
  vals : CollVals := []
  whole : Bool := false
  failed : Bool := false
  deriving DecidableEq, Repr

/-- A collective message not yet accepted by its receiver (R358). -/
structure CollTx where
  rank : Nat
  msg : CollMsg
  resent : Bool := false
  deriving DecidableEq, Repr

/-- A collective in progress at this part (R353–R363): the first header held, the core and entry of the part's own COLL, its descriptors as read when
it started (R82) and their translated pages, the values held, inputs declared missing, inputs with a recent KEEPALIVE, messages asked for again,
result messages written, those that came before the part's own COLL started (`early`), own values received, all values received, messages sent down,
messages not accepted yet; `bus` once one of its writes failed on the bus, `redo` once its root has gone to another host (R360), `done` once the
part's COLL has completed or its share of the result has passed, `ended` once the part has no more to pass on. -/
structure Coll where
  group : Nat
  seq : Nat
  hdr : Option CollMsg := none
  core : Option Nat := none
  src : List Byte := []
  dst : List Byte := []
  stage : List Byte := []
  pages : List (Nat × Nat) := []
  inputs : List NodeVal := []
  missing : List (Nat × Nat) := []
  alive : List (Nat × Nat) := []
  again : List (Nat × Nat × Nat) := []
  failed : Bool := false
  written : Nat := 0
  early : Nat := 0
  got : Nat := 0
  mask : List Nat := []
  poison : Bool := false
  seen : CollVals := []
  sentDown : List CollMsg := []
  unacked : List CollTx := []
  bus : Bool := false
  redo : Bool := false
  done : Bool := false
  ended : Bool := false
  deriving DecidableEq, Repr

/-- Part-wide collective counters (R368). -/
structure CollCtr where
  completed : Nat := 0
  withMissing : Nat := 0
  crcFails : Nat := 0
  unequal : Nat := 0
  late : Nat := 0
  takeovers : Nat := 0
  deriving DecidableEq, Repr

/-! ## Host ports -/

/-- What a lossless class holds of a port's ingress buffer (R374): bytes outside its headroom, bytes in it. -/
structure Ingress where
  outside : Nat := 0
  headroom : Nat := 0
  deriving DecidableEq, Repr

/-- A host port (R371–R375, R400): link state, counters, PFC, its TLB. -/
structure HPort where
  st : Nat := 0
  elec : Nat := 0
  vlan : Nat := 0
  ip6 : List Byte := List.replicate 16 0
  ip4 : List Byte := List.replicate 5 0
  frames : Nat := 0
  discarded : Nat := 0
  dropped : Nat := 0
  xoffSent : Nat := 0
  xoffRecv : Nat := 0
  /-- the ingress buffer by class (R374); whether the peer was last told to stop a lossless class -/
  inA : Ingress := {}
  inB : Ingress := {}
  inOther : Nat := 0
  xoffA : Bool := false
  xoffB : Bool := false
  /-- when the lossless frames of the last second were dropped, and the time of the last event for them (R375, R421) -/
  drops : List Nat := []
  dropAt : Option Nat := none
  /-- while the peer pauses a class, the place in the outbox from which that class's frames wait (R373) -/
  pausedA : Option Nat := none
  pausedB : Option Nat := none
  tlb : List TlbEntry := []
  walks : List TlbEntry := []
  /-- the electrical mode, VLAN id and addresses in force since the link last trained (R400) -/
  live : Nat × Nat × List Byte × List Byte := (0, 0, List.replicate 16 0, List.replicate 5 0)
  deriving DecidableEq, Repr

/-- A memory region (R379, R401). -/
structure Region where
  kind : Nat := 0xFF
  ctx : Nat := 0
  base : Nat := 0
  len : Nat := 0
  word : Nat := 0
  deriving DecidableEq, Repr

/-- Queue pair states (R378). -/
inductive QpSt where
  | reset | ready | error
  deriving DecidableEq, Repr

/-- A queue pair (R378, R383, R384, R401). Rates are in GB/s. -/
structure Qp where
  st : QpSt := .reset
  ctx : Nat := 0
  port : Nat := 0
  remote : List Byte := List.replicate 32 0
  ring : List Byte := List.replicate 16 0
  prod : Nat := 0
  cons : Nat := 0
  naks : Nat := 0
  psn : Nat := 0
  msn : Nat := 0
  rate : Rat := 100
  target : Rat := 100
  alpha : Rat := 1
  n : Nat := 0
  /-- when the last CNP for it went out -/
  cnpAt : Option Nat := none
  /-- the WRITE message in progress: where its next byte goes, the bytes that are left (R376, R380) -/
  write : Option WriteTo := none
  deriving DecidableEq, Repr

/-! ## KOC and the dictionary -/

/-- An event record (R420). -/
structure EventRec where
  code : Nat
  idx : Nat
  sub : Nat
  die : Nat
  ctx : Nat
  ctr : Nat
  step : Nat
  status : Nat
  payload : List Byte
  deriving DecidableEq, Repr

/-- How an answer travels (R387, R394): REPLY, SEG_ACK with its bitmap, or a segment's SEG_DATA frames. -/
inductive AnsKind where
  | reply
  | segAck (bitmap : Nat)
  | segData
  deriving DecidableEq, Repr

/-- An answer kept by a session (R393). -/
structure Answer where
  rid : Nat
  status : Nat
  value : List Byte
  kind : AnsKind := .reply
  deriving DecidableEq, Repr

/-- An event queued for a session (R395, R423): its sequence number, how often it was sent. -/
structure QueuedEvent where
  seq : Nat
  tries : Nat
  ev : EventRec
  deriving DecidableEq, Repr

/-- A staged write (R407–R409): object, declared length, segments held. -/
structure Staged where
  idx : Nat
  sub : Nat
  len : Nat
  segs : Tab (List Byte) := []
  deriving DecidableEq, Repr

/-- A segment transfer (R394, R408): request id, object, segment, length, frames held; `out` for a SEG_READ. -/
structure SegXfer where
  rid : Nat
  idx : Nat
  sub : Nat
  seg : Nat
  len : Nat
  out : Bool
  frames : Tab (List Byte) := []
  deriving DecidableEq, Repr

/-- A KOC session (R389–R396, R422, R423): its port and the address that the master last used on it; `given` holds the request ids up to 64 below
the highest that have been answered. -/
structure Session where
  sid : Nat
  port : KocPort
  addr : Nat := 0
  keyHash : List Byte
  keyIn : List Byte
  keyOut : List Byte
  rxHigh : Nat := 0
  rxSeen : List Nat := []
  tx : Nat := 0
  rx : Nat := 0
  highRid : Nat := 0
  answers : List Answer := []
  given : List Nat := []
  busy : List Nat := []
  mask : Nat := 0
  filter : List Byte := List.replicate 32 0xFF
  events : List QueuedEvent := []
  evSeq : Nat := 0
  evDropped : Nat := 0
  staged : List Staged := []
  segs : List SegXfer := []
  deriving DecidableEq, Repr

/-- An opening in progress (R389, R391). -/
structure Opening where
  sid : Nat
  port : KocPort
  keyHash : List Byte
  decapKey : List Byte
  transcript : List Byte
  deriving DecidableEq, Repr

/-- KOC (R402). `reads` holds the times of the last second's unauthenticated READs by source address (R388), `reqs` those of the
requests by port (R397), on the clock of `Ctl`. -/
structure Koc where
  sessions : List Session := []
  openings : List Opening := []
  discarded : Nat := 0
  evDropped : Nat := 0
  refused : Nat := 0
  raised : Nat := 0
  reads : Tab (List Nat) := []
  reqs : Tab (List Nat) := []
  /-- the management cores that sleep (R431) -/
  asleep : List Nat := []
  deriving DecidableEq, Repr

/-- The control lease (R415). -/
structure Lease where
  holder : Nat := 0
  term : Nat := 0
  start : Nat := 0
  granted : Nat := 0
  ended : Nat := 0
  deriving DecidableEq, Repr

/-- What the answer of an object write waits for (R285, R317, R467, R119). -/
inductive WaitFor where
  | ctx (n : Nat)
  | dma (d : Nat)
  | quote
  deriving DecidableEq, Repr

/-- An object write not yet answered. -/
structure Waiter where
  port : KocPort
  src : Nat
  sid : Nat
  rid : Nat
  what : WaitFor
  deriving DecidableEq, Repr

/-- Payload of a KOC frame that the part sends (R387). -/
inductive KocBody where
  | offer (nonce : List Byte) (sid identity : Nat) (encapKey sig : List Byte)
  | openDone (status : Nat)
  | close (status : Nat)
  | reply (status : Nat) (value : List Byte)
  | segData (frame : Nat) (data : List Byte)
  | segAck (bitmap status : Nat)
  | event (seq : Nat) (ev : EventRec)
  | pong
  deriving DecidableEq, Repr

/-- What the part has sent on its Ethernet ports (DESIGN CHOICE, log entry 8). A KOC frame names the address it goes to, session id, sequence number,
request id and tag (R386). -/
inductive OutMsg where
  | koc (port : KocPort) (dst sid seq rid : Nat) (tag : List Byte) (body : KocBody)
  | ack (port qp psn : Nat)
  | nak (port qp psn syndrome : Nat)
  | rnr (port qp psn timer : Nat)
  | readResp (port qp psn : Nat) (last : Bool) (data : List Byte)
  | cnp (port qp : Nat)
  | pfc (port priority quanta : Nat)
  | arpReply (port : KocPort) (target : List Byte)
  | neighbour (port : KocPort) (target : List Byte)
  | echo (port : KocPort) (payload : List Byte)
  deriving DecidableEq, Repr

/-! ## Errors, snapshots, checkpoints, scan -/

/-- An error record (R479). -/
structure ErrRec where
  seq : Nat
  cls : Nat
  unit : Nat
  status : Nat
  inst : Nat
  ctx : Nat
  step : Nat
  ctr : Nat
  die : Nat
  escalated : Bool := false
  logged : Bool := false
  peer : Bool := false
  occ : Nat := 1
  cause : Nat := 0
  addr : Nat := 0
  detail : List Byte := []
  deriving DecidableEq, Repr

/-- The error queue (R481–R485). `waiting` are the sequence numbers the fault service has still to take; `inService` those
whose action is not finished; `unqueued` the FATAL records that found the queue full (R482). -/
structure Errs where
  queue : List ErrRec := []
  next : Nat := 1
  dropped : Nat := 0
  notQueued : Nat := 0
  escalations : Nat := 0
  raised : List Nat := [0, 0, 0, 0]
  waiting : List ErrRec := []
  inService : List ErrRec := []
  unqueued : List ErrRec := []
  deriving DecidableEq, Repr

/-- Snapshot states (R273). -/
inductive SnapSt where
  | idle | armed | copying | ready
  deriving DecidableEq, Repr

/-- Evaluation snapshots (R267–R273). `newStep` is the step number of the STEP that waits; `draining` says that the drain runs. -/
structure Snap where
  st : SnapSt := .idle
  ctx : Nat := 0
  step : Nat := 0
  list : Nat := 0
  bytes : Nat := 0
  taken : Nat := 0
  draining : Bool := false
  copied : Bool := false
  core : Nat := 0
  newStep : Nat := 0
  status : Nat := 0
  deriving DecidableEq, Repr

/-- Scan test (R494–R496). -/
structure Scan where
  st : Nat := 0
  cluster : Nat := 0
  phys : Nat := 0
  result : List Byte := List.replicate 8 0
  cache : Nat := 0
  runs : Nat := 0
  deriving DecidableEq, Repr

/-- A checkpoint held for the ward, committed or in transfer (R498, R503, R504). -/
structure CkImage where
  ctx : Nat
  step : Nat
  table : List Byte
  held : List CkPiece := []
  retried : List (Nat × Nat) := []
  replay : Option (List Byte) := none
  /-- the ward has been changed since it was committed (R501) -/
  former : Bool := false
  deriving DecidableEq, Repr

/-- An image on its way to a part that has pulled it (R506): its rank, and the messages that it has not accepted yet, BEGIN among them. -/
structure PullOut where
  rank : Nat
  left : List (Nat × Nat)
  deriving DecidableEq, Repr

/-- Buddy checkpoints, part-wide (R497, R498, R509). -/
structure Buddy where
  buddy : Nat := 0xFFFF
  ward : Nat := 0xFFFF
  image : Option CkImage := none
  inbound : Option CkImage := none
  out : Option PullOut := none
  suspects : Nat := 0
  discarded : Nat := 0
  deriving DecidableEq, Repr

/-- Telemetry (R443, 0x7800) in milliwatts, milli-degrees, milliamperes. -/
structure Tele where
  power : Nat := 0
  /-- the package power of the governor's last hundred periods, newest first, and for how many microseconds it has stayed above L (R439) -/
  samples : List Nat := []
  overUs : Nat := 0
  hottest : Int := 0
  sensor : Nat := 0
  current : Nat := 0
  reductions : Nat := 0
  readings : List Int := List.replicate 256 0
  regs : List RegReading := []
  excursionSeen : Bool := false
  deriving DecidableEq, Repr

/-! ## The world: everything the running part changes -/

/-- Everything but OTP, flash, the part's own control and the context table. -/
structure World where
  cores : Tab Core := []
  signals : List Sig := []
  crown : List CrownPhase := []
  clusters : Tab Cluster := []
  dies : Tab Die := []
  ctxs : Tab Ctx := []
  ctxCtr : CtxCtr := {}
  dma : Tab Chan := []
  hbm : Hbm := {}
  nums : Nums := {}
  links : Tab Link := []
  seam : Seam := {}
  groups : Tab Group := []
  colls : List Coll := []
  collCtr : CollCtr := {}
  ports : Tab HPort := []
  regions : Tab Region := []
  qps : Tab Qp := []
  koc : Koc := {}
  lease : Lease := {}
  errs : Errs := {}
  snap : Snap := {}
  scan : Scan := {}
  buddy : Buddy := {}
  tele : Tele := {}
  waiters : List Waiter := []
  outbox : List OutMsg := []
  tick : List Nat := [0, 0, 0, 0]
  free : Nat := 0
  deriving DecidableEq, Repr

/-! ## OTP, flash and the part's control -/

/-- Life-cycle states (R428, R472). -/
inductive LifeSt where
  | blank | provisioned | field | returned | scrapped
  deriving DecidableEq, Repr

/-- One-time-programmable fuses (R459). A key-hash slot of zeros is not programmed. -/
structure Otp where
  identity : Nat := 0
  serial : List Byte := []
  revision : Nat := 0
  macs : List (List Byte) := [List.replicate 6 0, List.replicate 6 0, List.replicate 6 0]
  fwKeys : List (List Byte) := [List.replicate 32 0, List.replicate 32 0]
  licKeys : List (List Byte) := [List.replicate 32 0, List.replicate 32 0]
  svcKeys : List (List Byte) := [List.replicate 32 0, List.replicate 32 0]
  topoKeys : List (List Byte) := []
  seed : Option (List Byte) := none
  blocks : Nat := 0
  floor : Nat := 0
  generation : Nat := 0
  life : LifeSt := .blank
  scrap : Bool := false
  deriving DecidableEq, Repr

/-- The persistent objects (R424) with their defaults. -/
structure Persist where
  barred : Bool := false
  roceOn : Bool := true
  prioA : Nat := 3
  prioB : Nat := 4
  elec : List Nat := [0, 0]
  vlan : List Nat := [0, 0]
  ip6 : List (List Byte) := [List.replicate 16 0, List.replicate 16 0]
  ip4 : List (List Byte) := [List.replicate 5 0, List.replicate 5 0]
  udp : Nat := 50212
  hostKeys : List Byte := []
  mgmtKeys : List Byte := []
  sideIp6 : List Byte := List.replicate 16 0
  sideIp4 : List Byte := List.replicate 5 0
  deriving DecidableEq, Repr

/-- Flash (R424, R451, R452, R459, R462, R468, R489). `persist` is the record in flash; `firmware` holds the slots 1A, 1B, 2A, 2B. -/
structure Flash where
  persist : Persist := {}
  licences : List (List Byte) := []
  pendingLic : Option (List Byte) := none
  firmware : List (List Byte) := [[], [], [], []]
  topology : List Byte := []
  keys : List (List Byte) := []
  repair : List Nat := List.replicate 64 0xFF
  log : List ErrRec := []
  mirror : Option Nat := none
  /-- the attestation key's one warning has been given (R466; DESIGN CHOICE, log entry 184) -/
  sigWarned : Bool := false
  /-- the scan-test patterns, which the cache in HBM holds after each wipe (R324, R331) -/
  patterns : List Byte := []
  deriving DecidableEq, Repr

/-- Part states (R428, R457). -/
inductive PartSt where
  | bringup | mismatch | ready | safe
  deriving DecidableEq, Repr

/-- Pins (R515, R517, R518): PG_AON, PG_MAIN, the two open-drain outputs (true while low), the straps sampled last. -/
structure Pins where
  pgAon : Bool := false
  pgMain : Bool := false
  thermTripLow : Bool := false
  faultLow : Bool := false
  straps : BitVec 4 := 0
  deriving DecidableEq, Repr

/-- The security engine and what bring-up put in force (R461–R471, R476). -/
structure Sec where
  licence : List Byte := []
  licStatus : Nat := 0
  variant : Nat := 2
  linkMask : Nat := 0xFF
  units : Nat := 0
  tokens : Nat := 4
  nextSig : Nat := 0
  skipped : Nat := 0
  quote : List Byte := []
  signing : Option (List Byte) := none
  token : List Byte := []
  active1 : Nat := 0
  active2 : Nat := 0
  /-- second-stage firmware has run since the last reset, so its slot stays (R462) -/
  ran2 : Bool := false
  fw1 : Nat := 0
  fw2 : Nat := 0
  record : List Byte := []
  deriving DecidableEq, Repr

/-- The part's own control: part state and bring-up (R428, R445, R457), power settings (R443), pins, security, persistent
objects in force with the writes not yet in flash (R424), counts since power-good (R429). -/
structure Ctl where
  part : PartSt := .bringup
  step : Nat := 0
  endStatus : Nat := 0
  mgmt : Bool := false
  mismatches : Nat := 0
  mainPower : Nat := 1
  railGroups : Nat := 0
  pgMain : Bool := false
  booted : Bool := false
  resets : Nat := 0
  limit : Nat := 2600
  excursion : Nat := 3100
  duration : Nat := 10
  throttle : Nat := 100
  margins : List Byte := List.replicate 16 0
  idleDelay : Nat := 256
  dozeDelay : Nat := 20
  napDelay : Nat := 500
  readyMs : Nat := 0
  compares : Nat := 0
  pins : Pins := {}
  sec : Sec := {}
  persist : Persist := {}
  /-- the persistent objects after each write not yet in flash, oldest first (R424) -/
  persistQ : List Persist := []
  /-- cycles of the 100 MHz reference since PG_AON or the last reset, for the rates of R388 and R397 -/
  clock : Nat := 0
  /-- main power was written 0 since the part entered SAFE (R457) -/
  safeOff : Bool := false
  /-- when the time of 0x6030:04 began, on that clock (R458) -/
  began : Nat := 0
  /-- the last reset was taken at RESET_N (R517) -/
  byPin : Bool := false
  deriving DecidableEq, Repr

/-- The state of the part. `res` is the context table (state and configuration of each context), `pending` the queue of
commands, first in first out. -/
structure State where
  pending : List Instr
  otp : Otp
  flash : Flash
  ctl : Ctl
  res : Tab Resid
  w : World
  deriving DecidableEq, Repr

/-- No command of this block ends in a fault: the spec gives every failure a status, an error record or SAFE (R10, R477). -/
inductive Fault where
  /-- Raised by nobody. It stands for a stop that the spec does not have; safe, since no meaning answers with it. -/
  | none
  deriving DecidableEq, Repr

/-- Why a command has no meaning yet. -/
inductive Refusal where
  /-- Raised by an arm of Dispatch.lean whose meaning is not written; safe, since the model then says nothing of the command. -/
  | notModelled (mnemonic : String)
  deriving DecidableEq, Repr

/-- What a step answers. -/
abbrev Out := Host.Outcome State Fault Refusal

/-- The part before power comes up: PG_AON low, blank OTP and flash (log entries 5–7), every object at its default. The
first command of a run is POWER_ON. -/
def State.reset : State :=
  { pending := [], otp := {}, flash := {}, ctl := {}, res := [], w := {} }

/-- The state with another world: what a command answers that acts on the world only. -/
def State.withW (s : State) (w : World) : State := { s with w := w }

end Sys2Proof.Machine
end

