-- ==== Sys2Proof/Machine/Mem.lean ====
section
/-! DEFINITION. Sparse tables and memories: cells in canonical form, ECC words with poison marking (R99–R106, R325–R327). -/
namespace Sys2Proof.Machine

/-! ## Sparse tables -/

/-- Entry of a table, or the kind's default. -/
def Tab.get {α : Type} (d : α) : Tab α → Nat → α
  | [], _ => d
  | (j, v) :: t, k => if j = k then v else Tab.get d t k

/-- A table with one entry written; the keys stay strictly rising. -/
def Tab.set {α : Type} : Tab α → Nat → α → Tab α
  | [], k, v => [(k, v)]
  | (j, u) :: t, k, v => if k < j then (k, v) :: (j, u) :: t else if k = j then (k, v) :: t else (j, u) :: Tab.set t k v

/-- A table without one entry. -/
def Tab.drop {α : Type} (t : Tab α) (k : Nat) : Tab α := t.filter fun e => e.1 != k

/-! ## Cells: address and byte, addresses strictly rising, no zero byte -/

/-- The byte at an address; an unlisted address reads 0 (R108, R331: every memory is zeroed before use). -/
def Cells.get (m : List Host.Cell) (a : Nat) : Byte :=
  match m with
  | [] => 0
  | (j, b) :: t => if j = a then b else Cells.get t a

/-- A byte listed at an address, in its place. -/
def Cells.put (m : List Host.Cell) (a : Nat) (v : Byte) : List Host.Cell :=
  match m with
  | [] => [(a, v)]
  | (j, b) :: t => if a < j then (a, v) :: (j, b) :: t else if a = j then (a, v) :: t else (j, b) :: Cells.put t a v

/-- One byte written; writing 0 removes the entry. -/
def Cells.set (m : List Host.Cell) (a : Nat) (v : Byte) : List Host.Cell :=
  if v = 0 then m.filter fun c => c.1 != a else Cells.put m a v

/-- The canonical form of a memory: addresses strictly rising from `lo` on, no zero byte listed. -/
def Cells.wfFrom (lo : Nat) : List Host.Cell → Bool
  | [] => true
  | (j, b) :: t => decide (lo ≤ j) && decide (b ≠ 0) && Cells.wfFrom (j + 1) t

/-- The canonical form of a memory. -/
def Memory.wf (m : List Host.Cell) : Bool := Cells.wfFrom 0 m

/-- `n` bytes from address `a`. -/
def Cells.read (m : List Host.Cell) (a n : Nat) : List Byte := (List.range n).map fun i => Cells.get m (a + i)

/-- A byte string written at address `a`. -/
def Cells.write (m : List Host.Cell) (a : Nat) : List Byte → List Host.Cell
  | [] => m
  | b :: bs => Cells.write (Cells.set m a b) (a + 1) bs

/-- A memory with the bytes of [lo, hi) zero. -/
def Cells.zero (m : List Host.Cell) (lo hi : Nat) : List Host.Cell := m.filter fun c => c.1 < lo || hi ≤ c.1

/-! ## Bit-addressed elements -/

/-- A write of `w` bits at bit address `at_`, with the poison tag of its source. -/
structure BitWrite where
  at_ : Nat
  w : Nat
  v : Nat
  poison : Bool := false
  deriving DecidableEq, Repr

/-- Bits of a memory: `w` bits from bit address `a`. -/
def Cells.bits (m : List Host.Cell) (a w : Nat) : Nat :=
  let n := (a % 8 + w + 7) / 8
  (leNat (Cells.read m (a / 8) n) >>> (a % 8)) % 2 ^ w

/-- A memory with `w` bits from a bit address replaced and every other bit kept (R141). -/
def Cells.setBits (m : List Host.Cell) (b : BitWrite) : List Host.Cell :=
  let n := (b.at_ % 8 + b.w + 7) / 8
  let old := leNat (Cells.read m (b.at_ / 8) n)
  let lo := b.at_ % 8
  let new := old % 2 ^ lo + (b.v % 2 ^ b.w) * 2 ^ lo + (old >>> (lo + b.w)) * 2 ^ (lo + b.w)
  Cells.write m (b.at_ / 8) (leBytes n new)

/-- Byte addresses a bit write touches: first, count. -/
def BitWrite.span (b : BitWrite) : Nat × Nat := (b.at_ / 8, (b.at_ % 8 + b.w + 7) / 8)

/-- Whether a bit write touches a byte. -/
def BitWrite.touches (b : BitWrite) (a : Nat) : Bool := decide (b.span.1 ≤ a) && decide (a < b.span.1 + b.span.2)

/-- A byte string as a bit write. -/
def bytesAt (a : Nat) (bs : List Byte) (poison : Bool := false) : BitWrite := ⟨8 * a, 8 * bs.length, leNat bs, poison⟩

/-! ## ECC memories -/

/-- ECC words that the bytes [a, a + n) touch, for words of `ws` bytes. -/
def wordsOf (ws a n : Nat) : List Nat :=
  if n = 0 then [] else (List.range ((a + n - 1) / ws - a / ws + 1)).map (a / ws + ·)

/-- Whether a read of an ECC word delivers poison: the word is marked, or holds an uncorrectable error (R105, R326). -/
def EccMem.bad (m : EccMem) (k : Nat) : Bool := decide (k ∈ m.marks) || m.upsets.any fun e => e.1 == k && e.2.fatal

/-- Whether the bytes [a, a + n) are delivered with the poison tag. -/
def EccMem.poisoned (m : EccMem) (ws a n : Nat) : Bool := (wordsOf ws a n).any m.bad

/-- What a read of an ECC word finds: nothing, a corrected bit, or an uncorrectable error. -/
def EccMem.upset (m : EccMem) (k : Nat) : Option Upset := (m.upsets.find? fun e => e.1 = k).map (·.2)

/-- A latent error that meets another in its word: a bit flipped again holds its value, a second bit of a code makes the word uncorrectable (R105,
R325). -/
def Upset.meets : Option Upset → Upset → Option Upset
  | some (.flips l), .flips [b] => let l := if b ∈ l then l.filter (· != b) else b :: l; if l = [] then none else some (.flips l)
  | some (.ce b _), .ce b' _ => if b = b' then none else some .ue
  | some u, new => some (if u.fatal then u else new)
  | none, new => some new

/-- An error befalls a word; a marked one stays marked. -/
def EccMem.befall (m : EccMem) (k : Nat) (u : Upset) : EccMem :=
  if k ∈ m.marks then m
  else match Upset.meets (m.upset k) u with
    | some x => { m with upsets := m.upsets.set k x }
    | none => { m with upsets := m.upsets.filter fun e => e.1 != k }

/-- A word rewritten in place with poison marking after an uncorrectable error (R105, R326). -/
def EccMem.mark (m : EccMem) (k : Nat) : EccMem :=
  { m with marks := insertNat k m.marks, upsets := m.upsets.filter fun e => e.1 != k }

/-- A word written clean: no marking, no latent error. -/
def EccMem.clean (m : EccMem) (k : Nat) : EccMem :=
  { m with marks := m.marks.filter (· != k), upsets := m.upsets.filter fun e => e.1 != k }

/-- A word whose corrected error has been reported (R105). -/
def EccMem.seen (m : EccMem) (k bit : Nat) : EccMem :=
  { m with upsets := m.upsets.map fun e => if e.1 = k then (k, Upset.ce bit true) else e }

/-- ECC words that a list of writes touches, each once. -/
def touchedWords (ws : Nat) (bs : List BitWrite) : List Nat :=
  bs.foldl (fun acc b => (wordsOf ws b.span.1 b.span.2).foldl (fun acc k => insertNat k acc) acc) []

/-- Whether the writes cover a whole ECC word. -/
def coversWord (ws : Nat) (bs : List BitWrite) (k : Nat) : Bool :=
  (List.range ws).all fun i => bs.any fun b => b.touches (k * ws + i)

/-- Whether a written value of an ECC word carries the poison tag. -/
def poisonsWord (ws : Nat) (bs : List BitWrite) (k : Nat) : Bool :=
  bs.any fun b => b.poison && decide (k ∈ wordsOf ws b.span.1 b.span.2)

/-- The words that a list of writes reads first, because it covers only a part of them (R106, R327). -/
def mergedWords (ws : Nat) (bs : List BitWrite) : List Nat :=
  (touchedWords ws bs).filter fun k => !coversWord ws bs k

/-- The marking of one word after the writes (R106, R327): a whole word takes its source's poison, a part keeps the marking. -/
def EccMem.settle (ws : Nat) (bs : List BitWrite) (m : EccMem) (k : Nat) : EccMem :=
  if poisonsWord ws bs k || (!coversWord ws bs k && m.bad k) then m.mark k else m.clean k

/-- The writes of one access or record, in order, with the marking they leave. -/
def EccMem.write (ws : Nat) (m : EccMem) (bs : List BitWrite) : EccMem :=
  let marked := (touchedWords ws bs).foldl (EccMem.settle ws bs) m
  { marked with cells := bs.foldl Cells.setBits m.cells }

/-- A memory with the bytes of [lo, hi) zero and clean; `lo` and `hi` are multiples of the word size. -/
def EccMem.zero (ws : Nat) (m : EccMem) (lo hi : Nat) : EccMem :=
  { cells := Cells.zero m.cells lo hi
    marks := m.marks.filter fun k => decide ((k + 1) * ws ≤ lo) || decide (hi ≤ k * ws)
    upsets := m.upsets.filter fun e => decide ((e.1 + 1) * ws ≤ lo) || decide (hi ≤ e.1 * ws) }

end Sys2Proof.Machine
end

