-- ==== Sys2Proof/Machine/Num.lean ====
section
/-! DEFINITION. Exact numbers, element formats, the PS36 accumulator and the one rounding function (R20–R47). -/
namespace Sys2Proof.Machine

/-- An exact binary number (−1)^neg × m × 2^e; m = 0 is a signed zero. An infinite expansion is carried with at least 128
bits below its leading bit and one more bit that is 1 when anything lies below, which every rounding of R40–R42 reads alike. -/
structure Dy where
  neg : Bool
  m : Nat
  e : Int
  deriving DecidableEq, Repr

/-- A number of any format: NaN, a signed infinity, or a finite value. -/
inductive FNum where
  | nan
  | inf (neg : Bool)
  | fin (d : Dy)
  deriving DecidableEq, Repr

/-- A PS36 value with its sticky tags (R25, R27). -/
structure Val where
  n : FNum
  inexact : Bool := false
  overflow : Bool := false
  poison : Bool := false
  deriving DecidableEq, Repr

/-- Positive zero. -/
def Dy.zero : Dy := ⟨false, 0, 0⟩
/-- Positive zero as a number. -/
def FNum.zero : FNum := .fin Dy.zero
/-- Positive zero as a PS36 value. -/
def Val.zero : Val := { n := FNum.zero }

/-- A whole number as an exact number. -/
def Dy.ofInt (i : Int) : Dy := ⟨decide (i < 0), i.natAbs, 0⟩

/-- The exact signed integer of a number in units of 2^q, for q at or below its exponent. -/
def Dy.units (d : Dy) (q : Int) : Int :=
  let u : Int := (d.m * 2 ^ (d.e - q).toNat : Nat)
  if d.neg then -u else u

/-- Sum of two exact numbers; an exact sum of zero is +0 unless both operands are −0 (R27). -/
def Dy.add (a b : Dy) : Dy :=
  let q := min a.e b.e
  let s := a.units q + b.units q
  if s = 0 then ⟨a.neg && b.neg && a.m == 0 && b.m == 0, 0, 0⟩ else ⟨decide (s < 0), s.natAbs, q⟩

/-- Product of two exact numbers. -/
def Dy.mul (a b : Dy) : Dy := ⟨a.neg != b.neg, a.m * b.m, a.e + b.e⟩

/-- The negated number. -/
def Dy.negate (a : Dy) : Dy := { a with neg := !a.neg }

/-- The number times 2^k. -/
def Dy.scale (a : Dy) (k : Int) : Dy := { a with e := a.e + k }

/-- ⌊log2 |a|⌋ of a nonzero number. -/
def Dy.msb (a : Dy) : Int := a.e + (bitLen a.m : Int) - 1

/-- Comparison of exact numbers, zeros equal whatever their sign. -/
def Dy.lt (a b : Dy) : Bool :=
  let q := min a.e b.e
  decide (a.units q < b.units q)

/-- Magnitude comparison. -/
def Dy.magLt (a b : Dy) : Bool := ({ a with neg := false } : Dy).lt { b with neg := false }

/-- Whether a finite number is zero. -/
def FNum.isZero : FNum → Bool
  | .fin d => d.m == 0
  | _ => false

/-- Negation: NaN stays. -/
def FNum.neg : FNum → FNum
  | .nan => .nan
  | .inf s => .inf (!s)
  | .fin d => .fin d.negate

/-- Exact product; infinity times zero is NaN (R266). -/
def FNum.mul : FNum → FNum → FNum
  | .nan, _ => .nan
  | _, .nan => .nan
  | .inf s, .inf t => .inf (s != t)
  | .inf s, .fin d => if d.m = 0 then .nan else .inf (s != d.neg)
  | .fin d, .inf s => if d.m = 0 then .nan else .inf (s != d.neg)
  | .fin a, .fin b => .fin (a.mul b)

/-- Exact sum; infinity minus infinity is NaN (R27). -/
def FNum.add : FNum → FNum → FNum
  | .nan, _ => .nan
  | _, .nan => .nan
  | .inf s, .inf t => if s = t then .inf s else .nan
  | .inf s, .fin _ => .inf s
  | .fin _, .inf s => .inf s
  | .fin a, .fin b => .fin (a.add b)

/-- The number times 2^k. -/
def FNum.scale (k : Int) : FNum → FNum
  | .fin d => .fin (d.scale k)
  | x => x

/-- Sign of a number, false for NaN. -/
def FNum.sign : FNum → Bool
  | .nan => false
  | .inf s => s
  | .fin d => d.neg

/-- a < b for numbers that are not NaN. -/
def FNum.lt : FNum → FNum → Bool
  | .fin a, .fin b => a.lt b
  | .inf s, .inf t => s && !t
  | .inf s, .fin _ => s
  | .fin _, .inf t => !t
  | _, _ => false

/-- Larger of two; NaN if either is NaN; +0 over −0 (R72). -/
def FNum.max (a b : FNum) : FNum :=
  if a = .nan ∨ b = .nan then .nan
  else if a.lt b then b else if b.lt a then a else if a.sign then b else a

/-- Smaller of two; NaN if either is NaN; −0 under +0 (R72). -/
def FNum.min (a b : FNum) : FNum :=
  if a = .nan ∨ b = .nan then .nan
  else if a.lt b then a else if b.lt a then b else if a.sign then a else b

/-- Magnitude. -/
def FNum.abs : FNum → FNum
  | .nan => .nan
  | .inf _ => .inf false
  | .fin d => .fin { d with neg := false }

/-! ## Rounding (R39–R42) -/

/-- Rounding modes (R39). -/
inductive Rm where
  | rne | rtz | srf | sr4
  deriving DecidableEq, Repr

/-- Mode of a code after defaults; codes 4–7 name none. -/
def Rm.ofCode : Nat → Option Rm
  | 0 => some .rne
  | 1 => some .rtz
  | 2 => some .srf
  | 3 => some .sr4
  | _ => none

/-- Whether the mode takes random bits for an inexact rounding. -/
def Rm.random : Rm → Bool
  | .srf => true
  | .sr4 => true
  | _ => false

/-- Exponent of the last kept bit: `p` significant bits, none below 2^qmin. -/
def quantum (p : Nat) (qmin : Int) (d : Dy) : Int := max (d.msb - (p : Int) + 1) qmin

/-- Whether a number has nonzero bits below its last kept bit. -/
def needsRound (p : Nat) (qmin : Int) (d : Dy) : Bool :=
  let q := quantum p qmin d
  decide (d.m ≠ 0) && decide (d.e < q) && decide (d.m % 2 ^ (q - d.e).toNat ≠ 0)

/-- Whether the cut bits round the magnitude up: `cut` of `n` bits, `odd` the kept last bit, `word` the random word (R40–R43). -/
def roundsUp (mode : Rm) (word : Word) (odd : Bool) (n cut : Nat) : Bool :=
  match mode with
  | .rtz => false
  | .rne => decide (2 ^ n < 2 * cut) || (decide (2 * cut = 2 ^ n) && odd)
  | .sr4 =>
    let r := word.toNat >>> 60
    decide (32 * 2 ^ n ≤ 32 * cut + (2 * r + 1) * 2 ^ n)
  | .srf =>
    let z := trailingZeros n cut
    let w := n - z
    let f := cut >>> z
    if w ≤ 32 then decide (word.toNat >>> (64 - w) < f)
    else decide (word.toNat >>> 32 < f >>> (w - 32) + (if f % 2 ^ (w - 32) = 0 then 0 else 1))

/-- Rounding of a finite number to `p` bits with last bit at least 2^qmin and an unbounded exponent. -/
def roundDy (p : Nat) (qmin : Int) (mode : Rm) (word : Word) (d : Dy) : Dy :=
  if needsRound p qmin d then
    let q := quantum p qmin d
    let n := (q - d.e).toNat
    let kept := d.m >>> n
    let up := roundsUp mode word (kept % 2 == 1) n (d.m % 2 ^ n)
    ⟨d.neg, if up then kept + 1 else kept, q⟩
  else d

/-! ## PS36 (R25–R27) -/

/-- Largest finite PS36 magnitude. -/
def psMax : Dy := ⟨false, 2 ^ 28 - 1, 100⟩

/-- Rounding into PS36, with the tags it sets (R27). `word` is the random word, used only where `needsRound 28 (-153)` holds
and the mode is stochastic. -/
def roundPs (mode : Rm) (word : Word) (v : Val) : Val :=
  match v.n with
  | .fin d =>
    let r := roundDy 28 (-153) mode word d
    let ix := needsRound 28 (-153) d
    if psMax.magLt r then
      match mode with
      | .rtz => { v with n := .fin { psMax with neg := d.neg }, inexact := true }
      | _ => { v with n := .inf d.neg, overflow := true, inexact := v.inexact || ix }
    else { v with n := .fin r, inexact := v.inexact || ix }
  | _ => v

/-- Whether rounding a value into PS36 takes random bits. -/
def drawsPs (mode : Rm) (v : Val) : Bool :=
  match v.n with
  | .fin d => mode.random && needsRound 28 (-153) d
  | _ => false

/-- Number of a floating-point encoding: `eb` exponent bits, `fb` fraction bits, bias; `special` reads the top exponent as
infinity and NaN (R20). -/
def decFloat (eb fb : Nat) (bias : Int) (special : Bool) (x : Nat) : FNum :=
  let s := bit x (eb + fb)
  let ex := fld x (eb + fb - 1) fb
  let fr := x % 2 ^ fb
  if special && ex == 2 ^ eb - 1 then (if fr = 0 then .inf s else .nan)
  else if ex = 0 then .fin ⟨s, fr, 1 - bias - fb⟩
  else .fin ⟨s, 2 ^ fb + fr, (ex : Int) - bias - fb⟩

/-- Encoding of a finite number that the format represents exactly. -/
def encFloat (eb fb : Nat) (bias : Int) (d : Dy) : Nat :=
  let sg := if d.neg then 2 ^ (eb + fb) else 0
  if d.m = 0 then sg
  else
    let E := d.msb
    let emin := 1 - bias
    if E < emin then sg + (d.m * 2 ^ (d.e - (emin - fb)).toNat) / 2 ^ ((emin - fb) - d.e).toNat
    else
      let sig := (d.m * 2 ^ (d.e - (E - fb)).toNat) / 2 ^ ((E - fb) - d.e).toNat
      sg + (E + bias).toNat * 2 ^ fb + sig % 2 ^ fb

/-- Value of a 40-bit container (R25, R26); the reserved bit is not read. -/
def psDecode (x : Nat) : Val :=
  { n := decFloat 8 27 127 true (x % 2 ^ 36), inexact := bit x 38, overflow := bit x 37, poison := bit x 36 }

/-- Container of a PS36 value; the canonical NaN is sign 0, fraction 0x400_0000 (R26). -/
def psEncode (v : Val) : Nat :=
  (match v.n with
    | .nan => 0xFF * 2 ^ 27 + 0x4000000
    | .inf s => (if s then 2 ^ 35 else 0) + 0xFF * 2 ^ 27
    | .fin d => encFloat 8 27 127 d)
  + (if v.poison then 2 ^ 36 else 0) + (if v.overflow then 2 ^ 37 else 0) + (if v.inexact then 2 ^ 38 else 0)

/-- Sum of two values with the tags of both, before its rounding (R27). -/
def Val.add (a b : Val) : Val :=
  { n := a.n.add b.n, inexact := a.inexact || b.inexact, overflow := a.overflow || b.overflow, poison := a.poison || b.poison }

/-! ## Element formats (R20–R24, R135) -/

/-- Bits per element of a format code (R135). -/
def fmtBits : Nat → Nat
  | 0 => 32 | 1 => 16 | 2 => 16 | 3 => 8 | 4 => 8 | 5 => 4 | 6 => 8 | 7 => 8 | 8 => 8 | 9 => 6 | 10 => 6 | 11 => 4
  | 12 => 64 | 13 => 16 | 14 => 32 | 15 => 8 | 16 => 8 | _ => 0

/-- Tile-scaled formats (R22). -/
def fmtTile (f : Nat) : Bool := decide (3 ≤ f ∧ f ≤ 6)
/-- MX formats (R23). -/
def fmtMx (f : Nat) : Bool := decide (7 ≤ f ∧ f ≤ 11)
/-- Formats with a scale array. -/
def fmtScaled (f : Nat) : Bool := decide (3 ≤ f ∧ f ≤ 11)
/-- 8 bits wide or narrower, as R24 and R32 count them: every tile-scaled and MX format. -/
def fmtNarrow (f : Nat) : Bool := decide (3 ≤ f ∧ f ≤ 11)

/-- Shape of a floating-point format: exponent bits, fraction bits, bias. -/
def fmtShape : Nat → Nat × Nat × Int
  | 0 => (8, 23, 127) | 1 => (8, 7, 127) | 2 => (5, 10, 15)
  | 3 => (4, 3, 7) | 7 => (4, 3, 7)
  | 4 => (5, 2, 15) | 8 => (5, 2, 15)
  | 5 => (2, 1, 1) | 11 => (2, 1, 1)
  | 9 => (2, 3, 1) | 10 => (3, 2, 3)
  | _ => (8, 23, 127)

/-- Emax (R20): ⌊log2(largest finite)⌋. -/
def fmtEmax : Nat → Int
  | 0 => 127 | 1 => 127 | 2 => 15 | 3 => 8 | 7 => 8 | 4 => 15 | 8 => 15 | 5 => 2 | 11 => 2 | 9 => 2 | 10 => 4 | 6 => 6
  | _ => 0

/-- Largest finite magnitude of a format (R20). -/
def fmtMax : Nat → Dy
  | 3 => ⟨false, 7, 6⟩ | 7 => ⟨false, 7, 6⟩
  | 4 => ⟨false, 7, 13⟩ | 8 => ⟨false, 7, 13⟩
  | 5 => ⟨false, 3, 1⟩ | 11 => ⟨false, 3, 1⟩
  | 9 => ⟨false, 15, -1⟩
  | 10 => ⟨false, 7, 2⟩
  | 6 => ⟨false, 127, 0⟩
  | 0 => ⟨false, 2 ^ 24 - 1, 104⟩
  | 1 => ⟨false, 2 ^ 8 - 1, 120⟩
  | 2 => ⟨false, 2 ^ 11 - 1, 5⟩
  | _ => psMax

/-- Whether the format has a NaN encoding (R20, R47). -/
def fmtHasNan : Nat → Bool
  | 0 => true | 1 => true | 2 => true | 3 => true | 4 => true | 7 => true | 8 => true
  | _ => false

/-- Canonical NaN (R47); zero where the format has none. -/
def fmtNan : Nat → Nat
  | 0 => 0x7FC00000 | 1 => 0x7FC0 | 2 => 0x7E00 | 3 => 0x7F | 7 => 0x7F | 4 => 0x7E | 8 => 0x7E
  | _ => 0

/-- Number of an element's bits without its scale (R20, R21). PS36 containers and raw formats are read by their own users. -/
def decElem (f x : Nat) : FNum :=
  match f with
  | 6 => .fin (Dy.ofInt (sx 8 x))
  | 3 => if x % 128 = 127 then .nan else decFloat 4 3 7 false x
  | 7 => if x % 128 = 127 then .nan else decFloat 4 3 7 false x
  | 0 => decFloat 8 23 127 true x
  | 1 => decFloat 8 7 127 true x
  | 2 => decFloat 5 10 15 true x
  | 4 => decFloat 5 2 15 true x
  | 8 => decFloat 5 2 15 true x
  | 12 => (psDecode x).n
  | _ => decFloat (fmtShape f).1 (fmtShape f).2.1 (fmtShape f).2.2 false x

/-- Significant bits a rounding into the format keeps; INT8 is a fixed point of step 1 (R21). -/
def fmtPrec (f : Nat) : Nat := if f = 6 then 4096 else (fmtShape f).2.1 + 1
/-- Exponent of the format's smallest step. -/
def fmtQmin (f : Nat) : Int := if f = 6 then 0 else 1 - (fmtShape f).2.2 - (fmtShape f).2.1

/-- The integer that a number is. -/
def Dy.toInt (d : Dy) : Int :=
  let u : Int := (d.m * 2 ^ d.e.toNat / 2 ^ (-d.e).toNat : Nat)
  if d.neg then -u else u

/-- Bits of a finite number that the format represents. -/
def encElem (f : Nat) (d : Dy) : Nat :=
  if f = 6 then ux 8 d.toInt else encFloat (fmtShape f).1 (fmtShape f).2.1 (fmtShape f).2.2 d

/-- Rounding of a number into FP32, BF16 or FP16 (R46): element bits. -/
def convPlain (f : Nat) (mode : Rm) (word : Word) (x : FNum) : Nat :=
  match x with
  | .nan => fmtNan f
  | .inf s => encFloat (fmtShape f).1 (fmtShape f).2.1 (fmtShape f).2.2 { fmtMax f with neg := s } + 1
  | .fin d =>
    let r := roundDy (fmtPrec f) (fmtQmin f) mode word d
    if (fmtMax f).magLt r then
      match mode with
      | .rtz => encElem f { fmtMax f with neg := d.neg }
      | _ => encElem f { fmtMax f with neg := d.neg } + 1
    else encElem f r

/-- Whether rounding a number into a format takes random bits. -/
def drawsElem (f : Nat) (mode : Rm) (x : FNum) : Bool :=
  match x with
  | .fin d => mode.random && needsRound (fmtPrec f) (fmtQmin f) d
  | _ => false

/-- F32 bits of a magnitude rounded toward +infinity, staying finite (R54; DEDUCED, log entry 58). -/
def f32Up (d : Dy) : Nat :=
  let t := roundDy 24 (-149) .rtz 0 d
  let r : Dy := if needsRound 24 (-149) d then ⟨false, t.m + 1, t.e⟩ else { d with neg := false }
  encFloat 8 23 127 (if (fmtMax 0).magLt r then fmtMax 0 else r)

end Sys2Proof.Machine
end

