-- ==== Sys2Proof/Machine/Random.lean ====
section
/-! DEFINITION. The two generators of random bits (R243–R252): the positional mixer PMX and the stream generator. -/
namespace Sys2Proof.Machine

/-- One round of PMX (R251). -/
def pmxRound (s : Word × Word × Word) : Word × Word × Word :=
  let a := s.1 + s.2.1
  let c := (s.2.2 ^^^ a).rotateLeft 28
  let b := s.2.1 + c
  let a := (a ^^^ b).rotateLeft 52
  (a, b, c)

/-- State of PMX after its input stage. -/
def pmxInput (k : Word) (t : Nat) (p : Word) (d : Nat) : Word × Word × Word :=
  (k ^^^ 0x5A3C96E10F87D24B, p ^^^ 0xC4B21D7FE06938A5, BitVec.ofNat 64 (t % 2 ^ 32 * 2 ^ 32 + d % 2 ^ 32) ^^^ 0x93E74A0DB5162CF8)

/-- PMX (R251): seed, stream id, logical position, draw index. -/
def pmx (k : Word) (t : Nat) (p : Word) (d : Nat) : Word :=
  let s := pmxRound (pmxRound (pmxRound (pmxRound (pmxRound (pmxRound (pmxInput k t p d))))))
  s.1 + s.2.2

/-- Lane count of this part (R249, 0x3E00:04). -/
def laneCount : Nat := 128

/-- The ring of a stream generator: words x_N … x_N+606; a ring not seeded yet holds zeros (DESIGN CHOICE, log entry 14). -/
def Stream.words (g : Stream) : List Word := if g.ring.length = 607 then g.ring else List.replicate 607 0

/-- The next block of 128 words (R244): x_n = x_n−607 + x_n−273. -/
def Stream.block (ring : List Word) : List Word :=
  (List.range laneCount).map fun k => ring.getD k 0 + ring.getD (334 + k) 0

/-- The generator with unread words at hand: a new block is formed when none is left (R249). -/
def Stream.fill (g : Stream) : Stream :=
  if g.unread = 0 then
    { g with ring := g.words.drop laneCount ++ Stream.block g.words, unread := laneCount }
  else g

/-- The next word of the stream (R244, R249) and the generator after it. -/
def Stream.next (g : Stream) : Word × Stream :=
  let f := g.fill
  (f.words.getD (607 - f.unread) 0, { f with unread := f.unread - 1, pos := f.pos + 1 })

/-- The source a record draws from (R43): positional with seed and stream id, or the core's stream generator; `used` counts the
stream words taken. -/
structure Rng where
  positional : Bool
  seed : Word
  tid : Nat
  gen : Stream
  used : Nat := 0
  deriving DecidableEq, Repr

/-- One random word (R43): positional by position and draw index, stream by order. -/
def Rng.draw (g : Rng) (pos : Nat) (draw : Nat) : Word × Rng :=
  if g.positional then (pmx g.seed g.tid (BitVec.ofNat 64 pos) draw, g)
  else (g.gen.next.1, { g with gen := g.gen.next.2, used := g.used + 1 })

/-- Rounding into PS36 that draws only where R40 takes random bits. -/
def Rng.roundPs (g : Rng) (mode : Rm) (pos draw : Nat) (v : Val) : Val × Rng :=
  if drawsPs mode v then
    let w := g.draw pos draw
    (Machine.roundPs mode w.1 v, w.2)
  else (Machine.roundPs mode 0 v, g)

/-- Conversion to FP32, BF16 or FP16 that draws only where R40 takes random bits. -/
def Rng.convPlain (g : Rng) (f : Nat) (mode : Rm) (pos draw : Nat) (x : FNum) : Nat × Rng :=
  if drawsElem f mode x then
    let w := g.draw pos draw
    (Machine.convPlain f mode w.1 x, w.2)
  else (Machine.convPlain f mode 0 x, g)

/-! ## Seeding (R247) -/

/-- A polynomial of degree below 607 over the integers modulo 2^64, lowest coefficient first. -/
abbrev Poly := List Word

/-- Sum of two coefficient lists. -/
def polyAdd : Poly → Poly → Poly
  | [], b => b
  | a, [] => a
  | x :: a, y :: b => (x + y) :: polyAdd a b

/-- Reduction of a coefficient list modulo z^607 − z^334 − 1: what stands at z^607 and above, h, is added at z^334 and at 1, so often. -/
def polyReduce : Nat → Poly → Poly
  | 0, p => p.take 607
  | fuel + 1, p =>
    if p.length ≤ 607 then p ++ List.replicate (607 - p.length) 0
    else
      let h := p.drop 607
      polyReduce fuel (polyAdd (p.take 607) (polyAdd h (List.replicate 334 0 ++ h)))

/-- Product of two coefficient lists. -/
def polyMulRaw : Poly → Poly → Poly
  | [], _ => []
  | a :: as, b => polyAdd (b.map (a * ·)) (0 :: polyMulRaw as b)

/-- Product modulo z^607 − z^334 − 1: a product of degree 1,212 at most, which three reductions bring below 607. -/
def polyMul (a b : Poly) : Poly := polyReduce 4 (polyMulRaw a b)

/-- z^(2^n) modulo the polynomial, by repeated squaring. -/
def polyTower : Nat → Poly
  | 0 => polyReduce 4 [0, 1]
  | n + 1 =>
    let p := polyTower n
    polyMul p p

/-- p^j by repeated multiplication. -/
def polyPow (p : Poly) : Nat → Poly
  | 0 => polyReduce 4 [1]
  | n + 1 => polyMul (polyPow p n) p

/-- Word `i` of the sequence that a polynomial of degree below 607 selects from a window of at least 607 + i words. -/
def polyApply (p : Poly) (window : List Word) : Word :=
  ((p.zip window).map fun x => x.1 * x.2).foldl (· + ·) 0

/-- 608 further words of the sequence after a ring of 607 (R244). -/
def extendSeq : Nat → List Word → List Word
  | 0, l => l
  | n + 1, l =>
    let k := l.length
    extendSeq n (l ++ [l.getD (k - 607) 0 + l.getD (k - 273) 0])

/-- Base state of a context at an epoch (R247): PMX(seed, 0xFFFF_FFFF, i, e), bit 0 of x_0 set. -/
def seedBase (seed : Word) (epoch : Nat) : List Word :=
  (List.range 607).map fun i =>
    let x := pmx seed 0xFFFFFFFF (BitVec.ofNat 64 i) epoch
    if i = 0 then x ||| 1 else x

/-- Stream state of the core with group index j: the base sequence from index 2^600 × j onward (R247). -/
def seedStream (seed : Word) (epoch j : Nat) : Stream :=
  let base := seedBase seed epoch
  let ring :=
    if j = 0 then base
    else
      let p := polyPow (polyTower 600) j
      let long := extendSeq 607 base
      (List.range 607).map fun i => polyApply p (long.drop i)
  { ring := ring, unread := 0, pos := 0, epoch := epoch }

/-- Image of a stream generator (R249): lane count, unread words, epoch, ring, position. -/
def Stream.image (g : Stream) : List Byte :=
  leBytes 2 laneCount ++ leBytes 2 g.unread ++ leBytes 4 g.epoch ++ g.words.flatMap (fun x => leBytes 8 x.toNat)
    ++ leBytes 8 g.pos.toNat

/-- Stream generator of an image (R249). -/
def Stream.ofImage (bs : List Byte) : Stream :=
  { ring := (List.range 607).map (fun i => BitVec.ofNat 64 (le bs (8 + 8 * i) 8)), unread := min (le bs 2 2) 128,
    pos := BitVec.ofNat 64 (le bs 4864 8), epoch := le bs 4 4 }

end Sys2Proof.Machine
end

