-- ==== Sys2Proof/Machine/Ops.lean ====
section
/-! DEFINITION. The named operations over the state: status codes, accessors, events, error records, core memories, HBM,
translation, context lookup and signals. -/
namespace Sys2Proof.Machine

/-! ## Status codes (R10) -/
abbrev stOk : Nat := 0x0000
abbrev stAlign : Nat := 0x0001
abbrev stOverlap : Nat := 0x0002
abbrev stUnitAbsent : Nat := 0x0003
abbrev stWindowClosed : Nat := 0x0004
abbrev stNoCredit : Nat := 0x0005
abbrev stPoolExhausted : Nat := 0x0006
abbrev stRescaleLimit : Nat := 0x0007
abbrev stLaneMismatch : Nat := 0x0008
abbrev stFaultXlate : Nat := 0x0009
abbrev stFaultPerm : Nat := 0x000A
abbrev stPoison : Nat := 0x000B
abbrev stTimeout : Nat := 0x000C
abbrev stDigestMismatch : Nat := 0x000D
abbrev stLicence : Nat := 0x000E
abbrev stState : Nat := 0x000F
abbrev stBusy : Nat := 0x0010
abbrev stBusError : Nat := 0x0011

/-- Continuing statuses (R87): the stream goes on. -/
def continuing (st : Nat) : Bool := st == stOk || st == stRescaleLimit || st == stPoison

/-! ## Accessors -/

/-- A core before anything has touched it: logical core c is carried by physical core c mod 16 (R14, R450). -/
def Core.fresh (c : Nat) : Core := { phys := c % 16 }

def World.core (w : World) (c : Nat) : Core := Tab.get (Core.fresh c) w.cores c
def World.setCore (w : World) (c : Nat) (k : Core) : World := { w with cores := w.cores.set c k }
def World.cluster (w : World) (k : Nat) : Cluster := Tab.get {} w.clusters k
def World.setCluster (w : World) (k : Nat) (v : Cluster) : World := { w with clusters := w.clusters.set k v }
def World.die (w : World) (d : Nat) : Die := Tab.get {} w.dies d
def World.setDie (w : World) (d : Nat) (v : Die) : World := { w with dies := w.dies.set d v }
def World.ctx (w : World) (n : Nat) : Ctx := Tab.get {} w.ctxs n
def World.setCtx (w : World) (n : Nat) (v : Ctx) : World := { w with ctxs := w.ctxs.set n v }
def World.chan (w : World) (d : Nat) : Chan := Tab.get {} w.dma d
def World.setChan (w : World) (d : Nat) (v : Chan) : World := { w with dma := w.dma.set d v }
def World.link (w : World) (l : Nat) : Link := Tab.get {} w.links l
def World.setLink (w : World) (l : Nat) (v : Link) : World := { w with links := w.links.set l v }
def World.group (w : World) (g : Nat) : Group := Tab.get {} w.groups g
def World.setGroup (w : World) (g : Nat) (v : Group) : World := { w with groups := w.groups.set g v }
def World.port (w : World) (p : Nat) : HPort := Tab.get {} w.ports p
def World.setPort (w : World) (p : Nat) (v : HPort) : World := { w with ports := w.ports.set p v }
def World.region (w : World) (m : Nat) : Region := Tab.get {} w.regions m
def World.setRegion (w : World) (m : Nat) (v : Region) : World := { w with regions := w.regions.set m v }
def World.qp (w : World) (q : Nat) : Qp := Tab.get {} w.qps q
def World.setQp (w : World) (q : Nat) (v : Qp) : World := { w with qps := w.qps.set q v }
def World.stack (w : World) (t : Nat) : Stack := Tab.get {} w.hbm.stackTab t
def World.setStack (w : World) (t : Nat) (v : Stack) : World :=
  { w with hbm := { w.hbm with stackTab := w.hbm.stackTab.set t v } }
/-- The context table entry of context n. -/
def State.ent (s : State) (n : Nat) : Resid := Tab.get {} s.res n
def State.setEnt (s : State) (n : Nat) (v : Resid) : State := { s with res := s.res.set n v }

/-- Compute die of a core (R8). -/
def dieOfCore (c : Nat) : Nat := c / 512
/-- Compute die of a DMA channel. -/
def dieOfChan (d : Nat) : Nat := d / 256
/-- I/O die of a Seam link, coded as in R420 (R13). -/
def dieOfLink (l : Nat) : Nat := 2 + l / 10
/-- I/O die of an HBM stack, coded as in R420 (R13). -/
def dieOfStack (t : Nat) : Nat := 2 + t / 8
/-- I/O die of a host port, coded as in R420 (R13). -/
def dieOfPort (p : Nat) : Nat := 2 + p
/-- What has no die of its own stamps with I/O die 0 (R420). -/
def dieNone : Nat := 2

/-! ## Events (R420–R423) -/

/-- The bytes of an event record (R420). -/
def EventRec.bytes (e : EventRec) : List Byte :=
  leBytes 2 e.code ++ leBytes 2 e.idx ++ leBytes 1 e.sub ++ leBytes 1 e.die ++ leBytes 2 e.ctx ++ leBytes 8 e.ctr
    ++ leBytes 4 e.step ++ leBytes 2 e.status ++ leBytes 2 e.payload.length ++ e.payload

/-! ## KOC frames that the part sends (R386, R387, R390, R392) -/

/-- Header and payload of a frame in one fragment (R386). -/
def kocBytes (typ sid seq rid : Nat) (payload : List Byte) : List Byte :=
  leBytes 1 1 ++ leBytes 1 typ ++ leBytes 1 0 ++ leBytes 1 1 ++ leBytes 4 sid ++ leBytes 8 seq ++ leBytes 4 rid
    ++ leBytes 2 payload.length ++ leBytes 2 0 ++ payload

/-- The tag of a frame under a direction key (R390). -/
def kocMac (key : List Byte) (typ sid seq rid : Nat) (payload : List Byte) : List Byte :=
  Config.kmac256 key (kocBytes typ sid seq rid payload) 16 "KOC frame"

/-- Type of a frame that the part sends (R387). -/
def KocBody.typ : KocBody → Nat
  | .offer .. => 0x02
  | .openDone _ => 0x04
  | .close _ => 0x05
  | .reply .. => 0x12
  | .segData .. => 0x15
  | .segAck .. => 0x16
  | .event .. => 0x20
  | .pong => 0x31

/-- Payload of a frame that the part sends (R387). -/
def KocBody.payload : KocBody → List Byte
  | .offer nonce sid identity encapKey sig => nonce ++ leBytes 4 sid ++ leBytes 8 identity ++ encapKey ++ sig
  | .openDone st | .close st => leBytes 2 st
  | .reply st value => leBytes 2 st ++ leBytes 2 0 ++ value
  | .segData frame data => leBytes 2 frame ++ leBytes 2 data.length ++ data
  | .segAck bitmap st => leBytes 8 bitmap ++ leBytes 2 st
  | .event seq ev => leBytes 4 seq ++ ev.bytes
  | .pong => []

/-- A frame of a session with a sequence number, under the key of the part's direction (R386, R390). -/
def Session.frame (k : Session) (port : KocPort) (dst seq rid : Nat) (b : KocBody) : OutMsg :=
  .koc port dst k.sid seq rid (kocMac k.keyOut b.typ k.sid seq rid b.payload) b

/-- Frames of a session to an address, in order: each takes the next sequence number of the part's direction (R392). -/
def Session.frames (k : Session) (port : KocPort) (dst : Nat) (l : List (Nat × KocBody)) : List OutMsg :=
  l.zipIdx.map fun x => k.frame port dst (k.tx + 1 + x.2) x.1.1 x.1.2

/-- Whether an event reaches a session (R422). -/
def Session.wants (k : Session) (e : EventRec) : Bool :=
  let cls := e.code / 256
  (bit k.mask cls || (k.port == .side && (cls == 10 || cls == 7)))
    && (e.ctx == 0xFFFF || bit (leNat k.filter) e.ctx)

/-- Events of a session's queue that were sent and not acknowledged. -/
def Session.unacked (k : Session) : Nat := (k.events.filter fun q => q.tries != 0).length

/-- The session after an event that it wants: queued, sent if fewer than 16 are unacknowledged; dropped when 256 are queued (R423). -/
def Session.take (k : Session) (e : EventRec) : Session :=
  if 256 ≤ k.events.length then { k with evDropped := bump 32 k.evDropped 1 }
  else
    { k with evSeq := add32 k.evSeq 1
             tx := if k.unacked < 16 then k.tx + 1 else k.tx
             events := k.events ++ [{ seq := add32 k.evSeq 1, tries := if k.unacked < 16 then 1 else 0, ev := e }] }

/-- What a session sends for an event that it takes. -/
def Session.sends (k : Session) (e : EventRec) : List OutMsg :=
  if k.wants e ∧ k.events.length < 256 ∧ k.unacked < 16 then k.frames k.port k.addr [(0, .event (add32 k.evSeq 1) e)] else []

/-- An event brought to every session that wants it (R422, R423). -/
def World.deliver (w : World) (e : EventRec) : World :=
  { w with
    koc := { w.koc with
      raised := bump 64 w.koc.raised 1
      sessions := w.koc.sessions.map fun k => if k.wants e then k.take e else k }
    outbox := w.outbox ++ w.koc.sessions.flatMap fun k => k.sends e }

/-- Raising an event: code, source object, die, context, status, payload (R420, R421). -/
def World.event (w : World) (code idx sub die : Nat) (ctx : Option Nat) (status : Nat) (payload : List Byte) : World :=
  w.deliver
    { code, idx, sub, die, ctx := ctx.getD 0xFFFF, ctr := w.tick.getD die 0, step := (ctx.map fun n => (w.ctx n).step).getD 0,
      status, payload }

/-! ## Error records (R477–R485) -/

/-- The 64 bytes of an error record (R479). -/
def ErrRec.bytes (r : ErrRec) : List Byte :=
  leBytes 4 r.seq ++ leBytes 1 r.cls ++ leBytes 1 r.unit ++ leBytes 2 r.status ++ leBytes 2 r.inst ++ leBytes 2 r.ctx
    ++ leBytes 4 r.step ++ leBytes 8 r.ctr ++ leBytes 1 r.die
    ++ leBytes 1 ((if r.escalated then 1 else 0) + (if r.logged then 2 else 0) + (if r.peer then 4 else 0))
    ++ leBytes 2 r.occ ++ leBytes 4 r.cause ++ leBytes 8 r.addr ++ sl r.detail 0 24

/-- Unit codes (R480). -/
abbrev uSac : Nat := 4
abbrev uHbm : Nat := 5
abbrev uCore : Nat := 6
abbrev uSparse : Nat := 7
abbrev uPred : Nat := 8
abbrev uCrown : Nat := 9
abbrev uDma : Nat := 10
abbrev uLink : Nat := 11
abbrev uColl : Nat := 12
abbrev uPort : Nat := 13
abbrev uXlate : Nat := 14
abbrev uMgmt : Nat := 15
abbrev uPower : Nat := 16
abbrev uSec : Nat := 17
abbrev uDigest : Nat := 18
abbrev uRng : Nat := 19
abbrev uBringup : Nat := 20
abbrev uCkpt : Nat := 21
abbrev uScan : Nat := 22

/-- Error classes (R477). -/
abbrev clsCe : Nat := 0
abbrev clsUe : Nat := 1
abbrev clsCtx : Nat := 2
abbrev clsFatal : Nat := 3

/-- The arriving record with the class that R485 gives it against the records in service. -/
def Errs.escalate (e : Errs) (r : ErrRec) : ErrRec :=
  if r.unit = uMgmt then { r with cls := clsFatal }
  else if r.cls = clsUe ∧ r.ctx ≠ 0xFFFF then
    match e.inService.find? fun q => q.cls == clsUe && q.unit == r.unit && q.inst == r.inst && q.ctx == r.ctx with
    | some q => { r with cls := clsCtx, escalated := true, cause := q.seq }
    | none => r
  else r

/-- Whether a CE record merges into a queued record (R481). -/
def ErrRec.merges (r q : ErrRec) : Bool :=
  r.cls == clsCe && q.cls == clsCe && q.unit == r.unit && q.inst == r.inst && q.addr == r.addr

/-- How many records of a class may be queued (R482). -/
def admitLimit : Nat → Nat
  | 0 => 240 | 1 => 248 | 2 => 255 | _ => 256

/-- A record put into the queue, in service and waiting for the fault service (R481, R484). -/
def Errs.push (e : Errs) (r : ErrRec) : Errs :=
  let r := { r with seq := e.next }
  { e with queue := e.queue ++ [r], waiting := e.waiting ++ [r], inService := e.inService ++ [r], next := add32 e.next 1 }

/-- What becomes of a record: queued (with the record as queued), or merged, dropped, not queued, or logged only (R481, R482). -/
def Errs.takeIn (e : Errs) (r0 : ErrRec) : Errs × Option ErrRec :=
  let r := e.escalate r0
  let e := { e with raised := e.raised.set r.cls (bump 64 (nth e.raised r.cls) 1) }
  let e := if r.escalated then { e with escalations := bump 64 e.escalations 1 } else e
  if e.queue.any fun q => r.merges q then
    ({ e with queue := e.queue.map fun q => if r.merges q then { q with occ := min 65535 (q.occ + 1) } else q }, none)
  else if e.queue.length < admitLimit r.cls then (e.push r, some { r with seq := e.next })
  else if r.cls = clsCe then ({ e with dropped := bump 64 e.dropped 1 }, none)
  else if r.cls = clsUe then ({ e with notQueued := bump 64 e.notQueued 1 }, none)
  else
    let f := { r with cls := clsFatal, escalated := r.escalated || r.cls != clsFatal }
    let e := if r.cls = clsFatal then e else { e with escalations := bump 64 e.escalations 1 }
    if e.queue.length < 256 then (e.push f, some { f with seq := e.next })
    else ({ e with unqueued := e.unqueued ++ [{ f with seq := e.next }], next := add32 e.next 1 }, none)

/-- Raising an error record (R477–R485): class, unit, status, instance, context, die of its counter, address, detail. A queued
record raises event 0x0701 with its 64 bytes (R481). -/
def World.raise (w : World) (cls unit status inst : Nat) (ctx : Option Nat) (die : Nat) (addr : Nat := 0)
    (detail : List Byte := []) (peer : Bool := false) : World :=
  let r : ErrRec :=
    { seq := 0, cls, unit, status, inst, ctx := ctx.getD 0xFFFF, step := (ctx.map fun n => (w.ctx n).step).getD 0,
      ctr := w.tick.getD die 0, die, peer, addr, detail }
  let a := w.errs.takeIn r
  let w := { w with errs := a.1, koc := { w.koc with asleep := [] } }
  match a.2 with
  | some q => w.event 0x0701 0x7000 1 die ctx q.status q.bytes
  | none => w

/-! ## Core memories (R99–R109) -/

def Core.mem (k : Core) : CoreMem → EccMem
  | .weight => k.ws
  | .scratch => k.sp
  | .psum => k.ps

def Core.setMem (k : Core) (m : CoreMem) (v : EccMem) : Core :=
  match m with
  | .weight => { k with ws := v }
  | .scratch => { k with sp := v }
  | .psum => { k with ps := v }

/-- Bytes of a core memory's address space (R99). -/
def memSize : CoreMem → Nat
  | .weight => 0x200000
  | .scratch => 0x60000
  | .psum => 0x20000

/-- Unit code of a core memory (R480). -/
def memUnit : CoreMem → Nat
  | .weight => 1
  | .scratch => 2
  | .psum => 3

/-- Memory of an operand space 1–3 (R67). -/
def memOfSpace : Nat → CoreMem
  | 2 => .weight
  | 3 => .psum
  | _ => .scratch

/-- The poison tag of R25 set in both containers of a Partial-Sum Store word (R105). -/
def EccMem.psTags (m : EccMem) (k : Nat) : EccMem :=
  { m with cells := Cells.setBits (Cells.setBits m.cells ⟨8 * (16 * k) + 36, 1, 1, false⟩) ⟨8 * (16 * k + 8) + 36, 1, 1, false⟩ }

/-- A corrected word queued for its write-back, at most four; else the write-back is dropped and counted (R95). -/
def Core.queueWb (k : Core) (m : CoreMem) (word : Nat) : Core :=
  if (m, word) ∈ k.wbq then k
  else if k.wbq.length < 4 then { k with wbq := k.wbq ++ [(m, word)] } else { k with wbDropped := k.wbDropped + 1 }

/-- What reading one ECC word of core c does besides delivering it (R95, R105): a corrected error raises its one CE record and
queues the write-back; an uncorrectable one raises a UE-contained record and is marked. -/
def World.touchWord (w : World) (c : Nat) (n : Option Nat) (m : CoreMem) (word : Nat) : World :=
  let k := w.core c
  match (k.mem m).upset word with
  | none => w
  | some (.ce b seen) =>
    let k' := (k.setMem m ((k.mem m).seen word b)).queueWb m word
    let w := w.setCore c k'
    if seen then w else w.raise clsCe (memUnit m) stOk c n (dieOfCore c) (16 * word) [BitVec.ofNat 8 k.phys, BitVec.ofNat 8 b]
  | some _ =>
    let marked := (k.mem m).mark word
    let marked := if m = .psum then marked.psTags word else marked
    (w.setCore c (k.setMem m marked)).raise clsUe (memUnit m) stPoison c n (dieOfCore c) (16 * word)
      [BitVec.ofNat 8 k.phys, 0xFF]

/-- Reading several ECC words of a core memory. -/
def World.touch (w : World) (c : Nat) (n : Option Nat) (m : CoreMem) (words : List Nat) : World :=
  words.foldl (fun w k => w.touchWord c n m k) w

/-- Dirty bits of the Weight Store regions (64 KiB each) that bit writes touch (R214). -/
def dirtyOf (bs : List BitWrite) : BitVec 32 :=
  bs.foldl (fun d b =>
    let lo := b.span.1 / 65536
    let hi := (b.span.1 + b.span.2 - 1) / 65536
    (List.range (hi - lo + 1)).foldl (fun d i => d ||| (1#32 <<< (lo + i))) d) 0

/-- Dirty bits of the regions that a run of bytes of the Weight Store lies in. -/
def dirtyRun (a n : Nat) : BitVec 32 :=
  if n = 0 then 0 else (List.range ((a + n - 1) / 65536 - a / 65536 + 1)).foldl (fun d i => d ||| (1#32 <<< (a / 65536 + i))) 0

/-- The memory of a core after writes: bits [63:40] of a Partial-Sum Store container are discarded (R100). -/
def writeMem (m : CoreMem) (v : EccMem) (bs : List BitWrite) : EccMem :=
  let v := v.write 16 bs
  match m with
  | .psum => { v with cells := v.cells.filter fun x => x.1 % 8 < 5 }
  | _ => v

/-- Writes of a record into a memory of core c (R106): words written in part are read first; the Weight Store's dirty bits
follow (R214). -/
def World.writeCore (w : World) (c : Nat) (n : Option Nat) (m : CoreMem) (bs : List BitWrite) : World :=
  if bs.isEmpty then w
  else
    let w := w.touch c n m (mergedWords 16 bs)
    let k := w.core c
    let k' := k.setMem m (writeMem m (k.mem m) bs)
    w.setCore c (if m = .weight then { k' with dirty := k'.dirty ||| dirtyOf bs } else k')

/-! ## HBM (R320–R333) and the invalidation of the caches (R18, R116–R118) -/

/-! The interleave (R322): stack, channel, pseudo-channel and offset of a physical address. -/

/-- Stack of a physical address (R322). -/
def stackOf (p : Nat) : Nat :=
  (fld p 15 12) ^^^ (fld p 19 16) ^^^ (fld p 23 20) ^^^ (fld p 27 24) ^^^ (fld p 31 28) ^^^ (fld p 35 32) ^^^ (fld p 39 36)

/-- Channel and pseudo-channel of a physical address (R322). -/
def chanOf (p : Nat) : Nat × Nat :=
  let q := fld p 39 16 * 4096 + fld p 11 0
  ((fld q 11 7) ^^^ (fld q 16 12) ^^^ (fld q 21 17), fld q 6 6)

/-- Offset of a physical address within its pseudo-channel (R322): thirty bits. -/
def offsetOf (p : Nat) : Nat :=
  let q := fld p 39 16 * 4096 + fld p 11 0
  fld q 35 12 * 64 + fld q 5 0

/-- The physical address at an offset of a pseudo-channel (R322): the stack recovers bits [15:12] from the higher bits, the channel
recovers q[11:7]. -/
def physAt (t c u o : Nat) : Nat :=
  let hi := fld o 29 6
  let q11 := c ^^^ fld hi 4 0 ^^^ fld hi 9 5
  let p15 := t ^^^ fld hi 3 0 ^^^ fld hi 7 4 ^^^ fld hi 11 8 ^^^ fld hi 15 12 ^^^ fld hi 19 16 ^^^ fld hi 23 20
  hi * 65536 + p15 * 4096 + q11 * 128 + u * 64 + fld o 5 0

/-- Slice and set of a line's physical address in a Shared Activation Cache (R116). -/
def sacSlice (p : Nat) : Nat :=
  (fld p 12 8) ^^^ (fld p 17 13) ^^^ (fld p 22 18) ^^^ (fld p 27 23) ^^^ (fld p 32 28) ^^^ (fld p 37 33) ^^^ (fld p 39 38)
def sacSetOf (p : Nat) : Nat := (fld p 22 13) ^^^ (fld p 32 23) ^^^ (fld p 39 33)
/-- Set number of a line over all slices: slice × 1,024 + set. -/
def sacIndex (line : Nat) : Nat := sacSlice (line * 256) * 1024 + sacSetOf (line * 256)

/-- First physical address past HBM. -/
abbrev hbmEnd : Nat := 2 ^ 40
/-- First address of the reserved regions (R323). -/
abbrev reservedBase : Nat := 0xAE00000000
/-- Whether [a, a + n) lies in any part of a reserved region. -/
def inReserved (a n : Nat) : Bool := decide (reservedBase < a + n)

/-- Whether a way of a set holds a line. -/
def holdsLine (line : Nat) (x : Option SacLine) : Bool := (x.map (·.line)) == some line

/-- Whether a die's cache holds a line. -/
def Die.holds (d : Die) (line : Nat) : Bool := (Tab.get {} d.sets (sacIndex line) : SacSet).ways.any (holdsLine line)

/-- A die without one line (R118): the line leaves its set, and a fill of it in progress will not be installed. -/
def Die.invalidate (d : Die) (line : Nat) : Die :=
  let i := sacIndex line
  let v : SacSet := Tab.get {} d.sets i
  { d with
    sets := if d.holds line then d.sets.set i { v with ways := v.ways.map fun x => if holdsLine line x then none else x } else d.sets
    fills := d.fills.map fun f => if f.line = line then { f with dropped := true } else f }

/-- The invalidation of one line in both caches (R18), counted in 0x2810:06. -/
def World.invalidateLine (w : World) (line : Nat) : World :=
  let d0 := w.die 0
  let d1 := w.die 1
  let n := (if d0.holds line then 1 else 0) + (if d1.holds line then 1 else 0)
  let w := (w.setDie 0 (d0.invalidate line)).setDie 1 (d1.invalidate line)
  { w with nums := { w.nums with invalidated := bump 64 w.nums.invalidated n } }

/-- What reading one 64-byte block of HBM does besides delivering it (R326). -/
def World.touchBlock (w : World) (n : Option Nat) (blk : Nat) : World :=
  let p := 64 * blk
  let t := stackOf p
  let st := w.stack t
  match w.hbm.mem.upset blk with
  | none => w
  | some u =>
    if u.fatal = false then
      let w := w.setStack t { st with corrected := bump 64 st.corrected 1 }
      let first := decide (blk ∉ w.hbm.corrected)
      let w := { w with hbm := { w.hbm with mem := { w.hbm.mem with upsets := w.hbm.mem.upsets.filter fun e => e.1 != blk }
                                            corrected := insertNat blk w.hbm.corrected } }
      if first then w.raise clsCe uHbm stOk t n (dieOfStack t) p [BitVec.ofNat 8 (chanOf p).1, BitVec.ofNat 8 (chanOf p).2, 0] else w
    else
      let w := w.setStack t { st with uncorrected := bump 64 st.uncorrected 1 }
      let w := { w with hbm := { w.hbm with mem := w.hbm.mem.mark blk } }
      w.raise clsUe uHbm stPoison t n (dieOfStack t) p
        [BitVec.ofNat 8 (chanOf p).1, BitVec.ofNat 8 (chanOf p).2, if u = .onDie then 1 else 0]

/-- An access to a block whose last retry fails (R330): counted, its record raised unless the requester raises its `own`; the third
such failure on a stack within a second raises a FATAL record. -/
def World.busFail (w : World) (n : Option Nat) (blk : Nat) (own : Bool) : World :=
  let p := 64 * blk
  let t := stackOf p
  let st := w.stack t
  let now := w.tick.getD (dieOfStack t) 0
  let times := (st.busTimes.filter fun x => decide (now < x + 100000000)) ++ [now]
  let detail : List Byte := [BitVec.ofNat 8 (chanOf p).1, BitVec.ofNat 8 (chanOf p).2, 2]
  let w := w.setStack t { st with bus := bump 32 st.bus 1, busTimes := times }
  let w := { w with hbm := { w.hbm with busBad := w.hbm.busBad.filter (· != blk) } }
  let w := if own then w else w.raise clsUe uHbm stBusError t n (dieOfStack t) p detail
  if 3 ≤ times.length then w.raise clsFatal uHbm stBusError t none (dieOfStack t) p detail else w

/-- Accesses of a requester to blocks of HBM: those that fail on the bus. -/
def World.meetBus (w : World) (n : Option Nat) (blks : List Nat) : World :=
  (blks.filter fun b => decide (b ∈ w.hbm.busBad)).foldl (fun w b => w.busFail n b false) w

/-- Whether one of the blocks fails on the bus when it is accessed. -/
def World.busHits (w : World) (blks : List Nat) : Bool := blks.any fun b => decide (b ∈ w.hbm.busBad)

/-- Whether accesses between two worlds have failed on the bus. -/
def World.busMet (w0 w : World) : Bool := decide (w.hbm.busBad.length < w0.hbm.busBad.length)

/-- Reads of 64-byte blocks by a requester: errors met, bytes counted per stack (R326, R333). -/
def World.readBlocks (w : World) (n : Option Nat) (blks : List Nat) : World :=
  blks.foldl (fun w b =>
    let w := w.touchBlock n b
    let t := stackOf (64 * b)
    let st := w.stack t
    w.setStack t { st with bytesR := bump 64 st.bytesR 64 }) w

/-- Writes into HBM at physical addresses (R327, R328): blocks written in part are read first and merged; the matching lines of
both caches are invalidated (R18). -/
def World.writeHbm (w : World) (n : Option Nat) (bs : List BitWrite) : World :=
  let merged := mergedWords 64 bs
  let w := merged.foldl (fun w b => w.touchBlock n b) w
  let w := { w with hbm := { w.hbm with mem := w.hbm.mem.write 64 bs, merges := bump 64 w.hbm.merges merged.length } }
  let w := (touchedWords 64 bs).foldl (fun w b =>
    let t := stackOf (64 * b)
    let st := w.stack t
    let named := ((List.range 64).filter fun i => bs.any fun x => x.touches (64 * b + i)).length
    w.setStack t { st with bytesW := bump 64 st.bytesW named }) w
  (touchedWords 256 bs).foldl (fun w l => w.invalidateLine l) w

/-- Bytes of HBM as delivered, without the effects of the read. -/
def World.hbmBytes (w : World) (a n : Nat) : List Byte := Cells.read w.hbm.mem.cells a n
/-- Whether bytes of HBM are delivered with the poison tag. -/
def World.hbmPoison (w : World) (a n : Nat) : Bool := w.hbm.mem.poisoned 64 a n

/-- A write by the part itself into a reserved region: the bytes, counted and invalidated like any write. -/
def World.hbmPut (w : World) (a : Nat) (bs : List Byte) : World :=
  if bs.isEmpty then w else w.writeHbm none [bytesAt a bs]

/-- Whole blocks of a slot read, changed and written back by the part: errors met, each block's poison marking kept with what was computed from it
(R326, R327). A slot whose access fails on the bus stays as it was (R330; DEDUCED, log entry 64). -/
def World.hbmUpdate (w : World) (n : Option Nat) (a len : Nat) (f : List Byte → List Byte) : World :=
  if w.busHits (wordsOf 64 a len) then w.meetBus n (wordsOf 64 a len) else
  let bs := f (w.hbmBytes a len)
  let w := w.readBlocks n (wordsOf 64 a len)
  w.writeHbm none ((List.range (len / 64)).map fun i => bytesAt (a + 64 * i) ((bs.drop (64 * i)).take 64) (w.hbm.mem.bad (a / 64 + i)))

/-- So many bytes written to each stack (R333): a range of whole 64 KiB lies on the sixteen stacks in equal shares (R322). -/
def World.countEven (w : World) (bytes : Nat) : World :=
  (List.range 16).foldl (fun w t => w.setStack t { w.stack t with bytesW := bump 64 (w.stack t).bytesW bytes }) w

/-- The lines of [lo, hi) removed from a cache, their fills not to be installed (R18, R118). -/
def Die.invalidateRange (d : Die) (lo hi : Nat) : Die :=
  let hit (l : Nat) : Bool := decide (lo ≤ 256 * l + 255) && decide (256 * l < hi)
  { d with
    sets := d.sets.map fun e => (e.1, { e.2 with ways := e.2.ways.map fun x => if (x.map fun l => hit l.line) = some true then none else x })
    fills := d.fills.map fun f => if hit f.line then { f with dropped := true } else f }

/-- A zeroed range of HBM of whole 64 KiB, written by the part: clean zeros, counted (R331, R285, R333). -/
def World.hbmZero (w : World) (lo hi : Nat) : World :=
  let w : World :=
    { w with
      hbm := { w.hbm with mem := w.hbm.mem.zero 64 lo hi }
      dies := w.dies.map fun d => (d.1, d.2.invalidateRange lo hi) }
  w.countEven ((hi - lo) / 16)

/-! ## Contexts and their slots (R284, R288) -/

/-- First byte of the save slot of context n (R288, R323). -/
def slotBase (n : Nat) : Nat := 0xC000000000 + n * 0x20000000
/-- First byte of statistics slot k of context n (R53, R288). -/
def statBase (n k : Nat) : Nat := slotBase n + 0x1000 + 320 * k
/-- First byte of predictor slot k of context n (R232, R288). -/
def predBase (n k : Nat) : Nat := slotBase n + 0x141000 + 64 * k
/-- First byte of the DMA images of context n (R288). -/
def dmaImageBase (n : Nat) : Nat := slotBase n + 0x145000
/-- First byte of the core image of group index j (R288). -/
def coreImageBase (n j : Nat) : Nat := slotBase n + 0x2000000 + j * 0x78000

/-- The fields of a context's configuration (R284). -/
def Resid.first (r : Resid) : Nat := le r.cfg 0 1
def Resid.count (r : Resid) : Nat := le r.cfg 1 1
def Resid.perCore (r : Resid) : Bool := le r.cfg 2 1 == 1
def Resid.rlog (r : Resid) : Nat := le r.cfg 3 1
def Resid.clog (r : Resid) : Nat := le r.cfg 4 1
def Resid.root (r : Resid) : Nat := le r.cfg 8 8
def Resid.ring (r : Resid) : Nat := le r.cfg 16 8
def Resid.comp (r : Resid) : Nat := le r.cfg 24 8
def Resid.compIdx (r : Resid) : Nat := le r.cfg 32 8
def Resid.seed (r : Resid) : Nat := le r.cfg 40 8

/-- Whether the group of a context holds a cluster (R283). -/
def Resid.holds (r : Resid) (k : Nat) : Bool := decide (r.first ≤ k) && decide (k < r.first + r.count)
/-- Whether the groups of two contexts intersect. -/
def Resid.meets (r t : Resid) : Bool := decide (r.first < t.first + t.count) && decide (t.first < r.first + r.count)
/-- First core of the group. -/
def Resid.core0 (r : Resid) : Nat := 16 * r.first
/-- Cores of the group. -/
def Resid.cores (r : Resid) : Nat := 16 * r.count
/-- The cores of the group. -/
def Resid.coreList (r : Resid) : List Nat := (List.range r.cores).map (r.core0 + ·)

/-- Whether a context occupies its core group: resident, being saved or being restored (R283, R285). -/
def CtxSt.live : CtxSt → Bool
  | .resident => true
  | .saving => true
  | .restoring => true
  | _ => false

/-- Context that occupies a cluster, while records may run on it: RESIDENT or SAVING. -/
def runningOn (res : Tab Resid) (k : Nat) : Option Nat :=
  (res.find? fun e => (e.2.st == .resident || e.2.st == .saving) && e.2.holds k).map (·.1)

/-- Where a record runs: core, context, its entry, its group. -/
structure Env where
  c : Nat
  n : Nat
  r : Resid
  st : CtxSt

/-- The context on a core of a READY part, if any. -/
def State.env (s : State) (c : Nat) : Option Env :=
  if s.ctl.part = .ready then
    (runningOn s.res (c / 16)).map fun n => { c := c, n := n, r := s.ent n, st := (s.ent n).st }
  else none

/-- Index of the core in its group (register s2, R62). -/
def Env.j (e : Env) : Nat := e.c - e.r.core0
/-- Whether a core lies in the context's core group. -/
def Env.inGroup (e : Env) (c : Nat) : Bool := decide (e.r.core0 ≤ c) && decide (c < e.r.core0 + e.r.cores)

/-! ## Translation (R276–R282) -/

/-- A fault of a translation: kind (R279) and level (R282). -/
structure XFault where
  kind : Nat
  level : Nat
  deriving DecidableEq, Repr

/-- Status of a fault kind (R279). -/
def XFault.status (f : XFault) : Nat := if f.kind ≤ 3 then stFaultXlate else stFaultPerm

/-- Whether a valid entry breaks R277 at a level: the pointer in a level-1 entry names a level-2 table of 128 KiB; a level-3 table needs
256-byte alignment only. -/
def pteMalformed (level x : Nat) : Bool :=
  fld x 63 40 != 0 || fld x 7 4 != 0
    || (level == 1 && (!bit x 1 || fld x 16 8 != 0))
    || (level == 3 && bit x 1)
    || (level == 2 && !bit x 1 && fld x 20 8 != 0)
    || (level == 3 && fld x 15 8 != 0)

/-- Bytes of what an entry names: the next table or the page. -/
def pteSpan (level x : Nat) : Nat :=
  if level = 1 then 131072 else if level = 2 then (if bit x 1 then 256 else 0x200000) else 0x10000

/-- The address in an entry (R277). -/
def pteAddr (x : Nat) : Nat := fld x 39 8 * 256

/-- The check of one entry, in the order of R279. -/
def pteCheck (poison : Bool) (level x : Nat) (wr : Bool) : Option XFault :=
  if poison then some ⟨3, level⟩
  else if !bit x 0 then some ⟨1, level⟩
  else if pteMalformed level x then some ⟨2, level⟩
  else if !wr && !bit x 2 then some ⟨4, level⟩
  else if wr && !bit x 3 then some ⟨5, level⟩
  else if inReserved (pteAddr x) (pteSpan level x) then some ⟨6, level⟩
  else none

/-- What a translation keeps and leaves: the TLB and the walk cache it used, the free-value counter, walks counted as misses,
table blocks read, and whether a table word was read with an uncorrectable error. -/
structure Walker where
  tlb : List TlbEntry := []
  walks : List TlbEntry := []
  free : Nat := 0
  misses : Nat := 0
  blocks : List Nat := []
  deriving DecidableEq, Repr

/-- An entry of a table read during a walk. -/
def pteRead (m : EccMem) (a : Nat) : Nat × Bool := (leNat (Cells.read m.cells a 8), m.poisoned 64 a 8)

/-- The first level that lacks a right, after one more entry: 0 where none does. -/
def lackAt (before level : Nat) (has : Bool) : Nat := if before = 0 ∧ has = false then level else before

/-- The part of a walk below a level-2 table pointer: the level-3 entry (R276). -/
def walk3 (m : EccMem) (t va : Nat) (wr : Bool) (n : Nat) (r2 w2 : Nat) (x : Walker) : Except XFault Nat × Walker :=
  let a := t + 8 * fld va 20 16
  let e := pteRead m a
  let x := { x with blocks := x.blocks ++ [a / 64] }
  match pteCheck e.2 3 e.1 wr with
  | some f => (.error f, x)
  | none =>
    let pa := pteAddr e.1
    let ent : TlbEntry := ⟨n, va / 0x10000 * 0x10000, 0x10000, pa, lackAt r2 3 (bit e.1 2), lackAt w2 3 (bit e.1 3)⟩
    (.ok (pa + va % 0x10000), { x with tlb := ent :: x.tlb })

/-- A walk from the root (R276–R279). -/
def walkRoot (m : EccMem) (root va : Nat) (wr : Bool) (n : Nat) (x : Walker) : Except XFault Nat × Walker :=
  let a1 := root + 8 * fld va 47 35
  let e1 := pteRead m a1
  let x := { x with blocks := x.blocks ++ [a1 / 64] }
  match pteCheck e1.2 1 e1.1 wr with
  | some f => (.error f, x)
  | none =>
    let a2 := pteAddr e1.1 + 8 * fld va 34 21
    let e2 := pteRead m a2
    let x := { x with blocks := x.blocks ++ [a2 / 64] }
    match pteCheck e2.2 2 e2.1 wr with
    | some f => (.error f, x)
    | none =>
      let r := lackAt (lackAt 0 1 (bit e1.1 2)) 2 (bit e2.1 2)
      let w := lackAt (lackAt 0 1 (bit e1.1 3)) 2 (bit e2.1 3)
      let region := va / 0x200000 * 0x200000
      if bit e2.1 1 then
        walk3 m (pteAddr e2.1) va wr n r w { x with walks := ⟨n, region, 0x200000, pteAddr e2.1, r, w⟩ :: x.walks }
      else
        (.ok (pteAddr e2.1 + va % 0x200000), { x with tlb := ⟨n, region, 0x200000, pteAddr e2.1, r, w⟩ :: x.tlb })

/-- Whether an entry translates an address of context n. -/
def TlbEntry.covers (t : TlbEntry) (n va : Nat) : Bool := t.ctx == n && decide (t.va ≤ va) && decide (va < t.va + t.size)

/-- The first level of a cached walk that lacks the right asked for; 0 where none does. -/
def TlbEntry.lacks (t : TlbEntry) (wr : Bool) : Nat := if wr then t.w else t.r

/-- A denied access (R279). -/
def denied (wr : Bool) (level : Nat) : XFault := ⟨if wr then 5 else 4, level⟩

/-- One translation (R276–R280). A cached entry, which may be older than the tables, serves the access or denies it, or has been evicted and
is gone: which, the spec leaves open (Config.freeBool, DESIGN CHOICE, log entry 11). Without one, the walk starts at a cached level-2 entry
or at the root. An address at or above 2^48 is no DVA: it faults as one that is not mapped at level 1 (DEDUCED, log entry 84). -/
def Walker.xlate (x : Walker) (m : EccMem) (root n va : Nat) (wr : Bool) : Except XFault Nat × Walker :=
  if 2 ^ 48 ≤ va then (.error ⟨1, 1⟩, x) else
  match (x.tlb.find? fun t => t.covers n va).filter fun _ => Config.freeBool x.free with
  | some t => (if t.lacks wr = 0 then .ok (t.pa + (va - t.va)) else .error (denied wr (t.lacks wr)), { x with free := x.free + 1 })
  | none =>
    let walk := (x.walks.find? fun t => t.covers n va).filter fun _ => Config.freeBool (x.free + 1)
    let x := { x with free := x.free + 2, misses := x.misses + 1, tlb := x.tlb.filter fun t => !t.covers n va }
    match walk with
    | some t => if t.lacks wr = 0 then walk3 m t.pa va wr n t.r t.w x else (.error (denied wr (t.lacks wr)), x)
    | none => walkRoot m root va wr n { x with walks := x.walks.filter fun t => !t.covers n va }

/-- Who asks for a translation, as R282 reports it: access code, source code, unit number, die of the TLB. -/
structure XSource where
  access : Nat
  source : Nat
  num : Nat
  die : Nat
  deriving DecidableEq, Repr

/-- The 32 bytes of a fault report (R282). -/
def faultBytes (va : Nat) (f : XFault) (q : XSource) (step seq : Nat) : List Byte :=
  leBytes 8 va ++ leBytes 1 f.kind ++ leBytes 1 q.access ++ leBytes 1 f.level ++ leBytes 1 q.source ++ leBytes 2 q.num
    ++ leBytes 2 0 ++ leBytes 4 step ++ leBytes 4 seq ++ leBytes 8 0

/-- A translation fault reported (R282): last fault, count, event; kind 3 raises a UE-contained record too. -/
def World.reportFault (w : World) (n va : Nat) (f : XFault) (q : XSource) : World :=
  let k := w.ctx n
  let seq := add32 k.faults 1
  let bs := faultBytes va f q k.step seq
  let w := w.setCtx n { k with faults := seq, lastFault := bs }
  let w := { w with ctxCtr := { w.ctxCtr with xlateFaults := bump 64 w.ctxCtr.xlateFaults 1 } }
  let w := if f.kind = 3 then w.raise clsUe uXlate f.status n (some n) q.die va [3] else w
  w.event 0x0102 (0x3100 + n) 8 q.die (some n) f.status bs

/-- The walker of a cluster's TLB. -/
def World.walker (w : World) (k : Nat) : Walker :=
  { tlb := (w.cluster k).tlb, walks := (w.cluster k).walks, free := w.free }

/-- What a cluster's translations leave: its TLB and walk cache, misses counted, table blocks read. -/
def World.putWalker (w : World) (k n : Nat) (x : Walker) : World :=
  let w := w.setCluster k { w.cluster k with tlb := x.tlb.take 2048, walks := x.walks.take 128 }
  let w := { w with free := x.free, ctxCtr := { w.ctxCtr with tlbMisses := bump 64 w.ctxCtr.tlbMisses x.misses } }
  (w.meetBus (some n) x.blocks).readBlocks (some n) x.blocks

/-- Accesses translated in order (R163), one for each page, by the first byte that they touch in it: page and physical base of each, or the
first fault with the DVA of its access (R282). -/
def Walker.pages (x : Walker) (m : EccMem) (root n : Nat) (wr : Bool) : List Nat → Except (Nat × XFault) (List (Nat × Nat)) × Walker
  | [] => (.ok [], x)
  | va :: vas =>
    let r := x.xlate m root n va wr
    match r.1 with
    | .error f => (.error (va, f), r.2)
    | .ok pa =>
      let rest := Walker.pages r.2 m root n wr vas
      match rest.1 with
      | .error e => (.error e, rest.2)
      | .ok l => (.ok ((va / 0x10000, pa - va % 0x10000) :: l), rest.2)

/-- Physical address of a DVA under translated pages; 2^40 where its page is not among them. -/
def physOf (pages : List (Nat × Nat)) (va : Nat) : Nat :=
  match pages.find? fun p => p.1 = va / 0x10000 with
  | some p => p.2 + va % 0x10000
  | none => hbmEnd

/-- A bit write at a DVA moved to its physical address. -/
def BitWrite.phys (pages : List (Nat × Nat)) (b : BitWrite) : BitWrite :=
  { b with at_ := 8 * physOf pages (b.at_ / 8) + b.at_ % 8 }

/-! ## Signals and counters (R84, R85) -/

/-- A counter raised by an increment modulo 2^16 (R84). -/
def Core.addCtr (k : Core) (i inc : Nat) : Core :=
  { k with ctrs := k.ctrs.set i (k.ctrs.getD i 0 + BitVec.ofNat 16 inc) }

/-- Whether a wait holds (R84). -/
def waitHolds (ctr thr : Nat) : Bool := decide (sub16 ctr thr < 2 ^ 15)

end Sys2Proof.Machine
end

