-- ==== Sys2Proof/Machine/Bulk.lean ====
section
/-! DEFINITION. Moves of whole ranges between memories (R269, R291, R294, R298): cells, poison marking, bytes counted per stack. -/
namespace Sys2Proof.Machine

/-- The listed cells of a byte string at an address. -/
def cellsOf (a : Nat) : List Byte → List Host.Cell
  | [] => []
  | b :: bs => if b = 0 then cellsOf (a + 1) bs else (a, b) :: cellsOf (a + 1) bs

/-- The cells of [lo, hi), moved so that `lo` stands at `dst`. -/
def Cells.moved (m : List Host.Cell) (lo hi dst : Nat) : List Host.Cell :=
  (m.filter fun c => decide (lo ≤ c.1) && decide (c.1 < hi)).map fun c => (c.1 - lo + dst, c.2)

/-- A memory whose range [lo, hi) is replaced by other cells of that range. -/
def Cells.splice (m : List Host.Cell) (lo hi : Nat) (new : List Host.Cell) : List Host.Cell :=
  (m.filter fun c => decide (c.1 < lo)) ++ new ++ m.filter fun c => decide (hi ≤ c.1)

/-- Bytes of a range counted per stack (R333), one 4 KiB granule after the other. -/
def World.countHbm (w : World) (lo n : Nat) (wr : Bool) : World :=
  (List.range ((lo + n + 4095) / 4096 - lo / 4096)).foldl (fun w i =>
    let g := 4096 * (lo / 4096 + i)
    let k := min (g + 4096) (lo + n) - max g lo
    let t := stackOf g
    let st := w.stack t
    w.setStack t (if wr then { st with bytesW := bump 64 st.bytesW k } else { st with bytesR := bump 64 st.bytesR k })) w

/-- Whole blocks of HBM replaced (R327): the cells given, the blocks of `bad` with poison marking, the others clean. `lo` and `n` are
multiples of 64. -/
def World.blit (w : World) (lo n : Nat) (new : List Host.Cell) (bad : List Nat) : World :=
  let m := w.hbm.mem
  let out (b : Nat) : Bool := decide (64 * b < lo) || decide (lo + n ≤ 64 * b)
  let mem : EccMem :=
    { cells := Cells.splice m.cells lo (lo + n) new
      marks := bad.foldl (fun l b => insertNat b l) (m.marks.filter out)
      upsets := m.upsets.filter fun e => out e.1 }
  ({ w with hbm := { w.hbm with mem } }).countHbm lo n true

/-- First byte of the scan-test pattern cache (R323). -/
abbrev patternBase : Nat := 0xAE00000000

/-- Whole blocks of HBM read (R326): errors met, bytes counted. -/
def World.readRange (w : World) (ctx : Option Nat) (lo n : Nat) : World :=
  let hit := (w.hbm.mem.upsets.map (·.1)).filter fun b => decide (lo ≤ 64 * b) && decide (64 * b < lo + n)
  (hit.foldl (fun w b => w.touchBlock ctx b) w).countHbm lo n false

/-- Blocks of a range whose next access fails on the bus (R330). -/
def World.busRange (w : World) (lo n : Nat) : List Nat := w.hbm.busBad.filter fun b => decide (lo ≤ 64 * b) && decide (64 * b < lo + n)

/-- A memory in which each of some 64-byte blocks holds, by a free choice, its old or its new content. Errors that reads met stay met. -/
def EccMem.keepSome (ws : Nat) (old new : EccMem) (blocks : List Nat) (free : Nat) : EccMem × Nat :=
  let m := blocks.zipIdx.foldl (fun (m : EccMem) x =>
    if Config.freeBool (free + x.2) then m
    else
      let inside (k : Nat) : Bool := ws * k / 64 == x.1
      let keep := (old.marks.filter inside) ++ new.marks.filter fun k => inside k && old.upsets.any fun u => u.1 == k && u.2.fatal
      { m with
        cells := Cells.splice m.cells (64 * x.1) (64 * x.1 + 64)
          (old.cells.filter fun c => decide (64 * x.1 ≤ c.1) && decide (c.1 < 64 * x.1 + 64))
        marks := keep.foldl (fun l k => insertNat k l) (m.marks.filter fun k => !inside k) }) new
  (m, free + blocks.length)

/-- A world after the part's own writes into a range of HBM, some of which failed on the bus (R330): the failures are counted and recorded, the part goes
on, and each such block holds, by a free choice, its old or its new content (DEDUCED, log entry 64). -/
def World.landed (w w0 : World) (n lo len : Nat) : World :=
  let hit := w0.busRange lo len
  let x := EccMem.keepSome 64 w0.hbm.mem w.hbm.mem hit w.free
  ({ w with hbm := { w.hbm with mem := x.1 }, free := x.2 }).meetBus (some n) hit

/-- Marked blocks of a range. -/
def World.badBlocks (w : World) (lo n : Nat) : List Nat := w.hbm.mem.marks.filter fun b => decide (lo ≤ 64 * b) && decide (64 * b < lo + n)

end Sys2Proof.Machine
end

