-- ==== Sys2Proof/Machine/Crc.lean ====
section
/-! DEFINITION. CRC-64 in the ECMA-182 form (R365): the checksum of collective messages, state digests and checkpoints; and the
CRC-32 of Seam frames (R336). -/
namespace Sys2Proof.Machine

/-- One bit of the division by 0x42F0E1EBA9EA3693. -/
def crcStep (c : Word) : Word := if c.msb then (c <<< 1) ^^^ 0x42F0E1EBA9EA3693#64 else c <<< 1

/-- The register after one byte, most significant bit first. -/
def crcByte (c : Word) (b : Byte) : Word :=
  crcStep (crcStep (crcStep (crcStep (crcStep (crcStep (crcStep (crcStep (c ^^^ (b.zeroExtend 64 <<< 56)))))))))

/-- CRC-64 of a byte string (R365): initial value 0, no reflection, no final XOR. -/
def crc64 (bs : List Byte) : Word := bs.foldl crcByte 0

/-- One bit of the CRC-32 of IEEE 802.3, least significant bit first. -/
def crc32Step (c : BitVec 32) : BitVec 32 := if c.getLsbD 0 then (c >>> 1) ^^^ 0xEDB88320#32 else c >>> 1

/-- The register after one byte. -/
def crc32Byte (c : BitVec 32) (b : Byte) : BitVec 32 :=
  crc32Step (crc32Step (crc32Step (crc32Step (crc32Step (crc32Step (crc32Step (crc32Step (c ^^^ b.zeroExtend 32))))))))

/-- CRC-32 with the IEEE 802.3 polynomial (R336), in the form of that standard: reflected, all ones before and complemented after (PRESUMED, log
entry 136). -/
def crc32 (bs : List Byte) : BitVec 32 := ~~~(bs.foldl crc32Byte 0xFFFFFFFF#32)

end Sys2Proof.Machine
end

