-- ==== Sys2Proof/Machine/Flags.lean ====
section
/-! DEFINITION. The fields of a command record (R63–R68): flags byte, mode word, sync word, operand references, and the checks
that every record passes before it runs (R7, R66, R71). -/
namespace Sys2Proof.Machine

/-- A record from its 64 bytes (R63). -/
def Record.ofBytes (b : List Byte) : Record :=
  { op := BitVec.ofNat 8 (le b 0 1), flags := BitVec.ofNat 8 (le b 1 1), tag := BitVec.ofNat 16 (le b 2 2),
    mode := BitVec.ofNat 32 (le b 4 4), sync := BitVec.ofNat 64 (le b 8 8), p0 := BitVec.ofNat 64 (le b 16 8),
    p1 := BitVec.ofNat 64 (le b 24 8), p2 := BitVec.ofNat 64 (le b 32 8), p3 := BitVec.ofNat 64 (le b 40 8),
    stream := BitVec.ofNat 32 (le b 48 4), opflags := BitVec.ofNat 32 (le b 52 4), imm := BitVec.ofNat 64 (le b 56 8) }

/-- The 64 bytes of a record (R63). -/
def Record.bytes (r : Record) : List Byte :=
  leBytes 1 r.op.toNat ++ leBytes 1 r.flags.toNat ++ leBytes 2 r.tag.toNat ++ leBytes 4 r.mode.toNat ++ leBytes 8 r.sync.toNat
    ++ leBytes 8 r.p0.toNat ++ leBytes 8 r.p1.toNat ++ leBytes 8 r.p2.toNat ++ leBytes 8 r.p3.toNat
    ++ leBytes 4 r.stream.toNat ++ leBytes 4 r.opflags.toNat ++ leBytes 8 r.imm.toNat

namespace Record

/-- Flags byte (R64). -/
def cr (r : Record) : Bool := bit r.flags.toNat 0
def evt (r : Record) : Bool := bit r.flags.toNat 1
def cont (r : Record) : Bool := bit r.flags.toNat 2

/-- Mode word (R65). -/
def accMode (r : Record) : Nat := fld r.mode.toNat 31 29
def outMode (r : Record) : Nat := fld r.mode.toNat 28 26
def rsrc (r : Record) : Nat := fld r.mode.toNat 25 24
def gsize (r : Record) : Nat := fld r.mode.toNat 23 22
def slog (r : Record) : Nat := fld r.mode.toNat 21 18

/-- Sync word (R66). -/
def waitEn (r : Record) : Bool := bit r.sync.toNat 63
def waitCtr (r : Record) : Nat := fld r.sync.toNat 62 57
def waitThr (r : Record) : Nat := fld r.sync.toNat 56 41
def sigEn (r : Record) : Bool := bit r.sync.toNat 40
def sigCtr (r : Record) : Nat := fld r.sync.toNat 39 34
def sigTgt (r : Record) : Nat := fld r.sync.toNat 33 32
def sigCore (r : Record) : Nat := fld r.sync.toNat 31 22
def sigInc (r : Record) : Nat := fld r.sync.toNat 21 14
def treg (r : Record) : Bool := bit r.sync.toNat 13

/-- Operation flags of the scalar class (R68). -/
def sub (r : Record) : Nat := fld r.opflags.toNat 19 15
def rb (r : Record) : Nat := fld r.opflags.toNat 14 10
def ra (r : Record) : Nat := fld r.opflags.toNat 9 5
def rd (r : Record) : Nat := fld r.opflags.toNat 4 0

end Record

/-- The queue an opcode runs in (R69); none for the sequencer's own records and for codes that do not exist. -/
def queueOf (op : Nat) : Option Queue :=
  if op = 0x20 ∨ op = 0x21 then some .load
  else if op = 0x28 ∨ op = 0x29 ∨ op = 0x2A then some .store
  else if 0x30 ≤ op ∧ op ≤ 0x3A then some .matrix
  else if 0x40 ≤ op ∧ op ≤ 0x43 then some .vector
  else none

/-- Opcodes of the sequencer (R69). -/
def isScalarOp (op : Nat) : Bool := decide (op ≤ 0x0E)
/-- Whether an opcode exists (R69, R70). -/
def opExists (op : Nat) : Bool := isScalarOp op || (queueOf op).isSome

/-- Cores that a signal reaches (R66): own core, the named core, or the aligned group of 2^SLOG cores. -/
def sigCores (r : Record) (c : Nat) : List Nat :=
  if r.sigTgt = 0 then [c]
  else if r.sigTgt = 1 then [r.sigCore]
  else
    let g := 2 ^ r.slog
    (List.range g).map (c / g * g + ·)

/-- Flags, mode, sync and signal fields that every record checks (R64–R66): true where the record must complete with `ST_STATE`. -/
def commonBad (e : Env) (r : Record) : Bool :=
  fld r.flags.toNat 7 3 != 0 || fld r.mode.toNat 17 0 != 0 || fld r.sync.toNat 12 0 != 0
    || (r.sigEn && (r.sigTgt == 3 || r.sigInc == 0 || (r.sigTgt == 2 && decide (10 < r.slog))
        || !(sigCores r e.c).all e.inGroup))

/-- Fields of the mode word of a record that rounds (R39, R65): codes 4–6 and random source 2 are refused. -/
def modeBad (r : Record) : Bool :=
  decide (4 ≤ r.accMode ∧ r.accMode ≤ 6) || decide (4 ≤ r.outMode ∧ r.outMode ≤ 6) || r.rsrc == 2

/-- Fields of COLL (R349, R350). -/
def clGroup (r : Record) : Nat := fld r.opflags.toNat 23 18
def clKind (r : Record) : Nat := fld r.opflags.toNat 17 15
def clAvg (r : Record) : Bool := bit r.opflags.toNat 14
def clSrc (r : Record) : Nat := fld r.opflags.toNat 13 2

/-- Accumulation mode with code 7 taken from 0x3400:01 (R39). -/
def accRm (w : World) (r : Record) : Rm := (Rm.ofCode (if r.accMode = 7 then w.nums.accMode else r.accMode)).getD .rne
/-- Output mode with code 7 taken from 0x3400:02 (R39). -/
def outRm (w : World) (r : Record) : Rm := (Rm.ofCode (if r.outMode = 7 then w.nums.outMode else r.outMode)).getD .rne
/-- Whether the record draws from the positional source (R65: RSRC 3 takes 0x3400:03). -/
def isPositional (w : World) (r : Record) : Bool := (if r.rsrc = 3 then w.nums.rsrc else r.rsrc) == 0

/-- The source of random bits of a record that starts now: the context's seed, the record's stream id, the core's generator. -/
def rngOf (w : World) (e : Env) (r : Record) (positional : Bool) : Rng :=
  { positional, seed := (w.ctx e.n).seed, tid := r.stream.toNat, gen := (w.core e.c).stream }

/-- What a record leaves of its source: the generator of its core, words counted (0x3E00:01). -/
def World.putRng (w : World) (c : Nat) (g : Rng) : World :=
  if g.used = 0 then w
  else
    let w := w.setCore c { w.core c with stream := g.gen }
    { w with nums := { w.nums with words := bump 64 w.nums.words g.used } }

/-- Group size G for operands whose wider format is given (R30): 0 when G = 16 meets FP32 or PS36. -/
def groupSize (gsize : Nat) (f1 f2 : Nat) : Nat :=
  let wide := f1 == 0 || f2 == 0 || f1 == 12 || f2 == 12
  let mid := f1 == 1 || f1 == 2 || f2 == 1 || f2 == 2
  if gsize = 0 then (if wide then 4 else if mid then 8 else 16)
  else if gsize = 1 then 4 else if gsize = 2 then 8 else if wide then 0 else 16

/-- Whether two operand formats may meet (R24): FP32 with an 8-bit or narrower format may not. -/
def pairBad (f1 f2 : Nat) : Bool := (f1 == 0 && fmtNarrow f2) || (f2 == 0 && fmtNarrow f1)

/-- Operand fields that a record leaves unused must be zero (R68, R7). -/
def unusedBad (r : Record) (u0 u1 u2 u3 : Bool) : Bool :=
  (u0 && r.p0 != 0) || (u1 && r.p1 != 0) || (u2 && r.p2 != 0) || (u3 && r.p3 != 0)

end Sys2Proof.Machine
end

