-- ==== Sys2Proof/Machine/Operands.lean ====
section
/-! DEFINITION. Operand references and tensor descriptors (R67, R129–R161): every operand form, addresses, scale arrays,
extents, and reading an element with its scale, fill and poison. -/
namespace Sys2Proof.Machine

/-! ## Operand references (R67) -/

/-- An operand as the record finds it at its start: absent, formed badly under IND or with a reserved bit, on a page that
faults, or a block of bytes with its poison. -/
inductive Opd where
  | none
  | bad
  | fault (status : Nat)
  | at_ (space addr : Nat) (bytes : List Byte) (poison : Bool)
  deriving DecidableEq, Repr

/-- Space of a reference. -/
def refSpace (p : Word) : Nat := fld p.toNat 63 62
/-- Reserved bits of a reference. -/
def refReserved (p : Word) : Bool := fld p.toNat 55 48 != 0 || fld p.toNat 5 0 != 0
/-- Address of a reference, with the register value captured at dispatch under IND (R67, R82). R67 gives their sum no width: the model takes it
modulo 2^64, the width of a register (DESIGN CHOICE, log entry 122). -/
def refAddr (p ind : Word) : Nat :=
  let a := fld p.toNat 47 6 * 64
  if bit p.toNat 61 then (a + ind.toNat) % 2 ^ 64 else a

/-- Bytes of an operand space (R67). -/
def spaceSize : Nat → Nat
  | 0 => 2 ^ 48
  | 2 => 0x200000
  | 3 => 0x20000
  | _ => 0x60000

/-- Whether a reference is well formed for a block of `n` bytes. -/
def refOk (p ind : Word) (n : Nat) : Bool :=
  !refReserved p && decide (refAddr p ind % 64 = 0) && decide (refAddr p ind + n ≤ spaceSize (refSpace p))

/-- The first byte that a byte range touches in each of its pages. -/
def pagesOf (a n : Nat) : List Nat :=
  if n = 0 then [] else
    (List.range ((a + n - 1) / 0x10000 - a / 0x10000 + 1)).map fun i => if i = 0 then a else (a / 0x10000 + i) * 0x10000

/-- One more address among those that stand for their pages: pages rising, each by the lowest address. -/
def insertPage (a : Nat) : List Nat → List Nat
  | [] => [a]
  | b :: t =>
    if a / 0x10000 < b / 0x10000 then a :: b :: t
    else if a / 0x10000 = b / 0x10000 then min a b :: t
    else b :: insertPage a t

/-- The pages of byte ranges in increasing order, each by the first byte touched in it. -/
def pagesOfSpans (l : List (Nat × Nat)) : List Nat :=
  l.foldl (fun acc s => (pagesOf s.1 s.2).foldl (fun acc a => insertPage a acc) acc) []

/-- How a core asks for a translation (R282): a read. -/
def coreSource (c access : Nat) : XSource := ⟨access, 0, c, dieOfCore c⟩

/-- Pages translated for a core through its cluster's TLB; a fault is reported (R279–R282). -/
def World.xlatePages (w : World) (e : Env) (wr : Bool) (pages : List Nat) : Except Nat (List (Nat × Nat)) × World :=
  let r := (w.walker (e.c / 16)).pages w.hbm.mem e.r.root e.n wr pages
  let w := w.putWalker (e.c / 16) e.n r.2
  match r.1 with
  | .ok l => (.ok l, w)
  | .error f => (.error f.2.status, w.reportFault e.n f.1 f.2 (coreSource e.c (if wr then 1 else 0)))

/-- A block of bytes that a record reads when it starts: descriptor, list, table or header (R82). A poisoned block raises one
UE-contained record: that of a new uncorrectable error, or, where every poisoned word was marked before, one that names the block. Blocks
in HBM are read past the Shared Activation Cache, for records of the load engine too: R15 and R117 do not say whether such a fetch is a
load-engine read (DESIGN CHOICE, log entry 94). -/
def World.fetchBlock (w : World) (e : Env) (space a n : Nat) : Opd × World :=
  if space = 0 then
    match w.xlatePages e false (pagesOf a n) with
    | (.error st, w) => (.fault st, w)
    | (.ok pages, w) =>
      let blks := (wordsOf 64 a n).map fun b => physOf pages (64 * b) / 64
      let bs := (List.range n).map fun i => Cells.get w.hbm.mem.cells (physOf pages (a + i))
      let bad := blks.any w.hbm.mem.bad
      let fresh := blks.any fun b => (w.hbm.mem.upset b).any Upset.fatal
      let w := (w.meetBus (some e.n) blks).readBlocks (some e.n) blks
      let p := physOf pages a
      (.at_ space a bs bad,
        if bad && !fresh then
          w.raise clsUe uHbm stPoison (stackOf p) (some e.n) (dieOfStack (stackOf p)) p
            [BitVec.ofNat 8 (chanOf p).1, BitVec.ofNat 8 (chanOf p).2, 0]
        else w)
  else
    let m := memOfSpace space
    let k := (w.core e.c).mem m
    let ws := wordsOf 16 a n
    let bad := ws.any k.bad
    let fresh := ws.any fun b => (k.upset b).any Upset.fatal
    let w1 := w.touch e.c (some e.n) m ws
    (.at_ space a (Cells.read k.cells a n) bad,
      if bad && !fresh then
        w1.raise clsUe (memUnit m) stPoison e.c (some e.n) (dieOfCore e.c) a [BitVec.ofNat 8 (w.core e.c).phys, 0xFF]
      else w1)

/-- The block that a reference locates. -/
def World.fetchRef (w : World) (e : Env) (p ind : Word) (n : Nat) : Opd × World :=
  if p = 0 then (.none, w) else if refOk p ind n then w.fetchBlock e (refSpace p) (refAddr p ind) n else (.bad, w)

/-! ## Descriptors (R129–R136) -/

/-- A tensor descriptor, field by field. -/
structure Desc where
  space : Nat
  fmt : Nat
  rank : Nat
  noalloc : Bool
  history : Bool
  qsrf : Bool
  mxdim : Nat
  base : Nat
  size : List Nat
  slot : Nat
  brim0 : Nat
  brim1 : Nat
  valid0 : Nat
  valid1 : Nat
  qfmt : Nat
  fill : Nat
  bound : Nat
  stride : List Nat
  w7 : Nat
  /-- a reserved bit is set or a field names nothing (R7, R130–R136) -/
  bad : Bool
  deriving DecidableEq, Repr

/-- Format that the scale array of a descriptor serves: QFMT where set, else FMT (R133, R152). -/
def Desc.scFmt (d : Desc) : Nat := if d.qfmt = 0 then d.fmt else d.qfmt
/-- Space and address of the scale array (R133). -/
def Desc.sspace (d : Desc) : Nat := fld d.w7 63 62
def Desc.saddr (d : Desc) : Nat := fld d.w7 47 0
/-- Whether the descriptor has a scale array. -/
def Desc.scaled (d : Desc) : Bool := fmtScaled d.scFmt && d.space != 4

/-- Bytes of a descriptor as its eight words (R129). -/
def Desc.ofBytes (b : List Byte) : Desc :=
  let w0 := le b 0 8
  let w1 := le b 8 8
  let w2 := le b 16 8
  let w3 := le b 24 8
  let w4 := le b 32 8
  let w5 := le b 40 8
  let w6 := le b 48 8
  let w7 := le b 56 8
  let space := fld w0 63 61
  let fmt := fld w0 60 56
  let rank := fld w0 55 53
  let qfmt := fld w3 44 40
  let m1 : List Nat := [fld w1 19 0, fld w1 39 20, fld w1 59 40, fld w2 19 0, fld w2 39 20]
  let stride : List Nat := [0, fld w5 31 0, fld w5 63 32, fld w6 31 0, fld w6 63 32]
  let scaled := fmtScaled fmt || fmtScaled qfmt
  let beyond := (List.range 5).any fun d => decide (rank ≤ d) && (nth m1 d != 0 || nth stride d != 0)
  let w7bad :=
    if space = 4 then fld w7 47 42 != 0 || fld w7 31 3 != 0
    else if scaled then decide (2 ≤ fld w7 63 62) || fld w7 61 48 != 0
    else w7 != 0
  { space, fmt, rank, noalloc := bit w0 52, history := bit w0 51, qsrf := bit w0 50, mxdim := fld w0 49 49, base := fld w0 47 0,
    size := m1.map (· + 1), slot := fld w2 63 52, brim0 := fld w2 45 40, brim1 := fld w2 51 46, valid0 := fld w3 19 0 + 1,
    valid1 := fld w3 39 20 + 1, qfmt, fill := fld w4 63 32, bound := fld w4 31 0, stride, w7,
    bad := decide (5 ≤ space) || decide (16 < fmt) || rank == 0 || decide (6 ≤ rank) || bit w0 48 || fld w1 63 60 != 0
      || fld w3 63 45 != 0 || !(qfmt == 0 || decide (3 ≤ qfmt ∧ qfmt ≤ 11)) || w7bad || beyond
      || (rank == 1 && (fld w3 39 20 != 0 || fld w2 51 46 != 0))
      || (decide (fmtBits fmt < 32) && fld w4 63 32 >>> fmtBits fmt != 0) }

/-- Base, a stride or the scale array off a multiple of 64 (R139). -/
def Desc.misaligned (d : Desc) : Bool :=
  d.base % 64 != 0 || d.stride.any (· % 64 != 0) || (d.scaled && d.saddr % 64 != 0)

/-- Size along a dimension. -/
def Desc.sz (d : Desc) (i : Nat) : Nat := d.size.getD i 1
/-- Elements of the iteration shape. -/
def Desc.elems (d : Desc) : Nat := d.size.foldl (· * ·) 1
/-- Bits of an element. -/
def Desc.bits (d : Desc) : Nat := fmtBits d.fmt

/-- The coordinates of a shape in row-major order, dimension 0 innermost. -/
def coordsOf : List Nat → List (List Nat)
  | [] => [[]]
  | s :: rest => (coordsOf rest).flatMap fun t => (List.range s).map fun i => i :: t

/-- Row-major index of coordinates over a shape, dimension 0 innermost. -/
def rowMajor : List Nat → List Nat → Nat
  | s :: ss, i :: is => i + s * rowMajor ss is
  | _, _ => 0

/-- Memory coordinates of iteration coordinates: dimensions 0 and 1 less their Brim (R137). A coordinate below zero is none. -/
def Desc.memCoords (d : Desc) (i : List Nat) : Option (List Nat) :=
  let i0 := nth i 0
  let i1 := nth i 1
  if i0 < d.brim0 ∨ i1 < d.brim1 then none else some ((i0 - d.brim0) :: (i1 - d.brim1) :: i.drop 2)

/-- Whether memory coordinates lie in the valid region (R140). -/
def Desc.inValid (d : Desc) (x : List Nat) : Bool := decide (nth x 0 < d.valid0) && decide (nth x 1 < d.valid1)

/-- Bit address of memory coordinates (R137, R138). -/
def Desc.bitAddr (d : Desc) (x : List Nat) : Nat :=
  8 * (d.base + sumN ((List.range 5).map fun k => if k = 0 then 0 else nth x k * d.stride.getD k 0)) + nth x 0 * d.bits

/-- Whether an element is out of bounds under BOUND (R143). -/
def Desc.beyondBound (d : Desc) (x : List Nat) : Bool :=
  d.bound != 0 && decide (d.base + 64 * d.bound < (d.bitAddr x + d.bits + 7) / 8)

/-- Row-major index of the outer memory coordinates (R153). -/
def Desc.outer (d : Desc) (x : List Nat) : Nat := nth x 2 + d.sz 2 * (nth x 3 + d.sz 3 * nth x 4)

/-- Entry of the scale array that serves memory coordinates (R153). -/
def Desc.scaleIdx (d : Desc) (x : List Nat) : Nat :=
  if fmtTile d.scFmt then (d.outer x * cdiv d.valid1 64 + nth x 1 / 64) * cdiv d.valid0 64 + nth x 0 / 64
  else if d.mxdim = 0 then (d.outer x * d.valid1 + nth x 1) * cdiv d.valid0 32 + nth x 0 / 32
  else (d.outer x * cdiv d.valid1 32 + nth x 1 / 32) * d.valid0 + nth x 0

/-- Entries of the scale array. -/
def Desc.scaleCount (d : Desc) : Nat :=
  let o := d.sz 2 * d.sz 3 * d.sz 4
  if fmtTile d.scFmt then o * cdiv d.valid1 64 * cdiv d.valid0 64
  else if d.mxdim = 0 then o * d.valid1 * cdiv d.valid0 32
  else o * cdiv d.valid1 32 * d.valid0

/-! ## Extents (R158, R144) -/

/-- A region [lo, hi) of a space. -/
structure Extent where
  space : Nat
  lo : Nat
  hi : Nat
  deriving DecidableEq, Repr

def Extent.empty (x : Extent) : Bool := decide (x.hi ≤ x.lo)

/-- Whether two extents intersect (R159). -/
def Extent.meets (a b : Extent) : Bool :=
  a.space == b.space && a.space != 4 && !a.empty && !b.empty && decide (a.lo < b.hi) && decide (b.lo < a.hi)

/-- Extent of a descriptor; `idx` gives the index range of an indexed dimension (R158). -/
def Desc.extent (d : Desc) (idx : Option (Nat × Nat)) : Extent :=
  let count (k : Nat) : Nat :=
    match idx with
    | some (g, r) => if g = k then r else
        if k = 0 then min d.valid0 (d.sz 0 - d.brim0) else if k = 1 then min d.valid1 (d.sz 1 - d.brim1) else d.sz k
    | none => if k = 0 then min d.valid0 (d.sz 0 - d.brim0) else if k = 1 then min d.valid1 (d.sz 1 - d.brim1) else d.sz k
  if (List.range 5).any fun k => count k == 0 then ⟨d.space, d.base, d.base⟩
  else
    let span := sumN ((List.range 5).map fun k => if k = 0 then 0 else (count k - 1) * d.stride.getD k 0)
    let hi := alignUp (d.base + span + cdiv (count 0 * d.bits) 8) 64
    ⟨d.space, d.base, if d.bound = 0 then hi else min hi (d.base + 64 * d.bound)⟩

/-- Extent of a descriptor's scale array; empty without one. -/
def Desc.scaleExtent (d : Desc) : Extent :=
  if d.scaled then ⟨d.sspace, d.saddr, alignUp (d.saddr + d.scaleCount) 64⟩ else ⟨d.sspace, 0, 0⟩

/-- Whether an extent runs past its space (R144); a remote window is checked by R125. -/
def Extent.past (x : Extent) : Bool := x.space != 4 && !x.empty && decide (spaceSize x.space < x.hi)

/-- Whether a descriptor's extents run past their spaces. -/
def Desc.past (d : Desc) (idx : Option (Nat × Nat)) : Bool := (d.extent idx).past || d.scaleExtent.past

/-! ## Reading (R140–R143, R154) -/

/-- Bytes of a space with their poison, DVAs through translated pages. -/
def World.rdByte (w : World) (c : Nat) (pages : List (Nat × Nat)) (space a : Nat) : Byte :=
  if space = 0 then Cells.get w.hbm.mem.cells (physOf pages a) else Cells.get ((w.core c).mem (memOfSpace space)).cells a

/-- The poison marking of a line that a request of a load engine finds in its die's cache, or in a fill on which it merges (R115, R117). -/
def Die.copyOf (d : Die) (line : Nat) : Option (List Nat) :=
  match (Tab.get {} d.sets (sacIndex line) : SacSet).ways.find? (holdsLine line) with
  | some x => x.map (·.bad)
  | none => (d.fills.find? fun f => f.line == line && !f.dropped && decide (f.merged < 64)).map (·.bad)

/-- Whether a byte of a space is delivered with the poison tag; `sac` for a read through the cache of the core's die (R117). -/
def World.rdPoison (w : World) (c : Nat) (pages : List (Nat × Nat)) (sac : Bool) (space a : Nat) : Bool :=
  if space = 0 then
    let b := physOf pages a / 64
    match (if sac then (w.die (dieOfCore c)).copyOf (b / 4) else none) with
    | some bad => decide (b % 4 ∈ bad)
    | none => w.hbm.mem.bad b
  else ((w.core c).mem (memOfSpace space)).bad (a / 16)

/-- Bits of a space at a bit address, with their poison. -/
def World.rdBits (w : World) (c : Nat) (pages : List (Nat × Nat)) (sac : Bool) (space at_ n : Nat) : Nat × Bool :=
  let a := at_ / 8
  let k := (at_ % 8 + n + 7) / 8
  let bs := (List.range k).map fun i => w.rdByte c pages space (a + i)
  ((leNat bs >>> (at_ % 8)) % 2 ^ n, (List.range k).any fun i => w.rdPoison c pages sac space (a + i))

/-- An element as read: bits, poison, whether it is a fill element, and its scale byte. -/
structure Elem where
  raw : Nat
  poison : Bool := false
  fill : Bool := false
  sc : Option Nat := none
  deriving DecidableEq, Repr

/-- Scale 2^0 of a scaled format (R143): tile exponent 0, MX scale 0x7F. -/
def unitScale (f : Nat) : Nat := if fmtMx f then 0x7F else 0

/-- Value of an element of a format with its scale (R22, R23); PS36 elements bring their tags. -/
def Elem.val (f : Nat) (e : Elem) : Val :=
  if f = 12 then { psDecode e.raw with poison := (psDecode e.raw).poison || e.poison }
  else
    let x := decElem f e.raw
    let s := e.sc.getD (unitScale f)
    let n :=
      if fmtTile f then x.scale (-(sx 8 s))
      else if fmtMx f then (if s = 0xFF then .nan else x.scale ((s : Int) - 127))
      else x
    { n := n, poison := e.poison }

/-- The bits that a fill element reads: FILL, widened from F32 for PS36 (R132). -/
def Desc.fillRaw (d : Desc) : Nat := if d.fmt = 12 then psEncode { n := decElem 0 d.fill } else d.fill % 2 ^ d.bits

/-- A tensor as a record reads it: descriptor, translated pages, whether a load engine reads it through its die's cache (R117). -/
structure Src where
  d : Desc
  pages : List (Nat × Nat) := []
  sac : Bool := false
  /-- the starting scales that a stopped record took at its start, by scale index (R82) -/
  held : Option (List (Nat × Int)) := none
  deriving DecidableEq, Repr

/-- The scale byte of memory coordinates, with its poison. -/
def World.scaleAt (w : World) (c : Nat) (s : Src) (x : List Nat) : Nat × Bool :=
  w.rdBits c s.pages s.sac s.d.sspace (8 * (s.d.saddr + s.d.scaleIdx x)) 8

/-- The element at memory coordinates of the valid region: fill where BOUND drops it, memory else, with its scale (R143).
The scale byte of the stored format is read only where FMT itself is scaled. -/
def World.elemAt (w : World) (c : Nat) (s : Src) (x : List Nat) : Elem :=
  let sc := if fmtScaled s.d.fmt then w.scaleAt c s x else (0, false)
  let scale := if fmtScaled s.d.fmt then some sc.1 else none
  if s.d.beyondBound x then { raw := s.d.fillRaw, poison := sc.2, fill := true, sc := scale }
  else
    let b := w.rdBits c s.pages s.sac s.d.space (s.d.bitAddr x) s.d.bits
    { raw := b.1, poison := b.2 || sc.2, sc := scale }

/-- The element at iteration coordinates: Brim reads as zeros (R140). -/
def World.elemIter (w : World) (c : Nat) (s : Src) (i : List Nat) : Elem :=
  match s.d.memCoords i with
  | none => { raw := 0 }
  | some x => if s.d.inValid x then w.elemAt c s x else { raw := 0 }

/-- Byte ranges (address, count) that reading the element at iteration coordinates touches in the tensor's space. -/
def Desc.readSpan (d : Desc) (i : List Nat) : List (Nat × Nat) :=
  match d.memCoords i with
  | none => []
  | some x =>
    if d.inValid x && !d.beyondBound x then [(d.bitAddr x / 8, (d.bitAddr x % 8 + d.bits + 7) / 8)] else []

/-- Whether reading the element at iteration coordinates meets BOUND (R143). -/
def Desc.readsFill (d : Desc) (i : List Nat) : Bool :=
  match d.memCoords i with
  | none => false
  | some x => d.inValid x && d.beyondBound x

/-- ECC words or blocks of byte ranges, each once, rising. -/
def wordsOfSpans (ws : Nat) (l : List (Nat × Nat)) : List Nat :=
  l.foldl (fun acc s => (wordsOf ws s.1 s.2).foldl (fun acc k => insertNat k acc) acc) []

/-- Byte ranges of the scale entries that memory coordinates use. -/
def Desc.scaleSpans (d : Desc) (xs : List (List Nat)) : List (Nat × Nat) :=
  if d.scaled then xs.map fun x => (d.saddr + d.scaleIdx x, 1) else []

/-! ## Shared Activation Cache reads (R115–R118) -/

/-- The tree pseudo-LRU bits of a set after a use of a way: each node on the way's path points away from it. -/
def plruUse (bits way : Nat) : Nat :=
  let n1 := way / 8
  let n2 := way / 4
  let n3 := way / 2
  let put (b i v : Nat) : Nat := b - b % 2 ^ (i + 1) + (if v = 1 then 2 ^ i else 0) + b % 2 ^ i
  let b := put bits 0 (1 - n1 % 2)
  let b := put b (1 + n1) (1 - n2 % 2)
  let b := put b (3 + n2) (1 - n3 % 2)
  put b (7 + n3) (1 - way % 2)

/-- The way that the tree points to. -/
def plruVictim (bits : Nat) : Nat :=
  let a := fld bits 0 0
  let b := 2 * a + fld bits (1 + a) (1 + a)
  let c := 2 * b + fld bits (3 + b) (3 + b)
  2 * c + fld bits (7 + c) (7 + c)

/-- One request of a load engine for a line: a hit uses its way, a miss merges with a fill in progress or starts one, with the poison marking
of the line as it is read. -/
def Die.request (d : Die) (line : Nat) (bad : List Nat) : Die :=
  let i := sacIndex line
  let v : SacSet := Tab.get {} d.sets i
  match v.ways.findIdx? (holdsLine line) with
  | some way => { d with hits := bump 64 d.hits 1, sets := d.sets.set i { v with plru := plruUse v.plru way } }
  | none =>
    let d := { d with misses := bump 64 d.misses 1 }
    match d.fills.findIdx? fun f => f.line == line && !f.dropped && decide (f.merged < 64) with
    | some k => { d with fills := d.fills.modify k fun f => { f with merged := f.merged + 1 } }
    | none => { d with fills := d.fills ++ [({ line, bad } : SacFill)] }

/-- One line asked for by the load engine of core c (R115, R117): a line held or being filled makes no HBM access; else the whole line is
read, and its fill starts unless a read of it fails on the bus. -/
def World.loadLine (w : World) (c : Nat) (n : Option Nat) (line : Nat) : World :=
  let d := dieOfCore c
  match (w.die d).copyOf line with
  | some _ => w.setDie d ((w.die d).request line [])
  | none =>
    let blks := (List.range 4).map (4 * line + ·)
    let bad := (List.range 4).filter fun i => w.hbm.mem.bad (4 * line + i)
    let w1 := (w.meetBus n blks).readBlocks n blks
    w1.setDie d (if w.busHits blks then { w1.die d with misses := bump 64 (w1.die d).misses 1 } else (w1.die d).request line bad)

/-- Reads of HBM blocks by the load engine of core c (R117): through the die's cache unless the descriptor says NOALLOC. -/
def World.loadBlocks (w : World) (c : Nat) (n : Option Nat) (noalloc : Bool) (blks : List Nat) : World :=
  if noalloc then (w.meetBus n blks).readBlocks n blks
  else (blks.foldl (fun acc b => insertNat (b / 4) acc) []).foldl (fun w l => w.loadLine c n l) w

/-- The effects of reading byte ranges of a space by a record of core c. -/
def World.readSpans (w : World) (e : Env) (pages : List (Nat × Nat)) (space : Nat) (noalloc : Bool) (l : List (Nat × Nat)) : World :=
  if space = 0 then
    w.loadBlocks e.c (some e.n) noalloc ((wordsOfSpans 64 l).map fun b => physOf pages (64 * b) / 64)
  else w.touch e.c (some e.n) (memOfSpace space) (wordsOfSpans 16 l)

/-- A bit write cut into bytes, for a write that crosses a page. -/
def BitWrite.cut (b : BitWrite) : List BitWrite :=
  (List.range b.span.2).map fun i =>
    let lo := max b.at_ (8 * (b.span.1 + i))
    let hi := min (b.at_ + b.w) (8 * (b.span.1 + i + 1))
    { at_ := lo, w := hi - lo, v := (b.v >>> (lo - b.at_)) % 2 ^ (hi - lo), poison := b.poison }

/-- Writes at DVAs as writes at physical addresses. -/
def physWrites (pages : List (Nat × Nat)) (bs : List BitWrite) : List BitWrite :=
  bs.flatMap fun b =>
    if (b.span.1 + b.span.2 - 1) / 0x10000 = b.span.1 / 0x10000 then [b.phys pages] else b.cut.map fun x => x.phys pages

/-- Writes of a record of core c into a space. -/
def World.writeSpace (w : World) (e : Env) (pages : List (Nat × Nat)) (space : Nat) (bs : List BitWrite) : World :=
  if bs.isEmpty then w
  else if space = 0 then
    let bs := physWrites pages bs
    (w.meetBus (some e.n) (touchedWords 64 bs)).writeHbm (some e.n) bs
  else w.writeCore e.c (some e.n) (memOfSpace space) bs

end Sys2Proof.Machine
end

