-- ==== Sys2Proof/Machine/Convert.lean ====
section
/-! DEFINITION. The conversion into a destination format (R23, R28, R46–R55): plain rounding, tile scales with rescale retries,
MX blocks, poison, and the statistics slots. -/
namespace Sys2Proof.Machine

/-- An element to be converted: destination memory coordinates, logical position of its draws, value; its bits where it is copied unchanged. -/
structure CElem where
  x : List Nat
  pos : Nat
  v : Val
  raw : Option Nat := none
  deriving DecidableEq, Repr

/-- What a conversion gives: element bits in the order of the elements, scale bytes by entry, the random source after it, and
what it counts. -/
structure Conv where
  out : List BitWrite := []
  scales : List (Nat × Nat) := []
  rng : Rng
  retries : Nat := 0
  satTiles : List Nat := []
  clamped : Nat := 0
  amaxs : List Dy := []
  last : Option Int := none
  poison : Bool := false
  /-- tiles of which an element overflowed at the starting scale -/
  again : List Nat := []
  deriving Repr

/-- Elements grouped by a key, groups in the order of their first element, elements in order (R246). -/
def groupByKey {α : Type} (key : α → Nat) : List α → List (Nat × List α)
  | [] => []
  | a :: as =>
    let rest := groupByKey key as
    let mine := (rest.find? fun g => g.1 = key a).map (·.2)
    (key a, a :: mine.getD []) :: rest.filter fun g => g.1 != key a

/-- The largest magnitude among finite values that carry no poison tag (R23, R49, R54). -/
def amaxOf (vs : List Val) : Option Dy :=
  vs.foldl (fun acc v =>
    match v.poison, v.n with
    | false, .fin d =>
      match acc with
      | some a => if a.magLt d then some { d with neg := false } else acc
      | none => some { d with neg := false }
    | _, _ => acc) none

/-- One attempt of a tile at scale s (R46): element bits, how many overflow; poisoned, infinite and NaN elements follow
R28 and R51 and are not judged. Roundings of finite elements draw in order. -/
def tileAttempt (f : Nat) (mode : Rm) (draw : Nat) (s : Int) (saturate : Bool) :
    Rng → List (Nat × CElem) → List (Nat × Nat) × Nat × Rng
  | g, [] => ([], 0, g)
  | g, (i, e) :: es =>
    let r : Nat × Nat × Rng :=
      if e.v.poison then (fmtNan f, 0, g)
      else
        match e.v.n with
        | .nan => (fmtNan f, 0, g)
        | .inf sg => (encElem f { fmtMax f with neg := sg }, 0, g)
        | .fin d =>
          let y := d.scale s
          let needs := mode.random && needsRound (fmtPrec f) (fmtQmin f) y
          let dw := if needs then g.draw e.pos draw else (0, g)
          let z := roundDy (fmtPrec f) (fmtQmin f) mode dw.1 y
          if (fmtMax f).magLt z then
            ((if saturate then encElem f { fmtMax f with neg := d.neg } else 0), 1, dw.2)
          else (encElem f z, 0, dw.2)
    let rest := tileAttempt f mode draw s saturate r.2.2 es
    ((i, r.1) :: rest.1, r.2.1 + rest.2.1, rest.2.2)

/-- Result of a tile: bits, scale used, retries made, saturated, source after it, elements clamped at scale −127. -/
structure TileRes where
  bits : List (Nat × Nat)
  s : Int
  retries : Nat
  sat : Bool
  rng : Rng
  clamped : Nat := 0
  /-- an element overflowed at the starting scale -/
  again : Bool := true
  deriving Repr

/-- ⌊log2(a × 2^s)⌋ − Emax: how far the largest magnitude of a tile lies above its format (R49). -/
def tileExcess (f : Nat) (a : Dy) (s : Int) : Int := (a.scale s).msb - fmtEmax f

/-- A tile converted with the retries of R49. The elements that step 3 clamps are counted in the statistics slot, infinities that saturate
are not (DEDUCED, log entry 56). -/
def convTile (f : Nat) (mode : Rm) (draw : Nat) (s : Int) (g : Rng) (es : List (Nat × CElem)) : TileRes :=
  let t0 := tileAttempt f mode draw s false g es
  let hasInf := es.any fun e => !e.2.v.poison && (match e.2.v.n with | .inf _ => true | _ => false)
  if t0.2.1 = 0 then { bits := t0.1, s, retries := 0, sat := hasInf, rng := t0.2.2, again := false }
  else
    let a := (amaxOf (es.map fun e => e.2.v)).getD Dy.zero
    let s1 := s - tileExcess f a s
    let floor (g : Rng) (n : Nat) : TileRes :=
      let t := tileAttempt f mode draw (-127) true g es
      { bits := t.1, s := -127, retries := n, sat := true, rng := t.2.2, clamped := t.2.1 }
    if s1 < -127 then floor t0.2.2 0
    else
      let t1 := tileAttempt f mode draw s1 false t0.2.2 es
      if t1.2.1 = 0 then { bits := t1.1, s := s1, retries := 1, sat := hasInf, rng := t1.2.2 }
      else if s1 - 1 < -127 then floor t1.2.2 1
      else
        let t2 := tileAttempt f mode draw (s1 - 1) true t1.2.2 es
        { bits := t2.1, s := s1 - 1, retries := 2, sat := hasInf, rng := t2.2.2 }

/-- NaNs that a format without NaN turns into zero (R47). -/
def nanToZero (f : Nat) (es : List CElem) : Nat :=
  if fmtHasNan f then 0 else (es.filter fun e => !e.v.poison && e.v.n == .nan).length

/-- Results of tiles put back into element order. -/
def inOrder (l : List (Nat × Nat)) : List Nat := (sortBy (fun a b => decide (a.1 ≤ b.1)) l).map (·.2)

/-- The tiles of a tile-scaled conversion, one after another. -/
def convTiles (f : Nat) (mode : Rm) (draw : Nat) (scale : Nat → Int) :
    Rng → List (Nat × List (Nat × CElem)) → List (Nat × TileRes) × Rng
  | g, [] => ([], g)
  | g, (k, es) :: ts =>
    let r := convTile f mode draw (scale k) g es
    let rest := convTiles f mode draw scale r.rng ts
    ((k, r) :: rest.1, rest.2)

/-- The scale of an MX block (R23): E8M0 byte. -/
def mxScale (f : Nat) (es : List CElem) : Nat :=
  let live := es.filter fun e => !e.v.poison
  if live.any fun e => (match e.v.n with | .fin _ => false | _ => true) then 0xFF
  else
    match amaxOf (live.map (·.v)) with
    | none => 0x7F
    | some a => if a.m = 0 then 0x7F else (max (a.msb - fmtEmax f + 127) 0).toNat

/-- The scale exponent of the last block that has one, 2^(X − 127) for the E8M0 byte X (R23, R53; DEDUCED, log entry 97). -/
def mxLast (sc : List (Nat × Nat)) : Option Int := ((sc.filter fun t => t.2 != 0xFF).getLast?).map fun t => (t.2 : Int) - 127

/-- One element of an MX block with its scale (R23): bits, whether it was clamped. -/
def mxElem (f : Nat) (mode : Rm) (word : Word) (sc : Nat) (v : Val) : Nat × Bool :=
  if sc = 0xFF ∨ v.poison then (fmtNan f, false)
  else
    match v.n with
    | .fin d =>
      let z := roundDy (fmtPrec f) (fmtQmin f) mode word (d.scale (127 - (sc : Int)))
      if (fmtMax f).magLt z then (encElem f { fmtMax f with neg := d.neg }, true) else (encElem f z, false)
    | _ => (fmtNan f, false)

/-- The elements of an MX destination in row-major order. -/
def convMx (f : Nat) (mode : Rm) (draw : Nat) (scale : CElem → Nat) : Rng → List CElem → List (Nat × Bool) × Rng
  | g, [] => ([], g)
  | g, e :: es =>
    let sc := scale e
    let needs := sc != 0xFF && !e.v.poison && mode.random &&
      (match e.v.n with | .fin d => needsRound (fmtPrec f) (fmtQmin f) (d.scale (127 - (sc : Int))) | _ => false)
    let dw := if needs then g.draw e.pos draw else (0, g)
    let rest := convMx f mode draw scale dw.2 es
    (mxElem f mode dw.1 sc e.v :: rest.1, rest.2)

/-- The elements of an FP32, BF16 or FP16 destination in row-major order. -/
def convPlains (f : Nat) (mode : Rm) (draw : Nat) : Rng → List CElem → List Nat × Rng
  | g, [] => ([], g)
  | g, e :: es =>
    let r := if e.v.poison then (fmtNan f, g) else g.convPlain f mode e.pos draw e.v.n
    let rest := convPlains f mode draw r.2 es
    (r.1 :: rest.1, rest.2)

/-- Element bits as writes at their addresses; a poisoned element marks its word, but for PS36 (R28). -/
def elemWrites (d : Desc) (es : List CElem) (bits : List Nat) : List BitWrite :=
  (es.zip bits).map fun p => ⟨d.bitAddr p.1.x, d.bits, p.2, p.1.v.poison && d.fmt != 12⟩

/-- Conversion of the written elements into a destination (R23, R28, R46–R51). `scale` is the starting scale of each tile (R48). -/
def convert (d : Desc) (f : Nat) (mode : Rm) (draw : Nat) (scale : Nat → Int) (g : Rng) (es : List CElem) : Conv :=
  let poison := es.any fun e => e.v.poison
  if f = 12 then { out := elemWrites d es (es.map fun e => psEncode e.v), rng := g, poison }
  else if fmtTile f then
    let groups := groupByKey (fun e : Nat × CElem => d.scaleIdx e.2.x) (es.zipIdx.map fun p => (p.2, p.1))
    let r := convTiles f mode draw scale g groups
    { out := elemWrites d es (inOrder (r.1.flatMap fun t => t.2.bits))
      scales := r.1.map fun t => (t.1, ux 8 t.2.s)
      rng := r.2
      retries := sumN (r.1.map fun t => t.2.retries)
      satTiles := (r.1.filter fun t => t.2.sat).map (·.1)
      clamped := nanToZero f es + sumN (r.1.map fun t => t.2.clamped)
      amaxs := groups.filterMap fun t => amaxOf (t.2.map fun e => e.2.v)
      last := (r.1.getLast?).map fun t => t.2.s
      poison
      again := (r.1.filter fun t => t.2.again).map (·.1) }
  else if fmtMx f then
    let groups := groupByKey (fun e => d.scaleIdx e.x) es
    let sc : List (Nat × Nat) := groups.map fun t => (t.1, mxScale f t.2)
    let r := convMx f mode draw (fun e => ((sc.find? fun t => t.1 = d.scaleIdx e.x).map (·.2)).getD 0x7F) g es
    { out := elemWrites d es (r.1.map (·.1))
      scales := sc
      rng := r.2
      clamped := (r.1.filter fun b => b.2).length
      amaxs := (groups.zip sc).filterMap fun t => if t.2.2 = 0xFF then none else amaxOf (t.1.2.map (·.v))
      last := mxLast sc
      poison }
  else
    let r := convPlains f mode draw g es
    { out := elemWrites d es r.1, rng := r.2, poison }

/-! ## Statistics slots (R53, R54) -/

/-- A statistics slot after a fold: counts added, amax folded into entry 0, the first fold making one entry valid (R54). -/
def foldSlot (b : List Byte) (retries sat clamped : Nat) (last : Option Int) (amaxs : List Dy) : List Byte :=
  let valid := le b 0 4
  let top := amaxs.foldl (fun acc a => max acc (f32Up a)) (le b 64 4)
  let valid' := if amaxs.isEmpty then valid else max valid 1
  leBytes 4 valid' ++ leBytes 4 (bump 32 (le b 4 4) retries) ++ leBytes 4 (bump 32 (le b 8 4) sat)
    ++ leBytes 4 (bump 32 (le b 12 4) clamped)
    ++ (match last with | some s => leBytes 1 (ux 8 s) | none => sl b 16 1)
    ++ sl b 17 47 ++ leBytes 4 (if amaxs.isEmpty then le b 64 4 else top) ++ sl b 68 252

/-- A statistics slot after an advance of the step number (R54). -/
def shiftSlot (b : List Byte) : List Byte :=
  let valid := le b 0 4
  if valid = 0 then b else leBytes 4 (min 64 (valid + 1)) ++ sl b 4 60 ++ leBytes 4 0 ++ sl b 64 252

/-- The exponent that HISTORY gives (R48), none where h is zero or no entry is valid. -/
def historyScale (w : World) (f : Nat) (b : List Byte) : Option Int :=
  let n := min (le b 0 4) w.nums.hist
  let h := (List.range n).foldl (fun acc i => max acc (le b (64 + 4 * i) 4)) 0
  match decElem 0 h with
  | .fin d => if d.m = 0 then none else some (max (-127) (min 127 (fmtEmax f - d.msb - w.nums.margin)))
  | _ => none

/-- The starting scale of each tile of a destination (R48): HISTORY where it gives one, else the scale array; a record that goes on from a
K-group boundary has those of its start. The spec gives no outcome for one that is read with the poison tag: its bits are used (DESIGN CHOICE,
log entry 159). -/
def World.startScale (w : World) (c n : Nat) (s : Src) (k : Nat) : Int :=
  let arr := sx 8 (w.rdBits c s.pages s.sac s.d.sspace (8 * (s.d.saddr + k)) 8).1
  let now := if s.d.history then (historyScale w s.d.scFmt (w.hbmBytes (statBase n s.d.slot) 320)).getD arr else arr
  match s.held with
  | some l => ((l.find? fun x => x.1 == k).map (·.2)).getD now
  | none => now

/-- The starting scales of a tensor by scale index, as a record that is stopped keeps them. -/
def World.startTable (w : World) (c n : Nat) (s : Src) (ks : List Nat) : List (Nat × Int) :=
  (ks.foldl (fun l k => insertNat k l) []).map fun k => (k, w.startScale c n s k)

/-- Whether a tensor that is converted starts from its scale array (R48): EXPLICIT, or HISTORY that gives no scale. -/
def World.usesArray (w : World) (n : Nat) (d : Desc) : Bool :=
  !d.history || (historyScale w d.scFmt (w.hbmBytes (statBase n d.slot) 320)).isNone

/-- Whether a scale entry in use holds −128 (R22). -/
def World.badScale (w : World) (c : Nat) (s : Src) (ks : List Nat) : Bool :=
  fmtTile s.d.scFmt && ks.any fun k => (w.rdBits c s.pages s.sac s.d.sspace (8 * (s.d.saddr + k)) 8).1 == 0x80

/-- Whether a tensor that is converted starts from an entry that holds −128 (R22, R48). -/
def World.badStart (w : World) (c n : Nat) (s : Src) (ks : List Nat) : Bool := w.usesArray n s.d && w.badScale c s ks

/-- Whether scale entries that a record would read hold −128, as far as they can be read before its data pages are translated (R523, check 4):
an array on a page that faults is met at check 8. Nothing is reported here. -/
def World.scaleRefused (w : World) (e : Env) (d : Desc) (ks : List Nat) : Bool :=
  fmtTile d.scFmt && d.scaled &&
    (if d.sspace = 0 then
      match ((w.walker (e.c / 16)).pages w.hbm.mem e.r.root e.n false (pagesOfSpans (ks.map fun k => (d.saddr + k, 1)))).1 with
      | .ok pages => w.badScale e.c { d, pages } ks
      | .error _ => false
    else w.badScale e.c { d } ks)

/-- The same for a tensor that is converted. -/
def World.startRefused (w : World) (e : Env) (d : Desc) (ks : List Nat) : Bool := w.usesArray e.n d && w.scaleRefused e d ks

/-- What a conversion counts in a statistics slot and part-wide (R49, R53, R54, R56). -/
def World.foldInto (w : World) (n slot : Nat) (v : Conv) : World :=
  let w := w.hbmUpdate (some n) (statBase n slot) 320 fun b => foldSlot b v.retries v.satTiles.length v.clamped v.last v.amaxs
  { w with nums := { w.nums with retries := bump 64 w.nums.retries v.retries
                                 satTiles := bump 64 w.nums.satTiles v.satTiles.length } }

/-- The same for a destination: a format without scales has no slot (R53). -/
def World.foldStats (w : World) (n slot : Nat) (f : Nat) (v : Conv) : World := if fmtScaled f then w.foldInto n slot v else w

/-- Scale bytes as writes into the scale array. -/
def scaleWrites (d : Desc) (l : List (Nat × Nat)) : List BitWrite := l.map fun p => ⟨8 * (d.saddr + p.1), 8, p.2, false⟩

/-! ## Results of a record -/

/-- What running a record gives: the world after it, its status, the count and flags of its completion record (R89). -/
structure Run where
  w : World
  st : Nat
  count : Nat := 0
  flags : Nat := 0
  /-- a matrix record stopped at a K-group boundary (R96): next K-group index, descriptors, what else it took at its start -/
  stopped : Option (Nat × List Byte × Begun) := none

/-- A refusal of R523: a status and nothing else. -/
def Run.fail (w : World) (st : Nat) : Run := { w, st }

/-- The first refusal that applies (R523). -/
def firstRefusal : List (Bool × Nat) → Option Nat
  | [] => none
  | (true, st) :: _ => some st
  | (false, _) :: rest => firstRefusal rest

/-- The record of unit 6 that names an operation (R480). -/
def World.raiseOp (w : World) (cls st : Nat) (e : Env) (idx : Nat) (r : Record) (tile : Nat) : World :=
  w.raise cls uCore st e.c (some e.n) (dieOfCore e.c) idx (leBytes 1 r.op.toNat ++ leBytes 2 r.tag.toNat ++ leBytes 2 tile)

/-- Status of a record that converted (R28, R52): poison before saturation; one CE record for each saturated tile, one
UE-contained record where poison was consumed. -/
def Run.settle (e : Env) (idx : Nat) (r : Record) (w : World) (sat : List Nat) (poison : Bool) (count flags : Nat) : Run :=
  let w := sat.foldl (fun w t => w.raiseOp clsCe stRescaleLimit e idx r t) w
  let w := if poison then w.raiseOp clsUe stPoison e idx r 0 else w
  { w, st := if poison then stPoison else if sat.isEmpty then stOk else stRescaleLimit, count, flags }

/-- Out-of-bounds counts of a core (R145) and the completion flag they set (R89). -/
def World.countOob (w : World) (c fill drop : Nat) : World :=
  if fill + drop = 0 then w
  else
    let k := w.core c
    w.setCore c { k with oobFill := bump 64 k.oobFill fill, oobDrop := bump 64 k.oobDrop drop }

def oobFlag (n : Nat) : Nat := if n = 0 then 0 else 4
def retryFlag (n : Nat) : Nat := if n = 0 then 0 else 2

end Sys2Proof.Machine
end

