-- ==== Sys2Proof/Machine/Copy.lean ====
section
/-! DEFINITION. The copy that LOAD, STORE and LOADW TILES share (R146–R165): shape, permutation, gather and scatter, the checks
in the order of R523, the translation pass, and the writes. -/
namespace Sys2Proof.Machine

/-- How a record names its copy: operation flags of R147 and the shape it iterates over. -/
structure CopyFlags where
  permen : Bool
  perm : List Nat
  gdim : Nat
  gmode : Nat
  deriving DecidableEq, Repr

def copyFlags (r : Record) : CopyFlags :=
  let f := r.opflags.toNat
  let en := bit f 22
  { permen := en
    perm := (List.range 5).map fun d => if en then fld f (3 * d + 9) (3 * d + 7) else d
    gdim := fld f 6 4
    gmode := fld f 3 2 }

/-- Destination dimension that a source dimension feeds (R148). -/
def permInv (perm : List Nat) (k : Nat) : Nat := ((List.range 5).find? fun d => nth perm d == k).getD k

/-- PERM is a permutation of 0 … RANK−1 with every further field in place (R148). -/
def permOk (perm : List Nat) (rank : Nat) : Bool :=
  (List.range 5).all fun d =>
    if d < rank then decide (nth perm d < rank) && (List.range rank).all fun e => e == d || nth perm e != nth perm d
    else nth perm d == d

/-- Conversions that LOAD performs (R149). -/
def pairOk (src dst : Nat) : Bool :=
  src == dst || (decide (src ≤ 2) && decide (dst ≤ 11)) || (decide (3 ≤ src ∧ src ≤ 11) && decide (dst ≤ 2))

/-- A copy ready to move: descriptors, flags, indices with their poison, translated pages. -/
structure Copy where
  s : Src
  d : Src
  f : CopyFlags
  idx : List (Nat × Bool)
  /-- index elements that its own BOUND dropped (R143) -/
  idxFills : Nat := 0
  deriving Repr

/-- The indexed dimension of the source under gather, of the destination under scatter. -/
def Copy.srcIdx (c : Copy) : Option Nat := if c.f.gmode = 1 then some c.f.gdim else none
def Copy.dstIdx (c : Copy) : Option Nat := if c.f.gmode = 2 then some c.f.gdim else none

/-- The shape that the record iterates over (R148, R157). -/
def Copy.shape (c : Copy) : List Nat :=
  match c.dstIdx with
  | some g => c.d.d.size.set g c.idx.length
  | none => c.d.d.size

/-- Memory coordinates where one dimension is indexed: its coordinate is the index itself (R157). -/
def Desc.memCoordsIdx (d : Desc) (g : Option Nat) (i : List Nat) : Option (List Nat) :=
  match g with
  | some k => (d.memCoords i).map fun x => x.set k (nth i k)
  | none => d.memCoords i

/-- The valid region where the indexed dimension's VALID is not used (R157). -/
def Desc.inValidIdx (d : Desc) (g : Option Nat) (x : List Nat) : Bool :=
  (g == some 0 || decide (nth x 0 < d.valid0)) && (g == some 1 || decide (nth x 1 < d.valid1))

/-- One element of a copy: destination memory coordinates, source iteration coordinates, whether its gather index selects nothing. -/
structure Mv where
  x : List Nat
  i : List Nat
  lost : Bool
  deriving DecidableEq, Repr

/-- Index of an iteration coordinate: value, and whether it selects nothing (out of range or poisoned). -/
def Copy.index (c : Copy) (range j : Nat) : Nat × Bool :=
  let e := c.idx.getD j (0, false)
  (e.1, e.2 || decide (range ≤ e.1))

/-- The element of a copy at iteration coordinates; none where a scatter index selects nothing. -/
def Copy.mv (c : Copy) (j : List Nat) : Option Mv :=
  let i := (List.range 5).map fun k => nth j (permInv c.f.perm k)
  match c.f.gmode with
  | 1 =>
    let g := c.f.gdim
    let e := c.index (c.s.d.sz g) (nth j (permInv c.f.perm g))
    some ⟨j, i.set g e.1, e.2⟩
  | 2 =>
    let g := c.f.gdim
    let e := c.index (c.d.d.sz g) (nth j g)
    if e.2 then none else some ⟨j.set g e.1, i, false⟩
  | _ => some ⟨j, i, false⟩

/-- Whether an element of a copy is written (R140, R143, R525). -/
def Copy.written (c : Copy) (m : Mv) : Bool := c.d.d.inValidIdx c.dstIdx m.x && !c.d.d.beyondBound m.x

/-- The elements that a copy writes, in row-major order of the iteration shape. -/
def Copy.moves (c : Copy) : List Mv := ((coordsOf c.shape).filterMap c.mv).filter c.written

/-- Elements dropped on write (R143): under BOUND, or by a scatter index that selects nothing. -/
def Copy.dropped (c : Copy) : Nat :=
  ((coordsOf c.shape).filter fun j =>
    match c.mv j with
    | none => c.d.d.inValidIdx c.dstIdx j
    | some m => c.d.d.inValidIdx c.dstIdx m.x && c.d.d.beyondBound m.x).length

/-- Whether a poisoned index selects an element that the copy would write, or that it drops for that reason alone (R157, R525). -/
def Copy.idxPoison (c : Copy) : Bool :=
  (coordsOf c.shape).any fun j =>
    match c.f.gmode with
    | 1 => (c.idx.getD (nth j (permInv c.f.perm c.f.gdim)) (0, false)).2 && (match c.mv j with | some m => c.written m | none => false)
    | 2 => (c.idx.getD (nth j c.f.gdim) (0, false)).2 && c.d.d.inValidIdx c.dstIdx j
    | _ => false

/-- Source memory coordinates of an element, none for Brim. -/
def Copy.srcX (c : Copy) (m : Mv) : Option (List Nat) :=
  match c.s.d.memCoordsIdx c.srcIdx m.i with
  | some x => if c.s.d.inValidIdx c.srcIdx x then some x else none
  | none => none

/-- Whether an element reads FILL (R143). -/
def Copy.isFill (c : Copy) (m : Mv) : Bool :=
  match c.srcX m with
  | some x => m.lost || c.s.d.beyondBound x
  | none => false

/-- The source element of a move: Brim zeros, fill, or memory. -/
def World.moveElem (w : World) (core : Nat) (c : Copy) (m : Mv) : Elem :=
  match c.srcX m with
  | none => { raw := 0 }
  | some x =>
    if m.lost then { raw := c.s.d.fillRaw, fill := true, sc := if fmtScaled c.s.d.fmt then some (unitScale c.s.d.fmt) else none }
    else w.elemAt core c.s x

/-- Byte ranges that the moves read in the source's space, and in its scale array. -/
def Copy.srcSpans (c : Copy) (ms : List Mv) : List (Nat × Nat) :=
  ms.filterMap fun m =>
    match c.srcX m with
    | some x =>
      if m.lost || c.s.d.beyondBound x then none
      else some (c.s.d.bitAddr x / 8, (c.s.d.bitAddr x % 8 + c.s.d.bits + 7) / 8)
    | none => none
def Copy.srcScaleSpans (c : Copy) (ms : List Mv) : List (Nat × Nat) :=
  c.s.d.scaleSpans (ms.filterMap fun m => if m.lost then none else c.srcX m)

/-- Byte ranges that the moves write, and the destination scale entries they use. -/
def Copy.dstSpans (c : Copy) (ms : List Mv) : List (Nat × Nat) :=
  ms.map fun m => (c.d.d.bitAddr m.x / 8, (c.d.d.bitAddr m.x % 8 + c.d.d.bits + 7) / 8)
def Copy.dstScaleSpans (c : Copy) (ms : List Mv) : List (Nat × Nat) := c.d.d.scaleSpans (ms.map (·.x))

/-! ## Same-format copies (R150) -/

/-- The scale of the widest range among source scales: the smallest tile exponent, the largest E8M0 scale. A cell whose written elements are all
Brim has no source cell, and R150 gives it no scale: the model takes 2^0 (DESIGN CHOICE, log entry 124). -/
def widest (f : Nat) : List Nat → Nat
  | [] => unitScale f
  | [s] => s
  | s :: t => if fmtMx f then max s (widest f t) else if sx 8 s ≤ sx 8 (widest f t) then s else widest f t

/-- An element re-encoded to another scale (R150): exact where possible, else RNE; an infinity, which every scale represents, stays; a NaN
stays the canonical NaN. -/
def reencode (f : Nat) (e : Elem) (sc : Nat) : Nat :=
  if fmtMx f && sc == 0xFF then fmtNan f
  else if e.sc = some sc ∨ e.sc = none then e.raw
  else
    match (e.val f).n with
    | .fin d =>
      let y := d.scale (if fmtMx f then 127 - (sc : Int) else sx 8 sc)
      encElem f (roundDy (fmtPrec f) (fmtQmin f) .rne 0 y)
    | .inf _ => e.raw
    | .nan => fmtNan f

/-- Whether an element that a same-format copy moves carries poison: that of its word, or its own tag in a PS36 container (R25, R165). -/
def Elem.tagged (f : Nat) (e : Elem) : Bool := e.poison || (f == 12 && (psDecode e.raw).poison)

/-- The element and scale writes of a same-format copy. -/
def Copy.same (c : Copy) (es : List (Mv × Elem)) : List BitWrite × List (Nat × Nat) :=
  let d := c.d.d
  if fmtScaled d.fmt then
    let groups := groupByKey (fun e : Mv × Elem => d.scaleIdx e.1.x) es
    let sc := groups.map fun g => (g.1, widest d.fmt (g.2.filterMap fun e => e.2.sc))
    let scOf (x : List Nat) : Nat := ((sc.find? fun t => t.1 = d.scaleIdx x).map (·.2)).getD (unitScale d.fmt)
    (es.map fun e => ⟨d.bitAddr e.1.x, d.bits, reencode d.fmt e.2 (scOf e.1.x), e.2.poison⟩, sc)
  else (es.map fun e => ⟨d.bitAddr e.1.x, d.bits, e.2.raw, e.2.poison⟩, [])

/-! ## Checks -/

/-- The descriptor of an operand, where it is one. -/
def Opd.desc : Opd → Option Desc
  | .at_ _ _ b _ => some (Desc.ofBytes b)
  | _ => Option.none
def Opd.faults : Opd → Option Nat
  | .fault st => some st
  | _ => Option.none
/-- An operand that completes its record with `ST_STATE`: a bad reference, or a poisoned block (R67, R82). -/
def Opd.isBad : Opd → Bool
  | .bad => true
  | .at_ _ _ _ p => p
  | _ => false
def Opd.isNone : Opd → Bool
  | .none => true
  | _ => false
def Opd.block : Opd → List Byte
  | .at_ _ _ b _ => b
  | _ => []
/-- First fault among operands, in the order in which they are read (R523, check 3). -/
def firstFault (l : List Opd) : Option Nat := l.findSome? Opd.faults

/-- A destination that breaks R141: Brim, or sub-byte rows that do not end on a byte. -/
def Desc.dstBad (d : Desc) : Bool :=
  d.brim0 != 0 || d.brim1 != 0
    || ((d.fmt == 5 || d.fmt == 11) && min (d.sz 0) d.valid0 % 2 != 0)
    || ((d.fmt == 9 || d.fmt == 10) && min (d.sz 0) d.valid0 % 4 != 0)

/-- An index tensor that breaks R157. -/
def Desc.indexBad (d : Desc) : Bool :=
  d.rank != 1 || !(d.fmt == 13 || d.fmt == 14) || decide (2 ≤ d.space) || d.brim0 != 0 || decide (d.valid0 < d.sz 0) || d.qfmt != 0

/-- The extents of the outer blocks of an in-place transposition are pairwise disjoint (R162). -/
def Desc.blocksDisjoint (d : Desc) : Bool :=
  let los := (coordsOf (d.size.drop 2)).map fun o =>
    d.base + nth o 0 * d.stride.getD 2 0 + nth o 1 * d.stride.getD 3 0 + nth o 2 * d.stride.getD 4 0
  let span := alignUp ((d.sz 1 - 1) * d.stride.getD 1 0 + cdiv (d.sz 0 * d.bits) 8) 64
  los.zipIdx.all fun a => los.zipIdx.all fun b => a.2 == b.2 || decide (a.1 + span ≤ b.1) || decide (b.1 + span ≤ a.1)

/-- An in-place transposition that passes the overlap check (R162). -/
def inPlaceOk (b0 b1 : List Byte) (s : Desc) (f : CopyFlags) : Bool :=
  b0 == b1 && f.perm == [1, 0, 2, 3, 4] && f.gmode == 0 && s.sz 0 == s.sz 1 && s.valid0 == s.sz 0 && s.valid1 == s.sz 0
    && decide (s.sz 0 ≤ 64) && s.brim0 == 0 && s.brim1 == 0 && decide (s.bits ≤ 32) && !fmtScaled s.fmt && s.blocksDisjoint

/-- Whether the shapes of a copy agree (R148, R157). -/
def shapesBad (s d : Desc) (f : CopyFlags) (idx : Option Desc) : Bool :=
  let n := (idx.map fun i => i.sz 0).getD 0
  let gd := permInv f.perm f.gdim
  ((List.range 5).any fun k =>
    !(f.gmode == 1 && k == gd) && !(f.gmode == 2 && k == f.gdim) && s.sz (nth f.perm k) != d.sz k)
    || (f.gmode == 1 && d.sz gd != n) || (f.gmode == 2 && s.sz (nth f.perm f.gdim) != n)

/-- Elements of the iteration shape of a copy. -/
def copyElems (d : Desc) (f : CopyFlags) (idx : Option Desc) : Nat :=
  if f.gmode = 2 then (d.size.set f.gdim ((idx.map fun i => i.sz 0).getD 1)).foldl (· * ·) 1 else d.elems

/-- What the three records that copy allow: source and destination spaces, conversion, operation flag bits of the mode field. -/
structure CopyKind where
  src : Nat → Bool
  dst : Nat → Bool
  convert : Bool
  modeBits : Nat
  store : Bool

/-- Whether a conversion of R149 rounds nothing: the same format, or the exact widening of BF16 or FP16 to FP32. -/
def copyExact (src dst : Nat) : Bool := src == dst || (dst == 0 && decide (1 ≤ src ∧ src ≤ 2))

/-- Elements of a remote destination that a write packs (R346): those of its valid region. -/
def remoteElems (d : Desc) : Nat := min (d.sz 0) d.valid0 * min (d.sz 1) d.valid1 * d.sz 2 * d.sz 3 * d.sz 4

/-- A remote write that breaks R166 or the limits of R125, R346 and R370: an extent or a packed length beyond 64 KiB, or no byte at all. -/
def remoteBad (f : CopyFlags) (s d : Desc) : Bool :=
  f.gmode == 2 || d.bound != 0 || fmtScaled s.fmt || decide (65536 < (d.extent none).hi) || remoteElems d == 0
    || decide (65536 < cdiv (remoteElems d * d.bits) 8)

/-- The checks of a copy that give `ST_STATE` (R146–R150, R157, R166, R144, R167). A copy that rounds has its mode fields checked under R65
(DEDUCED, log entry 123). R147 gives GDIM the range 0 to RANK − 1; with GMODE 0 nothing uses it, and the model checks it only where GMODE
is not 0 (DESIGN CHOICE, log entry 125). -/
def copyBad (k : CopyKind) (e : Env) (r : Record) (o0 o1 o2 : Opd) : Bool :=
  let f := copyFlags r
  commonBad e r || unusedBad r false false false true || r.imm != 0
    || fld r.opflags.toNat 31 23 != 0 || fld r.opflags.toNat 1 0 != k.modeBits || f.gmode == 3
    || (!f.permen && fld r.opflags.toNat 21 7 != 0)
    || o0.isBad || o1.isBad || o2.isBad || o0.isNone || o1.isNone
    || (f.gmode == 0) != o2.isNone
    || (match o0.desc, o1.desc with
      | some s, some d =>
        (!copyExact s.fmt d.fmt && modeBad r) || s.bad || d.bad || !k.src s.space || !k.dst d.space || s.qfmt != 0 || d.qfmt != 0 || d.dstBad
          || s.rank != d.rank || !permOk f.perm d.rank || (f.gmode != 0 && decide (d.rank ≤ f.gdim))
          || (match o2.desc with | some i => i.bad || i.indexBad || i.past none | none => false)
          || shapesBad s d f o2.desc || decide (16777216 < copyElems d f o2.desc)
          || (if k.convert then !pairOk s.fmt d.fmt else s.fmt != d.fmt)
          || (f.gmode == 1 && ((f.gdim == 0 && s.brim0 != 0) || (f.gdim == 1 && s.brim1 != 0)))
          || (s.fmt == d.fmt && fmtScaled s.fmt && d.space != 4
              && (s.brim0 != 0 || s.brim1 != 0
                || (fmtMx s.fmt && nth f.perm s.mxdim != s.mxdim && d.mxdim != permInv f.perm s.mxdim)))
          || (d.space == 4 && remoteBad f s d)
          || s.past (if f.gmode = 1 then some (f.gdim, s.sz f.gdim) else none)
          || d.past (if f.gmode = 2 then some (f.gdim, d.sz f.gdim) else none)
      | _, _ => false)

/-- The overlap check (R159–R162). -/
def copyOverlaps (r : Record) (o0 o1 o2 : Opd) : Bool :=
  let f := copyFlags r
  match o0.desc, o1.desc with
  | some s, some d =>
    let wr := [d.extent (if f.gmode = 2 then some (f.gdim, d.sz f.gdim) else none), d.scaleExtent]
    let rd := [s.extent (if f.gmode = 1 then some (f.gdim, s.sz f.gdim) else none), s.scaleExtent]
      ++ (match o2.desc with | some i => [i.extent none] | none => [])
    (wr.any fun a => rd.any fun b => a.meets b) && !inPlaceOk o0.block o1.block s f
  | _, _ => false

/-- The base, strides or scale array of a descriptor off a multiple of 64 (R139). -/
def copyMisaligned (o0 o1 o2 : Opd) : Bool :=
  [o0, o1, o2].any fun o => (o.desc.map Desc.misaligned).getD false

/-- Pages of the byte ranges of a DVA descriptor translated; other spaces need none. -/
def World.xlateSpans (w : World) (e : Env) (space : Nat) (wr : Bool) (spans : List (Nat × Nat)) :
    Except Nat (List (Nat × Nat)) × World :=
  if space = 0 then w.xlatePages e wr (pagesOfSpans spans) else (.ok [], w)

/-- The index tensor read through its descriptor (R157): values with their poison, and the world after the reads. -/
def World.readIndex (w : World) (e : Env) (store : Bool) (i : Desc) : Except Nat (List (Nat × Bool)) × World :=
  let js := (List.range (i.sz 0)).map fun j => [j, 0, 0, 0, 0]
  let spans := js.flatMap i.readSpan
  match w.xlateSpans e i.space false spans with
  | (.error st, w) => (.error st, w)
  | (.ok pages, w) =>
    let s : Src := { d := i, pages, sac := !store && !i.noalloc }
    let vals := js.map fun j => let v := w.elemIter e.c s j; (v.raw, v.poison)
    (.ok vals, w.readSpans e pages i.space (store || i.noalloc) spans)

/-- The index tensor of a copy, where it has one. -/
def World.copyIndex (w : World) (k : CopyKind) (e : Env) (o2 : Opd) : Except Nat (List (Nat × Bool)) × World :=
  match o2.desc with
  | some i => w.readIndex e k.store i
  | none => (.ok [], w)

/-- A copy over its descriptors and its indices. -/
def Copy.of (s d : Desc) (r : Record) (idx : List (Nat × Bool)) (o2 : Opd) : Copy :=
  { s := { d := s }, d := { d := d }, f := copyFlags r, idx
    idxFills := (o2.desc.map fun i => ((List.range (i.sz 0)).filter fun j => i.readsFill [j, 0, 0, 0, 0]).length).getD 0 }

/-- Source and destination scale entries that a copy uses. -/
def Copy.srcKs (c : Copy) : List Nat := (c.moves.filterMap fun m => if m.lost then none else c.srcX m).map c.s.d.scaleIdx
def Copy.dstKs (c : Copy) : List Nat := c.moves.map fun m => c.d.d.scaleIdx m.x

/-- Whether a copy quantises into a tile-scaled format, and so chooses starting scales (R48, R151). -/
def Copy.quantises (c : Copy) : Bool := c.s.d.fmt != c.d.d.fmt && fmtTile c.d.d.fmt

/-- Whether a copy reads a scale of −128 (R22), as far as that is seen before its pages are translated (R523, check 4). -/
def World.copyScaleRefused (w : World) (k : CopyKind) (e : Env) (r : Record) (o0 o1 o2 : Opd) : Bool :=
  match o0.desc, o1.desc, (w.copyIndex k e o2).1 with
  | some s, some d, .ok idx =>
    let c := Copy.of s d r idx o2
    (fmtScaled s.fmt && w.scaleRefused e s c.srcKs) || (c.quantises && w.startRefused e d c.dstKs)
  | _, _, _ => false

/-- Several runs of pages translated one after another (R163): the pages of all, or the first fault. -/
def World.xlateAll (w : World) (e : Env) : List (Nat × Bool × List (Nat × Nat)) → Except Nat (List (List (Nat × Nat))) × World
  | [] => (.ok [], w)
  | (space, wr, spans) :: rest =>
    match w.xlateSpans e space wr spans with
    | (.error st, w) => (.error st, w)
    | (.ok p, w) =>
      match World.xlateAll w e rest with
      | (.error st, w) => (.error st, w)
      | (.ok ps, w) => (.ok (p :: ps), w)

/-- A copy whose checks have passed and whose pages have been translated, or the refusal (R523, R163). Where several pages fault, R163 does not
say which fault is reported: the model translates the index tensor, the source, its scale array, the destination, its scale array, each by
rising address (DESIGN CHOICE, log entry 126). A copy that chooses its starting scales from the destination's scale array reads that array too. -/
def World.prepareCopy (w : World) (k : CopyKind) (e : Env) (t : Entry) (wsRo : Bool) : Except Run (Copy × World) :=
  let r := t.cmd
  let ind (i : Nat) : Word := t.ind.getD i 0
  let (o0, w) := w.fetchRef e r.p0 (ind 0) 64
  let (o1, w) := w.fetchRef e r.p1 (ind 1) 64
  let (o2, w) := w.fetchRef e r.p2 (ind 2) 64
  match firstFault [o0, o1, o2] with
  | some st => .error (.fail w st)
  | none =>
    let bad := copyBad k e r o0 o1 o2
    match firstRefusal [(bad, stState), (!bad && w.copyScaleRefused k e r o0 o1 o2, stState), (wsRo, stFaultPerm),
        (copyMisaligned o0 o1 o2, stAlign), (copyOverlaps r o0 o1 o2, stOverlap)] with
    | some st => .error (.fail (if st = stFaultPerm then w.setCtx e.n { w.ctx e.n with wsRefused := bump 32 (w.ctx e.n).wsRefused 1 } else w) st)
    | none =>
      match o0.desc, o1.desc with
      | some s, some d =>
        match w.copyIndex k e o2 with
        | (.error st, w) => .error (.fail w st)
        | (.ok idx, w) =>
          let c := Copy.of s d r idx o2
          let ms := c.moves
          let starts := if c.quantises && w.usesArray e.n d then c.dstScaleSpans ms else []
          match w.xlateAll e [(s.space, false, c.srcSpans ms), (s.sspace, false, c.srcScaleSpans ms), (d.space, true, c.dstSpans ms),
              (d.sspace, false, starts), (d.sspace, true, c.dstScaleSpans ms)] with
          | (.error st, w) => .error (.fail w st)
          | (.ok [sp, ssp, dp, _, dsp], w) =>
            .ok ({ c with s := { d := s, pages := sp ++ ssp, sac := !k.store && !s.noalloc }, d := { d := d, pages := dp ++ dsp } }, w)
          | (.ok _, w) => .error (.fail w stState)
      | _, _ => .error (.fail w stState)

/-- The logical position of an element of the source that a quantisation draws at (R151). -/
def quantPos (s : Desc) (x : List Nat) : Nat :=
  nth x 0 + s.valid0 * (nth x 1 + s.valid1 * (nth x 2 + s.sz 2 * (nth x 3 + s.sz 3 * nth x 4)))

/-- The writes of a copy: element writes, scale writes, and the conversion that made them (R149–R151). -/
def World.copyOut (w : World) (e : Env) (t : Entry) (c : Copy) : List BitWrite × List (Nat × Nat) × Conv :=
  let g := rngOf w e t.cmd true
  let es := c.moves.map fun m => (m, w.moveElem e.c c m)
  let d := c.d.d
  if c.s.d.fmt = d.fmt then
    let o := c.same es
    (o.1, o.2, { rng := g, poison := es.any fun p => p.2.tagged d.fmt })
  else
    let mode : Rm := if fmtScaled d.fmt && d.qsrf then .srf else .rne
    let ces := es.map fun p =>
      { x := p.1.x, pos := ((c.srcX p.1).map (quantPos c.s.d)).getD 0, v := p.2.val c.s.d.fmt : CElem }
    let v := convert d d.fmt mode 0xFFFFFFFE (w.startScale e.c e.n c.d) g ces
    (v.out, v.scales, v)

/-- Running a copy into memory (R146–R165): a scale of −128 refuses it; else elements, scales, counts and statistics follow. Every element takes the
value that its source held before the record, also where two DVAs name one page, for which R161 allows a second outcome (DESIGN CHOICE,
log entry 127). -/
def World.runCopy (w : World) (k : CopyKind) (e : Env) (t : Entry) (wsRo : Bool) : Run :=
  match w.prepareCopy k e t wsRo with
  | .error r => r
  | .ok (c, w) =>
    let ms := c.moves
    let r := t.cmd
    let conv := c.s.d.fmt != c.d.d.fmt
    let srcBad := fmtScaled c.s.d.fmt && w.badScale e.c c.s c.srcKs
    let dstBad := c.quantises && w.badStart e.c e.n c.d c.dstKs
    if srcBad || dstBad then .fail w stState
    else
      let o := w.copyOut e t c
      let w1 := w.readSpans e c.s.pages c.s.d.space (k.store || c.s.d.noalloc) (c.srcSpans ms)
      let w1 := w1.readSpans e c.s.pages c.s.d.sspace (k.store || c.s.d.noalloc) (c.srcScaleSpans ms)
      let w1 := w1.writeSpace e c.d.pages c.d.d.space o.1
      let w1 := if fmtScaled c.d.d.fmt then w1.writeSpace e c.d.pages c.d.d.sspace (scaleWrites c.d.d o.2.1) else w1
      let w1 := if conv then w1.foldStats e.n c.d.d.slot c.d.d.fmt o.2.2 else w1
      let fills := (ms.filter c.isFill).length + c.idxFills
      let w1 := w1.countOob e.c fills c.dropped
      let flags := oobFlag (fills + c.dropped) + retryFlag o.2.2.retries
      if conv then
        let q := Run.settle e t.idx r w1 o.2.2.satTiles o.2.2.poison ms.length flags
        if c.idxPoison then { q with st := stPoison } else q
      else { w := w1, st := if o.2.2.poison || c.idxPoison then stPoison else stOk, count := ms.length, flags }

/-- What LOAD allows (R146). -/
def loadKind : CopyKind := { src := fun s => decide (s ≤ 3), dst := fun s => s == 1 || s == 3, convert := true, modeBits := 0, store := false }
/-- What LOADW TILES allows (R179). -/
def tilesKind : CopyKind := { src := fun s => decide (s ≤ 1), dst := fun s => s == 2, convert := true, modeBits := 0, store := false }
/-- What STORE allows (R146). -/
def storeKind : CopyKind :=
  { src := fun s => decide (1 ≤ s ∧ s ≤ 3), dst := fun s => s != 2, convert := false, modeBits := 0, store := true }

end Sys2Proof.Machine
end

