-- ==== Sys2Proof/Machine/Seam.lean ====
section
/-! DEFINITION. The Seam link layer (R334–R339, R343): sizes of messages, credit units, sending, replay, receipt, routing. -/
namespace Sys2Proof
open Machine

/-- Type byte of a message (R337). -/
def FrameBody.typ : FrameBody → Nat
  | .link => 0x01
  | .nak _ => 0x02
  | .heartbeat _ _ _ => 0x03
  | .ident _ _ _ _ => 0x04
  | .lost _ _ => 0x05
  | .wcredit _ _ _ _ => 0x10
  | .wwrite _ => 0x11
  | .wanswer _ _ => 0x12
  | .wreturn _ _ _ _ => 0x13
  | .wclose _ _ _ => 0x14
  | .contrib _ => 0x20
  | .result _ => 0x21
  | .canswer _ _ _ _ _ _ => 0x22
  | .keepalive _ _ _ _ => 0x23
  | .ckpt _ _ _ => 0x30

/-- Virtual channel of a type; none for a type that does not exist (R337). -/
def typVc (t : Nat) : Option Nat :=
  if t = 0x11 then some 1
  else if t = 0x20 ∨ t = 0x21 ∨ t = 0x30 then some 2
  else if (1 ≤ t ∧ t ≤ 5) ∨ t = 0x10 ∨ t = 0x12 ∨ t = 0x13 ∨ t = 0x14 ∨ t = 0x22 ∨ t = 0x23 then some 0
  else none

/-- Virtual channel of a message (R337). -/
def FrameBody.vc : FrameBody → Nat
  | .wwrite _ => 1
  | .contrib _ => 2
  | .result _ => 2
  | .ckpt _ _ _ => 2
  | _ => 0

/-- The bytes of a contribution or result (R356, R357): header, mask, values; `down` sets RESULT. -/
def CollMsg.payload (m : CollMsg) (down : Bool) : List Byte :=
  leBytes 1 m.kind ++ leBytes 1 m.group ++ leBytes 2 m.pos ++ leBytes 4 m.seq ++ leBytes 1 m.level
    ++ leBytes 1 ((if m.avg then 1 else 0) + (if down then 2 else 0) + (if m.poison then 4 else 0) + (if m.failed then 8 else 0))
    ++ leBytes 2 m.node ++ leBytes 4 m.print ++ leBytes 4 m.elems ++ leBytes 1 m.srcFmt ++ leBytes 1 m.dstFmt
    ++ leBytes 1 (8 * m.accMode + m.outMode) ++ leBytes 1 0 ++ leBytes 4 m.stream ++ leBytes 4 m.tau ++ leBytes 8 m.crc.toNat
    ++ sl m.digest 0 16 ++ leBytes 2 m.srcPos ++ leBytes 2 0 ++ leBytes 4 m.first ++ m.mask ++ m.values

/-- The bytes of a message (R337, R345, R346, R357, R504), before its padding. -/
def FrameBody.payload : FrameBody → List Byte
  | .link => []
  | .nak seq => leBytes 2 seq
  | .heartbeat rank state peer => leBytes 2 rank ++ leBytes 1 state ++ leBytes 1 peer
  | .ident identity rank peer variant => leBytes 8 identity ++ leBytes 2 rank ++ leBytes 1 peer ++ leBytes 1 variant ++ leBytes 4 0
  | .lost rank reporter => leBytes 2 rank ++ leBytes 2 reporter
  | .wcredit core win slot gen => leBytes 2 core ++ leBytes 1 win ++ leBytes 1 slot ++ leBytes 2 gen
  | .wwrite x =>
    leBytes 2 x.core ++ leBytes 1 x.win ++ leBytes 1 x.slot ++ leBytes 2 x.gen ++ leBytes 2 x.sender ++ leBytes 4 x.data.length
      ++ leBytes 4 x.id ++ leBytes 16 0 ++ sl x.desc 0 64 ++ x.data
  | .wanswer id status => leBytes 4 id ++ leBytes 2 status
  | .wreturn core win slot gen => leBytes 2 core ++ leBytes 1 win ++ leBytes 1 slot ++ leBytes 2 gen
  | .wclose core win gen => leBytes 2 core ++ leBytes 1 win ++ leBytes 1 0 ++ leBytes 2 gen
  | .contrib m => m.payload false
  | .result m => m.payload true
  | .canswer seq group answer level node first =>
    leBytes 4 seq ++ leBytes 1 group ++ leBytes 1 answer ++ leBytes 1 level ++ leBytes 2 node ++ leBytes 4 first
  | .keepalive group seq level node => leBytes 1 group ++ leBytes 4 seq ++ leBytes 1 level ++ leBytes 2 node
  | .ckpt op k d =>
    leBytes 1 op ++ leBytes 1 k.answer ++ leBytes 2 k.ctx ++ leBytes 4 k.step ++ leBytes 4 k.entry ++ leBytes 4 k.granule
      ++ leBytes 8 k.crc.toNat ++ leBytes 8 0 ++ d

/-- Message tag (R336). -/
def FrameBody.tag : FrameBody → Nat
  | .wwrite x => x.id
  | .contrib m => m.group * 2 ^ 24 + m.seq % 2 ^ 24
  | .result m => m.group * 2 ^ 24 + m.seq % 2 ^ 24
  | _ => 0

/-- Payload bytes of a message. -/
def FrameBody.bytes (b : FrameBody) : Nat := b.payload.length
/-- Frames of a message: payloads of at most 256 bytes (R336). -/
def FrameBody.frames (b : FrameBody) : Nat := max 1 (cdiv b.bytes 256)
/-- Payload length of each frame that the part sends, in 16-byte units: full frames, then the rest (R336). -/
def FrameBody.lens (b : FrameBody) : List Nat :=
  (List.range b.frames).map fun i => min 16 (cdiv b.bytes 16 - 16 * i)
/-- Buffer units of a message (R339): a frame with header and trailer occupies two units more than its payload. -/
def FrameBody.units (b : FrameBody) : Nat := cdiv b.bytes 16 + 2 * b.frames
/-- Bytes on the link: 24 for the header and trailer of each frame. -/
def FrameBody.wire (b : FrameBody) : Nat := 16 * cdiv b.bytes 16 + 24 * b.frames

/-- The 16 bytes of a frame's header (R336). -/
def frameHeader (typ vc : Nat) (last : Bool) (len seq ack retVc retUnits dst src tag : Nat) : List Byte :=
  leBytes 1 typ ++ leBytes 1 (64 * vc + (if last then 32 else 0) + len) ++ leBytes 2 seq ++ leBytes 2 ack
    ++ leBytes 2 (2 ^ 14 * retVc + retUnits) ++ leBytes 2 dst ++ leBytes 2 src ++ leBytes 4 tag

/-- A frame as it stands on the link (R336): header, payload, CRC-32 over both, four reserved bytes of zeros. -/
def frameBytes (header payload : List Byte) : List Byte := header ++ payload ++ leBytes 4 (crc32 (header ++ payload)).toNat ++ leBytes 4 0

/-- The frames of a message (R336, R337): consecutive sequence numbers from `seq` on but for LINK and NAK, LAST on the final one, the payload
padded with zeros to whole units; the first returns the credits. -/
def FrameBody.onLink (b : FrameBody) (seq ack retVc retUnits dst src : Nat) : List (List Byte) :=
  b.lens.zipIdx.map fun x =>
    frameBytes (frameHeader b.typ b.vc (x.2 + 1 == b.frames) x.1 (if b.typ ≤ 2 then 0 else (seq + x.2) % 65536) ack retVc
        (if x.2 = 0 then retUnits else 0) dst src b.tag)
      (sl b.payload (256 * x.2) (16 * x.1))

/-- LINK and NAK carry sequence 0 and are never replayed (R338). -/
def FrameBody.plain : FrameBody → Bool
  | .link => true
  | .nak _ => true
  | _ => false
/-- Messages that are routed (R343). -/
def FrameBody.routed : FrameBody → Bool
  | .contrib _ => true
  | .result _ => true
  | .canswer _ _ _ _ _ _ => true
  | .keepalive _ _ _ _ => true
  | _ => false
/-- What a link carries to a rank that is held lost (R342). -/
def FrameBody.toLost : FrameBody → Bool
  | .heartbeat _ _ _ => true
  | .ident _ _ _ _ => true
  | .link => true
  | _ => false

/-- Frames of a received message. -/
def SeamHdr.frames (h : SeamHdr) : Nat := h.lens.length
/-- Buffer units that it occupies (R339). -/
def SeamHdr.units (h : SeamHdr) : Nat := sumN (h.lens.map (· + 2))
/-- Bytes that it brought over the link. -/
def SeamHdr.wire (h : SeamHdr) : Nat := sumN (h.lens.map fun n => 16 * n + 24)
/-- LINK and NAK, by the type byte (R338). -/
def SeamHdr.plain (h : SeamHdr) : Bool := h.typ == 1 || h.typ == 2
/-- Types that are routed (R343). -/
def SeamHdr.routed (h : SeamHdr) : Bool := decide (0x20 ≤ h.typ ∧ h.typ ≤ 0x23)

/-- A message that R337 discards: another type, a wrong VC, a VC of 3, a length above 16. -/
def SeamHdr.malformed (h : SeamHdr) : Bool := typVc h.typ != some h.vc || decide (3 ≤ h.retVc) || h.lens.any fun n => decide (16 < n)

/-- Whether a header belongs to a message: its type and VC, and frames that carry its payload padded to whole units, `held` of which came before. -/
def SeamHdr.shape (h : SeamHdr) (held : List Nat) (b : FrameBody) : Bool :=
  h.typ == b.typ && h.vc == b.vc
    && (if h.last then sumN (held ++ h.lens) == cdiv b.bytes 16 else decide (sumN (held ++ h.lens) ≤ cdiv b.bytes 16))

end Sys2Proof

namespace Sys2Proof.Machine

/-- State code of a link (R367). -/
def linkCode : LinkSt → Nat
  | .disabled => 0
  | .waitSignal => 1
  | .train => 2
  | .identify => 3
  | .up => 4
  | .failed => 5

/-! ## Credits -/

/-- Whether units of a VC fit in its reservation and the shared pool (R339). -/
def Link.fits (k : Link) (vc units : Nat) : Bool := decide (units ≤ nth k.resv vc + k.shared)
/-- Units taken, from the reservation first (R339). -/
def Link.take (k : Link) (vc units : Nat) : Link :=
  let r := min units (nth k.resv vc)
  { k with resv := k.resv.set vc (nth k.resv vc - r), shared := k.shared - (units - r) }
/-- Units returned by the peer: to the reservation until it is full, the rest to the shared pool (R339). -/
def Link.give (k : Link) (vc units : Nat) : Link :=
  let r := min units (256 - nth k.resv vc)
  { k with resv := k.resv.set vc (nth k.resv vc + r), shared := min 15616 (k.shared + (units - r)) }
/-- Receive units freed, to be returned to the peer in a later header (R339). -/
def Link.free (k : Link) (vc units : Nat) : Link := { k with toReturn := k.toReturn.set vc (nth k.toReturn vc + units) }
/-- The credit return of the next header: the VC and its units, at most 16,383: the lowest VC that has any (DEDUCED, log entry 26). -/
def Link.owed (k : Link) : Nat × Nat :=
  match k.toReturn.findIdx? (· != 0) with
  | some i => (i, min 16383 (nth k.toReturn i))
  | none => (0, 0)
/-- What a header has returned is owed no more. -/
def Link.carry (k : Link) : Link := { k with toReturn := k.toReturn.set k.owed.1 (nth k.toReturn k.owed.1 - k.owed.2) }

/-- The frames that a message sent now leaves the part in (R336, R338): numbered on, with the last sequence that has arrived intact and the credits
owed. -/
def Link.framesOf (k : Link) (dst src : Nat) (b : FrameBody) : List (List Byte) :=
  b.onLink k.txSeq ((k.rxSeq + 65535) % 65536) k.owed.1 k.owed.2 dst src

/-- Payload lengths of the frames of a message that are not acknowledged, from frame i on. -/
def TxMsg.left (m : TxMsg) (i : Nat) : List Nat := m.body.lens.drop (max m.acked i)
/-- Bytes of frames on the link. -/
def wireOf (lens : List Nat) : Nat := sumN (lens.map fun n => 16 * n + 24)
/-- Bytes of replay buffer in use (R338): the frames that are not acknowledged. -/
def Link.replayUse (k : Link) : Nat := sumN (k.replay.map fun m => wireOf (m.left 0))

/-- Whether a message can go out now: credits, and room in the replay buffer of 256 KiB. -/
def Link.canSend (k : Link) (b : FrameBody) : Bool :=
  k.fits b.vc b.units && (b.plain || decide (k.replayUse + b.wire ≤ 262144))

/-- A message sent (R336–R339): numbered and kept until acknowledged, but for LINK and NAK. -/
def Link.transmit (k : Link) (dst src : Nat) (b : FrameBody) : Link :=
  let k := (k.take b.vc b.units).carry
  let k := { k with sent := bump 64 k.sent b.wire }
  if b.plain then k
  else
    { k with txSeq := (k.txSeq + b.frames) % 65536
             replay := k.replay ++ [{ seq := k.txSeq, vc := b.vc, frames := b.frames, units := b.units, dst, src, body := b }] }

/-- Messages waiting for credit, sent in order on each VC as far as credits allow. -/
def Link.flushList : Link → List Nat → List TxMsg → Link
  | k, _, [] => k
  | k, blocked, m :: ms =>
    if m.vc ∈ blocked ∨ k.canSend m.body = false then
      Link.flushList { k with waitq := k.waitq ++ [m] } (m.vc :: blocked) ms
    else Link.flushList (k.transmit m.dst m.src m.body) blocked ms
def Link.flush (k : Link) : Link := Link.flushList { k with waitq := [] } [] k.waitq

/-- A message handed to a link: sent at once, or waiting behind others of its VC. LINK and NAK frames go only when they can. -/
def Link.post (k : Link) (dst src : Nat) (b : FrameBody) : Link :=
  if b.plain then (if k.canSend b then k.transmit dst src b else k)
  else if k.canSend b && !k.waitq.any fun m => m.vc == b.vc then k.transmit dst src b
  else { k with waitq := k.waitq ++ [{ seq := 0, vc := b.vc, frames := b.frames, units := b.units, dst, src, body := b }] }

/-- A message sent on one link: only while the link is UP (an IDENT also in IDENTIFY), and to a lost rank only what R342 allows. -/
def World.sendLink (w : World) (l dst : Nat) (b : FrameBody) : World :=
  let k := w.link l
  let open_ := k.st == .up || (k.st == .identify && match b with | .ident _ _ _ _ => true | _ => false)
  if open_ && (b.toLost || !decide (k.peerRank ∈ w.seam.lost)) then w.setLink l (k.post dst w.seam.rank b) else w

/-! ## Routing (R343) -/

/-- UP links to a direct peer, in increasing number. -/
def World.directLinks (w : World) (rank : Nat) : List Nat :=
  (List.range 20).filter fun l => (w.link l).st == .up && (w.link l).peerRank == rank

/-- Link on which a routed message for a rank leaves: a direct one, or the first UP link of its route entry. -/
def World.routeLink (w : World) (rank : Nat) : Option Nat :=
  match w.directLinks rank with
  | l :: _ => some l
  | [] => (w.seam.routes.getD rank []).find? fun l => l < 20 && (w.link l).st == .up

/-- Whether collectives treat a rank as lost: held lost, or unreachable (R343). -/
def World.gone (w : World) (rank : Nat) : Bool :=
  decide (rank ∈ w.seam.lost) || (rank != w.seam.rank && (w.routeLink rank).isNone)

/-- Whether a rank can be reached only through links that the licence does not enable (R344). -/
def World.licenceBars (w : World) (rank : Nat) : Bool :=
  let r := (w.seam.routes.getD rank []).filter (· < 20)
  rank != w.seam.rank && (w.routeLink rank).isNone && !r.isEmpty && r.all fun l => (w.link l).st == .disabled

/-! ## Groups and the tree (R348, R353) -/

/-- Levels of the tree above the leaves. -/
def treeLevels (p : Nat) : Nat := bitLen (p - 1)
/-- Positions that a node covers; none where the node does not exist. -/
def cover (p level node : Nat) : List Nat := (List.range (min ((node + 1) * 2 ^ level) p - node * 2 ^ level)).map (node * 2 ^ level + ·)
/-- Own position in a group. -/
def World.ownPos (w : World) (g : Nat) : Option Nat := (w.group g).members.findIdx? fun r => r == w.seam.rank

/-- Ranks that a COLL of a kind sends to (R344, R354): on the way up the hosts above its own position, or, from the source of a BROADCAST, the root's
host; on the way down the hosts below it. -/
def World.collPeers (w : World) (g kind srcPos : Nat) : List Nat :=
  let m := (w.group g).members
  let p := m.length
  let k := (w.ownPos g).getD 0
  let host (l j : Nat) : Option Nat := (cover p l j).find? fun i => !decide (nth m i ∈ w.seam.lost)
  let up :=
    if kind = 3 then (if srcPos = k then (host (treeLevels p) 0).toList else [])
    else (List.range (treeLevels p)).filterMap fun l => if host l (k / 2 ^ l) == some k then host (l + 1) (k / 2 ^ (l + 1)) else none
  let down := (List.range (treeLevels p)).filterMap fun l =>
    if host (l + 1) (k / 2 ^ (l + 1)) == some k then host l (2 * (k / 2 ^ (l + 1)) + 1) else none
  ((up ++ down).filter (· != k)).map (nth m)

/-- A message for a rank: on a direct link, or routed where its type is. -/
def World.sendRank (w : World) (rank : Nat) (b : FrameBody) : World :=
  match (if b.routed then w.routeLink rank else (w.directLinks rank).head?) with
  | some l => w.sendLink l rank b
  | none => w

/-! ## Receipt (R337, R338) -/

/-- Frames of a message that come before a sequence number. -/
def TxMsg.before (m : TxMsg) (seq : Nat) : Nat := if sub16 seq m.seq < 32768 then min m.frames (sub16 seq m.seq) else 0
/-- The acknowledgement of a header: every frame that it covers leaves the replay buffer. -/
def Link.acked (k : Link) (ack : Nat) : Link :=
  { k with replay := (k.replay.map fun m => { m with acked := max m.acked (m.before (ack + 1)) }).filter fun m => decide (m.acked < m.frames) }

/-- What every intact frame carries: acknowledgement and returned units; then waiting messages go. -/
def Link.header (k : Link) (h : SeamHdr) : Link :=
  ((k.acked h.ack).give h.retVc h.retUnits).flush

/-- Whether a message comes in order (R338): LINK and NAK carry sequence 0, every other frame the next number modulo 2^16. -/
def Link.inOrder (k : Link) (h : SeamHdr) : Bool := if h.plain then h.seq == 0 else h.seq == k.rxSeq

/-- The frames of an intact message in order, counted and acknowledged in turn (R338). -/
def Link.taken (k : Link) (l : Nat) (h : SeamHdr) : Link :=
  { k with rxSeq := if h.plain then k.rxSeq else (k.rxSeq + h.frames) % 65536
           received := bump 64 k.received h.wire
           fecFixed := bump 64 k.fecFixed (Config.fecCount l k.received 0)
           fecBad := bump 64 k.fecBad (Config.fecCount l k.received 1) }

/-- The frames held of a message of a VC whose last frame has not come. -/
def Link.held (k : Link) (vc : Nat) : List Nat := k.parts.getD vc []
/-- Buffer units of a message received: its frames held, and those of its last part (R339). -/
def Link.unitsOf (k : Link) (h : SeamHdr) : Nat := sumN ((k.held h.vc).map (· + 2)) + h.units
/-- A message that R337 discards: counted, its frames off the link, so that those after it go on (DEDUCED, log entry 46). One with a bad type, VC or
length stands by itself; any other takes the frames held with it. -/
def Link.discard (k : Link) (l : Nat) (h : SeamHdr) : Link :=
  let k := k.taken l h
  if h.malformed then (({ k with discarded := bump 64 k.discarded h.frames }).free (min h.vc 2) h.units).header h
  else (({ k with discarded := bump 64 k.discarded (h.frames + (k.held h.vc).length), parts := k.parts.set h.vc [] }).free h.vc (k.unitsOf h)).header h

/-- A message received on a link: accepted, with its units kept where `keep` says so; or not: dropped where the link takes no frames, a CRC fails or
the order is wrong (R338); discarded and counted where it breaks R337; held where its final frame has not come (R125). The units of all its frames
are freed together (R339). -/
def World.receive (w : World) (l : Nat) (h : SeamHdr) (b : FrameBody) (keep : Bool) : Except World World :=
  let k := w.link l
  let open_ := k.st == .up || (k.st == .identify && match b with | .ident _ _ _ _ => true | .heartbeat _ _ _ => true | .link => true | _ => false)
  if !(open_ && h.crcOk && k.inOrder h) then .error w
  else if h.malformed || !h.shape (k.held h.vc) b then .error (w.setLink l (k.discard l h))
  else
    let k' := k.taken l h
    if !h.last then .error (w.setLink l ({ k' with parts := k'.parts.set h.vc (k.held h.vc ++ h.lens) }.header h))
    else
      let k' := { k' with parts := k'.parts.set h.vc [] }
      .ok (w.setLink l ((if keep then k' else k'.free h.vc (k.unitsOf h)).header h))

/-- Whether a header addresses this part (R336, R343). -/
def World.mine (w : World) (h : SeamHdr) : Bool := h.dst == 0xFFFF || h.dst == w.seam.rank

/-- The frames of a message replayed from frame i on: how often each has been. -/
def TxMsg.replayed (m : TxMsg) (i : Nat) : TxMsg :=
  { m with tries := (List.range m.frames).map fun j => nth m.tries j + if max m.acked i ≤ j then 1 else 0 }
/-- A replay from a sequence number (R338): the frames from it on that are not acknowledged, counted; the link goes down when a frame has been
replayed 16 times (`true`). -/
def Link.replayFrom (k : Link) (seq : Nat) : Link × Bool :=
  let again := k.replay.flatMap fun m => m.left (m.before seq)
  let l := k.replay.map fun m => m.replayed (m.before seq)
  ({ k with replay := l, replayed := bump 64 k.replayed again.length, sent := bump 64 k.sent (wireOf again) },
    l.any fun m => (m.tries.drop m.acked).any fun n => decide (16 ≤ n))

/-- The event of a link's state change (R421). -/
def World.linkEvent (w : World) (l : Nat) : World :=
  w.event 0x0401 (0x6010 + l) 1 (dieOfLink l) none stOk (leBytes 1 l ++ leBytes 1 (linkCode (w.link l).st))

end Sys2Proof.Machine
end

