-- ==== Sys2Proof/Machine/Engine.lean ====
section
/-! DEFINITION. How an engine record runs (R80–R83, R523): the record that may start in a queue, and what its run leaves in its
entry. -/
namespace Sys2Proof.Machine

def Core.queue (k : Core) : Queue → List Entry
  | .load => k.load
  | .matrix => k.matrix
  | .vector => k.vector
  | .store => k.store

def Core.setQueue (k : Core) (q : Queue) (l : List Entry) : Core :=
  match q with
  | .load => { k with load := l }
  | .matrix => { k with matrix := l }
  | .vector => { k with vector := l }
  | .store => { k with store := l }

/-- Queue code of an engine entry (R290). -/
def queueCode : Queue → Nat
  | .load => 0
  | .matrix => 1
  | .vector => 2
  | .store => 3

/-- Engine records in flight on a core (R80). -/
def Core.inFlight (k : Core) : Nat := k.load.length + k.matrix.length + k.vector.length + k.store.length

def EntrySt.isDone : EntrySt → Bool
  | .done _ _ _ => true
  | _ => false
def EntrySt.isWaiting : EntrySt → Bool
  | .waiting => true
  | _ => false

/-- Whether the wait of an entry holds on its core (R84); a record that was stopped at a K-group boundary has started already. -/
def Core.entryReady (k : Core) (t : Entry) : Bool :=
  !t.cmd.waitEn || !t.descs.isEmpty || waitHolds (k.ctrs.getD t.cmd.waitCtr 0).toNat t.thr.toNat

/-- The entry of a queue that may start: the first one not started, once every earlier one has at least started (load and store,
R81) or has run (matrix and vector). -/
def firstWaiting (q : Queue) : List Entry → Option Entry
  | [] => none
  | t :: ts =>
    if t.st.isWaiting then some t
    else if q = .load ∨ q = .store ∨ t.st.isDone then firstWaiting q ts else none

/-- Whether a snapshot's drain holds back the records of a context that have not started (R269). -/
def World.snapHolds (w : World) (n : Nat) : Bool := w.snap.draining && w.snap.ctx == n

/-- The window that a remote destination names (R166): owner rank, core, window. -/
def remoteWindow (d : Desc) : Nat × Nat × Nat := (fld d.w7 63 48, fld d.w7 41 32, fld d.w7 2 0)

/-- The descriptor of a remote destination, where the STORE names one. -/
def remoteDest (w : World) (e : Env) (t : Entry) : Option Desc :=
  match (w.fetchRef e t.cmd.p1 (t.ind.getD 1 0) 64).1 with
  | .at_ _ _ b _ => if (Desc.ofBytes b).space = 4 then some (Desc.ofBytes b) else none
  | _ => none

/-- Whether a record needs a unit that is absent, or a Seam link that the licence does not enable (R2, R3, R344, R523 check 2): tested at the head of
its queue. For a STORE the destination descriptor is taken as it stands then (DEDUCED, log entry 132). -/
def World.lacksUnit (w : World) (units : Nat) (e : Env) (t : Entry) : Bool :=
  match t.cmd.op.toNat with
  | 0x38 => !bit units 0 && !bit t.cmd.opflags.toNat 1
  | 0x39 => !bit units 1
  | 0x28 => (remoteDest w e t).any fun d => w.licenceBars (remoteWindow d).1
  | 0x2A => (w.collPeers (clGroup t.cmd) (clKind t.cmd) (clSrc t.cmd)).any fun k => w.licenceBars k
  | _ => false

/-- Whether an entry of the store queue may start behind the entries before it (R81): these have completed, or they are writes sent to the window that
it writes too, which commit in the order sent (R126). The part may have several records in progress, and need not (DEDUCED, log entry 137). -/
def World.mayFollow (w : World) (e : Env) (l : List Entry) (t : Entry) : Bool :=
  let open_ := (l.takeWhile fun x => x.id != t.id).filter fun x => !x.st.isDone
  open_.all fun x =>
    match x.st, remoteDest w e t with
    | .sent id, some d => t.cmd.op == 0x28 && w.seam.writes.any fun y => y.id == id && (y.rank, y.ocore, y.win) == remoteWindow d
    | _, _ => false

/-- Records that take words of the stream (R246), where they do not select the positional source. -/
def streamOps : List Nat := [0x30, 0x31, 0x32, 0x33, 0x37, 0x40, 0x41, 0x42, 0x43]

/-- Whether a record draws from the stream of its core (R43, R246); one that was stopped does as it did at its start. -/
def World.drawsStream (w : World) (t : Entry) : Bool :=
  decide (t.cmd.op.toNat ∈ streamOps)
    && (if t.cmd.rsrc = 3 then (match t.begun with | some b => b.rsrc | none => w.nums.rsrc) else t.cmd.rsrc) != 0

/-- Whether a record would start while a stream-source record of its core that was stopped at a K-group boundary is in progress (R246). -/
def World.streamTaken (w : World) (c : Nat) (t : Entry) : Bool :=
  w.drawsStream t && (w.core c).matrix.any fun x => x.id != t.id && !x.st.isDone && !x.descs.isEmpty && w.drawsStream x

/-- The record of a queue that starts now: the context is resident, the core's cluster runs, no snapshot drains the group, the
record's wait holds and no other record of the core is drawing from its stream (R246); one that lacks its unit is refused without its
wait (R523). -/
def State.starting (s : State) (c : Nat) (q : Queue) : Option (Env × Entry) :=
  match s.env c with
  | none => none
  | some e =>
    if e.st = .resident ∧ (s.w.cluster (c / 16)).power = .run ∧ (s.w.cluster (c / 16)).entering = none ∧ s.w.snapHolds e.n = false then
      match firstWaiting q ((s.w.core c).queue q) with
      | some t =>
        if (((s.w.core c).entryReady t && !s.w.streamTaken c t) || s.w.lacksUnit s.ctl.sec.units e t) && (q != .store || s.w.mayFollow e ((s.w.core c).queue q) t)
        then some (e, t) else none
      | none => none
    else none

/-- An entry of a queue given a new standing. -/
def Core.mark (k : Core) (q : Queue) (id : Nat) (st : EntrySt) : Core :=
  k.setQueue q ((k.queue q).map fun t => if t.id = id then { t with st := st } else t)

/-- What a run leaves in its entry: status, count, completion flags (R89). -/
def World.finish (r : Run) (c : Nat) (q : Queue) (id : Nat) : World :=
  r.w.setCore c ((r.w.core c).mark q id (.done r.st r.count r.flags))

/-- A memory after writes of which some were made: each 64-byte block that changed holds, by a free choice, its old or its new content
(R164). -/
def EccMem.partly (ws : Nat) (old new : EccMem) (free : Nat) : EccMem × Nat :=
  let moved := (old.cells.filter (decide <| · ∉ new.cells)) ++ new.cells.filter (decide <| · ∉ old.cells)
  let marked := (old.marks.filter (decide <| · ∉ new.marks)) ++ new.marks.filter (decide <| · ∉ old.marks)
  EccMem.keepSome ws old new (distinct (moved.map (·.1 / 64) ++ marked.map fun k => ws * k / 64)) free

/-- A record one of whose accesses failed on the bus ends with `ST_BUS_ERROR`; of its writes to HBM and to the memories of its core
some are made (R164, R330). -/
def Run.overBus (r : Run) (w0 : World) (c : Nat) : Run :=
  if World.busMet w0 r.w then
    let k0 := w0.core c
    let k := r.w.core c
    let (hm, f) := EccMem.partly 64 w0.hbm.mem r.w.hbm.mem r.w.free
    let (ws, f) := EccMem.partly 16 k0.ws k.ws f
    let (sp, f) := EccMem.partly 16 k0.sp k.sp f
    let (ps, f) := EccMem.partly 16 k0.ps k.ps f
    let w := { r.w with hbm := { r.w.hbm with mem := hm }, free := f }
    { w := w.setCore c { k with ws, sp, ps }, st := stBusError, flags := r.flags }
  else r

/-- The record at the start of core c's queue, if it is of the row asked for, run whole (DESIGN CHOICE, log entry 18). -/
def State.runRow (s : State) (c : Nat) (q : Queue) (row : Record → Bool) (f : World → Env → Entry → Run) : World :=
  match s.starting c q with
  | some (e, t) => if row t.cmd then World.finish ((f s.w e t).overBus s.w c) c q t.id else s.w
  | none => s.w

/-- The matrix engine takes a record: a soft start, counted, after its cluster came to RUN or after 1,024 clk of no record, which
are 81.92 cycles of its die's counter (R91, R420; DESIGN CHOICE, log entry 57). -/
def World.softStart (w : World) (c : Nat) : World :=
  let k := w.core c
  let now := nth w.tick (dieOfCore c)
  let starts := k.cold || decide (2048 ≤ 25 * ((now + 2 ^ 64 - k.tookAt) % 2 ^ 64))
  w.setCore c { k with cold := false, tookAt := now, softStarts := if starts then bump 32 k.softStarts 1 else k.softStarts }

/-- Whether the Weight Store is read-only to a context (R274), and its count of refusals. -/
def World.wsRefuse (w : World) (n : Nat) : World :=
  let k := w.ctx n
  w.setCtx n { k with wsRefused := bump 32 k.wsRefused 1 }

/-- The first refusal of a record that may write the Weight Store (R523): `ST_STATE` first, then `ST_FAULT_PERM` where the store
is read-only to the context (R274, counted), then the rest in order. -/
def World.refuse (w : World) (e : Env) (d : Option Desc) : List (Bool × Nat) → Option Run
  | [] => none
  | (bad, st) :: rest =>
    if bad then some (.fail w st)
    else if (w.ctx e.n).wsRo && (match d with | some x => x.space == 2 | none => false) then
      some (.fail (w.wsRefuse e.n) stFaultPerm)
    else (firstRefusal rest).map (.fail w)

/-- Descriptors of a matrix or vector record must lie in SPACE 1, 2 or 3 (R154). -/
def Desc.localSpace (d : Desc) : Bool := decide (1 ≤ d.space ∧ d.space ≤ 3)

/-- Memory coordinates of iteration coordinates that lie in the valid region (R137, R140). -/
def Desc.liveCoord (d : Desc) (i : List Nat) : Option (List Nat) :=
  match d.memCoords i with
  | some x => if d.inValid x then some x else none
  | none => none

/-- Scale entries that serve iteration coordinates. -/
def Desc.usedScales (d : Desc) (is_ : List (List Nat)) : List Nat := (is_.filterMap d.liveCoord).map d.scaleIdx

/-- Whether an operand's iteration uses a scale entry that holds −128 (R22): the stored format's, or the starting scales of an operand that the
record quantises (R48). -/
def World.operandBadScale (w : World) (e : Env) (s : Src) (is_ : List (List Nat)) : Bool :=
  if s.d.qfmt = 0 then fmtTile s.d.fmt && w.badScale e.c s (s.d.usedScales is_) else w.badStart e.c e.n s (s.d.usedScales is_)

/-- The same, as far as it is seen before pages are translated (R523, check 4). -/
def World.operandScaleRefused (w : World) (e : Env) (d : Desc) (is_ : List (List Nat)) : Bool :=
  if d.qfmt = 0 then fmtTile d.fmt && w.scaleRefused e d (d.usedScales is_) else w.startRefused e d (d.usedScales is_)

/-- Whether an output that a record converts starts from an entry that holds −128, before pages are translated. -/
def World.outputScaleRefused (w : World) (e : Env) (o : Option Desc) (xs : List (List Nat)) : Bool :=
  match o with
  | some d => fmtTile d.fmt && w.startRefused e d (xs.map d.scaleIdx)
  | none => false

/-- The same with its pages. -/
def World.outputBadScale (w : World) (e : Env) (o : Option Src) (xs : List (List Nat)) : Bool :=
  match o with
  | some s => fmtTile s.d.fmt && w.badStart e.c e.n s (xs.map s.d.scaleIdx)
  | none => false

/-- Effects of reading an operand's elements at iteration coordinates: its memory and its scale array. -/
def World.readOperand (w : World) (e : Env) (s : Src) (is_ : List (List Nat)) : World :=
  let w := w.readSpans e s.pages s.d.space true (is_.flatMap s.d.readSpan)
  if fmtScaled s.d.fmt then
    w.readSpans e s.pages s.d.sspace true (s.d.scaleSpans (is_.filterMap s.d.liveCoord))
  else w

/-- Pages of the scale arrays that records of the matrix and vector engines keep in HBM: read, or written for a destination, and
then read too where its starting scales come from the array (R48). -/
def World.xlateScales (w : World) (e : Env) (s : Src) (wr : Bool) (is_ : List (List Nat)) : Except Nat (List (Nat × Nat)) × World :=
  if s.d.scaled then
    let spans := s.d.scaleSpans (is_.filterMap s.d.liveCoord)
    if wr && fmtTile s.d.scFmt && w.usesArray e.n s.d then
      match w.xlateSpans e s.d.sspace false spans with
      | (.error st, w) => (.error st, w)
      | (.ok _, w) => w.xlateSpans e s.d.sspace true spans
    else w.xlateSpans e s.d.sspace wr spans
  else (.ok [], w)

/-- Out-of-bounds elements that reading an operand meets (R143). How often an element that a record uses more than once is counted, the spec does
not say: a matrix record counts it once, a VEW record once for each destination element that it feeds (DESIGN CHOICE, log entry 128). -/
def fillCount (d : Desc) (is_ : List (List Nat)) : Nat := (is_.filter d.readsFill).length

/-- The elements of a destination that a record writes, in row-major order, and how many BOUND drops (R140, R143, R525). -/
def Desc.writtenCoords (d : Desc) : List (List Nat) := (coordsOf d.size).filter fun x => d.inValid x && !d.beyondBound x
def Desc.droppedCount (d : Desc) : Nat := ((coordsOf d.size).filter fun x => d.inValid x && d.beyondBound x).length

/-- Writing a conversion into a destination: elements, the scales used, the statistics (R46–R54). -/
def World.writeConv (w : World) (e : Env) (d : Src) (v : Conv) : World :=
  let w := w.writeSpace e d.pages d.d.space v.out
  let w := if fmtScaled d.d.fmt then w.writeSpace e d.pages d.d.sspace (scaleWrites d.d v.scales) else w
  w.foldStats e.n d.d.slot d.d.fmt v

end Sys2Proof.Machine
end

