-- ==== Sys2Proof/Machine/Transcend.lean ====
section
/-! DEFINITION. Quotients, roots and the transcendental functions of R72, as exact numbers or as numbers with enough bits and a
last bit that stands for the rest of an infinite expansion. The transcendental functions are enclosed between integers at a
fixed scale; where the enclosure does not settle 160 bits, the value is Config.transcendental (DESIGN CHOICE, log entry 17). -/
namespace Sys2Proof.Machine

/-- Bits kept of an infinite expansion. -/
abbrev keepBits : Nat := 160

/-- A magnitude m × 2^e followed by something or by nothing. -/
def Dy.withRest (neg : Bool) (m : Nat) (e : Int) (rest : Bool) : Dy := if rest then ⟨neg, 2 * m + 1, e - 1⟩ else ⟨neg, m, e⟩

/-- a / b for b ≠ 0. -/
def Dy.div (a b : Dy) : Dy :=
  if a.m = 0 then ⟨a.neg != b.neg, 0, 0⟩
  else
    let k := keepBits + bitLen b.m
    Dy.withRest (a.neg != b.neg) (a.m * 2 ^ k / b.m) (a.e - b.e - k) (decide (a.m * 2 ^ k % b.m ≠ 0))

/-- Integer square root, bit by bit from 2^k down. -/
def isqrtGo (n : Nat) : Nat → Nat → Nat
  | 0, r => r
  | k + 1, r => if (r + 2 ^ k) * (r + 2 ^ k) ≤ n then isqrtGo n k (r + 2 ^ k) else isqrtGo n k r

/-- ⌊√n⌋. -/
def isqrt (n : Nat) : Nat := isqrtGo n (bitLen n / 2 + 1) 0

/-- √a for a positive number. -/
def Dy.sqrt (a : Dy) : Dy :=
  let odd := a.e % 2 != 0
  let m := if odd then 2 * a.m else a.m
  let e := if odd then a.e - 1 else a.e
  let n := m * 2 ^ (2 * keepBits)
  Dy.withRest false (isqrt n) (e / 2 - keepBits) (decide (isqrt n * isqrt n ≠ n))

/-- 1/√a for a positive number. -/
def Dy.rsqrt (a : Dy) : Dy :=
  let odd := a.e % 2 != 0
  let m := if odd then 2 * a.m else a.m
  let e := if odd then a.e - 1 else a.e
  let k := keepBits + bitLen m
  let r := isqrt (2 ^ (2 * k) / m)
  Dy.withRest false r (-(e / 2) - k) (decide (r * r * m ≠ 2 ^ (2 * k)))

/-! ## Enclosures: a pair lo ≤ value × 2^P ≤ hi -/

/-- Scale of the enclosures. -/
abbrev encP : Nat := 640

/-- A value just below 1. -/
def justBelowOne (neg : Bool) : Dy := ⟨neg, 2 ^ 200 - 1, -200⟩
/-- A positive value below every format's smallest step. -/
def tiny : Dy := ⟨false, 1, -6000⟩
/-- A value beyond every format's largest. -/
def huge : Dy := ⟨false, 3, 6000⟩

/-- A number whose magnitude lies in [lo, hi] × 2^−P and is not representable: below every format's steps; so little below 1 that every
rounding reads it alike; its first bits and a rest; or the open constant. -/
def settle (fn : Nat) (x : Dy) (neg : Bool) (lo hi : Nat) : Dy :=
  let sh := bitLen lo - keepBits
  if hi < 2 ^ (encP - 400) then { tiny with neg }
  else if hi ≤ 2 ^ encP ∧ 2 ^ encP ≤ lo + 2 ^ (encP - 200) then justBelowOne neg
  else if lo >>> sh = hi >>> sh then Dy.withRest neg (lo >>> sh) ((sh : Int) - encP) true
  else ⟨neg, Config.transcendental fn x.m x.e, (sh : Int) - encP⟩

/-- ⌊|x| × 2^P⌋. -/
def fixOf (x : Dy) : Nat := x.m * 2 ^ (x.e + encP).toNat / 2 ^ (-(x.e + encP)).toNat

/-- Partial sum of Σ t^i / i! from term `i`, terms at scale P. -/
def expSum (t : Nat) : Nat → Nat → Nat → Nat
  | 0, _, _ => 0
  | fuel + 1, i, term => term + expSum t fuel (i + 1) (term * t / 2 ^ encP / (i + 1))

/-- An enclosure squared `j` times. -/
def sqTimes : Nat → Nat × Nat → Nat × Nat
  | 0, v => v
  | j + 1, v => sqTimes j (v.1 * v.1 / 2 ^ encP, v.2 * v.2 / 2 ^ encP + 1)

/-- Enclosure of e^y for 0 ≤ y < 2^13 given as ⌊y × 2^P⌋: y is cut by 2^14, summed, and squared 14 times. -/
def expEnc (y : Nat) : Nat × Nat :=
  let s := expSum (y / 2 ^ 14) 160 0 (2 ^ encP)
  sqTimes 14 (s, s + 512)

/-- Whether a magnitude is 2^12 or more: e^|x| lies beyond every format. -/
def farOut (x : Dy) : Bool := decide (12 ≤ x.msb)

/-- e^x for finite x ≠ 0. -/
def Dy.exp (x : Dy) : Dy :=
  if farOut x then (if x.neg then tiny else huge)
  else
    let v := expEnc (fixOf x)
    if x.neg then settle 0x0C x false (2 ^ (2 * encP) / v.2) (2 ^ (2 * encP) / v.1 + 1) else settle 0x0C x false v.1 v.2

/-- Partial sum of Σ u^(2i+1) / (2i+1) with p = u^(2i+1) and u² at scale P. -/
def atanhSum (u2 : Nat) : Nat → Nat → Nat → Nat
  | 0, _, _ => 0
  | fuel + 1, i, p => p / (2 * i + 1) + atanhSum u2 fuel (i + 1) (p * u2 / 2 ^ encP)

/-- Enclosure of ln((2^P + d)/2^P) for 0 ≤ d ≤ 2^P, by 2·atanh(d / (2·2^P + d)). -/
def lnEnc (d : Nat) : Nat × Nat :=
  let u := d * 2 ^ encP / (2 * 2 ^ encP + d)
  let s := 2 * atanhSum (u * u / 2 ^ encP) 220 0 u
  (s, s + 2048)

/-- ln x for finite x > 0, x ≠ 1. -/
def Dy.ln (x : Dy) : Dy :=
  let k := x.msb
  let z := fixOf { x with e := x.e - k } - 2 ^ encP
  let l2 := lnEnc (2 ^ encP)
  let lz := lnEnc z
  let lo : Int := (lz.1 : Int) + (if 0 ≤ k then k * l2.1 else k * l2.2)
  let hi : Int := (lz.2 : Int) + (if 0 ≤ k then k * l2.2 else k * l2.1)
  if 0 ≤ lo then settle 0x0D x false lo.toNat hi.toNat else settle 0x0D x true (-hi).toNat (-lo).toNat

/-- tanh x for finite x ≠ 0. -/
def Dy.tanh (x : Dy) : Dy :=
  if farOut x then justBelowOne x.neg
  else
    let v := expEnc (fixOf (x.scale 1))
    let one := 2 ^ encP
    settle 0x0E x x.neg ((v.1 - one) * one / (v.1 + one)) ((v.2 - one) * one / (v.2 + one) + 1)

/-- 1/(1 + e^−x) for finite x ≠ 0. -/
def Dy.sigmoid (x : Dy) : Dy :=
  if farOut x then (if x.neg then tiny else justBelowOne false)
  else
    let v := expEnc (fixOf x)
    let one := 2 ^ encP
    if x.neg then settle 0x0F x false (one * one / (v.2 + one)) (one * one / (v.1 + one) + 1)
    else settle 0x0F x false (v.1 * one / (v.1 + one)) (v.2 * one / (v.2 + one) + 1)

/-- Partial sum of Σ (−1)^i / ((2i+1) q^(2i+1)), terms at scale P rounded down, with the sign of term `i`. -/
def atanInvSum (q : Nat) : Nat → Nat → Nat → Int
  | 0, _, _ => 0
  | fuel + 1, i, p => (if i % 2 = 0 then ((p / (2 * i + 1) : Nat) : Int) else -((p / (2 * i + 1) : Nat) : Int)) + atanInvSum q fuel (i + 1) (p / (q * q))

/-- Enclosure of π: 16·atan(1/5) − 4·atan(1/239). -/
def piEnc : Nat × Nat :=
  let s := 16 * atanInvSum 5 200 0 (2 ^ encP / 5) - 4 * atanInvSum 239 200 0 (2 ^ encP / 239)
  (s.toNat - 8192, s.toNat + 8192)

/-- Partial sum of Σ 2^n x^(2n+1) / (1·3·…·(2n+1)) from a term on; x² at scale P. -/
def erfSum (x2 : Nat) : Nat → Nat → Nat → Nat
  | 0, _, _ => 0
  | fuel + 1, n, term => term + erfSum x2 fuel (n + 1) (term * (2 * x2) / 2 ^ encP / (2 * n + 3))

/-- erf x for finite x ≠ 0: (2/√π) e^(−x²) times a sum of positive terms; from |x| = 16 on just below 1. -/
def Dy.erf (x : Dy) : Dy :=
  if 4 ≤ x.msb then justBelowOne x.neg
  else
    let f := fixOf x
    let x2 := f * f / 2 ^ encP
    let s := erfSum x2 1400 0 f
    let e := expEnc x2
    let one := 2 ^ encP
    let sq : Nat × Nat := (isqrt (piEnc.1 * one), isqrt (piEnc.2 * one) + 1)
    settle 0x10 x x.neg (2 * s * one / e.2 * one / sq.2) (2 * (s + s / 2 ^ 500 + 2 ^ 14) * one / e.1 * one / sq.1 + 1)

/-- What the spec leaves open of a function at a zero or an infinity. -/
def openAt (fn case : Nat) : FNum := (psDecode (Config.openResult fn case % 2 ^ 36)).n

/-- A function of R72 on one operand: NaN stays NaN; the values the spec states; the rest at zeros and infinities is open, of
SQRT, TANH and ERF at −0 the sign of the zero alone (log entry 55). -/
def unaryFn (fn : Nat) (x : FNum) : FNum :=
  match x with
  | .nan => .nan
  | .inf s =>
    if (fn = 0x0A ∨ fn = 0x0B ∨ fn = 0x0D) ∧ s then .nan else openAt fn (if s then 3 else 2)
  | .fin d =>
    if d.m = 0 then
      if fn = 0x0C then .fin ⟨false, 1, 0⟩
      else if fn = 0x0D then .inf true
      else if fn = 0x0F then .fin ⟨false, 1, -1⟩
      else if fn = 0x0A ∨ fn = 0x0E ∨ fn = 0x10 then .fin ⟨d.neg && Config.openResult fn 1 % 2 == 1, 0, 0⟩
      else openAt fn (if d.neg then 1 else 0)
    else
      match fn with
      | 0x09 => .fin (Dy.div ⟨false, 1, 0⟩ d)
      | 0x0A => if d.neg then .nan else .fin d.sqrt
      | 0x0B => if d.neg then .nan else .fin d.rsqrt
      | 0x0C => .fin d.exp
      | 0x0D => if d.neg then .nan else if d.m = 2 ^ (-d.e).toNat ∧ d.e ≤ 0 then FNum.zero else .fin d.ln
      | 0x0E => .fin d.tanh
      | 0x0F => .fin d.sigmoid
      | _ => .fin d.erf

end Sys2Proof.Machine
end

