-- ==== Sys2Proof/Machine/Vector.lean ====
section
/-! DEFINITION. The vector queue: VEW, VRED, VCONV, VRAND (R57, R58, R72, R77–R79). -/
namespace Sys2Proof.Machine

/-- Tags of several values (R27). -/
def orTags (n : FNum) (vs : List Val) : Val :=
  { n, inexact := vs.any (·.inexact), overflow := vs.any (·.overflow), poison := vs.any (·.poison) }

/-- The exact result of a VEW subcode (R72). `k` is the exponent of SCALE. -/
def vewFn (sub : Nat) (k : Int) (a b c : FNum) : FNum :=
  match sub with
  | 0x00 => a.add b
  | 0x01 => a.add b.neg
  | 0x02 => a.mul b
  | 0x03 => (a.mul b).add c
  | 0x04 => a.max b
  | 0x05 => a.min b
  | 0x06 => a.abs
  | 0x07 => a.neg
  | 0x08 => a.scale k
  | 0x11 => if c.isZero then b else a
  | 0x12 => if a ≠ .nan ∧ b ≠ .nan ∧ b.lt a then .fin ⟨false, 1, 0⟩ else FNum.zero
  | 0x13 => (a.max b.neg).min b
  | _ => unaryFn sub a

/-- One-operand subcodes (R77). -/
def vewUnary (sub : Nat) : Bool := decide (0x06 ≤ sub ∧ sub ≤ 0x10)
/-- Subcodes that read operand c. -/
def vewTernary (sub : Nat) : Bool := sub == 0x03 || sub == 0x11

/-- An operand's coordinate for a destination coordinate: a dimension of SIZE 1 supplies its one element (R77). -/
def Desc.broadcast (d : Desc) (i : List Nat) : List Nat := (List.range 5).map fun k => if d.sz k = 1 then 0 else nth i k

/-- Whether an operand's shape fits a destination's iteration shape (R77). -/
def Desc.fits (o d : Desc) : Bool := o.rank == d.rank && (List.range 5).all fun k => o.sz k == 1 || o.sz k == d.sz k

/-- An operand of the vector engine: a number format, in a local space, not quantised on its way in. -/
def Desc.vecOperandBad (o : Desc) : Bool := o.bad || !o.localSpace || decide (12 < o.fmt) || o.qfmt != 0 || o.past none

/-- A destination of the vector engine. -/
def Desc.vecDestBad (d : Desc) : Bool := d.bad || !d.localSpace || d.qfmt != 0 || d.dstBad || d.past none

/-- Operand values of a VEW record: its descriptors, or the F32 of the immediate for b. -/
structure VewOps where
  a : Src
  b : Option Src
  c : Option Src
  bimm : Option FNum
  deriving Repr

/-- Value of an operand at a destination coordinate. -/
def World.vewVal (w : World) (core : Nat) (s : Src) (i : List Nat) : Val := (w.elemIter core s (s.d.broadcast i)).val s.d.fmt

/-- One element of a VEW record. -/
def World.vewElem (w : World) (core sub : Nat) (k : Int) (o : VewOps) (i : List Nat) : Val :=
  let a := w.vewVal core o.a i
  let b := match o.b with
    | some s => w.vewVal core s i
    | none => { n := o.bimm.getD FNum.zero }
  let c := match o.c with
    | some s => w.vewVal core s i
    | none => Val.zero
  let n := vewFn sub k a.n b.n c.n
  -- the inputs that led to the value (R25): of SELECT, the condition and the operand it chose
  if sub = 0x11 then orTags n [c, if c.n.isZero then b else a]
  else orTags n (a :: (if o.b.isSome then [b] else []) ++ (if o.c.isSome then [c] else []))

/-- Rounding the elements of a record into a PS36 destination, in order (R27, R77). -/
def roundVals (mode : Rm) (draw : Nat) : Rng → List (Nat × Val) → List Val × Rng
  | g, [] => ([], g)
  | g, (p, v) :: vs =>
    let r := g.roundPs mode p draw v
    let rest := roundVals mode draw r.2 vs
    (r.1 :: rest.1, rest.2)

/-- Writing exact results into a destination of FMT 0, 1, 2 or 12 (R72, R77): each rounded once in the output mode. -/
def convertExact (d : Desc) (mode : Rm) (draw : Nat) (g : Rng) (es : List CElem) : Conv :=
  if d.fmt = 12 then
    let r := roundVals mode draw g (es.map fun e => (e.pos, e.v))
    convert d 12 mode draw (fun _ => 0) r.2 ((es.zip r.1).map fun p => { p.1 with v := p.2 })
  else convert d d.fmt mode draw (fun _ => 0) g es

/-- VEW (R72, R77): every subcode over its operands. -/
def runVew (w : World) (e : Env) (t : Entry) : Run :=
  let r := t.cmd
  let ind (i : Nat) : Word := t.ind.getD i 0
  let sub := fld r.opflags.toNat 7 0
  let bimm := bit r.opflags.toNat 8
  let (oa, w) := w.fetchRef e r.p0 (ind 0) 64
  let (ob, w) := w.fetchRef e r.p1 (ind 1) 64
  let (oc, w) := w.fetchRef e r.p2 (ind 2) 64
  let (od, w) := w.fetchRef e r.p3 (ind 3) 64
  match firstFault [oa, ob, oc, od] with
  | some st => .fail w st
  | none =>
    let k : Int := if sub = 0x08 then sx 8 (fld r.imm.toNat 39 32) else 0
    let needB := !bimm && !vewUnary sub
    let shapeBad : Bool :=
      match oa.desc, od.desc with
      | some a, some d =>
        a.vecOperandBad || d.vecDestBad || !(decide (d.fmt ≤ 2) || d.fmt == 12) || !a.fits d
          || decide (1048576 < d.elems)
          || [ob, oc].any fun o => match o.desc with | some x => x.vecOperandBad || !x.fits d | none => false
      | _, _ => true
    let bad := commonBad e r || modeBad r || decide (0x13 < sub) || fld r.opflags.toNat 31 9 != 0
      || [oa, ob, oc, od].any Opd.isBad || oa.isNone || od.isNone
      || ob.isNone == needB || oc.isNone == vewTernary sub || shapeBad
    let xs := (od.desc.map Desc.writtenCoords).getD []
    let scBad := [oa, ob, oc].any fun o => match o.desc with | some x => w.operandScaleRefused e x (xs.map x.broadcast) | none => false
    match w.refuse e od.desc [(bad || scBad, stState), ([oa, ob, oc, od].any fun o => (o.desc.map Desc.misaligned).getD false, stAlign)] with
    | some q => q
    | none =>
      match oa.desc, od.desc with
      | some a, some d =>
        let mk (o : Opd) : Option Src := o.desc.map fun x => { d := x }
        let opds := { d := a : Src } :: (mk ob).toList ++ (mk oc).toList
        -- the pages of scale arrays kept in HBM
        let x := opds.foldl (fun (acc : Except Nat (List (Nat × Nat)) × World) s =>
          match acc.1 with
          | .error st => (.error st, acc.2)
          | .ok ps =>
            match acc.2.xlateScales e s false (xs.map s.d.broadcast) with
            | (.ok qs, w) => (.ok (ps ++ qs), w)
            | (.error st, w) => (.error st, w)) (.ok [], w)
        match x with
        | (.error st, w) => .fail w st
        | (.ok ps, w) =>
          let withPages (s : Src) : Src := { s with pages := ps }
          let o : VewOps :=
            { a := withPages { d := a }, b := (mk ob).map withPages, c := (mk oc).map withPages
              bimm := if bimm then some (decElem 0 (fld r.imm.toNat 31 0)) else none }
          let srcs := o.a :: o.b.toList ++ o.c.toList
          if srcs.any fun s => w.operandBadScale e s (xs.map s.d.broadcast) then .fail w stState
          else
            let g := rngOf w e r (isPositional w r)
            let es := xs.map fun i => { x := i, pos := rowMajor d.size i, v := w.vewElem e.c sub k o i : CElem }
            let v := convertExact d (outRm w r) 0 g es
            let fills := sumN (srcs.map fun s => fillCount s.d (xs.map s.d.broadcast))
            let w := srcs.foldl (fun w s => w.readOperand e s (xs.map s.d.broadcast)) w
            let w := w.writeConv e { d := d } v
            let w := (w.putRng e.c v.rng).countOob e.c fills d.droppedCount
            Run.settle e t.idx r w [] v.poison xs.length (oobFlag (fills + d.droppedCount))
      | _, _ => .fail w stState

/-! ## VRED (R57, R58, R78) -/

/-- Sum of exact terms with tags, before rounding: a group whose terms are all zero has sum +0 (R32, R34). -/
def groupZeroPlus (n : FNum) : FNum :=
  match n with
  | .fin d => if d.m = 0 then FNum.zero else n
  | _ => n

/-- The 96-bit window of R33 over finite terms: terms truncated at 2^(E−90), with a sticky bit of weight 2^(E−91). -/
def windowSum (ds : List Dy) : Dy :=
  let live := ds.filter fun d => d.m != 0
  match amaxOf (live.map fun d => { n := .fin d }) with
  | none => Dy.zero
  | some a =>
    let q := a.msb - 90
    let cut (d : Dy) : Dy × Bool :=
      if d.e < q then
        let n := (q - d.e).toNat
        (⟨d.neg, d.m >>> n, q⟩, decide (d.m % 2 ^ n ≠ 0))
      else (d, false)
    let s := (live.map fun d => (cut d).1).foldl Dy.add Dy.zero
    if live.any fun d => (cut d).2 then s.add ⟨false, 1, q - 1⟩ else s

/-- Sum of a group of terms (R32, R33): exact for narrow operands, in the window otherwise. -/
def groupSum (narrow : Bool) (vs : List Val) : Val :=
  let special := vs.any fun v => (match v.n with | .fin _ => false | _ => true)
  let n :=
    if special then vs.foldl (fun acc v => acc.add v.n) FNum.zero
    else
      let ds := vs.filterMap fun v => (match v.n with | .fin d => some d | _ => none)
      .fin (if narrow then ds.foldl Dy.add Dy.zero else windowSum ds)
  orTags (groupZeroPlus n) vs

/-- A list cut into groups of G. -/
def groupsOf {α : Type} (G : Nat) : Nat → List α → List (List α)
  | 0, _ => []
  | fuel + 1, l => if l.isEmpty then [] else l.take G :: groupsOf G fuel (l.drop G)

/-- Group sums added in increasing group order, each addition rounded to PS36 (R29 step 4); `g0` numbers the first group. -/
def accumulate (mode : Rm) (pos : Nat) : Rng → Nat → Val → List Val → Val × Rng
  | g, _, acc, [] => (acc, g)
  | g, k, acc, v :: vs =>
    let r := g.roundPs mode pos k (acc.add v)
    accumulate mode pos r.2 (k + 1) r.1 vs

/-- A value rounded to PS36 with RNE (R58). -/
def psRne (v : Val) : Val := roundPs .rne 0 v

/-- One operator of R58 and R59: RNE to PS36, tags of both operands. -/
def psAdd (a b : Val) : Val := psRne (a.add b)
def psSub (a b : Val) : Val := psRne (a.add { b with n := b.n.neg })
def psMul (a b : Val) : Val := psRne (orTags (a.n.mul b.n) [a, b])
def psDiv (a b : Val) : Val :=
  psRne (orTags (match a.n, b.n with
    | .fin x, .fin y => if y.m = 0 then .nan else .fin (x.div y)
    | .inf s, .fin y => .inf (s != y.neg)
    | _, _ => .nan) [a, b])

/-- A count as a PS36 value (R58). -/
def psCount (n : Nat) : Val := psRne { n := .fin ⟨false, n, 0⟩ }

/-- A MEANVAR triple (R58): count, mean, sum of squared deviations. -/
structure Triple where
  n : Nat
  mu : Val
  m2 : Val
  deriving DecidableEq, Repr

/-- One element taken into a triple (R58). -/
def Triple.take (t : Triple) (x : Val) : Triple :=
  let n := t.n + 1
  let d := psSub x t.mu
  let mu := psAdd t.mu (psDiv d (psCount n))
  { n, mu, m2 := psAdd t.m2 (psMul d (psSub x mu)) }

/-- M/n, or M/(n−1), where n = 1 gives +0 in the second form (R59). -/
def Triple.variance (t : Triple) (sample : Bool) : Val :=
  if sample then (if t.n ≤ 1 then Val.zero else psDiv t.m2 (psCount (t.n - 1))) else psDiv t.m2 (psCount t.n)

/-- MEANVAR with the overflow tag where the count saturates (R59) is the Crown's; a record's own count stays below 2^20. -/
def meanVar (vs : List Val) : Triple := vs.foldl Triple.take ⟨0, Val.zero, Val.zero⟩

/-- The reduction of a row (R57, R58, R72, R78): values written, source after it. -/
def vredRow (sub : Nat) (fmt G : Nat) (acc : Rm) (sample : Bool) (pos : Nat) (g : Rng) (vs : List Val) : List Val × Rng :=
  let narrow := fmtNarrow fmt
  match sub with
  | 0 =>
    let r := accumulate acc pos g 0 Val.zero ((groupsOf G vs.length vs).map (groupSum narrow))
    ([r.1], r.2)
  | 3 =>
    let sq := vs.map fun v => orTags (v.n.mul v.n) [v]
    let r := accumulate acc pos g 0 Val.zero ((groupsOf G vs.length sq).map (groupSum narrow))
    ([r.1], r.2)
  | 1 => ([orTags ((vs.tail.map (·.n)).foldl FNum.max (vs.head?.map (·.n) |>.getD FNum.zero)) vs], g)
  | 2 => ([orTags ((vs.tail.map (·.n)).foldl FNum.min (vs.head?.map (·.n) |>.getD FNum.zero)) vs], g)
  | 5 => ([orTags ((vs.map fun v => v.n.abs).foldl FNum.max FNum.zero) vs], g)
  | _ =>
    let t := meanVar vs
    ([t.mu, t.variance sample], g)

/-- One row's outputs converted and written in order, row after row (R246): elements, source after them. -/
def vredRows (d : Desc) (sub fmt G : Nat) (acc out : Rm) (sample : Bool) :
    Rng → List (List (List Nat) × List Val) → List (CElem × Nat) × Rng
  | g, [] => ([], g)
  | g, (outs, vs) :: rows =>
    let pos := (outs.head?.map (rowMajor d.size)).getD 0
    let r := vredRow sub fmt G acc sample pos g vs
    let es := (outs.zip ([r.1.getD 0 Val.zero, r.1.getD 1 Val.zero])).filter fun p => d.inValid p.1 && !d.beyondBound p.1
    let fin := es.foldl (fun (a : List (CElem × Nat) × Rng) p =>
      let pos := rowMajor d.size p.1
      if d.fmt = 12 then
        let z := a.2.roundPs out pos 0xFFFFFFFF p.2
        (a.1 ++ [({ x := p.1, pos, v := z.1 }, psEncode z.1)], z.2)
      else if p.2.poison then (a.1 ++ [({ x := p.1, pos, v := p.2 }, fmtNan d.fmt)], a.2)
      else
        let z := a.2.convPlain d.fmt out pos 0xFFFFFFFF p.2.n
        (a.1 ++ [({ x := p.1, pos, v := p.2 }, z.1)], z.2)) ([], r.2)
    let rest := vredRows d sub fmt G acc out sample fin.2 rows
    (fin.1 ++ rest.1, rest.2)

/-- The elements of a row. -/
def Desc.row (a : Desc) (o : List Nat) : List (List Nat) := (List.range (a.sz 0)).map (· :: o)

/-- The rows that a reduction reads: those of which an output is written (R525). -/
def vredOuts (a d : Desc) (width : Nat) : List (List Nat) :=
  (coordsOf (a.size.drop 1)).filter fun o => (List.range width).any fun k => d.inValid (k :: o) && !d.beyondBound (k :: o)

/-- VRED (R57, R58, R78): every subcode. -/
def runVred (w : World) (e : Env) (t : Entry) : Run :=
  let r := t.cmd
  let sub := fld r.opflags.toNat 7 0
  let sample := bit r.opflags.toNat 9
  let part := bit r.opflags.toNat 10
  let (oa, w) := w.fetchRef e r.p0 (t.ind.getD 0 0) 64
  let (od, w) := w.fetchRef e r.p3 (t.ind.getD 3 0) 64
  match firstFault [oa, od] with
  | some st => .fail w st
  | none =>
    let width := if sub = 4 then (if part then 3 else 2) else 1
    let shapeBad : Bool :=
      match oa.desc, od.desc with
      | some a, some d =>
        a.vecOperandBad || d.vecDestBad || a.rank != d.rank || d.sz 0 != width
          || ((List.range 5).any fun k => k != 0 && a.sz k != d.sz k) || decide (1048576 < a.elems)
          || (if part then d.fmt != 12 else !(decide (d.fmt ≤ 2) || d.fmt == 12))
          || ((sub == 0 || sub == 3) && groupSize r.gsize a.fmt a.fmt == 0)
      | _, _ => true
    let bad := commonBad e r || modeBad r || decide (5 < sub) || fld r.opflags.toNat 31 11 != 0 || bit r.opflags.toNat 8
      || ((sample || part) && sub != 4) || (sample && part) || unusedBad r false true true false
      || oa.isBad || od.isBad || oa.isNone || od.isNone || shapeBad
    let scBad := match oa.desc, od.desc with
      | some a, some d => w.operandScaleRefused e a ((vredOuts a d width).flatMap a.row)
      | _, _ => false
    match w.refuse e od.desc [(bad || scBad, stState), ([oa, od].any fun o => (o.desc.map Desc.misaligned).getD false, stAlign)] with
    | some q => q
    | none =>
      match oa.desc, od.desc with
      | some a, some d =>
        let rows := vredOuts a d width
        match w.xlateScales e { d := a } false (rows.flatMap a.row) with
        | (.error st, w) => .fail w st
        | (.ok ps, w) =>
          let s : Src := { d := a, pages := ps }
          if w.operandBadScale e s (rows.flatMap a.row) then .fail w stState
          else
            let vals := rows.map fun o =>
              ((List.range width).map (· :: o), (a.row o).map fun i => (w.elemIter e.c s i).val a.fmt)
            let g := rngOf w e r (isPositional w r)
            let G := groupSize r.gsize a.fmt a.fmt
            let out : List (CElem × Nat) × Rng :=
              if part then
                (vals.flatMap fun p =>
                  let m := meanVar p.2
                  let words := [m.n % 2 ^ 40, psEncode m.mu, psEncode m.m2]
                  let vs := [Val.zero, m.mu, m.m2]
                  ((p.1.zip words).zip vs).filterMap fun q =>
                    if d.inValid q.1.1 && !d.beyondBound q.1.1 then
                      some ({ x := q.1.1, pos := rowMajor d.size q.1.1, v := q.2 }, q.1.2)
                    else none, g)
              else vredRows d sub a.fmt (max G 1) (accRm w r) (outRm w r) sample g vals
            let poison := out.1.any fun p => p.1.v.poison
            let fills := fillCount a (rows.flatMap a.row)
            let w := w.readOperand e s (rows.flatMap a.row)
            let w := w.writeSpace e [] d.space (elemWrites d (out.1.map (·.1)) (out.1.map (·.2)))
            let w := (w.putRng e.c out.2).countOob e.c fills d.droppedCount
            Run.settle e t.idx r w [] poison out.1.length (oobFlag (fills + d.droppedCount))
      | _, _ => .fail w stState

/-! ## VCONV and VRAND (R79) -/

/-- VCONV: PS36 into any format of codes 0–11, with tile scales, retries and statistics. -/
def runVconv (w : World) (e : Env) (t : Entry) : Run :=
  let r := t.cmd
  let (oa, w) := w.fetchRef e r.p0 (t.ind.getD 0 0) 64
  let (od, w) := w.fetchRef e r.p3 (t.ind.getD 3 0) 64
  match firstFault [oa, od] with
  | some st => .fail w st
  | none =>
    let shapeBad : Bool :=
      match oa.desc, od.desc with
      | some a, some d =>
        a.vecOperandBad || a.fmt != 12 || !(a.space == 1 || a.space == 3) || d.vecDestBad || decide (11 < d.fmt)
          || a.rank != d.rank || a.size != d.size
      | _, _ => true
    let bad := commonBad e r || modeBad r || r.opflags != 0 || unusedBad r false true true false
      || oa.isBad || od.isBad || oa.isNone || od.isNone || shapeBad
    let scBad := w.outputScaleRefused e od.desc ((od.desc.map Desc.writtenCoords).getD [])
    match w.refuse e od.desc [(bad || scBad, stState), ([oa, od].any fun o => (o.desc.map Desc.misaligned).getD false, stAlign)] with
    | some q => q
    | none =>
      match oa.desc, od.desc with
      | some a, some d =>
        let xs := d.writtenCoords
        match w.xlateScales e { d := d } true xs with
        | (.error st, w) => .fail w st
        | (.ok ps, w) =>
          let dst : Src := { d := d, pages := ps }
          if w.outputBadScale e (some dst) xs then .fail w stState
          else
            let es := xs.map fun i => { x := i, pos := rowMajor d.size i, v := (w.elemIter e.c { d := a } i).val 12 : CElem }
            let v := convert d d.fmt (outRm w r) 0xFFFFFFFF (w.startScale e.c e.n dst) (rngOf w e r (isPositional w r)) es
            let fills := fillCount a xs
            let w := w.readOperand e { d := a } xs
            let w := w.writeConv e dst v
            let w := (w.putRng e.c v.rng).countOob e.c fills d.droppedCount
            Run.settle e t.idx r w v.satTiles v.poison v.retries (oobFlag (fills + d.droppedCount) + retryFlag v.retries)
      | _, _ => .fail w stState

/-- Random words for the written elements, in order (R72, R245). -/
def randWords : Rng → List Nat → List Word × Rng
  | g, [] => ([], g)
  | g, p :: ps =>
    let d := g.draw p 0
    let rest := randWords d.2 ps
    (d.1 :: rest.1, rest.2)

/-- The element of a VRAND subcode (R72, R79). -/
def vrandElem (sub : Nat) (imm : Nat) (x : Word) : Nat :=
  match sub with
  | 0 => x.toNat >>> 32
  | 1 => convPlain 0 .rne 0 (.fin ⟨false, x.toNat >>> 40, -24⟩)
  | _ => if x.toNat >>> 32 < imm % 2 ^ 32 then 0x3F800000 else 0

/-- VRAND (R72, R79). -/
def runVrand (w : World) (e : Env) (t : Entry) : Run :=
  let r := t.cmd
  let sub := fld r.opflags.toNat 7 0
  let (od, w) := w.fetchRef e r.p3 (t.ind.getD 3 0) 64
  match firstFault [od] with
  | some st => .fail w st
  | none =>
    let shapeBad : Bool :=
      match od.desc with
      | some d => d.vecDestBad || d.fmt != (if sub = 0 then 14 else 0) || decide (1048576 < d.elems)
      | none => true
    let bad := commonBad e r || r.rsrc == 2 || decide (2 < sub) || fld r.opflags.toNat 31 8 != 0
      || unusedBad r true true true false
      || od.isBad || od.isNone || shapeBad
    match w.refuse e od.desc [(bad, stState), ((od.desc.map Desc.misaligned).getD false, stAlign)] with
    | some q => q
    | none =>
      match od.desc with
      | some d =>
        let xs := d.writtenCoords
        let g := rngOf w e r (isPositional w r)
        let ws := randWords g (xs.map (rowMajor d.size))
        let bs := (xs.zip ws.1).map fun p => (⟨d.bitAddr p.1, d.bits, vrandElem sub r.imm.toNat p.2, false⟩ : BitWrite)
        let w := w.writeSpace e [] d.space bs
        let w := (w.putRng e.c ws.2).countOob e.c 0 d.droppedCount
        { w, st := stOk, count := xs.length, flags := oobFlag d.droppedCount }
      | none => .fail w stState

/-! ## The rows of the vector queue -/

/-- A record of an opcode and a subcode of the vector class. -/
def vrow (op sub : Nat) (r : Record) : Bool := r.op.toNat == op && fld r.opflags.toNat 7 0 == sub

/-- VEW ADD (R72): a + b. -/
def execVewAdd (c : CoreId) (s : State) : Out := .next (s.withW (s.runRow c .vector (vrow 0x40 0x00) runVew))

/-- VEW SUB (R72): a − b. -/
def execVewSub (c : CoreId) (s : State) : Out := .next (s.withW (s.runRow c .vector (vrow 0x40 0x01) runVew))

/-- VEW MUL (R72): a × b. -/
def execVewMul (c : CoreId) (s : State) : Out := .next (s.withW (s.runRow c .vector (vrow 0x40 0x02) runVew))

/-- VEW FMA (R72): a × b + c with one rounding. -/
def execVewFma (c : CoreId) (s : State) : Out := .next (s.withW (s.runRow c .vector (vrow 0x40 0x03) runVew))

/-- VEW MAX (R72): the larger of a and b. -/
def execVewMax (c : CoreId) (s : State) : Out := .next (s.withW (s.runRow c .vector (vrow 0x40 0x04) runVew))

/-- VEW MIN (R72): the smaller of a and b. -/
def execVewMin (c : CoreId) (s : State) : Out := .next (s.withW (s.runRow c .vector (vrow 0x40 0x05) runVew))

/-- VEW ABS (R72): |a|. -/
def execVewAbs (c : CoreId) (s : State) : Out := .next (s.withW (s.runRow c .vector (vrow 0x40 0x06) runVew))

/-- VEW NEG (R72): −a. -/
def execVewNeg (c : CoreId) (s : State) : Out := .next (s.withW (s.runRow c .vector (vrow 0x40 0x07) runVew))

/-- VEW SCALE (R72): a × 2^k. -/
def execVewScale (c : CoreId) (s : State) : Out := .next (s.withW (s.runRow c .vector (vrow 0x40 0x08) runVew))

/-- VEW RECIP (R72): 1/a. -/
def execVewRecip (c : CoreId) (s : State) : Out := .next (s.withW (s.runRow c .vector (vrow 0x40 0x09) runVew))

/-- VEW SQRT (R72): √a. -/
def execVewSqrt (c : CoreId) (s : State) : Out := .next (s.withW (s.runRow c .vector (vrow 0x40 0x0a) runVew))

/-- VEW RSQRT (R72): 1/√a. -/
def execVewRsqrt (c : CoreId) (s : State) : Out := .next (s.withW (s.runRow c .vector (vrow 0x40 0x0b) runVew))

/-- VEW EXP (R72): e^a. -/
def execVewExp (c : CoreId) (s : State) : Out := .next (s.withW (s.runRow c .vector (vrow 0x40 0x0c) runVew))

/-- VEW LOG (R72): ln a. -/
def execVewLog (c : CoreId) (s : State) : Out := .next (s.withW (s.runRow c .vector (vrow 0x40 0x0d) runVew))

/-- VEW TANH (R72): tanh a. -/
def execVewTanh (c : CoreId) (s : State) : Out := .next (s.withW (s.runRow c .vector (vrow 0x40 0x0e) runVew))

/-- VEW SIGMOID (R72): 1/(1 + e^−a). -/
def execVewSigmoid (c : CoreId) (s : State) : Out := .next (s.withW (s.runRow c .vector (vrow 0x40 0x0f) runVew))

/-- VEW ERF (R72): erf a. -/
def execVewErf (c : CoreId) (s : State) : Out := .next (s.withW (s.runRow c .vector (vrow 0x40 0x10) runVew))

/-- VEW SELECT (R72): a where c ≠ 0, else b. -/
def execVewSelect (c : CoreId) (s : State) : Out := .next (s.withW (s.runRow c .vector (vrow 0x40 0x11) runVew))

/-- VEW CMPGT (R72): 1.0 where a > b, else 0.0. -/
def execVewCmpgt (c : CoreId) (s : State) : Out := .next (s.withW (s.runRow c .vector (vrow 0x40 0x12) runVew))

/-- VEW CLIP (R72): min(max(a, −b), b). -/
def execVewClip (c : CoreId) (s : State) : Out := .next (s.withW (s.runRow c .vector (vrow 0x40 0x13) runVew))

/-- VRED SUM (R78): the sum of each row in the reference order. -/
def execVredSum (c : CoreId) (s : State) : Out := .next (s.withW (s.runRow c .vector (vrow 0x41 0) runVred))

/-- VRED MAX (R78): the maximum of each row. -/
def execVredMax (c : CoreId) (s : State) : Out := .next (s.withW (s.runRow c .vector (vrow 0x41 1) runVred))

/-- VRED MIN (R78): the minimum of each row. -/
def execVredMin (c : CoreId) (s : State) : Out := .next (s.withW (s.runRow c .vector (vrow 0x41 2) runVred))

/-- VRED SUMSQ (R78): the sum of squares of each row (R57). -/
def execVredSumsq (c : CoreId) (s : State) : Out := .next (s.withW (s.runRow c .vector (vrow 0x41 3) runVred))

/-- VRED MEANVAR (R78): mean and variance of each row, or the partial triple (R58). -/
def execVredMeanvar (c : CoreId) (s : State) : Out := .next (s.withW (s.runRow c .vector (vrow 0x41 4) runVred))

/-- VRED AMAX (R78): the largest magnitude of each row. -/
def execVredAmax (c : CoreId) (s : State) : Out := .next (s.withW (s.runRow c .vector (vrow 0x41 5) runVred))

/-- VCONV (R79): PS36 converted into the destination format. -/
def execVconv (c : CoreId) (s : State) : Out := .next (s.withW (s.runRow c .vector (fun r => r.op == 0x42) runVconv))

/-- VRAND BITS (R72): bits [63:32] of a word per element. -/
def execVrandBits (c : CoreId) (s : State) : Out := .next (s.withW (s.runRow c .vector (vrow 0x43 0) runVrand))

/-- VRAND UNIFORM (R72): a uniform F32 per element. -/
def execVrandUniform (c : CoreId) (s : State) : Out := .next (s.withW (s.runRow c .vector (vrow 0x43 1) runVrand))

/-- VRAND BERNOULLI (R72): 1.0 or 0.0 per element. -/
def execVrandBernoulli (c : CoreId) (s : State) : Out := .next (s.withW (s.runRow c .vector (vrow 0x43 2) runVrand))

end Sys2Proof.Machine
end

