-- ==== Sys2Proof/Machine/Matrix.lean ====
section
/-! DEFINITION. Dense products on the matrix queue (R29–R34, R50, R73–R76, R152): operand fetch with quantisation, the
accumulation in the reference order, the output conversion. -/
namespace Sys2Proof.Machine

/-- A matrix operand as its record reads it: values by (dimension 0, dimension 1), the scales it was quantised with, what it
counts, and out-of-bounds elements read as fill. -/
structure MatOp where
  vals : Tab Val := []
  /-- elements of re-quantised tiles, as the array took them before the re-quantisation (R50) -/
  first : Tab (Option Val) := []
  w0 : Nat := 1
  conv : Option Conv := none
  fills : Nat := 0
  deriving Repr

/-- Value of an operand at (i0, i1); absent coordinates are exact zeros. -/
def MatOp.at_ (o : MatOp) (i0 i1 : Nat) : Val := Tab.get Val.zero o.vals (i1 * o.w0 + i0)

/-- Whether the element at (i0, i1) lies in a tile that was quantised again. -/
def MatOp.again (o : MatOp) (i0 i1 : Nat) : Bool := (Tab.get none o.first (i1 * o.w0 + i0)).isSome
/-- Its value as the array first took it. -/
def MatOp.firstAt (o : MatOp) (i0 i1 : Nat) : Val := (Tab.get none o.first (i1 * o.w0 + i0)).getD (o.at_ i0 i1)

/-- Effective format of a matrix operand: QFMT where it quantises (R152). -/
def Desc.effFmt (d : Desc) : Nat := if d.qfmt = 0 then d.fmt else d.qfmt

/-- A matrix operand descriptor that breaks R73, R152 or R154. -/
def Desc.matOperandBad (d : Desc) : Bool :=
  d.bad || !d.localSpace || decide (11 < d.fmt) || d.past none || (d.qfmt != 0 && decide (2 < d.fmt))

/-- The decoding of a quantised element (R22, R23). -/
def decodeQuant (f raw : Nat) (sc : Nat) (poison : Bool) : Val := Elem.val f { raw, poison, sc := some sc }

/-- An element at its tile's starting scale, before the tile is quantised again (R50): the spec does not state the bits of one that overflows
there (Config.firstOverflow, DESIGN CHOICE, log entry 19). -/
def firstQuant (f : Nat) (mode : Rm) (s : Int) (g : Rng) (x : CElem) : Val :=
  let t := tileAttempt f mode 0xFFFFFFFE s false g [(0, x)]
  let raw := if t.2.1 = 0 then (t.1.head?.map (·.2)).getD 0 else Config.firstOverflow f x.pos s % 2 ^ fmtBits f
  decodeQuant f raw (ux 8 s) x.v.poison

/-- A matrix operand read at the iteration coordinates asked for, quantised where QFMT says so (R50, R152): RNE, or SRF in the
positional source under QSRF. -/
def World.matOperand (w : World) (e : Env) (r : Record) (s : Src) (is_ : List (List Nat)) : MatOp :=
  let d := s.d
  let key (i : List Nat) : Nat := nth i 1 * d.sz 0 + nth i 0
  if d.qfmt = 0 then
    { vals := is_.foldl (fun (t : Tab Val) i => Tab.set t (key i) ((w.elemIter e.c s i).val d.fmt)) [], w0 := d.sz 0, fills := fillCount d is_ }
  else
    let live := is_.filter fun i => (d.liveCoord i).isSome
    let x (i : List Nat) : List Nat := (d.memCoords i).getD []
    let es := live.map fun i => { x := x i, pos := quantPos d (x i), v := (w.elemIter e.c s i).val d.fmt : CElem }
    let mode : Rm := if d.qsrf then .srf else .rne
    let g := rngOf w e r true
    let v := convert d d.qfmt mode 0xFFFFFFFE (w.startScale e.c e.n s) g es
    let scOf (x : List Nat) : Nat := ((v.scales.find? fun t => t.1 = d.scaleIdx x).map (·.2)).getD (unitScale d.qfmt)
    let vals := (live.zip v.out).foldl (fun (t : Tab Val) p => Tab.set t (key p.1) (decodeQuant d.qfmt p.2.v (scOf (x p.1)) p.2.poison)) []
    let first := (live.zip es).foldl (fun (t : Tab (Option Val)) q =>
      if decide (d.scaleIdx q.2.x ∈ v.again) then
        Tab.set t (key q.1) (some (firstQuant d.qfmt mode (w.startScale e.c e.n s (d.scaleIdx q.2.x)) g q.2)) else t) []
    { vals, first, w0 := d.sz 0, conv := some v, fills := fillCount d is_ }

/-- What the quantisation of an operand leaves: its scale array and its statistics slot (R50, R152). -/
def World.putMatOp (w : World) (e : Env) (s : Src) (o : MatOp) : World :=
  match o.conv with
  | some v => (w.writeSpace e s.pages s.d.sspace (scaleWrites s.d v.scales)).foldStats e.n s.d.slot s.d.qfmt v
  | none => w

def MatOp.retries (o : MatOp) : Nat := (o.conv.map (·.retries)).getD 0
def MatOp.sat (o : MatOp) : List Nat := (o.conv.map (·.satTiles)).getD []

/-- One accumulation step: output (m, n) takes group g. -/
structure AccStep where
  m : Nat
  n : Nat
  g : Nat
  deriving DecidableEq, Repr

/-- Accumulation in the order given: each group sum is added to its output's accumulator and rounded to PS36 (R29 step 4, R246). -/
def accumulateSteps (mode : Rm) (cols : Nat) (pos : Nat → Nat → Nat) (draw : Nat → Nat) (sum : Nat → Nat → Nat → Val) :
    Rng → Tab Val → List AccStep → Tab Val × Rng
  | g, acc, [] => (acc, g)
  | g, acc, s :: ss =>
    let k := s.m * cols + s.n
    let r := g.roundPs mode (pos s.m s.n) (draw s.g) ((Tab.get Val.zero acc k).add (sum s.m s.n s.g))
    accumulateSteps mode cols pos draw sum r.2 (Tab.set acc k r.1) ss

/-- Accumulators of a record under way (R50): those of its first run, those that its results come from, and its source. The two differ where
an output has read a tile that is quantised again: the second stay as they were before it, for the steps that run again. -/
structure AccRun where
  acc : Tab Val
  kept : Tab Val
  g : Rng
  deriving Repr

/-- The first run of a record (R50). `redo` says which steps run again. -/
def accumulateFirst (mode : Rm) (cols : Nat) (pos : Nat → Nat → Nat) (draw : Nat → Nat) (sum : Nat → Nat → Nat → Val) (redo : AccStep → Bool) :
    AccRun → List AccStep → AccRun
  | a, [] => a
  | a, s :: ss =>
    let k := s.m * cols + s.n
    let r := a.g.roundPs mode (pos s.m s.n) (draw s.g) ((Tab.get Val.zero a.acc k).add (sum s.m s.n s.g))
    accumulateFirst mode cols pos draw sum redo
      { acc := Tab.set a.acc k r.1, kept := if redo s then a.kept else Tab.set a.kept k r.1, g := r.2 } ss

/-- All steps of a record in order: those of its first run, then those that run again (R50, R246). -/
def timeline (redo : AccStep → Bool) (steps : List AccStep) : List (AccStep × Bool) :=
  steps.map (·, false) ++ (steps.filter redo).map (·, true)

/-- The accumulation of a record over a stretch of its steps: its first run, then the steps that run again, with new words of a stream source
after every word of the first run (R50, R246). -/
def accumulateAll (mode : Rm) (cols : Nat) (pos : Nat → Nat → Nat) (draw : Nat → Nat) (first sum : Nat → Nat → Nat → Val)
    (redo : AccStep → Bool) (a : AccRun) (steps : List (AccStep × Bool)) : AccRun :=
  let f := accumulateFirst mode cols pos draw first redo a ((steps.filter fun s => !s.2).map (·.1))
  let r := accumulateSteps mode cols pos draw sum f.g f.kept ((steps.filter (·.2)).map (·.1))
  { f with kept := r.1, g := r.2 }

/-- The place of a step among the K-groups of a record, R290 naming one index: by the blocks of columns and their groups in load order, `at_` of
`all` places, the steps that run again behind all of the first run (DESIGN CHOICE, log entry 129). -/
def placeOf (all : Nat) (at_ : AccStep → Nat) (s : AccStep × Bool) : Nat := if s.2 then all + at_ s.1 else at_ s.1

/-- Steps from the K-group boundary where a record was stopped (R96). -/
def stepsFrom (at_ : AccStep × Bool → Nat) (next : Nat) (steps : List (AccStep × Bool)) : List (AccStep × Bool) :=
  steps.filter fun s => decide (next ≤ at_ s)

/-- The steps before a boundary, where they come first in the order of R246 and some remain. -/
def stepsUpTo (at_ : AccStep × Bool → Nat) (n : Nat) (steps : List (AccStep × Bool)) : Option (List (AccStep × Bool)) :=
  let a := steps.filter fun s => decide (at_ s < n)
  if a.length < steps.length ∧ steps.take a.length = a then some a else none

/-- A table of accumulators as PS36 containers, as a stopped record keeps it. -/
def accImage (t : Tab Val) : List (Nat × Nat) := t.map fun x => (x.1, psEncode x.2)

/-- The accumulators that a record starts from: at its start `fresh`; from a K-group boundary those in memory (`stored`, where it holds the
output), and what the part kept of the others. An image that came from outside keeps none: their value is free (DESIGN CHOICE, log entry 129). -/
def World.accFrom (w : World) (t : Entry) (cols : List Nat) (fresh : Tab Val) (stored : Nat → Option Val) (g : Rng) : AccRun :=
  if t.descs.isEmpty then { acc := fresh, kept := fresh, g }
  else
    let had (l : List (Nat × Nat)) (k : Nat) : Option Val := (l.find? fun x => x.1 == k).map fun x => psDecode x.2
    let kept (k : Nat) : Val :=
      match stored k, t.begun with
      | some v, _ => v
      | none, some b => (had b.kept k).getD Val.zero
      | none, none => psDecode (Config.freeNat (w.free + k) % 2 ^ 40)
    let acc (k : Nat) : Val :=
      match t.begun with
      | some b => if had b.acc k = had b.kept k then kept k else (had b.acc k).getD Val.zero
      | none => kept k
    { acc := cols.foldl (fun (u : Tab Val) k => Tab.set u k (acc k)) [], kept := cols.foldl (fun (u : Tab Val) k => Tab.set u k (kept k)) [], g }

/-- What a record that stops keeps beside its image. -/
def World.begunAs (w : World) (e : Env) (scales : List (List (Nat × Int))) (a : AccRun) : Begun :=
  { accMode := w.nums.accMode, outMode := w.nums.outMode, rsrc := w.nums.rsrc, seed := (w.ctx e.n).seed, scales
    acc := accImage a.acc, kept := accImage a.kept }

/-- The world as a record takes it that goes on from a K-group boundary: the defaults and the seed as at its start (R82, R255). -/
def World.asBegun (w : World) (n : Nat) (b : Begun) : World :=
  let w := w.setCtx n { w.ctx n with seed := b.seed }
  { w with nums := { w.nums with accMode := b.accMode, outMode := b.outMode, rsrc := b.rsrc } }

/-- A run that took the defaults and the seed of an earlier start, in the world that has its own. -/
def Run.asNow (q : Run) (n : Nat) (w0 : World) : Run :=
  let w := q.w.setCtx n { q.w.ctx n with seed := (w0.ctx n).seed }
  { q with w := { w with nums := { w.nums with accMode := w0.nums.accMode, outMode := w0.nums.outMode, rsrc := w0.nums.rsrc } } }

/-- A matrix record run: one that was stopped goes on as it started. -/
def goingOn (f : World → Env → Entry → Run) (w : World) (e : Env) (t : Entry) : Run :=
  match t.begun with
  | none => f w e t
  | some b => (f (w.asBegun e.n b) e t).asNow e.n w

/-- The starting scales that an entry kept of its operand i. -/
def Entry.scales (t : Entry) (i : Nat) : Option (List (Nat × Int)) := t.begun.map fun b => b.scales.getD i []

/-- A descriptor that a record reads at its start, or the one saved with a record that was stopped (R82, R290). -/
def World.fetchDesc (w : World) (e : Env) (t : Entry) (i : Nat) (p ind : Word) : Opd × World :=
  if t.descs.isEmpty || p == 0 then w.fetchRef e p ind 64 else (.at_ (refSpace p) (refAddr p ind) (sl t.descs (64 * i) 64) false, w)

/-- Depth of a sub-tile for the wider of two formats (R90). -/
def subTileK (f1 f2 : Nat) : Nat :=
  if f1 == 0 || f2 == 0 then 8
  else if f1 == 1 || f1 == 2 || f2 == 1 || f2 == 2 then 32
  else if (f1 == 5 || f1 == 11) && (f2 == 5 || f2 == 11) then 128 else 64

/-- The steps of a dense record in sub-tile order (R246): 32-column blocks, sub-tiles in increasing k, rows, groups that close in
the sub-tile, columns. -/
def denseSteps (M N K G Kt : Nat) : List AccStep :=
  let ng := cdiv K G
  (List.range (cdiv N 32)).flatMap fun b =>
    (List.range (cdiv K Kt)).flatMap fun t =>
      let closing := (List.range ng).filter fun g => (min K ((g + 1) * G) - 1) / Kt == t
      (List.range M).flatMap fun m => closing.flatMap fun g =>
        (List.range (min 32 (N - 32 * b))).map fun c => ⟨m, 32 * b + c, g⟩

/-- Sum of one group of products (R31–R33). -/
def dotGroup (narrow : Bool) (a b : Nat → Val) (ks : List Nat) : Val :=
  groupSum narrow (ks.map fun k => orTags ((a k).n.mul (b k).n) [a k, b k])

/-- The descriptors of the accumulator and of the output (R73, R182): FMT 12 in SPACE 3; SPACE 1 or 3 of any code to 12. -/
def accBad (p2 : Desc) (o3 : Opd) : Bool :=
  p2.bad || p2.space != 3 || p2.fmt != 12 || p2.rank != 2 || p2.qfmt != 0 || p2.dstBad || p2.past none
    || (match o3.desc with
      | some d => d.bad || !(d.space == 1 || d.space == 3) || decide (12 < d.fmt) || d.qfmt != 0 || d.dstBad || d.past none
          || d.rank != 2 || d.size != p2.size
      | none => false)

/-- The record of unit 7 (R480): address and list entry. -/
def World.raiseSparse (w : World) (e : Env) (st addr entry : Nat) : World :=
  w.raise clsUe uSparse st e.c (some e.n) (dieOfCore e.c) addr (leBytes 2 entry)

/-- Status of a product (R28, R52, R185): as any conversion's, but a malformed Batt raises the one record that names its list and
entry in place of the record of its poisoned results (DEDUCED, log entry 23). -/
def Run.settleTile (e : Env) (t : Entry) (w : World) (sat : List Nat) (poison : Bool) (tile : Option (Nat × Nat)) (count flags : Nat) : Run :=
  match tile with
  | none => Run.settle e t.idx t.cmd w sat poison count flags
  | some (addr, entry) =>
    let q := Run.settle e t.idx t.cmd w sat false count flags
    { q with w := q.w.raiseSparse e stPoison addr entry, st := stPoison }

/-- The starting scales of an output (R48), as the record finds them at its start (R82). -/
def World.outStart (w : World) (e : Env) (p3 : Option Src) (k : Nat) : Int :=
  match p3 with
  | some d => w.startScale e.c e.n d k
  | none => 0
def World.outTable (w : World) (e : Env) (p3 : Option Src) (xs : List (List Nat)) : List (Nat × Int) :=
  match p3 with
  | some d => w.startTable e.c e.n d (xs.map d.d.scaleIdx)
  | none => []

/-- A product stopped at a K-group boundary (R96): its accumulators in the Partial-Sum Store, the words of its stream taken. -/
def World.stopProduct (w : World) (e : Env) (p2 : Desc) (cols : Nat) (a : AccRun) (next : Nat) (descs : List Byte)
    (scales : List (List (Nat × Int))) : Run :=
  let es := p2.writtenCoords.map fun x => { x, pos := 0, v := Tab.get Val.zero a.kept (nth x 1 * cols + nth x 0) : CElem }
  { w := ((w.writeSpace e [] 3 (convert p2 12 .rne 0 (fun _ => 0) a.g es).out).putRng e.c a.g).softStart e.c, st := stOk
    stopped := some (next, descs, w.begunAs e scales a) }

/-- What a product record ends with: the accumulator written, the output converted from its starting scales, counts, statistics and status. -/
def World.finishProduct (w : World) (e : Env) (t : Entry) (p2 : Desc) (p3 : Option Src) (acc : Nat → Nat → Val)
    (pos : Nat → Nat → Nat) (start : Nat → Int) (g : Rng) (extraRetries : Nat) (extraSat : List Nat) (fills : Nat)
    (tile : Option (Nat × Nat)) (count : Option Nat) : Run :=
  let r := t.cmd
  let val (x : List Nat) : Val := acc (nth x 1) (nth x 0)
  let xs2 := p2.writtenCoords
  let es2 := xs2.map fun x => { x, pos := pos (nth x 1) (nth x 0), v := val x : CElem }
  let c2 := convert p2 12 .rne 0 (fun _ => 0) g es2
  let w1 := w.writeSpace e [] 3 c2.out
  let drop2 := p2.droppedCount
  match p3 with
  | none =>
    let w1 := (w1.putRng e.c g).countOob e.c fills drop2
    Run.settleTile e t w1 extraSat c2.poison tile (count.getD extraRetries) (oobFlag (fills + drop2) + retryFlag extraRetries)
  | some d =>
    let xs := d.d.writtenCoords
    let es := xs.map fun x => { x, pos := pos (nth x 1) (nth x 0), v := val x : CElem }
    let v := convert d.d d.d.fmt (outRm w r) 0xFFFFFFFF start g es
    let w1 := w1.writeConv e d v
    let drop := drop2 + d.d.droppedCount
    let w1 := (w1.putRng e.c v.rng).countOob e.c fills drop
    let retries := extraRetries + v.retries
    Run.settleTile e t w1 (extraSat ++ v.satTiles) (c2.poison || v.poison) tile (count.getD retries)
      (oobFlag (fills + drop) + retryFlag retries)

/-- Rows and columns of a product that some destination receives (R525). -/
def liveOutputs (p2 : Desc) (p3 : Option Desc) : List (Nat × Nat) :=
  (coordsOf p2.size).filterMap fun x =>
    let live := (p2.inValid x && !p2.beyondBound x) || (match p3 with | some d => d.inValid x && !d.beyondBound x | none => false)
    if live then some (nth x 1, nth x 0) else none

/-- Starting values of a product's accumulators: stored PS36 values under ACC, +0 otherwise (R73). -/
def World.accStart (w : World) (core : Nat) (p2 : Desc) (accFlag : Bool) (outs : List (Nat × Nat)) : Tab Val :=
  if accFlag then outs.foldl (fun (t : Tab Val) o => Tab.set t (o.1 * p2.sz 0 + o.2) ((w.elemIter core { d := p2 } [o.2, o.1, 0, 0, 0]).val 12)) []
  else []

/-- The accumulators that a product goes on from: at its start, or at the boundary where it was stopped, with what the Partial-Sum Store holds. -/
def World.productFrom (w : World) (e : Env) (t : Entry) (p2 : Desc) (accFlag : Bool) (outs : List (Nat × Nat)) (g : Rng) : AccRun :=
  let xs := p2.writtenCoords
  let stored (k : Nat) : Option Val :=
    let x := [k % p2.sz 0, k / p2.sz 0, 0, 0, 0]
    if x ∈ xs then some ((w.elemIter e.c { d := p2 } x).val 12) else none
  w.accFrom t (outs.map fun o => o.1 * p2.sz 0 + o.2) (w.accStart e.c p2 accFlag outs) stored g

/-- MATMUL (R73–R76), stopped at the K-group boundary `upTo` where one is asked for and the record can stop there (R96). -/
def runMatmul (upTo : Option Nat) (w : World) (e : Env) (t : Entry) : Run :=
  let r := t.cmd
  let ind (i : Nat) : Word := t.ind.getD i 0
  let (oa, w) := w.fetchDesc e t 0 r.p0 (ind 0)
  let (ob, w) := w.fetchDesc e t 1 r.p1 (ind 1)
  let (o2, w) := w.fetchDesc e t 2 r.p2 (ind 2)
  let (o3, w) := w.fetchDesc e t 3 r.p3 (ind 3)
  let ops := [oa, ob, o2, o3]
  match firstFault ops with
  | some st => .fail w st
  | none =>
    let shapeBad : Bool :=
      match oa.desc, ob.desc, o2.desc with
      | some a, some b, some p2 =>
        a.matOperandBad || b.matOperandBad || a.rank != 2 || b.rank != 2 || accBad p2 o3
          || a.sz 0 != b.sz 1 || a.sz 1 != p2.sz 1 || b.sz 0 != p2.sz 0
          || decide (1024 < a.sz 1) || decide (2048 < b.sz 0) || decide (16384 < a.sz 1 * b.sz 0)
          || pairBad a.effFmt b.effFmt || groupSize r.gsize a.effFmt b.effFmt == 0
      | _, _, _ => true
    let bad := commonBad e r || modeBad r || fld r.opflags.toNat 31 20 != 0 || bit r.opflags.toNat 1
      || ops.any Opd.isBad || oa.isNone || ob.isNone || o2.isNone || shapeBad
    let outs := match o2.desc with | some p2 => liveOutputs p2 o3.desc | none => []
    let ms := distinct (outs.map (·.1))
    let ns := distinct (outs.map (·.2))
    let rows (a : Desc) := ms.flatMap fun m => (List.range (a.sz 0)).map fun k => [k, m, 0, 0, 0]
    let cols (b : Desc) := (List.range (b.sz 1)).flatMap fun k => ns.map fun n => [n, k, 0, 0, 0]
    let xs3 := (o3.desc.map Desc.writtenCoords).getD []
    let scBad := match oa.desc, ob.desc with
      | some a, some b => w.operandScaleRefused e a (rows a) || w.operandScaleRefused e b (cols b) || w.outputScaleRefused e o3.desc xs3
      | _, _ => false
    match firstRefusal [(bad || scBad, stState), (ops.any fun o => (o.desc.map Desc.misaligned).getD false, stAlign)] with
    | some st => .fail w st
    | none =>
      match oa.desc, ob.desc, o2.desc with
      | some a, some b, some p2 =>
        let K := a.sz 0
        let N := b.sz 0
        let ia := rows a
        let ib := cols b
        match w.xlateScales e { d := a } (a.qfmt != 0) ia with
        | (.error st, w) => .fail w st
        | (.ok pa, w) =>
          match w.xlateScales e { d := b } (b.qfmt != 0) ib with
          | (.error st, w) => .fail w st
          | (.ok pb, w) =>
            match (match o3.desc with | some d => w.xlateScales e { d := d } true xs3 | none => (.ok [], w)) with
            | (.error st, w) => .fail w st
            | (.ok p3, w) =>
              let sa : Src := { d := a, pages := pa, held := t.scales 0 }
              let sb : Src := { d := b, pages := pb, held := t.scales 1 }
              let s3 : Option Src := o3.desc.map fun d => { d := d, pages := p3, held := t.scales 2 }
              if w.operandBadScale e sa ia || w.operandBadScale e sb ib || w.outputBadScale e s3 xs3 then .fail w stState
              else
                let fa := a.effFmt
                let fb := b.effFmt
                let G := groupSize r.gsize fa fb
                let kg0 := fld r.opflags.toNat 19 2
                let accFlag := bit r.opflags.toNat 0
                let A := w.matOperand e r sa ia
                let B := w.matOperand e r sb ib
                let stride := fld r.imm.toNat 63 40
                let pstride := if stride = 0 then N else stride
                let pos (m n : Nat) : Nat := fld r.imm.toNat 39 0 + m * pstride + n
                let narrow := fmtNarrow fa && fmtNarrow fb
                let ks (g : Nat) : List Nat := (List.range (min G (K - g * G))).map (g * G + ·)
                let sum (m n g : Nat) : Val := dotGroup narrow (fun k => A.at_ k m) (fun k => B.at_ n k) (ks g)
                let first (m n g : Nat) : Val := dotGroup narrow (fun k => A.firstAt k m) (fun k => B.firstAt n k) (ks g)
                let redo (s : AccStep) : Bool := (List.range (min K ((s.g + 1) * G))).any fun k => A.again k s.m || B.again s.n k
                let place := placeOf (cdiv N 32 * cdiv K G) fun s => s.n / 32 * cdiv K G + s.g
                let steps := stepsFrom place t.next (timeline redo ((denseSteps (a.sz 1) N K G (subTileK fa fb)).filter fun s => decide ((s.m, s.n) ∈ outs)))
                let run := accumulateAll (accRm w r) N pos (kg0 + ·) first sum redo
                  (w.productFrom e t p2 accFlag outs (rngOf w e r (isPositional w r)))
                let halt := upTo.bind fun n => (stepsUpTo place (max n t.next) steps).map fun part =>
                  w.stopProduct e p2 N (run part) (max n t.next) (ops.flatMap fun o => sl o.block 0 64)
                    [w.startTable e.c e.n sa (a.usedScales ia), w.startTable e.c e.n sb (b.usedScales ib), w.outTable e s3 xs3]
                if let some q := halt then q else
                let acc := run steps
                let w1 := (w.readOperand e sa ia).readOperand e sb ib
                let w1 := if accFlag then w1.readOperand e { d := p2 } (outs.map fun o => [o.2, o.1, 0, 0, 0]) else w1
                let w1 := ((w1.putMatOp e sa A).putMatOp e sb B).softStart e.c
                w1.finishProduct e t p2 s3 (fun m n => Tab.get Val.zero acc.kept (m * N + n)) pos (w.outStart e s3) acc.g (A.retries + B.retries)
                  (A.sat ++ B.sat) (A.fills + B.fills) none none
      | _, _, _ => .fail w stState

/-- MATMUL (R73): the dense product in PS36, converted into the output descriptor where one is named. -/
def execMatmul (c : CoreId) (s : State) : Out := .next (s.withW (s.runRow c .matrix (fun r => r.op == 0x30) (goingOn (runMatmul none))))

end Sys2Proof.Machine
end

