-- ==== Sys2Proof/Machine/Batt.lean ====
section
/-! DEFINITION. Batts, Batt lists and pools (R168–R178, R185), their smallest encoding (R173), the check of a pool image (R180),
active-neuron lists (R223, R224) and predictor slots (R232). -/
namespace Sys2Proof.Machine

/-! ## Batts -/

/-- Element formats of a Batt (R168). -/
def battFmt (f : Nat) : Bool := decide (1 ≤ f ∧ f ≤ 8) || f == 11
/-- The pattern with only the sign bit set (R172). -/
def absentBits (f : Nat) : Nat := 2 ^ (fmtBits f - 1)
/-- H (R170): 160 for an MX format that is not EMPTY, else 32. -/
def battHead (f enc : Nat) : Nat := if fmtMx f && enc != 0 then 160 else 32
/-- X (R170): bytes of the coordinates of an INDEX body. -/
def battCoords (nnz : Nat) : Nat := 8 * cdiv (12 * nnz) 64
/-- Offset of a Batt's values (R170). -/
def battVals (f enc nnz : Nat) : Nat :=
  battHead f enc + (if enc = 1 then 512 else if enc = 2 then battCoords nnz else 0)
/-- Size of a Batt in bytes (R170). -/
def battSize (f enc nnz : Nat) : Nat :=
  if enc = 0 then 32
  else if enc = 3 then battHead f enc + 512 * fmtBits f
  else battVals f enc nnz + cdiv (nnz * fmtBits f) 8
/-- The smallest encoding (R173). -/
def battEnc (f nnz : Nat) : Nat :=
  if nnz = 0 then 0
  else
    let cand := if battSize f 2 nnz ≤ battSize f 1 nnz then 2 else 1
    if battSize f 3 nnz ≤ battSize f cand nnz then 3 else cand

/-- A decoded Batt: header fields, stored weights as (position, bits) in increasing position, MX block scales, the positions whose
value was read with the poison tag. -/
structure Batt where
  fmt : Nat
  enc : Nat
  scale : Nat
  granules : Nat
  kti : Nat
  nti : Nat
  gen : Nat
  w : List (Nat × Nat)
  mx : List Byte
  taint : List Nat := []
  deriving DecidableEq, Repr

/-- Number of stored weights. -/
def Batt.nnz (b : Batt) : Nat := b.w.length

/-- Stored positions of a body (R171, R172). -/
def battPositions (f enc nnz : Nat) (bs : List Byte) : List Nat :=
  let h := battHead f enc
  if enc = 1 then
    let map := leNat (sl bs h 512)
    (List.range 4096).filter fun p => bit map p
  else if enc = 2 then
    let cs := leNat (sl bs h (battCoords nnz))
    (List.range nnz).map fun j => (cs >>> (12 * j)) % 4096
  else if enc = 3 then
    let vs := leNat (sl bs h (512 * fmtBits f))
    (List.range 4096).filter fun p => (vs >>> (p * fmtBits f)) % 2 ^ fmtBits f != absentBits f
  else []

/-- Whether a list of numbers rises strictly. -/
def rising : List Nat → Bool
  | [] => true
  | [_] => true
  | a :: b :: t => decide (a < b) && rising (b :: t)

/-- A Batt from the bytes of its granules (R169–R173, R185); none where it is malformed in itself. `bad` says which 16-byte word
was read with the poison tag. An element of a DENSE body that shows the absent pattern within such a word is taken as absent, and untainted
(DESIGN CHOICE, log entry 130). -/
def Batt.decode (bs : List Byte) (bad : Nat → Bool) : Option Batt :=
  let f := le bs 0 1
  let flags := le bs 1 1
  let enc := flags % 4
  let nnz := le bs 2 2
  let scale := le bs 4 1
  let gr := le bs 5 1
  let b := fmtBits f
  let off := battVals f enc nnz
  let ps := battPositions f enc nnz bs
  if !battFmt f || flags / 8 != 0 || !allZero (sl bs 10 2) || !allZero (sl bs 16 16)
      || (if fmtTile f then scale == 0x80 else scale != 0)
      || (bit flags 2 != (enc == 3)) || decide (4096 < nnz) || (nnz == 0) != (enc == 0)
      || gr != cdiv (battSize f enc nnz) 256 || ps.length != nnz || !rising ps then none
  else
    let vs := leNat (sl bs off (cdiv ((if enc = 3 then 4096 else nnz) * b) 8))
    let at_ (j p : Nat) : Nat := if enc = 3 then p else j
    let w := ps.zipIdx.map fun x => (x.1, (vs >>> (at_ x.2 x.1 * b)) % 2 ^ b)
    let mx := if fmtMx f && enc != 0 then sl bs 32 128 else []
    let taint := (ps.zipIdx.filter fun x =>
      bad ((off + at_ x.2 x.1 * b / 8) / 16) || bad ((off + (at_ x.2 x.1 * b + b - 1) / 8) / 16)
        || (fmtMx f && bad ((32 + 64 * (x.1 / 2048) + x.1 % 64) / 16))).map (·.1)
    some { fmt := f, enc, scale, granules := gr, kti := le bs 6 2, nti := le bs 8 2, gen := le bs 12 4, w, mx, taint }

/-- A stored value as a rewritten Batt holds it: a value with the absent pattern reads as +0 and is written +0, INT8 −128 too, so that its value does
not change (R172, R201; DEDUCED, log entry 160). -/
def battRaw (f raw : Nat) : Nat := if raw = absentBits f then 0 else raw
/-- A new value (R181): the absent pattern gives the nearest stored value of smaller magnitude. -/
def newRaw (f raw : Nat) : Nat := if raw = absentBits f then (if f = 6 then 0x81 else 0) else raw

/-- Elements of `b` bits packed from bit 0 on (R138). -/
def packBits (b : Nat) (l : List Nat) : Nat := l.foldr (fun x acc => x % 2 ^ b + 2 ^ b * acc) 0

/-- The granules of a Batt in its smallest encoding (R169–R173), reserved bytes zero. -/
def Batt.encode (x : Batt) : List Byte :=
  let f := x.fmt
  let n := x.nnz
  let enc := battEnc f n
  let b := fmtBits f
  let size := battSize f enc n
  let gr := cdiv size 256
  let head := leBytes 1 f ++ leBytes 1 (enc + if enc = 3 then 4 else 0) ++ leBytes 2 n
    ++ leBytes 1 (if fmtTile f then x.scale else 0) ++ leBytes 1 gr ++ leBytes 2 x.kti ++ leBytes 2 x.nti ++ leBytes 2 0
    ++ leBytes 4 x.gen ++ leBytes 16 0
  let mx := if fmtMx f && enc != 0 then sl x.mx 0 128 else []
  let raws := x.w.map fun e => battRaw f e.2
  let body :=
    if enc = 1 then leBytes 512 ((x.w.map fun e => 2 ^ e.1).foldl (· + ·) 0) ++ leBytes (cdiv (n * b) 8) (packBits b raws)
    else if enc = 2 then leBytes (battCoords n) (packBits 12 (x.w.map (·.1))) ++ leBytes (cdiv (n * b) 8) (packBits b raws)
    else if enc = 3 then
      leBytes (512 * b) (packBits b ((List.range 4096).map fun p => Tab.get (absentBits f) (x.w.map fun e => (e.1, battRaw f e.2)) p))
    else []
  sl (head ++ mx ++ body) 0 (256 * gr)

/-- Value of a stored weight: element times its tile or block scale (R22, R23, R172). -/
def Batt.num (x : Batt) (p raw : Nat) : FNum :=
  let v := decElem x.fmt (if raw = absentBits x.fmt then 0 else raw)
  if fmtTile x.fmt then v.scale (-(sx 8 x.scale))
  else if fmtMx x.fmt then
    let s := (x.mx.getD (64 * (p / 2048) + p % 64) 0x7F).toNat
    if s = 0xFF then .nan else v.scale ((s : Int) - 127)
  else v

/-! ## Lists and pools -/

/-- A Batt list's header with the run of its pool (R176–R178). -/
structure BattList where
  gran : Nat
  fmt : Nat
  pool : Nat
  hi : Nat
  kt : Nat
  nt : Nat
  kbase : Nat
  nbase : Nat
  ktotal : Nat
  ntotal : Nat
  ordbase : Nat
  total : Nat
  slot : Nat
  grans : Nat
  deriving DecidableEq, Repr

/-- Rows and columns that a list covers (R178). -/
def BattList.kl (l : BattList) : Nat := min (64 * l.kt) (l.ktotal - l.kbase)
def BattList.nl (l : BattList) : Nat := min (64 * l.nt) (l.ntotal - l.nbase)
/-- List entries. -/
def BattList.entries (l : BattList) : Nat := l.kt * l.nt

/-- Granules of the free map of a pool (R175). -/
def mapGranules (pool : Nat) : Nat := cdiv pool 2048
/-- Granules of a Batt list (R177). -/
def listGranules (kt nt : Nat) : Nat := cdiv (64 + 2 * (kt * nt)) 256

/-- A pool header that breaks R176, at granule g. -/
def poolBad (h : List Byte) (g : Nat) : Bool :=
  let n := le h 4 2
  let nl := le h 8 2
  le h 0 2 != 1 || le h 2 2 != g || decide (n < 3) || decide (8192 < n) || decide (8192 < g + n) || !allZero (sl h 10 6)
    || nl == 0 || decide (24 < nl) || !allZero (sl h (16 + 2 * nl) (48 - 2 * nl))

/-- A Batt list's header read from a Weight Store; none where it or its pool's header breaks R176–R178. -/
def BattList.parse (m : List Host.Cell) (g : Nat) : Option BattList :=
  let h := Cells.read m (256 * g) 64
  let pool := le h 2 2
  let ph := Cells.read m (256 * pool) 64
  let l : BattList :=
    { gran := g, fmt := le h 0 1, pool, hi := pool + le ph 4 2, kt := le h 4 2, nt := le h 6 2, kbase := le h 8 4, nbase := le h 12 4,
      ktotal := le h 16 4, ntotal := le h 20 4, ordbase := le h 24 4, total := le h 28 4, slot := le h 32 2 % 4096, grans := le h 34 2 }
  if poolBad ph pool || !battFmt l.fmt || le h 1 1 != 0 || decide (4096 ≤ le h 32 2) || !allZero (sl h 36 28)
      || l.kt == 0 || decide (4096 < l.kt) || l.nt == 0 || decide (4096 < l.nt) || decide (8000 < l.entries)
      || l.kbase % 64 != 0 || l.nbase % 64 != 0 || decide (l.ktotal ≤ l.kbase) || decide (l.ntotal ≤ l.nbase)
      || decide (l.kl ≤ 64 * (l.kt - 1)) || decide (l.nl ≤ 64 * (l.nt - 1)) || decide (2 ^ 32 < l.ordbase + l.total)
      || decide (g ≤ pool) || decide (l.hi < g + listGranules l.kt l.nt) then none
  else some l

/-- Granule that a list entry names (R177). -/
def BattList.entry (l : BattList) (m : List Host.Cell) (e : Nat) : Nat := leNat (Cells.read m (256 * l.gran + 64 + 2 * e) 2)
/-- Byte address of a list entry. -/
def BattList.entryAddr (l : BattList) (e : Nat) : Nat := 256 * l.gran + 64 + 2 * e

/-- A Batt as a record reads it: malformed (R185), with poison where its positions come from, or decoded. -/
inductive BattRead where
  | malformed
  | poisoned
  | ok (b : Batt)
  deriving Repr

/-- Granule run of the Batt of an entry, as its header says it: first granule and count. -/
def BattList.run (l : BattList) (m : List Host.Cell) (e : Nat) : Nat × Nat :=
  let g := l.entry m e
  (g, leNat (Cells.read m (256 * g + 5) 1))

/-- The Batt of a list entry, with the checks of R185. Poison in its header, map or coordinates leaves its positions unknown:
the whole tile is then read as poisoned (DEDUCED, log entry 20). -/
def BattList.batt (l : BattList) (m : EccMem) (e : Nat) : BattRead :=
  let g := l.entry m.cells e
  let n := leNat (Cells.read m.cells (256 * g + 5) 1)
  if m.poisoned 16 (l.entryAddr e) 2 then .malformed
  else if g < l.pool ∨ l.hi ≤ g then .malformed
  else if m.poisoned 16 (256 * g) 32 then .poisoned
  else if n = 0 ∨ 33 < n ∨ l.hi < g + n then .malformed
  else
    match Batt.decode (Cells.read m.cells (256 * g) (256 * n)) fun w => m.bad (16 * g + w) with
    | none => .malformed
    | some b =>
      if b.fmt != l.fmt || b.kti != e / l.nt || b.nti != e % l.nt
          || b.w.any fun x => decide (l.kl ≤ 64 * b.kti + x.1 / 64) || decide (l.nl ≤ 64 * b.nti + x.1 % 64) then .malformed
      else if (b.enc == 1 || b.enc == 2)
          && m.poisoned 16 (256 * g + battHead b.fmt b.enc) (battVals b.fmt b.enc b.nnz - battHead b.fmt b.enc) then .poisoned
      else .ok b

/-- Whether any byte of a tile's granules or its entry is read with the poison tag (R210). -/
def BattList.tainted (l : BattList) (m : EccMem) (e : Nat) : Bool :=
  m.poisoned 16 (l.entryAddr e) 2 || m.poisoned 16 (256 * (l.run m.cells e).1) (256 * (l.run m.cells e).2)

/-- Stored weights of the entries before e: what a Batt that cannot be read holds counts as none (DEDUCED, log entry 21). -/
def BattList.before (l : BattList) (m : EccMem) (e : Nat) : Nat :=
  sumN ((List.range e).map fun i => match l.batt m i with | .ok b => b.nnz | _ => 0)

/-- The Batt list that a record's P1 names. -/
inductive ListRead where
  /-- the reference, the header or the pool header breaks its rules -/
  | bad
  /-- a header word was read with the poison tag; the pool's granule, or the list's where the word that names the pool is poisoned -/
  | poison (gran : Nat)
  | ok (l : BattList)
  deriving Repr

/-- Granule that a SPACE 2 reference names (R179). -/
def battRef (p ind : Word) : Option Nat :=
  if p ≠ 0 ∧ refSpace p = 2 ∧ refOk p ind 256 = true ∧ refAddr p ind % 256 = 0 then some (refAddr p ind / 256) else none

/-- Reading a Batt list's header and the header of its pool (R185). -/
def World.readList (w : World) (e : Env) (p ind : Word) : ListRead × World :=
  match battRef p ind with
  | none => (.bad, w)
  | some g =>
    let m := (w.core e.c).ws
    let pool := leNat (Cells.read m.cells (256 * g + 2) 2)
    let w1 := (w.touch e.c (some e.n) .weight (wordsOf 16 (256 * g) 64))
    if m.poisoned 16 (256 * g) 64 then (.poison (if m.poisoned 16 (256 * g + 2) 2 then g else pool), w1)
    else if 8192 ≤ pool then (.bad, w1)
    else
      let w2 := w1.touch e.c (some e.n) .weight (wordsOf 16 (256 * pool) 64)
      if m.poisoned 16 (256 * pool) 64 then (.poison pool, w2)
      else
        match BattList.parse m.cells g with
        | some l => (.ok l, w2)
        | none => (.bad, w2)

/-- A list whose header was poisoned refuses the record and names the pool (R185, R199). -/
def World.listRefused (w : World) (e : Env) : ListRead → World
  | .poison g => w.raiseSparse e stState (256 * g) 0
  | _ => w

/-- Words of the Weight Store that reading entries and their Batts touches. -/
def BattList.words (l : BattList) (m : List Host.Cell) (es : List Nat) : List Nat :=
  es.flatMap fun e =>
    let r := l.run m e
    wordsOf 16 (l.entryAddr e) 2 ++ (if r.2 ≤ 33 ∧ l.pool ≤ r.1 ∧ r.1 + r.2 ≤ l.hi then wordsOf 16 (256 * r.1) (256 * r.2) else [])

/-! ## The check of a pool image (R180) -/

/-- Granules (relative to the pool) that a list and its Batts occupy in an image; none where the image fails. -/
def BattList.imageGranules (l : BattList) (m : EccMem) : Option (List Nat) :=
  let need := listGranules l.kt l.nt
  let es := (List.range l.entries).map fun e => (e, l.batt m e)
  let okOne (x : Nat × BattRead) : Bool :=
    match x.2 with
    | .ok b =>
      let g := l.entry m.cells x.1
      let bs := Cells.read m.cells (256 * g) (256 * b.granules)
      b.enc == battEnc b.fmt b.nnz
        && !((b.enc == 1 || b.enc == 2) && b.w.any fun v => v.2 == absentBits b.fmt)
        && allZero (bs.drop (battSize b.fmt b.enc b.nnz))
    | _ => false
  let total := sumN (es.map fun x => match x.2 with | .ok b => b.nnz | _ => 0)
  if l.grans != need || total != l.total || !es.all okOne then none
  else
    some ((List.range need).map (l.gran - l.pool + ·)
      ++ es.flatMap fun x => match x.2 with
        | .ok b => (List.range b.granules).map (l.entry m.cells x.1 - l.pool + ·)
        | _ => [])

/-- Whether a pool image passes R180 at a base granule. -/
def poolImageOk (img : List Byte) (base : Nat) : Bool :=
  let n := le img 4 2
  let f := mapGranules n
  let m : EccMem := { cells := Cells.write [] (256 * base) img }
  if img.length != 256 * n || poolBad (sl img 0 64) base || !allZero (sl img 64 192) then false
  else
    let lists := (List.range (le img 8 2)).map fun i => le img (16 + 2 * i) 2
    let used := lists.map fun g =>
      if g < base + f + 1 ∨ base + n ≤ g then none
      else
        match BattList.parse m.cells g with
        | some l => if l.pool = base then l.imageGranules m else none
        | none => none
    let all := List.range (f + 1) ++ (used.flatMap fun u => u.getD [])
    let map := leNat (sl img 256 (256 * f))
    used.all Option.isSome && (distinct all).length == all.length && all.all (fun g => decide (g < n))
      && map == (all.map fun g => 2 ^ g).foldl (· + ·) 0 && le img 6 2 == n - all.length

/-! ## Active-neuron lists (R223, R224) and predictor slots (R232) -/

/-- An active-neuron list: header fields and entries (OFF, SKIP). -/
structure ActList where
  mode : Nat
  slot : Nat
  n0 : Nat
  nc : Nat
  misses : Nat
  step : Nat
  es : List (Nat × Bool)
  deriving DecidableEq, Repr

/-- The header of a list (R223). -/
def actHeader (mode slot n0 nc e active skips misses step theta stream : Nat) : List Byte :=
  leBytes 1 mode ++ leBytes 1 0 ++ leBytes 2 slot ++ leBytes 4 n0 ++ leBytes 4 nc ++ leBytes 4 e ++ leBytes 4 active
    ++ leBytes 4 skips ++ leBytes 4 misses ++ leBytes 4 step ++ leBytes 4 theta ++ leBytes 4 stream ++ leBytes 24 0

/-- A list entry (R224). -/
def actEntry (x : Nat × Bool) : List Byte := leBytes 4 (x.1 + if x.2 then 2 ^ 31 else 0)

/-- A list from its bytes; none where it breaks R223 or R224. -/
def ActList.parse (b : List Byte) : Option ActList :=
  let mode := le b 0 1
  let slot := le b 2 2
  let nc := le b 8 4
  let e := le b 12 4
  let es := (List.range e).map fun i => le b (64 + 4 * i) 4
  if decide (3 < mode) || le b 1 1 != 0 || (if mode ≤ 1 then decide (255 < slot) else slot != 0xFFFF)
      || nc == 0 || decide (65536 < nc) || decide (nc < e) || !allZero (sl b 40 24)
      || (decide (2 ≤ mode) && le b 32 4 != 0) || es.any (fun x => fld x 30 16 != 0 || decide (nc ≤ x % 65536)) || !rising (es.map (· % 65536)) then none
  else some { mode, slot, n0 := le b 4 4, nc, misses := le b 24 4, step := le b 28 4, es := es.map fun x => (x % 65536, bit x 31) }

/-- Bytes of an active-neuron list whose header stands at a scratchpad address; none where it runs past the scratchpad. -/
def World.actBytes (w : World) (c a : Nat) : Option (List Byte) :=
  let m := (w.core c).sp.cells
  let e := leNat (Cells.read m (a + 12) 4)
  if a + 64 ≤ 0x60000 ∧ a + 64 + 4 * e ≤ 0x60000 then some (Cells.read m a (64 + 4 * e)) else none

/-- A predictor slot at its defaults (R232). -/
def defaultSlot : List Byte :=
  leBytes 4 0 ++ leBytes 4 0 ++ leBytes 4 0x3D800000 ++ leBytes 4 0x3CA3D70A ++ leBytes 4 0xC1000000 ++ leBytes 4 0x41000000
    ++ leBytes 2 64 ++ leBytes 2 1 ++ leBytes 36 0

/-- Misses or samples counted in a slot (R233): `off` 32 and 40 for samples, 36 and 48 for misses. -/
def slotCount (b : List Byte) (step offStep offTotal n : Nat) : List Byte :=
  let b := if le b 28 4 = step then putAt b offStep (leBytes 4 (bump 32 (le b offStep 4) n)) else b
  putAt b offTotal (leBytes 8 (bump 64 (le b offTotal 8) n))

end Sys2Proof.Machine
end

