-- ==== Sys2Proof/Machine/Sparse.lean ====
section
/-! DEFINITION. Sparse products (R182–R188, R226–R229), sampled products (R189) and the Fulling Tree (R190–R194). -/
namespace Sys2Proof.Machine

/-- A stored weight as a sparse product uses it: output index and contraction index within the record, value, poison. -/
structure SpW where
  o : Nat
  c : Nat
  v : FNum
  bad : Bool
  deriving DecidableEq, Repr

/-- The weights of a record's tiles: stored weights, outputs whose tile could not be used, the first malformed entry. -/
structure SpRead where
  ws : List SpW := []
  badOut : List Nat := []
  first : Option Nat := none
  deriving Repr

/-- Tiles of the range as (output tile within the range, list entry), in the order in which the record reads them; `used` says
which output tiles some written output needs. -/
def spTiles (l : BattList) (trans : Bool) (t0 tc : Nat) (used : Nat → Bool) : List (Nat × Nat) :=
  ((List.range tc).filter used).flatMap fun t =>
    (List.range (if trans then l.nt else l.kt)).map fun u =>
      (t, if trans then (t0 + t) * l.nt + u else u * l.nt + (t0 + t))

/-- The weights that tiles hold (R171, R172, R185). -/
def BattList.weights (l : BattList) (m : EccMem) (trans : Bool) : List (Nat × Nat) → SpRead
  | [] => {}
  | (t, e) :: rest =>
    let x := l.weights m trans rest
    let outs := (List.range 64).map (64 * t + ·)
    match l.batt m e with
    | .malformed => { x with badOut := outs ++ x.badOut, first := some e }
    | .poisoned => { x with badOut := outs ++ x.badOut }
    | .ok b =>
      { x with
        ws := (b.w.map fun p =>
          let k := p.1 / 64
          let n := p.1 % 64
          if trans then { o := 64 * t + k, c := 64 * b.nti + n, v := b.num p.1 p.2, bad := decide (p.1 ∈ b.taint) : SpW }
          else { o := 64 * t + n, c := 64 * b.kti + k, v := b.num p.1 p.2, bad := decide (p.1 ∈ b.taint) }) ++ x.ws }

/-- Order of contraction index, then output index (R187). -/
def SpW.before (a b : SpW) : Bool := decide (a.c < b.c) || (a.c == b.c && decide (a.o ≤ b.o))

/-- Packed sub-tiles of a block (R187). -/
def packSubs (Kt : Nat) : Nat → List SpW → List (List SpW)
  | 0, _ => []
  | _ + 1, [] => []
  | fuel + 1, a :: as =>
    let lim := a.c / Kt * Kt + 8 * Kt
    let ok := ((a :: as).take (32 * Kt)).takeWhile fun x => decide (x.c < lim)
    ok :: packSubs Kt fuel ((a :: as).drop ok.length)

/-- The packed sub-tile in which a group of an output closes: that of the last weight it holds up to that group. -/
def closingSub (subs : List (List SpW)) (grp : Nat → Nat) (o g : Nat) : Nat :=
  (subs.zipIdx.filter fun s => s.1.any fun x => x.o == o && decide (grp x.c ≤ g)).foldl (fun acc s => max acc s.2) 0

/-- Accumulation steps of a sparse record (R187, R228, R246): blocks of 32 of the columns that are fetched, written or not, their packed
sub-tiles in load order, rows, closing groups, columns. -/
def sparseSteps (cols : List Nat) (ws : List SpW) (Kt M : Nat) (grp : Nat → Nat) (groups : List Nat) : List AccStep :=
  (groupsOf 32 cols.length cols).flatMap fun blk =>
    let mine := sortBy SpW.before (ws.filter fun x => decide (x.o ∈ blk))
    let subs := packSubs Kt mine.length mine
    let close := blk.flatMap fun o => groups.map fun g => (o, g, closingSub subs grp o g)
    (List.range (max 1 subs.length)).flatMap fun i =>
      (List.range M).flatMap fun m => groups.flatMap fun g =>
        (close.filter fun x => x.2.1 == g && x.2.2 == i).map fun x => ⟨m, x.1, g⟩

/-- The active-neuron list of a record, its address, or why there is none (R182, R227). -/
inductive ActRead where
  | none
  | bad
  | poison
  | ok (a : Nat) (x : ActList)
  deriving Repr

/-- Reading the list that the immediate names (R227): SPACE 1 only. -/
def World.readAct (w : World) (e : Env) (p ind : Word) : ActRead × World :=
  if p = 0 then (.none, w)
  else if refSpace p ≠ 1 ∨ refOk p ind 64 = false then (.bad, w)
  else
    let a := refAddr p ind
    if (w.core e.c).sp.poisoned 16 a 64 then (.poison, w.touch e.c (some e.n) .scratch (wordsOf 16 a 64))
    else
      match w.actBytes e.c a with
      | Option.none => (.bad, w.touch e.c (some e.n) .scratch (wordsOf 16 a 64))
      | some b =>
        let bad := (w.core e.c).sp.poisoned 16 a b.length
        let w := w.touch e.c (some e.n) .scratch (wordsOf 16 a b.length)
        if bad then (.poison, w)
        else
          match ActList.parse b with
          | some x => (.ok a x, w)
          | Option.none => (.bad, w)

/-- The activity bound of a list's slot (R226). A list of MODE SCREENED or FALLBACK has no slot, and R226 gives its SKIP entries no bound: a free
value (DESIGN CHOICE, log entry 22). -/
def World.listBeta (w : World) (n : Nat) (x : ActList) : FNum :=
  decElem 0 (if x.slot < 256 then leNat (w.hbmBytes (predBase n x.slot + 4) 4) else Config.freeNat w.free % 2 ^ 32)

/-- The block of HBM that the activity bound is read from. -/
def ActList.betaBlock (x : ActList) (n : Nat) : Option Nat := if x.slot < 256 then some (predBase n x.slot / 64) else none

/-- What reading it does (R326, R330). A bound delivered with the poison tag makes the result of every SKIP column that depends on it poisoned (R28;
DEDUCED, log entry 179). -/
def World.readBeta (w : World) (n : Nat) (blk : Option Nat) : World :=
  (w.meetBus (some n) blk.toList).readBlocks (some n) blk.toList

/-- How a list treats global index n for SPMM: not listed, or its SKIP bit (R226). -/
def ActList.find (x : ActList) (n : Nat) : Option Bool :=
  if n < x.n0 then none else (x.es.find? fun y => y.1 = n - x.n0).map (·.2)

/-- Whether SPMMT takes neuron n as active (R229). -/
def ActList.active (x : ActList) (n : Nat) : Bool :=
  if x.mode = 0 ∨ x.mode = 2 then x.find n == some false else decide (x.n0 ≤ n) && decide (n < x.n0 + x.nc)

/-- Whether a list's range covers [lo, hi) (R227). -/
def ActList.covers (x : ActList) (lo hi : Nat) : Bool := decide (x.n0 ≤ lo) && decide (hi ≤ x.n0 + x.nc)

/-- What SPMM leaves in its list and its slot (R226, R233): SKIP cleared at misses, misses added; and the part-wide counts. -/
def World.putMisses (w : World) (e : Env) (a : Nat) (x : ActList) (missed : List Nat) : World :=
  if missed.isEmpty then w
  else
    let k := missed.length
    let es := x.es.zipIdx.filter fun y => decide (x.n0 + y.1.1 ∈ missed)
    let w := w.writeCore e.c (some e.n) .scratch
      (bytesAt (a + 24) (leBytes 4 (add32 x.misses k)) :: es.map fun y => bytesAt (a + 64 + 4 * y.2) (actEntry (y.1.1, false)))
    let w := { w with nums := { w.nums with misses := bump 64 w.nums.misses k } }
    if x.slot < 256 then w.hbmUpdate (some e.n) (predBase e.n x.slot) 64 fun b => slotCount b x.step 36 48 k else w

/-- The list of a record, where it has one, with its address. -/
def ActRead.list : ActRead → Option (Nat × ActList)
  | .ok a x => some (a, x)
  | _ => Option.none

/-- What a sparse record computes and reads: outputs fetched and written, their columns, the tiles read for them and what these hold, the weights
that take part; and, for the order of its roundings, all columns of its range that are fetched with their weights (R187, R228). -/
structure SparsePlan where
  outs : List (Nat × Nat)
  cols : List Nat
  tiles : List (Nat × Nat)
  rd : SpRead
  ws : List SpW
  blockCols : List Nat
  blockWs : List SpW
  deriving Repr

/-- The plan of a record over tiles t0 … t0 + tc − 1 with R output columns: with a list SPMM fetches the listed columns (R226), SPMMT takes the
active neurons (R229). -/
def sparsePlan (l : BattList) (mem : EccMem) (trans : Bool) (t0 tc R : Nat) (act : Option (Nat × ActList)) (live : List (Nat × Nat)) :
    SparsePlan :=
  let fetched (o : Nat) : Bool :=
    match act with
    | some (_, x) => trans || (x.find (l.nbase + 64 * t0 + o)).isSome
    | none => true
  let outs := live.filter fun o => fetched o.2
  let cols := distinct (outs.map (·.2))
  let tiles := spTiles l trans t0 tc fun i => cols.any fun o => o / 64 == i
  let rd := l.weights mem trans tiles
  let active (x : SpW) : Bool := match act with | some (_, y) => !trans || y.active (l.nbase + x.c) | none => true
  let blockCols := (List.range R).filter fetched
  let all := (l.weights mem trans (spTiles l trans t0 tc fun i => blockCols.any fun o => o / 64 == i)).ws
  { outs, cols, tiles, rd
    ws := rd.ws.filter fun x => decide (x.o ∈ cols) && active x
    blockCols
    blockWs := all.filter fun x => decide (x.o ∈ blockCols) && active x }

/-- The activations that a plan reads: one that meets absent positions only is never read (R31, R184); a quantised operand keeps its whole rows. -/
def SparsePlan.reads (q : SparsePlan) (a : Desc) : List (List Nat) :=
  let cs := if a.qfmt != 0 then List.range (a.sz 0) else distinct (q.ws.map (·.c))
  (distinct (q.outs.map (·.1))).flatMap fun m => cs.map fun k => [k, m, 0, 0, 0]

/-- SPMM and SPMMT (R182–R188, R226–R229); `trans` for SPMMT, `units` the units that the licence enables, `upTo` a K-group boundary to stop
at (R96). -/
def runSparse (trans : Bool) (units : Nat) (upTo : Option Nat) (w : World) (e : Env) (t : Entry) : Run :=
  let r := t.cmd
  let ind (i : Nat) : Word := t.ind.getD i 0
  let (oa, w) := w.fetchDesc e t 0 r.p0 (ind 0)
  let (o2, w) := w.fetchDesc e t 2 r.p2 (ind 2)
  let (o3, w) := w.fetchDesc e t 3 r.p3 (ind 3)
  let (lr, w) := w.readList e r.p1 (ind 1)
  let (ar, w) := w.readAct e r.imm (ind 4)
  let ops := [oa, o2, o3]
  let f := r.opflags.toNat
  let t0 := fld f 24 12
  let tc := fld f 11 7 + 1
  let hasSkip := match ar with | .ok _ x => x.es.any (·.2) | _ => false
  if hasSkip && !trans && !bit units 0 then .fail w stUnitAbsent
  else
    match firstFault ops with
    | some st => .fail w st
    | none =>
      let shapeBad : Bool :=
        match oa.desc, o2.desc, lr with
        | some a, some p2, .ok l =>
          let cN := if trans then l.nl else l.kl
          let oN := if trans then l.kl else l.nl
          let R := min (64 * tc) (oN - 64 * t0)
          let lo := if trans then l.nbase else l.nbase + 64 * t0
          let hi := if trans then l.nbase + l.nl else l.nbase + 64 * t0 + R
          a.matOperandBad || a.rank != 2 || accBad p2 o3 || decide ((if trans then l.kt else l.nt) < t0 + tc)
            || a.sz 0 != cN || p2.sz 0 != R || a.sz 1 != p2.sz 1
            || decide (1024 < a.sz 1) || decide (2048 < R) || decide (16384 < a.sz 1 * R)
            || pairBad a.effFmt l.fmt || groupSize r.gsize a.effFmt l.fmt == 0
            || (match ar with
              | .ok _ x => !x.covers lo hi || (!trans && hasSkip && (r.slog != 0 || l.kbase != 0 || l.kl != l.ktotal))
              | _ => false)
        | _, _, _ => true
      let bad := commonBad e r || modeBad r || fld f 31 25 != 0 || fld f 6 2 != 0 || bit f 1 || ops.any Opd.isBad || oa.isNone
        || o2.isNone || (match ar with | .bad => true | .poison => true | _ => false) || shapeBad
      let mem := (w.core e.c).ws
      let live := match o2.desc with | some p2 => liveOutputs p2 o3.desc | none => []
      let xs3 := (o3.desc.map Desc.writtenCoords).getD []
      let scBad := match oa.desc, o2.desc, lr with
        | some a, some p2, .ok l =>
          w.operandScaleRefused e a ((sparsePlan l mem trans t0 tc (p2.sz 0) ar.list live).reads a) || w.outputScaleRefused e o3.desc xs3
        | _, _, _ => false
      match firstRefusal [(bad || scBad, stState), (ops.any fun o => (o.desc.map Desc.misaligned).getD false, stAlign)] with
      | some st =>
        let w := w.listRefused e lr
        .fail (match ar with | .poison => w.raise clsUe uPred stState e.c (some e.n) (dieOfCore e.c) t.idx | _ => w) st
      | none =>
        match oa.desc, o2.desc, lr with
        | some a, some p2, .ok l =>
          let M := a.sz 1
          let R := p2.sz 0
          let L := a.sz 0
          let gl (o : Nat) : Nat := l.nbase + 64 * t0 + o
          let act := ar.list
          let plan := sparsePlan l mem trans t0 tc R act live
          let outs := plan.outs
          let cols := plan.cols
          let rd := plan.rd
          let ms := distinct (outs.map (·.1))
          let ia := plan.reads a
          match w.xlateScales e { d := a } (a.qfmt != 0) ia with
          | (.error st, w) => .fail w st
          | (.ok pa, w) =>
            match (match o3.desc with | some d => w.xlateScales e { d := d } true xs3 | none => (.ok [], w)) with
            | (.error st, w) => .fail w st
            | (.ok p3, w) =>
              let sa : Src := { d := a, pages := pa, held := t.scales 0 }
              let s3 : Option Src := o3.desc.map fun d => { d := d, pages := p3, held := t.scales 2 }
              if w.operandBadScale e sa ia || w.outputBadScale e s3 xs3 then .fail w stState
              else
                let fa := a.effFmt
                let G := groupSize r.gsize fa l.fmt
                let cbase := if trans then l.nbase else l.kbase
                let grp (c : Nat) : Nat := (cbase + c) / G
                let A := w.matOperand e r sa ia
                let table : Tab (List SpW) := cols.foldl (fun (u : Tab (List SpW)) o => Tab.set u o (plan.ws.filter fun x => x.o == o)) []
                let pos (m o : Nat) : Nat :=
                  if trans then m * l.ktotal + l.kbase + 64 * t0 + o else m * l.ntotal + l.nbase + 64 * t0 + o
                let narrow := fmtNarrow fa && fmtNarrow l.fmt
                let sumOf (elem : Nat → Nat → Val) (m o g : Nat) : Val :=
                  groupSum narrow (((Tab.get [] table o).filter fun x => grp x.c == g).map fun x =>
                    let av := elem x.c m
                    orTags (av.n.mul x.v) [av, { n := x.v, poison := x.bad }])
                let redo (s : AccStep) : Bool := (Tab.get [] table s.n).any fun x => decide (grp x.c ≤ s.g) && A.again x.c s.m
                let g0 := cbase / G
                let groups := (List.range ((cbase + L - 1) / G + 1 - g0)).map (g0 + ·)
                let place := placeOf (cdiv plan.blockCols.length 32 * groups.length) fun s =>
                  ((plan.blockCols.findIdx? (· == s.n)).getD 0) / 32 * groups.length + (s.g - g0)
                let steps := stepsFrom place t.next (timeline redo
                  ((sparseSteps plan.blockCols plan.blockWs (subTileK l.fmt l.fmt) M grp groups).filter fun s => decide ((s.m, s.n) ∈ outs)))
                let accFlag := bit f 0
                let run := accumulateAll (accRm w r) R pos id (sumOf A.firstAt) (sumOf A.at_) redo
                  (w.productFrom e t p2 accFlag outs (rngOf w e r (isPositional w r)))
                let halt := upTo.bind fun n => (stepsUpTo place (max n t.next) steps).map fun part =>
                  w.stopProduct e p2 R (run part) (max n t.next) (sl oa.block 0 64 ++ sl [] 0 64 ++ sl o2.block 0 64 ++ sl o3.block 0 64)
                    [w.startTable e.c e.n sa (a.usedScales ia), [], w.outTable e s3 xs3]
                if let some q := halt then q else
                let acc := run steps
                let raw (m o : Nat) : Val :=
                  let v := Tab.get Val.zero acc.kept (m * R + o)
                  if o ∈ rd.badOut ∧ o ∈ cols then { v with poison := true } else v
                -- β and the misses (R226)
                let beta := match act with
                  | some (_, x) => w.listBeta e.n x
                  | none => .nan
                let skipped := match act with
                  | some (_, x) => if trans then [] else cols.filter fun o => x.find (gl o) == some true
                  | none => []
                let missed : List Nat := skipped.filter fun o => ms.any fun m =>
                  decide ((m, o) ∈ outs) && (raw m o).n != .nan && beta.lt (raw m o).n
                let zeroed (o : Nat) : Bool :=
                  match act with
                  | some (_, x) => !trans && ((x.find (gl o)).isNone || (decide (o ∈ skipped) && !decide (o ∈ missed) && x.mode != 1))
                  | none => false
                let betaBlock := match act with
                  | some (_, x) => if trans then none else x.betaBlock e.n
                  | none => none
                let betaBad := betaBlock.any w.hbm.mem.bad
                let fin (m o : Nat) : Val :=
                  let v := if zeroed o then Val.zero else raw m o
                  if betaBad && decide (o ∈ skipped) then { v with poison := true } else v
                let w1 := w.touch e.c (some e.n) .weight (l.words mem.cells (plan.tiles.map (·.2)))
                let w1 := w1.readOperand e sa ia
                let w1 := if accFlag then w1.readOperand e { d := p2 } (outs.map fun o => [o.2, o.1, 0, 0, 0]) else w1
                let w1 := (w1.putMatOp e sa A).softStart e.c
                let w1 := if (act.any fun y => decide (256 ≤ y.2.slot)) then { w1 with free := w1.free + 1 } else w1
                let w1 := w1.readBeta e.n betaBlock
                let w1 := if act.isSome then { w1 with nums := { w1.nums with listReads := bump 64 w1.nums.listReads 1 } } else w1
                let q := w1.finishProduct e t p2 s3 fin pos (w.outStart e s3) acc.g A.retries A.sat A.fills (rd.first.map fun x => (256 * l.gran, x))
                  (if act.isSome && !trans then some missed.length else none)
                let bad := rd.badOut.any fun o => decide (o ∈ cols)
                let q := if bad then { q with st := stPoison } else q
                match act with
                | some (adr, x) => { q with w := q.w.putMisses e adr x (missed.map gl) }
                | none => q
        | _, _, _ => .fail w stState

/-- SPMM (R182): the product with a Batt list read by column. -/
def execSpmm (c : CoreId) (s : State) : Out :=
  .next (s.withW (s.runRow c .matrix (fun r => r.op == 0x31) (goingOn (runSparse false s.ctl.sec.units none))))
/-- SPMMT (R182): the product with the transposed list. -/
def execSpmmt (c : CoreId) (s : State) : Out :=
  .next (s.withW (s.runRow c .matrix (fun r => r.op == 0x32) (goingOn (runSparse true s.ctl.sec.units none))))

/-! ## SDDMM (R189) -/

/-- A run of result bytes that a reference locates: SPACE as allowed, wholly within its memory. -/
def regionOk (p ind : Word) (spaces : List Nat) (n : Nat) : Bool :=
  p != 0 && decide (refSpace p ∈ spaces) && !refReserved p && refAddr p ind % 64 == 0
    && decide (refAddr p ind + n ≤ spaceSize (refSpace p))

/-- A PS36 container of a region, with the poison of its word. -/
def World.container (w : World) (c space a : Nat) : Val :=
  let m := (w.core c).mem (memOfSpace space)
  let v := psDecode (leNat (Cells.read m.cells a 8) % 2 ^ 40)
  { v with poison := v.poison || m.poisoned 16 a 8 }

/-- A PS36 container as a write: its tags stay with it, the word takes no marking (R28). -/
def containerAt (a : Nat) (v : Val) : BitWrite := ⟨8 * a, 64, psEncode v, false⟩

/-- The bytes of a pair (R190). -/
def pairBytes (key origin : Nat) (v : Val) : List Byte := leBytes 4 key ++ leBytes 4 origin ++ leBytes 8 (psEncode v)

/-- Stored positions of the tiles of a range with their ordinals, entry by entry (R174, R189), and whether a byte of the stored weight was read with
the poison tag (R185). -/
structure Sample where
  k : Nat
  n : Nat
  ord : Nat
  idx : Nat
  tile : Nat
  bad : Bool := false
  deriving DecidableEq, Repr

/-- The stored positions of a range of list entries in ordinal order; `base` is the ordinal of the first. -/
def BattList.samples (l : BattList) (m : EccMem) : Nat → Nat → List Nat → List Sample
  | _, _, [] => []
  | ord, i, e :: es =>
    match l.batt m e with
    | .ok b =>
      (b.w.zipIdx.map fun p =>
        { k := 64 * b.kti + p.1.1 / 64, n := 64 * b.nti + p.1.1 % 64, ord := ord + p.2, idx := i + p.2, tile := e, bad := decide (p.1.1 ∈ b.taint) : Sample })
        ++ l.samples m (ord + b.nnz) (i + b.nnz) es
    | _ => l.samples m ord i es

/-- The first malformed entry among entries. -/
def BattList.firstBad (l : BattList) (m : EccMem) (es : List Nat) : Option Nat :=
  es.find? fun e => match l.batt m e with | .malformed => true | _ => false

/-- Whether some tile among entries cannot be used. -/
def BattList.anyBad (l : BattList) (m : EccMem) (es : List Nat) : Bool :=
  es.any fun e => match l.batt m e with | .ok _ => false | _ => true

/-- Accumulation steps of a sampled product (R246): for each tile its two blocks of 32 columns, sub-tiles over m, rows k, closing
groups, columns n; only at the positions asked for. `m` of a step is the position's place, `n` is 0. -/
def sampleSteps (tiles : List Nat) (at_ : Nat → Nat → Nat → Option Nat) (M G Kt : Nat) : List AccStep :=
  tiles.flatMap fun e => (denseSteps 64 64 M G Kt).filterMap fun s => (at_ e s.m s.n).map fun i => ⟨i, 0, s.g⟩

/-- The elements of an operand of SDDMM: the rows that its positions use, whole tiles of rows where it is quantised. -/
def sampleRows (d : Desc) (used tiles : List Nat) (lim : Nat) : List (List Nat) :=
  let rows := if d.qfmt != 0 then (distinct tiles).flatMap fun i => ((List.range 64).map (64 * i + ·)).filter (· < lim) else distinct used
  rows.flatMap fun k => (List.range (d.sz 0)).map fun m => [m, k, 0, 0, 0]

/-- SDDMM (R189), stopped at the K-group boundary `upTo` where one is asked for (R96): its partial sums stand in the containers of its result, or
in the values of its pairs (DESIGN CHOICE, log entry 129). A Batt with poisoned bytes gives poisoned results (R185). -/
def runSddmm (upTo : Option Nat) (w : World) (e : Env) (t : Entry) : Run :=
  let r := t.cmd
  let ind (i : Nat) : Word := t.ind.getD i 0
  let (oa, w) := w.fetchDesc e t 0 r.p0 (ind 0)
  let (ob, w) := w.fetchDesc e t 1 r.imm (ind 4)
  let (lr, w) := w.readList e r.p1 (ind 1)
  let f := r.opflags.toNat
  let t0 := fld f 24 12
  let tc := fld f 11 7 + 1
  let accFlag := bit f 0
  match firstFault [oa, ob] with
  | some st => .fail w st
  | none =>
    let es := (List.range tc).map (t0 + ·)
    let mem := (w.core e.c).ws
    let shapeBad : Bool :=
      match oa.desc, ob.desc, lr with
      | some a, some b, .ok l =>
        a.matOperandBad || b.matOperandBad || a.rank != 2 || b.rank != 2 || a.sz 0 != b.sz 0 || a.sz 1 != l.kl || b.sz 1 != l.nl
          || decide (1048576 < a.sz 0) || decide (l.entries < t0 + tc)
          || pairBad a.effFmt b.effFmt || groupSize r.gsize a.effFmt b.effFmt == 0
          || (decide (t0 + tc ≤ l.entries) &&
            (let nR := (l.samples mem 0 0 es).length
             (r.p2 != 0 && !regionOk r.p2 (ind 2) [1, 3] (8 * nR)) || (r.p3 != 0 && !regionOk r.p3 (ind 3) [1] (16 * nR))))
      | _, _, _ => true
    let bad := commonBad e r || modeBad r || fld f 31 25 != 0 || fld f 6 2 != 0 || bit f 1 || oa.isBad || ob.isBad || oa.isNone
      || ob.isNone || (r.p2 == 0) == (r.p3 == 0) || (accFlag && r.p3 != 0) || shapeBad
    let ss := match lr with | .ok l => l.samples mem (l.ordbase + l.before mem t0) 0 es | _ => []
    let rowsA (a : Desc) (l : BattList) := sampleRows a (ss.map (·.k)) (es.map (· / l.nt)) l.kl
    let rowsB (b : Desc) (l : BattList) := sampleRows b (ss.map (·.n)) (es.map (· % l.nt)) l.nl
    let scBad := match oa.desc, ob.desc, lr with
      | some a, some b, .ok l => w.operandScaleRefused e a (rowsA a l) || w.operandScaleRefused e b (rowsB b l)
      | _, _, _ => false
    match firstRefusal [(bad || scBad, stState), ([oa, ob].any fun o => (o.desc.map Desc.misaligned).getD false, stAlign)] with
    | some st => .fail (w.listRefused e lr) st
    | none =>
      match oa.desc, ob.desc, lr with
      | some a, some b, .ok l =>
        let M := a.sz 0
        let ia := rowsA a l
        let ib := rowsB b l
        match w.xlateScales e { d := a } (a.qfmt != 0) ia with
        | (.error st, w) => .fail w st
        | (.ok pa, w) =>
          match w.xlateScales e { d := b } (b.qfmt != 0) ib with
          | (.error st, w) => .fail w st
          | (.ok pb, w) =>
            let sa : Src := { d := a, pages := pa, held := t.scales 0 }
            let sb : Src := { d := b, pages := pb, held := t.scales 1 }
            if w.operandBadScale e sa ia || w.operandBadScale e sb ib then .fail w stState
            else
              let fa := a.effFmt
              let fb := b.effFmt
              let G := groupSize r.gsize fa fb
              let A := w.matOperand e r sa ia
              let B := w.matOperand e r sb ib
              let narrow := fmtNarrow fa && fmtNarrow fb
              let get (i : Nat) : Sample := ss.getD i ⟨0, 0, 0, 0, 0, false⟩
              let ms (g : Nat) : List Nat := (List.range (min G (M - g * G))).map (g * G + ·)
              let sum (i _n g : Nat) : Val := dotGroup narrow (fun m => A.at_ m (get i).k) (fun m => B.at_ m (get i).n) (ms g)
              let first (i _n g : Nat) : Val := dotGroup narrow (fun m => A.firstAt m (get i).k) (fun m => B.firstAt m (get i).n) (ms g)
              let redo (s : AccStep) : Bool :=
                (List.range (min M ((s.g + 1) * G))).any fun m => A.again m (get s.m).k || B.again m (get s.m).n
              let at_ (tile k n : Nat) : Option Nat :=
                (ss.find? fun x => x.tile == tile && x.k % 64 == k && x.n % 64 == n).map (·.idx)
              let stored (i : Nat) : Val :=
                if r.p2 != 0 then w.container e.c (refSpace r.p2) (refAddr r.p2 (ind 2) + 8 * i)
                else w.container e.c 1 (refAddr r.p3 (ind 3) + 16 * i + 8)
              let start : Tab Val := if accFlag then ss.foldl (fun (u : Tab Val) x => Tab.set u x.idx (stored x.idx)) [] else []
              let place := placeOf (2 * tc * cdiv M G) fun s => (2 * ((get s.m).tile - t0) + (get s.m).n % 64 / 32) * cdiv M G + s.g
              let steps := stepsFrom place t.next (timeline redo (sampleSteps es at_ M G (subTileK fa fb)))
              let run := accumulateAll (accRm w r) 1 (fun i _ => (get i).ord) id first sum redo
                (w.accFrom t (ss.map (·.idx)) start (some <| stored ·) (rngOf w e r (isPositional w r)))
              let put (w : World) (val : Sample → Val) : World :=
                if r.p2 != 0 then w.writeSpace e [] (refSpace r.p2) (ss.map fun x => containerAt (refAddr r.p2 (ind 2) + 8 * x.idx) (val x))
                else
                  w.writeSpace e [] 1 (ss.map fun x => bytesAt (refAddr r.p3 (ind 3) + 16 * x.idx) (pairBytes x.ord r.stream.toNat (val x)))
              let halt := upTo.bind fun n => (stepsUpTo place (max n t.next) steps).map fun part =>
                let acc := run part
                ({ w := ((put w fun x => Tab.get Val.zero acc.kept x.idx).putRng e.c acc.g).softStart e.c, st := stOk
                   stopped := some (max n t.next, sl oa.block 0 64 ++ sl ob.block 0 64 ++ sl [] 0 128,
                     w.begunAs e [w.startTable e.c e.n sa (a.usedScales ia), w.startTable e.c e.n sb (b.usedScales ib)] acc) } : Run)
              if let some q := halt then q else
              let acc := run steps
              let val (x : Sample) : Val :=
                let v := Tab.get Val.zero acc.kept x.idx
                if x.bad then { v with poison := true } else v
              let w1 := w.touch e.c (some e.n) .weight (l.words mem.cells es)
              let w1 := (w1.readOperand e sa ia).readOperand e sb ib
              let w1 := if accFlag then
                  w1.touch e.c (some e.n) (memOfSpace (refSpace r.p2)) (wordsOf 16 (refAddr r.p2 (ind 2)) (8 * ss.length)) else w1
              let w1 := ((w1.putMatOp e sa A).putMatOp e sb B).softStart e.c
              let w1 := put w1 val
              let w1 := (w1.putRng e.c acc.g).countOob e.c (A.fills + B.fills) 0
              let q := Run.settleTile e t w1 (A.sat ++ B.sat) (ss.any fun x => (val x).poison)
                ((l.firstBad mem es).map fun x => (256 * l.gran, x)) ss.length
                (oobFlag (A.fills + B.fills) + retryFlag (A.retries + B.retries))
              if l.anyBad mem es then { q with st := stPoison } else q
      | _, _, _ => .fail w stState

/-- SDDMM (R189): sampled dense-dense products at the stored positions of a list. -/
def execSddmm (c : CoreId) (s : State) : Out := .next (s.withW (s.runRow c .matrix (fun r => r.op == 0x33) (goingOn (runSddmm none))))

/-! ## FULL (R190–R194) -/

/-- A pair of an input stream: key, origin, stream, place, value. -/
structure Pair where
  key : Nat
  origin : Nat
  stream : Nat
  place : Nat
  v : Val
  deriving DecidableEq, Repr

/-- Merge order (R192): key, origin, stream, place. -/
def Pair.before (a b : Pair) : Bool :=
  decide (a.key < b.key) || (a.key == b.key &&
    (decide (a.origin < b.origin) || (a.origin == b.origin &&
      (decide (a.stream < b.stream) || (a.stream == b.stream && decide (a.place ≤ b.place))))))

/-- Whether a stream is one run ordered by (key, origin) (R194). -/
def oneRun : List Pair → Bool
  | [] => true
  | [_] => true
  | a :: b :: t => (decide (a.key < b.key) || (a.key == b.key && decide (a.origin ≤ b.origin))) && oneRun (b :: t)

/-- The merge of the pairs of one key (R192): each further value added with one rounding, drawn at the key with the added pair's
origin. -/
def mergePairs (mode : Rm) (key : Nat) : Rng → Val → List Pair → Val × Rng
  | g, acc, [] => (acc, g)
  | g, acc, p :: ps =>
    let r := g.roundPs mode key p.origin (acc.add p.v)
    mergePairs mode key r.2 r.1 ps

/-- The merged value of every key in increasing order: key, origin of the first pair, value. `start` is the stored container of
a key under ACC. -/
def mergeAll (mode : Rm) (start : Nat → Option Val) : Rng → List (Nat × List Pair) → List (Nat × Nat × Val) × Rng
  | g, [] => ([], g)
  | g, (key, ps) :: rest =>
    let r :=
      match start key, ps with
      | some v, ps => mergePairs mode key g v ps
      | none, p :: qs => mergePairs mode key g p.v qs
      | none, [] => (Val.zero, g)
    let more := mergeAll mode start r.2 rest
    ((key, (ps.head?.map (·.origin)).getD 0, r.1) :: more.1, more.2)

/-- FULL (R191–R194). Its merges draw from the positional source whatever the record selects (R252). -/
def runFull (w : World) (e : Env) (t : Entry) : Run :=
  let r := t.cmd
  let ind (i : Nat) : Word := t.ind.getD i 0
  let f := r.opflags.toNat
  let ns := fld f 11 8 + 1
  let list := bit f 7
  let accFlag := bit f 0
  let count := fld r.imm.toNat 63 32
  let keybase := fld r.imm.toNat 31 0
  let (ot, w) := if r.p0 != 0 && refSpace r.p0 == 1 then w.fetchRef e r.p0 (ind 0) (16 * ns) else (.bad, w)
  let tb := ot.block
  let ents := (List.range ns).map fun i => (BitVec.ofNat 64 (le tb (16 * i) 8), le tb (16 * i + 8) 4, le tb (16 * i + 12) 4)
  let total := sumN (ents.map (·.2.1))
  let entBad := ents.any fun x =>
    x.1 == 0 || bit x.1.toNat 61 || x.2.2 != 0 || x.2.1 == 0 || decide (1048576 < x.2.1)
      || !regionOk x.1 0 [1] (16 * x.2.1)
  let destBad :=
    if list then !regionOk r.p1 (ind 1) [1] (16 * count) || keybase != 0 || accFlag || decide (count < total)
    else !regionOk r.p1 (ind 1) [1, 3] (8 * count) || count == 0 || (refSpace r.p1 == 3 && decide (16384 < count))
  let workBad := r.p2 != 0 && !regionOk r.p2 (ind 2) [1] (32 * total)
  let bad := commonBad e r || modeBad r || fld f 31 12 != 0 || fld f 6 2 != 0 || bit f 1 || r.p3 != 0 || ot.isBad || ot.isNone
    || entBad || decide (16777216 < total) || destBad || workBad
  if bad then .fail w stState
  else
    let sp := (w.core e.c).sp
    let streams := ents.zipIdx.map fun x => (List.range x.1.2.1).map fun i =>
      let a := refAddr x.1.1 0 + 16 * i
      let v := w.container e.c 1 (a + 8)
      { key := leNat (Cells.read sp.cells a 4), origin := leNat (Cells.read sp.cells (a + 4) 4), stream := x.2, place := i,
        v := { v with poison := v.poison || sp.poisoned 16 a 16 } : Pair }
    let words := ents.flatMap fun x => wordsOf 16 (refAddr x.1 0) (16 * x.2.1)
    let w := w.touch e.c (some e.n) .scratch words
    let needWork := streams.any fun s => !oneRun s
    if r.p2 == 0 && needWork then .fail w stState
    else
      let all := sortBy Pair.before streams.flatten
      let kept := if list then all else all.filter fun p => decide (keybase ≤ p.key) && decide (p.key < keybase + count)
      let dropped := (distinct (all.map (·.key))).length - (distinct (kept.map (·.key))).length
      let dst := refAddr r.p1 (ind 1)
      let start (key : Nat) : Option Val :=
        if accFlag then some (w.container e.c (refSpace r.p1) (dst + 8 * (key - keybase))) else none
      let g := rngOf w e r true
      let out := mergeAll (accRm w r) start g (groupByKey (·.key) kept)
      let w1 := if accFlag then
          w.touch e.c (some e.n) (memOfSpace (refSpace r.p1)) ((out.1.flatMap fun x => wordsOf 16 (dst + 8 * (x.1 - keybase)) 8)) else w
      -- the merge passes leave values in the work area that the spec does not state (DESIGN CHOICE, log entry 3)
      let w1 := if r.p2 != 0 && needWork then
          let bs := (List.range (32 * total)).map fun i => Config.freeByte (w1.free + i)
          ({ w1 with free := w1.free + 32 * total }).writeCore e.c (some e.n) .scratch [bytesAt (refAddr r.p2 (ind 2)) bs]
        else w1
      let w1 :=
        if list then
          w1.writeSpace e [] 1 (out.1.zipIdx.map fun x => bytesAt (dst + 16 * x.2) (pairBytes x.1.1 x.1.2.1 x.1.2.2))
        else
          w1.writeSpace e [] (refSpace r.p1) (out.1.map fun x => containerAt (dst + 8 * (x.1 - keybase)) x.2.2)
      let w1 := (w1.countOob e.c 0 dropped).softStart e.c
      Run.settle e t.idx r w1 [] ((out.1.any fun x => x.2.2.poison) || ents.any fun x => sp.poisoned 16 (refAddr x.1 0) (16 * x.2.1)) out.1.length (oobFlag dropped)

/-- FULL (R190): streams of pairs sorted and merged by key. -/
def execFull (c : CoreId) (s : State) : Out := .next (s.withW (s.runRow c .matrix (fun r => r.op == 0x34) runFull))

end Sys2Proof.Machine
end

