-- ==== Sys2Proof/Machine/Wake.lean ====
section
/-! DEFINITION. Wake requests of clusters and the queues of the wake arbiter (R432, R434, R436, R437). -/
namespace Sys2Proof.Machine

/-- State that a cluster is in once an entry in progress has ended. -/
def Cluster.settled (v : Cluster) : PowerSt := v.entering.getD v.power

/-- Compute die of a cluster (R8). -/
def dieOfCluster (k : Nat) : Nat := k / 32

/-- A wake request for a cluster (R434, R437): queued by the state that it is in or is entering; one request per queue and cluster. -/
def World.wake (w : World) (k : Nat) : World :=
  let d := dieOfCluster k
  let v := w.die d
  match (w.cluster k).settled with
  | .doze => if k ∈ v.restartQ ∨ k ∈ v.restarting then w else w.setDie d { v with restartQ := insertNat k v.restartQ }
  | .nap => if k ∈ v.powerQ ∨ k ∈ v.poweringUp then w else w.setDie d { v with powerQ := insertNat k v.powerQ }
  | .off => if k ∈ v.powerQ ∨ k ∈ v.poweringUp then w else w.setDie d { v with powerQ := insertNat k v.powerQ }
  | _ => w

/-- Whether a wake request of a cluster waits in a queue of its die's arbiter. -/
def World.wakeQueued (w : World) (k : Nat) : Bool :=
  decide (k ∈ (w.die (dieOfCluster k)).restartQ) || decide (k ∈ (w.die (dieOfCluster k)).powerQ)

/-- Whether an access to a cluster's core memories must wait for a wake (R109): DOZE or Nap, on the way into them, which runs to its end (R432), or on
the way out of them. -/
def World.asleep (w : World) (k : Nat) : Bool :=
  let v := w.cluster k
  v.power == .doze || v.power == .nap || v.power == .waking || v.entering == some .doze || v.entering == some .nap

end Sys2Proof.Machine
end

