-- ==== Sys2Proof/Machine/Window.lean ====
section
/-! DEFINITION. Remote-write windows (R120–R128, R346, R347): owner's side, sender's side. -/
namespace Sys2Proof.Machine

def Core.win (k : Core) (i : Nat) : Window := Tab.get {} k.windows i
def Core.setWin (k : Core) (i : Nat) (v : Window) : Core := { k with windows := k.windows.set i v }
def World.win (w : World) (c i : Nat) : Window := (w.core c).win i
def World.setWin (w : World) (c i : Nat) (v : Window) : World := w.setCore c ((w.core c).setWin i v)

/-- Geometry (R120, R121): slots, slot size in bytes, window size. -/
def Window.slots (v : Window) : Nat := fld v.geom 22 16
def Window.slotSize (v : Window) : Nat := 4096 * 2 ^ fld v.geom 2 0
def Window.size (v : Window) : Nat := v.slots * v.slotSize
/-- Sender rank and link, free and arrival counter. -/
def Window.rank (v : Window) : Nat := fld v.sender 31 16
def Window.link (v : Window) : Nat := fld v.sender 4 0
def Window.freeCtr (v : Window) : Nat := fld v.ctrs 13 8
def Window.arrCtr (v : Window) : Nat := fld v.ctrs 5 0

/-- Geometry and base within R120. -/
def Window.geomOk (v : Window) : Bool :=
  decide (1 ≤ v.slots) && decide (v.slots ≤ 64) && decide (fld v.geom 2 0 ≤ 4) && decide (v.size ≤ 0x40000) && v.base % 4096 == 0
    && decide (v.base + v.size ≤ 0x60000)

/-- Whether two windows of a core intersect. -/
def Window.meets (a b : Window) : Bool := decide (a.base < b.base + b.size) && decide (b.base < a.base + a.size)

/-- State code (R121). -/
def winCode : WinSt → Nat
  | .closed => 0
  | .open_ => 1
  | .draining => 2

/-- The generation after a generation (R120): 1 to 0xFFFF, then 1 again. -/
def nextGen (g : Nat) : Nat := if g = 0xFFFF then 1 else g + 1

/-- Object index and state sub-index of a window (R121). -/
def winSub (i : Nat) : Nat := 0x11 + 8 * i

/-- A WINDOW event (R421): window, generation, sender rank, link, and for a reclaim the slots. For a discard R123 does not say whose rank, link and
generation these are: the model gives the generation of the write, and the rank and link of the window's configured sender (DESIGN CHOICE, log
entry 138). -/
def World.winEvent (w : World) (code c i gen : Nat) (slots : Option Nat) : World :=
  let v := w.win c i
  w.event code (0x4000 + c) (winSub i) (dieOfCore c) (if v.owner = 0xFFFF then none else some v.owner) stOk
    (leBytes 1 i ++ leBytes 2 gen ++ leBytes 2 v.rank ++ leBytes 1 v.link ++ (match slots with | some n => leBytes 1 n | none => []))

/-- Credits sent for slots, in the order given (R346). -/
def World.sendCredits (w : World) (c i : Nat) (slots : List Nat) : World :=
  slots.foldl (fun w s => w.sendLink (w.win c i).link (w.win c i).rank (.wcredit c i s (w.win c i).gen)) w

/-- OPEN of a closed window (R123): next generation, every slot credited, credits sent in slot order. -/
def World.openWin (w : World) (c i owner : Nat) : World :=
  let v := w.win c i
  let slots := List.range v.slots
  (w.setWin c i { v with st := .open_, gen := nextGen v.gen, credited := slots, held := [], owner }).sendCredits c i slots

/-- CLOSE of an open window (R123): a close notice; DRAINING, or CLOSED if no slot is credited. -/
def World.closeWin (w : World) (c i : Nat) : World :=
  let v := w.win c i
  if v.st = .open_ then
    (w.setWin c i { v with st := if v.credited.isEmpty then .closed else .draining }).sendLink v.link v.rank (.wclose c i v.gen)
  else w

/-- Reclaim of every credited slot (R123): the drain limit expired or the sender is lost. -/
def World.reclaimWin (w : World) (c i : Nat) : World :=
  let v := w.win c i
  if v.st = .closed then w
  else (w.setWin c i { v with st := .closed, credited := [] }).winEvent 0x0302 c i v.gen (some v.credited.length)

/-- The k oldest held slots of an open window freed and credited (R123); what goes beyond them is ignored and counted. -/
def World.freeWin (w : World) (c i inc : Nat) : World :=
  let v := w.win c i
  let back := v.held.take inc
  let v' := { v with held := v.held.drop inc, credited := v.credited ++ back, ignored := bump 32 v.ignored (inc - back.length) }
  (w.setWin c i v').sendCredits c i back

/-- Whether the owner of a window has its core: it is resident or being saved (R128). -/
def ownerLive (res : Tab Resid) (owner : Nat) : Bool :=
  let r : Resid := Tab.get {} res owner
  r.st == .resident || r.st == .saving

/-- A counter raised by a signal: the windows of the core whose free counter it is take notice (R84, R123), those of a saved context do not
(R128). -/
def World.raiseCtr (w : World) (res : Tab Resid) (c ctr inc : Nat) : World :=
  let w := w.setCore c ((w.core c).addCtr ctr inc)
  (List.range 8).foldl (fun w i =>
    if (w.win c i).st = .open_ ∧ (w.win c i).freeCtr = ctr ∧ ownerLive res (w.win c i).owner = true then w.freeWin c i inc else w) w

/-! ## A write arrives (R123, R125, R128) -/

/-- The element writes of a window write: its packed bytes through the descriptor, at the slot (R141, R346). -/
def winWrites (x : WinWrite) (slotAt : Nat) : List BitWrite :=
  let d := Desc.ofBytes x.desc
  let v := leNat x.data
  let xs := (coordsOf d.size).filter d.inValid
  xs.zipIdx.map fun p => ⟨8 * slotAt + d.bitAddr p.1, d.bits, (v >>> (p.2 * d.bits)) % 2 ^ d.bits, decide (p.2 ∈ x.bad)⟩

/-- Whether a write's bytes fit its slot and its descriptor is usable (R125; DEDUCED, log entry 27). -/
def winFits (x : WinWrite) (slotSize : Nat) : Bool :=
  let d := Desc.ofBytes x.desc
  !d.bad && decide ((d.extent none).hi ≤ slotSize)
    && x.data.length == cdiv (((coordsOf d.size).filter d.inValid).length * d.bits) 8

/-- A discard (R123): answered, counted, reported. -/
def World.discardWrite (w : World) (l src : Nat) (x : WinWrite) (st : Nat) : World :=
  let v := w.win x.core x.win
  let w := w.setWin x.core x.win { v with discarded := bump 32 v.discarded 1 }
  (w.sendLink l src (.wanswer x.id st)).winEvent 0x0301 x.core x.win x.gen none

/-- Where a commit goes: into the core's memories, into the owner's saved image, or, its bytes and its count, nowhere. -/
inductive CommitTo where
  | core
  | image
  | nowhere
  deriving DecidableEq, Repr

/-- Where the commits of a window go: to the core while its owner is resident or being saved, to the owner's image while it is SAVED (R128). Once the
owner has been destroyed, R123 lets the window drain and does not say where its commits go: the model takes the core's slot and arrival counter,
and, where another context has come onto the core, neither; a context created or imported under the owner's number is taken for the owner (DESIGN
CHOICE, log entry 135). -/
def commitTo (res : Tab Resid) (c owner : Nat) : CommitTo :=
  if ownerLive res owner then .core
  else if (Tab.get {} res owner : Resid).st != .absent then .image
  else if (res.any fun x => x.2.st.live && x.2.holds (c / 16)) then .nowhere
  else .core

/-- A commit (R123, R125): bytes into the slot, the slot held, the arrival counter up by 1, the answer sent; a draining window
without a credited slot closes. -/
def World.commitWrite (w : World) (res : Tab Resid) (l src : Nat) (x : WinWrite) : World :=
  let c := x.core
  let v := w.win c x.win
  let credited := v.credited.filter (· != x.slot)
  let v' := { v with credited, held := v.held ++ [x.slot], st := if v.st == .draining && credited.isEmpty then .closed else v.st }
  let w := w.setWin c x.win v'
  let at_ := v.base + x.slot * v.slotSize
  let w :=
    match commitTo res c v.owner with
    | .nowhere => w
    | .core =>
      let w := w.writeCore c (if ownerLive res v.owner then some v.owner else none) .scratch (winWrites x at_)
      w.raiseCtr res c v.arrCtr 1
    | .image =>
      let r : Resid := Tab.get {} res v.owner
      let img := coreImageBase v.owner (c - r.core0)
      let a := img + 320 + 2 * v.arrCtr
      let w1 := w.writeHbm none (winWrites x (img + 98304 + at_))
      (w1.hbmPut a (leBytes 2 (bump 16 (leNat (w1.hbmBytes a 2)) 1))).landed w v.owner img 491520
  w.sendLink l src (.wanswer x.id stOk)

/-- Whether a commit must wait: the core's cluster is not in RUN and not OFF (R109). -/
def World.commitWaits (w : World) (res : Tab Resid) (x : WinWrite) : Bool :=
  commitTo res x.core (w.win x.core x.win).owner == .core
    && (match (w.cluster (x.core / 16)).power with | .doze => true | .nap => true | .waking => true | _ => false)

/-- A window write taken whole (R123, R109): discarded and answered, or committed. R123 has no row for a write with the current generation, for a
credited slot, that comes from another rank or over another link than the window's: the model discards it with `ST_NO_CREDIT` (DESIGN CHOICE,
log entry 139). -/
def World.takeWrite (w : World) (res : Tab Resid) (l src : Nat) (x : WinWrite) : World :=
  let v := w.win x.core x.win
  if v.st = .closed ∨ x.gen ≠ v.gen then w.discardWrite l src x stWindowClosed
  else if v.rank ≠ src ∨ v.link ≠ l then w.discardWrite l src x stNoCredit
  else if x.slot ∉ v.credited then w.discardWrite l src x stNoCredit
  else if commitTo res x.core v.owner = .core ∧ (w.cluster (x.core / 16)).power = .off then w.discardWrite l src x stState
  else if winFits x v.slotSize = false then w.discardWrite l src x stState
  else w.commitWrite res l src x

/-- The parked writes that can commit now, in order; their units are freed (R347). -/
def World.unpark (w : World) (res : Tab Resid) : World :=
  w.seam.parked.foldl (fun w p =>
    if w.commitWaits res p.write then { w with seam := { w.seam with parked := w.seam.parked ++ [p] } }
    else (w.setLink p.link ((w.link p.link).free 1 p.units)).takeWrite res p.link p.src p.write)
    { w with seam := { w.seam with parked := [] } }

/-- A received WWRITE (R123, R347): it commits, is discarded, or waits in the receive buffer for its cluster to wake, which the
access asks for (R109). -/
def State.wwrite (s : State) (l : Nat) (h : SeamHdr) (x : WinWrite) (wake : World → Nat → World) : World :=
  match s.w.receive l h (.wwrite x) true with
  | .error w => w
  | .ok w =>
    let units := (s.w.link l).unitsOf h
    if !w.mine h || decide (1024 ≤ x.core) || decide (8 ≤ x.win) then
      let k := (w.link l).free 1 units
      w.setLink l { k with discarded := bump 64 k.discarded h.frames }
    else if w.commitWaits s.res x then
      wake { w with seam := { w.seam with parked := w.seam.parked ++ [{ link := l, units, src := h.src, write := x }] } } (x.core / 16)
    else (w.setLink l ((w.link l).free 1 units)).takeWrite s.res l h.src x

/-- A received credit return (R123): the slot of a draining window becomes free. -/
def World.returnCredit (w : World) (c i slot gen : Nat) : World :=
  let v := w.win c i
  if v.st = .closed ∨ v.gen ≠ gen then w
  else
    let credited := v.credited.filter (· != slot)
    w.setWin c i { v with credited, st := if v.st == .draining && credited.isEmpty then .closed else v.st }

/-! ## The sender's side (R127, R347) -/

/-- The window of another part, as known here. -/
def Seam.remote (m : Seam) (rank core win : Nat) : Option RemoteWin :=
  m.wins.find? fun x => x.rank == rank && x.core == core && x.win == win

/-- What is known of a window replaced. -/
def Seam.setRemote (m : Seam) (x : RemoteWin) : Seam :=
  { m with wins := x :: m.wins.filter fun y => !(y.rank == x.rank && y.core == x.core && y.win == x.win) }

/-- A received credit (R127). -/
def World.takeCredit (w : World) (l rank core win slot gen : Nat) : World :=
  let m := w.seam.setRemote { rank, core, win, gen, link := l }
  { w with seam := { m with credits := m.credits ++ [{ rank, link := l, core, win, slot, gen }] } }

/-- A received close notice (R127): every credit that no started STORE has taken goes back; later STOREs are refused. -/
def World.closeNotice (w : World) (l rank core win gen : Nat) : World :=
  let mine (x : Credit) : Bool := x.rank == rank && x.core == core && x.win == win && x.gen == gen
  let back := w.seam.credits.filter mine
  let m := w.seam.setRemote { rank, core, win, gen, link := l, closed := true }
  back.foldl (fun w x => w.sendLink l rank (.wreturn core win x.slot gen))
    { w with seam := { m with credits := m.credits.filter fun x => !mine x } }

/-- The STORE of a write that has been answered (R127): completed with its status. -/
def World.answerStore (w : World) (x : SentWrite) (st : Nat) : World :=
  let w := { w with seam := { w.seam with writes := w.seam.writes.filter fun y => y.id != x.id } }
  let st := if st = stOk ∧ x.poison = true then stPoison else st
  let k := w.core x.core
  let done : EntrySt := .done st (if continuing st then x.count else 0) (if continuing st then x.flags else 0)
  let store := k.store.map fun t => if t.st = .sent x.id then { t with st := done } else t
  w.setCore x.core { k with store }

/-- The windows of a rank on one link, or on every link, treated as closed (R347): credits discarded, STOREs in flight completed
with `ST_WINDOW_CLOSED`. -/
def World.dropWindows (w : World) (rank : Nat) (l : Option Nat) : World :=
  let hit (r k : Nat) : Bool := r == rank && (match l with | some l => k == l | none => true)
  let m := w.seam
  let sent := m.writes.filter fun x => hit x.rank x.link
  let w := { w with seam := { m with
    credits := m.credits.filter fun x => !hit x.rank x.link
    wins := m.wins.map fun x => if hit x.rank x.link then { x with closed := true } else x } }
  sent.foldl (fun w x => w.answerStore x stWindowClosed) w

/-- The windows of this part whose sender is a rank, on one link or on every link: reclaimed (R123, R347). -/
def World.reclaimFrom (w : World) (rank : Nat) (l : Option Nat) : World :=
  (w.cores.map (·.1)).foldl (fun w c => (List.range 8).foldl (fun w i =>
    let v := w.win c i
    if v.st != .closed && v.rank == rank && (match l with | some l => v.link == l | none => true) then w.reclaimWin c i else w) w) w

end Sys2Proof.Machine
end

