-- ==== Sys2Proof/Machine/LoadStore.lean ====
section
/-! DEFINITION. The load and store queues (R110–R114, R125–R127, R146–R167, R179–R181): LOAD, the three modes of LOADW, STORE to
memory and to a remote window, ATOMIC. -/
namespace Sys2Proof.Machine

/-! ## LOAD and LOADW TILES (R146, R179) -/

/-- LOAD (R146–R165): a copy into the scratchpad or the Partial-Sum Store. -/
def execLoad (c : CoreId) (s : State) : Out :=
  .next (s.withW (s.runRow c .load (fun r => r.op == 0x20) fun w e t => w.runCopy loadKind e t false))

/-- Mode of a LOADW record (R179). -/
def loadwMode (r : Record) : Nat := fld r.opflags.toNat 1 0

/-- LOADW TILES (R179): a copy into the Weight Store. -/
def execLoadwTiles (c : CoreId) (s : State) : Out :=
  .next (s.withW (s.runRow c .load (fun r => r.op == 0x21 && loadwMode r == 0) fun w e t =>
    w.runCopy tilesKind e t (w.ctx e.n).wsRo))

/-- What POOL and VALUES check alike (R179): fields, spaces, sizes, the granule of P1; none where they fail. -/
def loadwSource (e : Env) (t : Entry) (o0 : Opd) (fmts : Nat → Bool) : Option (Desc × Nat) :=
  let r := t.cmd
  if commonBad e r || unusedBad r false false true true || r.imm != 0 || fld r.opflags.toNat 31 2 != 0 || o0.isBad then none
  else
    match o0.desc, battRef r.p1 (t.ind.getD 1 0) with
    | some d, some g =>
      if d.bad || d.rank != 1 || !fmts d.fmt || decide (2 ≤ d.space) || d.qfmt != 0 || d.past none then none else some (d, g)
    | _, _ => none

/-- The elements of a source of RANK 1 with their coordinates. -/
def vecCoords (d : Desc) : List (List Nat) := (List.range (d.sz 0)).map fun j => [j, 0, 0, 0, 0]

/-! ## LOADW POOL (R180) -/

/-- A POOL LOADW: poison before the check of the image; an image that passes replaces the pool's granules whole. -/
def runPool (w : World) (e : Env) (t : Entry) : Run :=
  let (o0, w) := w.fetchRef e t.cmd.p0 (t.ind.getD 0 0) 64
  match o0.faults with
  | some st => .fail w st
  | none =>
    match loadwSource e t o0 fun f => f == 15 with
    | none => .fail w stState
    | some (d, g) =>
      if (w.ctx e.n).wsRo then .fail (w.wsRefuse e.n) stFaultPerm
      else if d.misaligned then .fail w stAlign
      else
        let is_ := vecCoords d
        let spans := is_.flatMap d.readSpan
        match w.xlateSpans e d.space false spans with
        | (.error st, w) => .fail w st
        | (.ok pages, w) =>
          let src : Src := { d, pages, sac := !d.noalloc }
          let es := is_.map (w.elemIter e.c src)
          let w1 := w.readSpans e pages d.space d.noalloc spans
          let fills := fillCount d is_
          let w1 := w1.countOob e.c fills 0
          let img : List Byte := es.map fun x => BitVec.ofNat 8 x.raw
          if es.any (·.poison) then { w := w1, st := stPoison, flags := oobFlag fills }
          else if poolImageOk img g = false then { w := w1, st := stState, flags := oobFlag fills }
          else { w := w1.writeCore e.c (some e.n) .weight [bytesAt (256 * g) img], st := stOk, count := img.length, flags := oobFlag fills }

/-- LOADW POOL (R179, R180). -/
def execLoadwPool (c : CoreId) (s : State) : Out :=
  .next (s.withW (s.runRow c .load (fun r => r.op == 0x21 && loadwMode r == 1) runPool))

/-! ## LOADW VALUES (R181) -/

/-- New stored values of one Batt: bits in order with their poison, the tile scale, the MX scales, and what it counts. -/
structure NewVals where
  bits : List (Nat × Bool) := []
  scale : Nat := 0
  mx : List (Nat × Nat) := []
  rng : Rng
  sat : Bool := false
  clamped : Nat := 0
  amaxs : List Dy := []
  last : Option Int := none
  deriving Repr

/-- The values of a tile-scaled Batt (R181): the scale of its largest magnitude, one less where that rounds above the format. -/
def valuesTile (f : Nat) (mode : Rm) (g : Rng) (es : List CElem) : NewVals :=
  let ies := es.zipIdx.map fun p => (p.2, p.1)
  let amax := amaxOf (es.map (·.v))
  let s0 : Int := match amax with | some a => if a.m = 0 then 0 else fmtEmax f - a.msb | none => 0
  let beyond (s : Int) : Bool := decide ((tileAttempt f mode 0xFFFFFFFE s false g ies).2.1 ≠ 0)
  let s : Int := max (-127) (min 127 (if beyond s0 then s0 - 1 else s0))
  let t := tileAttempt f mode 0xFFFFFFFE s true g ies
  { bits := (inOrder t.1).zip (es.map fun e => e.v.poison), scale := ux 8 s, rng := t.2.2
    sat := es.any fun e => !e.v.poison && (match e.v.n with | .inf _ => true | _ => false)
    clamped := t.2.1 + nanToZero f es
    amaxs := (match amax with | some a => [a] | none => []), last := some s }

/-- The values of an MX Batt (R181, R23): one scale for each block of R171. -/
def valuesMx (f : Nat) (mode : Rm) (g : Rng) (es : List (Nat × CElem)) : NewVals :=
  let blockOf (p : Nat) : Nat := 64 * (p / 2048) + p % 64
  let sc := (List.range 128).map fun b => (b, mxScale f ((es.filter fun x => blockOf x.1 == b).map (·.2)))
  let scAt (b : Nat) : Nat := Tab.get 0x7F sc b
  let r := convMx f mode 0xFFFFFFFE (fun e => scAt (blockOf (nth e.x 0))) g (es.map fun x => { x.2 with x := [x.1] })
  { bits := (r.1.map (·.1)).zip (es.map fun x => x.2.v.poison), mx := sc, rng := r.2
    clamped := (r.1.filter fun b => b.2).length
    last := mxLast sc
    amaxs := sc.filterMap fun b =>
      if b.2 = 0xFF then none else amaxOf ((es.filter fun x => blockOf x.1 == b.1).map fun x => x.2.v) }

/-- The new values of a Batt from its source elements: stored position and element each. Elements of the list's own format are copied unchanged, a
NaN too (R47, R149). -/
def newVals (f : Nat) (mode : Rm) (g : Rng) (es : List (Nat × CElem)) : NewVals :=
  if fmtTile f then valuesTile f mode g (es.map (·.2))
  else if fmtMx f then valuesMx f mode g es
  else
    let r := convPlains f mode 0xFFFFFFFE g (es.map (·.2))
    let bits := (r.1.zip es).map fun x => if x.2.2.v.poison then x.1 else x.2.2.raw.getD x.1
    { bits := bits.zip (es.map fun x => x.2.v.poison), rng := r.2, amaxs := (amaxOf (es.map fun x => x.2.v)).toList }

/-- The writes that put new values into a Batt at a granule: scale, MX scales, value fields; −0 and the absent pattern as R172
and R181 say. -/
def valueWrites (b : Batt) (gran : Nat) (v : NewVals) : List BitWrite :=
  let a := 256 * gran
  let off := battVals b.fmt b.enc b.nnz
  let w := fmtBits b.fmt
  (if fmtTile b.fmt then [⟨8 * (a + 4), 8, v.scale, false⟩] else [])
    ++ (if fmtMx b.fmt && b.enc != 0 then v.mx.map fun m => ⟨8 * (a + 32 + m.1), 8, m.2, false⟩ else [])
    ++ (b.w.zip v.bits).zipIdx.map fun x =>
      ⟨8 * (a + off) + w * (if b.enc = 3 then x.1.1.1 else x.2), w, newRaw b.fmt x.1.2.1, x.1.2.2⟩

/-- The Batts of a list with new values, in ordinal order: writes, the source of bits after them, what each counts. -/
def valuesAll (mode : Rm) (src : List CElem) : Rng → Nat → List (Nat × Batt) → List BitWrite × Rng × List NewVals
  | g, _, [] => ([], g, [])
  | g, ord, (gran, b) :: bs =>
    let es := (b.w.map (·.1)).zip ((src.drop ord).take b.nnz)
    let v := newVals b.fmt mode g es
    let rest := valuesAll mode src v.rng (ord + b.nnz) bs
    (valueWrites b gran v ++ rest.1, rest.2.1, v :: rest.2.2)

/-- A VALUES LOADW (R181). A Batt that cannot be read refuses the record (DEDUCED, log entry 28). It rounds, so its mode fields are checked (R65;
DEDUCED, log entry 123). -/
def runValues (w : World) (e : Env) (t : Entry) : Run :=
  let (o0, w) := w.fetchRef e t.cmd.p0 (t.ind.getD 0 0) 64
  match o0.faults with
  | some st => .fail w st
  | none =>
    match loadwSource e t o0 fun f => decide (f ≤ 2) with
    | none => .fail w stState
    | some (d, g) =>
      let (lr, w) := w.readList e t.cmd.p1 (t.ind.getD 1 0)
      match lr with
      | .ok l =>
        let mem := (w.core e.c).ws
        let reads := (List.range l.entries).map fun i => (l.entry mem.cells i, l.batt mem i)
        let batts := reads.filterMap fun x => match x.2 with | .ok b => some (x.1, b) | _ => none
        let w1 := w.touch e.c (some e.n) .weight (l.words mem.cells (List.range l.entries))
        match reads.findIdx? fun x => match x.2 with | .ok _ => false | _ => true with
        | some i => .fail (w1.raiseSparse e stState (256 * g) i) stState
        | none =>
          if modeBad t.cmd || d.sz 0 != l.total || sumN (batts.map fun x => x.2.nnz) != l.total then .fail w1 stState
          else if (w1.ctx e.n).wsRo then .fail (w1.wsRefuse e.n) stFaultPerm
          else if d.misaligned then .fail w1 stAlign
          else
            let is_ := vecCoords d
            let spans := is_.flatMap d.readSpan
            match w1.xlateSpans e d.space false spans with
            | (.error st, w) => .fail w st
            | (.ok pages, w) =>
              let src : Src := { d, pages, sac := !d.noalloc }
              let es := is_.map fun i =>
                let x := w.elemIter e.c src i
                { x := [nth i 0], pos := l.ordbase + nth i 0, v := x.val d.fmt, raw := if d.fmt = l.fmt then some x.raw else none : CElem }
              let v := valuesAll (if d.qsrf then .srf else .rne) es (rngOf w e t.cmd true) 0 batts
              let w1 := w.readSpans e pages d.space d.noalloc spans
              let w1 := w1.writeCore e.c (some e.n) .weight v.1
              let conv : Conv :=
                { rng := v.2.1, satTiles := (v.2.2.zipIdx.filter fun x => x.1.sat).map (·.2), clamped := sumN (v.2.2.map (·.clamped))
                  amaxs := v.2.2.flatMap (·.amaxs), last := (v.2.2.getLast?).bind (·.last) }
              let w1 := w1.foldInto e.n l.slot conv
              let fills := fillCount d is_
              let w1 := w1.countOob e.c fills 0
              Run.settle e t.idx t.cmd w1 [] (es.any fun x => x.v.poison) l.total (oobFlag fills)
      | r => .fail (w.listRefused e r) stState

/-- LOADW VALUES (R179, R181). Mode 3 is completed by RECORD_COMPLETE. -/
def execLoadwValues (c : CoreId) (s : State) : Out :=
  .next (s.withW (s.runRow c .load (fun r => r.op == 0x21 && loadwMode r == 2) runValues))

/-! ## STORE (R146, R125–R127, R166, R167, R346) -/

/-- The payload of a remote write (R346): element bits packed in row-major order of the written elements, zero padded. -/
def packElems (bits : Nat) (es : List Nat) : List Byte := leBytes (cdiv (es.length * bits) 8) (packBits bits es)

/-- Bytes of a slot of another part's window, which R125 has the sender know and no frame tells: a free size of R120 (Config.remoteSlot, DESIGN CHOICE,
log entry 131). -/
def remoteSlot (x : Credit) : Nat := 4096 * 2 ^ (Config.remoteSlot x.rank x.core x.win x.gen % 5)

/-- How a STORE to a remote window ends or goes on (R125–R127, R346): refused, waiting for a credit, or sent. Its extent is held against the slot once
the credit names one, after its pages are translated: the spec gives this refusal no place in the order of R523 (DESIGN CHOICE, log
entry 161). -/
def runRemote (w0 : World) (e : Env) (t : Entry) (d : Desc) : World :=
  let (rank, ocore, win) := remoteWindow d
  let fin (r : Run) : World := World.finish r e.c .store t.id
  if w0.licenceBars rank then fin (.fail w0 stUnitAbsent)
  else
    match w0.prepareCopy storeKind e t false with
    | .error r => fin r
    | .ok (c, w) =>
        let hit (x : Credit) : Bool := x.rank == rank && x.core == ocore && x.win == win
        match w.seam.credits.find? hit with
        | none =>
          let closed := decide (rank ∈ w.seam.lost) || ((w.seam.remote rank ocore win).map (·.closed)).getD false
          if closed then fin (.fail w stWindowClosed) else w0
        | some cr =>
          if remoteSlot cr < (c.d.d.extent none).hi then fin (.fail w stState) else
          let ms := c.moves
          let o := w.copyOut e t c
          let w1 := w.readSpans e c.s.pages c.s.d.space true (c.srcSpans ms)
          if World.busMet w0 w1 then fin (.fail w1 stBusError) else
          let fills := (ms.filter c.isFill).length + c.idxFills
          let w1 := w1.countOob e.c fills c.dropped
          let poison := o.2.2.poison || c.idxPoison
          let id := w1.seam.nextWrite
          let body : WinWrite :=
            { core := ocore, win, slot := cr.slot, gen := cr.gen, sender := e.c, id
              desc := match (w0.fetchRef e t.cmd.p1 (t.ind.getD 1 0) 64).1 with | .at_ _ _ b _ => b | _ => []
              data := packElems d.bits (o.1.map (·.v))
              bad := (o.1.zipIdx.filter fun b => b.1.poison).map (·.2) }
          let sent : SentWrite :=
            { id, link := cr.link, rank, ocore, win, gen := cr.gen, core := e.c, count := ms.length, flags := oobFlag (fills + c.dropped), poison }
          let w1 := { w1 with seam := { w1.seam with
            credits := w1.seam.credits.erase cr, writes := w1.seam.writes ++ [sent], nextWrite := add32 id 1 } }
          let w1 := w1.setCore e.c ((w1.core e.c).mark .store t.id (.sent id))
          w1.sendLink cr.link rank (.wwrite body)

/-- STORE (R146–R167): a copy into memory, or a write into another part's window. -/
def execStore (c : CoreId) (s : State) : Out :=
  match s.starting c .store with
  | some (e, t) =>
    if t.cmd.op = 0x28 then
      match remoteDest s.w e t with
      | some d => .next (s.withW (runRemote s.w e t d))
      | none => .next (s.withW (World.finish ((s.w.runCopy storeKind e t false).overBus s.w c) c .store t.id))
    else .next s
  | none => .next s

/-! ## ATOMIC (R110–R114) -/

/-- The fields of ATOMIC's operation flags (R111). -/
def atOp (r : Record) : Nat := fld r.opflags.toNat 29 28
def atW64 (r : Record) : Bool := bit r.opflags.toNat 27
def atRmt (r : Record) : Bool := bit r.opflags.toNat 26
def atCore (r : Record) : Nat := fld r.opflags.toNat 25 16
def atSlot (r : Record) : Nat := fld r.opflags.toNat 15 13
def atWord (r : Record) : Nat := fld r.opflags.toNat 12 9
def atReg (r : Record) : Nat := fld r.opflags.toNat 8 4

/-- Core whose memory an ATOMIC acts on. -/
def atTarget (r : Record) (c : Nat) : Nat := if atRmt r then atCore r else c

/-- The new value of the target word, if it is written (R112): operation, width, old value, compare value, immediate. -/
def atomicNew (op width old cmp imm : Nat) : Option Nat :=
  match op with
  | 0 => if old = cmp % 2 ^ width then some (imm % 2 ^ width) else none
  | 1 => some ((old + imm) % 2 ^ width)
  | 2 => if old < cmp % 2 ^ width then some ((old + imm) % 2 ^ width) else none
  | _ => none

/-- What refuses an ATOMIC with `ST_STATE` (R110–R113). -/
def atomicBad (e : Env) (t : Entry) : Bool :=
  let r := t.cmd
  commonBad e r || unusedBad r false false true true || fld r.opflags.toNat 31 30 != 0 || fld r.opflags.toNat 3 0 != 0
    || atOp r == 3 || r.p0 == 0 || refSpace r.p0 == 0 || !refOk r.p0 (t.ind.getD 0 0) 64
    || (r.p1 != 0 && (refSpace r.p1 != 1 || !refOk r.p1 (t.ind.getD 1 0) 64))
    || (atRmt r && !e.inGroup (atCore r)) || (atW64 r && atWord r % 2 != 0) || (refSpace r.p0 == 3 && !atW64 r)

/-- An ATOMIC (R112–R114): the target word read and written at its bank, the old value written to the result location. -/
def runAtomic (w : World) (e : Env) (t : Entry) : Run :=
  let r := t.cmd
  if atomicBad e t then .fail w stState
  else if (w.ctx e.n).wsRo && refSpace r.p0 == 2 then .fail (w.wsRefuse e.n) stFaultPerm
  else
    let tc := atTarget r e.c
    let m := memOfSpace (refSpace r.p0)
    let a := refAddr r.p0 (t.ind.getD 0 0) + 4 * atWord r
    let n := if atW64 r then 8 else 4
    let width := if m = .psum then 40 else 8 * n
    let mem := (w.core tc).mem m
    let poison := mem.poisoned 16 a n
    let w1 := w.touch tc (some e.n) m (wordsOf 16 a n)
    if poison then .fail w1 stPoison
    else
      let old := leNat (Cells.read mem.cells a n)
      let new := atomicNew (atOp r) width old (t.ind.getD 4 0).toNat r.imm.toNat
      let w2 := match new with | some v => w1.writeCore tc (some e.n) m [bytesAt a (leBytes n v)] | none => w1
      let w3 :=
        if r.p1 = 0 then w2
        else w2.writeCore e.c (some e.n) .scratch [bytesAt (refAddr r.p1 (t.ind.getD 1 0) + 8 * atSlot r) (leBytes 8 old)]
      { w := w3, st := stOk }

/-- One ATOMIC row: a target in a sleeping cluster asks for its wake and waits (R109). -/
def State.atomicRow (s : State) (c : Nat) (op : Nat) : World :=
  match s.starting c .store with
  | some (e, t) =>
    if t.cmd.op = 0x29 ∧ atOp t.cmd = op then
      let k := atTarget t.cmd c / 16
      if atomicBad e t = false ∧ s.w.asleep k = true then s.w.wake k
      else if atomicBad e t = false ∧ (s.w.cluster k).power = .off then World.finish (.fail s.w stState) c .store t.id
      else World.finish (runAtomic s.w e t) c .store t.id
    else s.w
  | none => s.w

/-- ATOMIC compare-and-swap (R112). -/
def execAtomicCas (c : CoreId) (s : State) : Out := .next (s.withW (s.atomicRow c 0))
/-- ATOMIC fetch-and-count (R112). -/
def execAtomicFac (c : CoreId) (s : State) : Out := .next (s.withW (s.atomicRow c 1))
/-- ATOMIC compare-and-count (R112). -/
def execAtomicCac (c : CoreId) (s : State) : Out := .next (s.withW (s.atomicRow c 2))

end Sys2Proof.Machine
end

