-- ==== Sys2Proof/Machine/Collective.lean ====
section
/-! DEFINITION. Collectives (R36, R265, R266, R348–R370, R490–R492): COLL records, the rank tree, messages, missing inputs, a lost
host, results, group configuration, and the verdict on state digests. -/
namespace Sys2Proof.Machine

/-! ## Groups and the tree (R348, R353) -/

/-- Fingerprint of a group (R348). -/
def Group.print (g : Group) : Nat :=
  (crc64 (g.members.flatMap (leBytes 2) ++ leBytes 4 g.tau ++ leBytes 8 g.seed.toNat)).toNat % 2 ^ 32
/-- Position that hosts a node: the lowest of its cover not held lost (R353). -/
def World.hostPos (w : World) (g level node : Nat) : Option Nat :=
  let m := (w.group g).members
  (cover m.length level node).find? fun k => !w.gone (nth m k)
/-- Whether this part hosts a node. -/
def World.hosts (w : World) (g level node : Nat) : Bool := (w.hostPos g level node).isSome && w.hostPos g level node == w.ownPos g

def World.coll (w : World) (g seq : Nat) : Option Coll := w.colls.find? fun c => c.group == g && c.seq == seq
/-- Whether the part still holds a collective: it has not ended here, a message of it is not accepted, or it sent results that the loss of a host can
call for again (R360): these it keeps until four later collectives of the group have started here (DESIGN CHOICE, log entry 145). -/
def World.keepsColl (w : World) (c : Coll) : Bool :=
  !c.ended || !c.unacked.isEmpty || (!c.sentDown.isEmpty && decide ((w.group c.group).next ≤ c.seq + 4))
/-- A collective that leaves the list, remembered by its sequence number and the inputs declared missing in it. -/
def Group.endColl (g : Group) (c : Coll) : Group :=
  if g.through.any fun x => x.1 == c.seq then g else { g with through := (c.seq, c.missing) :: g.through }
/-- The inputs declared missing in a collective that has ended here and is no longer held. -/
def World.collThrough (w : World) (g seq : Nat) : Option (List (Nat × Nat)) := ((w.group g).through.find? fun x => x.1 == seq).map (·.2)
/-- A collective replaced or added; those no longer held leave the list. -/
def World.putColl (w : World) (c : Coll) : World :=
  let l := (w.colls.filter fun d => !(d.group == c.group && d.seq == c.seq)) ++ [c]
  let gone := l.filter fun d => !w.keepsColl d
  gone.foldl (fun w d => w.setGroup d.group ((w.group d.group).endColl d)) { w with colls := l.filter w.keepsColl }
/-- Collectives of the part that are in progress (R352, R368). -/
def World.collsOpen (w : World) : List Coll := w.colls.filter fun c => !c.ended

/-! ## Values (R354, R356) -/

/-- Bytes of a value on the way up and on the way down. -/
def upBytes (m : CollMsg) : Nat := if m.kind = 5 then 16 else if m.kind = 2 ∨ m.kind = 3 then fmtBits m.srcFmt / 8 else 5
def downBytes (m : CollMsg) : Nat := if m.kind = 5 then 16 else if m.kind = 4 then 1 else fmtBits m.dstFmt / 8

/-- Values that a node's whole value holds on the way up. -/
def upCount (m : CollMsg) (mask : List Nat) : Nat :=
  if m.kind = 2 then m.elems * mask.length else if m.kind = 5 then mask.length else if m.kind = 4 then 1 else m.elems

/-- Shard of a position of REDUCE_SCATTER (R351): first and one past the last element. -/
def shard (m : CollMsg) (p k : Nat) : Nat × Nat := (k * cdiv m.elems p, min ((k + 1) * cdiv m.elems p) m.elems)

/-- Whether the result's value i goes to the positions of a cover (R354). -/
def inCover (m : CollMsg) (p : Nat) (ks : List Nat) (i : Nat) : Bool :=
  m.kind != 1 || ks.any fun k => decide ((shard m p k).1 ≤ i ∧ i < (shard m p k).2)

/-- Values of the result that position k receives. -/
def downCount (m : CollMsg) (p k : Nat) (mask : List Nat) : Nat :=
  if mask.isEmpty then 0
  else
    match m.kind with
    | 1 => (shard m p k).2 - (shard m p k).1
    | 2 => m.elems * mask.length
    | 4 => 16
    | 5 => mask.length
    | _ => m.elems

/-- Values of the result that the positions of a cover receive together. -/
def coverCount (m : CollMsg) (p : Nat) (ks mask : List Nat) : Nat :=
  if m.kind = 1 then sumN (ks.map fun k => downCount m p k mask) else downCount m p 0 mask

/-- A contributor mask as bytes (R356) and back. -/
def maskBytes (p : Nat) (mask : List Nat) : List Byte :=
  leBytes (8 * cdiv p 64) ((mask.map fun k => 2 ^ k).foldl (· + ·) 0)
def maskOf (p : Nat) (b : List Byte) : List Nat := (List.range p).filter fun k => bit (leNat b) k

/-- Values cut into messages of consecutive indices, at most 8,192 each (R356): first index, bytes, poison. -/
def packMsgs : CollVals → List (Nat × Nat × List Byte × Bool)
  | [] => []
  | (i, b, t) :: rest =>
    match packMsgs rest with
    | (f, n, bs, u) :: more =>
      if f = i + 1 ∧ n < 8192 then (i, n + 1, b ++ bs, t || u) :: more else (i, 1, b, t) :: (f, n, bs, u) :: more
    | [] => [(i, 1, b, t)]

/-- The values of a message (R356, R357): bytes by index; poisoned are the PS36 values of a result that carry the tag (R28), and under POISON those that
the flag marks (DEDUCED, log entry 32). -/
def msgVals (m : CollMsg) (down : Bool) : CollVals :=
  let b := if down then downBytes m else upBytes m
  (List.range (m.values.length / b)).map fun i =>
    let v := sl m.values (b * i) b
    let block := m.kind == 2 || m.kind == 3
    let sum := down && decide (m.kind ≤ 1)
    (m.first + i, v, (m.poison && (block || (sum && decide (m.dstFmt ≤ 2) && leNat v == fmtNan m.dstFmt)))
      || (sum && m.dstFmt == 12 && (psDecode (leNat v)).poison))

/-- The first values of a list, in a table. -/
def addVals (t : CollVals) (l : CollVals) : CollVals := l.foldl (fun t x => Tab.set t x.1 x.2) t

/-! ## Combination (R36, R354) -/

/-- The positional source of a collective: group seed and stream id. -/
def collRng (seed : Word) (m : CollMsg) : Rng := { positional := true, seed, tid := m.stream, gen := {} }
/-- Draw index of node j at level l (R36). -/
def rankDraw (l j : Nat) : Nat := 0xC0000000 + l * 0x00100000 + j

/-- The PS36 value of a value on the way up. -/
def psOf (b : List Byte) : Val := psDecode (leNat b)

/-- The value of a node from its two inputs (R36, R354). -/
def combineNode (seed : Word) (m : CollMsg) (level node : Nat) (a b : NodeVal) : NodeVal :=
  let vals : CollVals :=
    if m.kind = 2 ∨ m.kind = 3 ∨ m.kind = 5 then addVals a.vals b.vals
    else
      a.vals.map fun x =>
        let y := Tab.get ([], false) b.vals x.1
        let v := ((collRng seed m).roundPs ((Rm.ofCode m.accMode).getD .rne) x.1 (rankDraw level node) ((psOf x.2.1).add (psOf y.1))).1
        (x.1, leBytes 5 (psEncode v), x.2.2 || y.2)
  { level, node, mask := sortBy (fun x y => decide (x ≤ y)) (a.mask ++ b.mask), vals, whole := true, failed := a.failed || b.failed }

/-- Result of a GNORM (R265, R266): 16 bytes. A sum of zero of either sign has the norm 0 (DEDUCED, log entry 144). -/
def gnormResult (m : CollMsg) (sum : Val) (present p : Nat) : List Byte :=
  let tau := decElem 0 m.tau
  let finite := match sum.n with | .fin _ => true | _ => false
  let norm : FNum :=
    if sum.poison then .nan
    else match sum.n with
      | .fin x => if x.m = 0 then FNum.zero else unaryFn 0x0A sum.n
      | .inf false => .inf false
      | _ => .nan
  let nBits := convPlain 0 .rne 0 norm
  let n := decElem 0 nBits
  let c : FNum :=
    if sum.poison || !finite then FNum.zero
    else
      match n, tau with
      | .fin a, .fin b => if b.lt a then .fin (b.div a) else .fin ⟨false, 1, 0⟩
      | _, _ => .nan
  leBytes 4 nBits ++ leBytes 4 (convPlain 0 .rne 0 c) ++ leBytes 2 present ++ leBytes 2 p
    ++ leBytes 4 ((if !finite && !sum.poison then 1 else 0) + (if present < p then 2 else 0) + (if sum.poison then 4 else 0))

/-- The result that the root's host forms (R354): average, final conversion. -/
def rootResult (seed : Word) (m : CollMsg) (p : Nat) (v : NodeVal) : CollVals :=
  let n := v.mask.length
  let avg (x : Val) : Val := if m.avg then psDiv x (psCount n) else x
  match m.kind with
  | 4 =>
    (gnormResult m (psOf (Tab.get ([], false) v.vals 0).1) n p).zipIdx.map fun x => (x.2, [x.1], false)
  | 2 => v.vals
  | 3 => v.vals
  | 5 => v.vals
  | _ =>
    v.vals.map fun x =>
      let y := avg (psOf x.2.1)
      if m.dstFmt = 12 then (x.1, leBytes 8 (psEncode y), y.poison)
      else
        let bits := if y.poison then fmtNan m.dstFmt
          else ((collRng seed m).convPlain m.dstFmt ((Rm.ofCode m.outMode).getD .rne) x.1 0xFFFFFFFF y.n).1
        (x.1, leBytes (fmtBits m.dstFmt / 8) bits, y.poison)

/-! ## Messages (R356–R358) -/

/-- A message with its mask, values and checksum put into a header. -/
def fillMsg (m : CollMsg) (pos p level node : Nat) (mask : List Nat) (failed : Bool) (x : Nat × Nat × List Byte × Bool) (digest : List Byte) : CollMsg :=
  let mb := maskBytes p mask
  { m with pos, level, node, poison := x.2.2.2, failed, first := x.1, mask := mb, values := x.2.2.1, crc := crc64 (mb ++ x.2.2.1), digest }

/-- Whether two headers name the same collective (R355). -/
def sameHdr (a b : CollMsg) : Bool :=
  a.kind == b.kind && a.group == b.group && a.seq == b.seq && a.print == b.print && a.elems == b.elems && a.srcFmt == b.srcFmt
    && a.dstFmt == b.dstFmt && a.accMode == b.accMode && a.outMode == b.outMode && a.stream == b.stream && a.tau == b.tau
    && a.srcPos == b.srcPos

/-- A message sent to a position and kept until it is accepted (R358). -/
def World.sendColl (w : World) (g seq pos : Nat) (m : CollMsg) (up : Bool) : World :=
  let rank := nth (w.group g).members pos
  match w.coll g seq with
  | some c =>
    let w := w.putColl { c with unacked := c.unacked ++ [{ rank, msg := m }] }
    w.sendRank rank (if up then .contrib m else .result m)
  | none => w

/-- State digest of the owner context of a group (R357). -/
def World.ownDigest (w : World) (g : Nat) : List Byte :=
  let o := (w.group g).owner
  if o < 256 then (w.ctx o).digest else List.replicate 16 0

/-- A node's value sent up to a position. -/
def World.sendUp (w : World) (g seq : Nat) (h : CollMsg) (pos : Nat) (v : NodeVal) : World :=
  let p := (w.group g).members.length
  let own := (w.ownPos g).getD 0
  let msgs := if v.failed then [(0, 0, [], false)] else packMsgs v.vals
  msgs.foldl (fun w x => w.sendColl g seq pos (fillMsg h own p v.level v.node v.mask v.failed x (w.ownDigest g)) true) w

/-! ## The part's own COLL (R351, R352, R363) -/

/-- The store-queue entry of a part's COLL in progress. -/
def World.collEntry (w : World) (c : Coll) : Option (Nat × Entry) :=
  match c.core with
  | some k => ((w.core k).store.find? fun t => t.st == .collective c.group c.seq).map fun t => (k, t)
  | none => none

/-- The environment of the owner context of a group, on one core. -/
def State.collEnv (res : Tab Resid) (w : World) (g core : Nat) : Env :=
  let n := (w.group g).owner
  let r : Resid := Tab.get {} res n
  { c := core, n, r, st := r.st }

/-- Writes of result values into the part's destination (R351, R354): the bytes of a poisoned message of ALLGATHER or BROADCAST are marked (R357), a
poisoned value of the other kinds by R28, which leaves the tag to a PS36 container. -/
def resultWrites (m : CollMsg) (p k : Nat) (d : Desc) (vals : CollVals) : List BitWrite :=
  let b := downBytes m
  let base := if m.kind = 1 then (shard m p k).1 else 0
  (vals.filter fun x => inCover m p [k] x.1).map fun x =>
    let byte := if m.kind = 4 ∨ m.kind = 5 then b * x.1 else (d.bitAddr [x.1 - base, 0, 0, 0, 0] - 8 * d.base) / 8
    bytesAt (d.base + byte) x.2.1 (x.2.2 && (m.dstFmt != 12 || m.kind == 2 || m.kind == 3))

/-! ## Verdicts on state digests (R491, R492) -/

/-- The digest that more than half of the digests present hold, if any. -/
def majority (l : List (Nat × List Byte)) : Option (List Byte) :=
  (l.map (·.2)).find? fun d => decide (l.length < 2 * (l.filter fun x => x.2 == d).length)

/-- The verdict on a DIGEST (R491, R492): code, suspect, repeat, and the class of the record it raises. -/
def verdictOf (present : List (Nat × List Byte)) (own : List Byte) (prev : Option PrevDigest) (step : Nat) :
    Nat × Bool × Bool × Option Nat :=
  let equal := (present.map (·.2)).all fun d => some d == (present.map (·.2)).head?
  let maj := majority present
  let suspect := match maj with | some d => d != own | none => false
  match prev with
  | some q =>
    if q.step = step then
      if equal then (3, false, true, if q.suspect || q.noMajority then some clsCe else none)
      else if own != q.digest then (4, true, true, some clsCtx)
      else if maj != some own then (5, true, true, some clsCtx)
      else (1, false, true, some clsCe)
    else if equal then (0, false, false, none)
    else if 3 ≤ present.length ∧ maj.isSome then (1, suspect, false, some (if suspect then clsCtx else clsCe))
    else (2, false, false, some clsCe)
  | none =>
    if equal then (0, false, false, none)
    else if 3 ≤ present.length ∧ maj.isSome then (1, suspect, false, some (if suspect then clsCtx else clsCe))
    else (2, false, false, some clsCe)

/-- The 32 bytes of a verdict (R492). -/
def verdictBytes (st code : Nat) (suspect again : Bool) (step group : Nat) (present : List (Nat × List Byte)) : List Byte :=
  let maj := if code = 1 ∨ code = 4 ∨ code = 5 ∨ code = 0 ∨ code = 3 then majority present else none
  let held := match maj with | some d => (present.filter fun x => x.2 == d).length | none => 0
  let out : List (Nat × List Byte) :=
    match maj with
    | some d => present.filter fun x => x.2 != d && decide (x.1 < 64)
    | none => []
  leBytes 2 st ++ leBytes 1 code ++ leBytes 1 ((if suspect then 1 else 0) + (if again then 2 else 0)) ++ leBytes 4 step
    ++ leBytes 2 group ++ leBytes 2 present.length ++ leBytes 2 held ++ leBytes 2 0
    ++ leBytes 8 ((out.map fun x => 2 ^ x.1).foldl (· + ·) 0) ++ leBytes 8 0

/-- What a DIGEST that has completed leaves (R491, R492): the verdict, the record it raises, the digest kept for a repeat. One that ended before the
part computed its digest (`ran` false) keeps none, and its verdict is over no digest present, which are all equal (DESIGN CHOICE, log entry 170). -/
def World.digestDone (w : World) (n g st : Nat) (present : List (Nat × List Byte)) (ran : Bool) : World :=
  let k := w.ctx n
  let prev := k.prevDigests.find? fun q => q.group == g
  let v := verdictOf present k.digest prev k.step
  let bs := verdictBytes st v.1 v.2.1 v.2.2.1 k.step g present
  let q : PrevDigest := { group := g, step := k.step, digest := k.digest, suspect := v.2.1, noMajority := v.1 == 2 }
  let w := w.setCtx n { k with verdict := bs, prevDigests := if ran then q :: k.prevDigests.filter (fun x => x.group != g) else k.prevDigests }
  let w := if v.2.1 then { w with buddy := { w.buddy with suspects := bump 32 w.buddy.suspects 1 } } else w
  match v.2.2.2 with
  | some cls => w.raise cls uDigest stDigestMismatch n (some n) dieNone 0 (bs.take 24)
  | none => w

/-! ## Completion (R362, R363) -/

/-- Bytes of the completion block (R363). -/
def collBlock (st p k seq written : Nat) (mask : List Nat) : List Byte :=
  leBytes 2 st ++ leBytes 2 mask.length ++ leBytes 2 p ++ leBytes 2 k ++ leBytes 4 seq ++ leBytes 4 written ++ leBytes 48 0 ++ maskBytes p mask

/-- The status of a result (R363). -/
def collStatus (c : Coll) (m : CollMsg) (p : Nat) : Nat :=
  let unequal := m.kind == 5 && !((c.seen.map (·.2.1)).all fun d => some d == (c.seen.map (·.2.1)).head?)
  let missing := if m.kind = 3 then c.mask.isEmpty else decide (c.mask.length < p)
  if c.failed || unequal then stDigestMismatch
  else if missing then stTimeout
  else if c.poison then stPoison
  else stOk

/-- A COLL at its start that waits for admission (R352). -/
def collWaits (w : World) (t : Entry) : Bool :=
  t.cmd.op == 0x2A && (w.seam.ownLost || decide (4 ≤ (w.collsOpen.filter fun x => x.group == clGroup t.cmd && x.core.isSome).length)
    || decide (32 ≤ (w.collsOpen.filter fun x => x.core.isSome).length))

/-- Clusters with a COLL at the head of a store queue that may be admitted now are asked to wake (R434). -/
def World.wakeColls (w : World) : World :=
  w.cores.foldl (fun w e =>
    match e.2.store with
    | t :: _ =>
      if t.cmd.op = 0x2A ∧ t.st = .waiting ∧ e.2.entryReady t = true ∧ collWaits w t = false ∧ w.asleep (e.1 / 16) = true then w.wake (e.1 / 16)
      else w
    | [] => w) w

/-- The last sequence number of a group that has completed here, once a collective has (R362). -/
def Group.lastWith (G : Group) (seq : Nat) : Nat := if G.last = 0xFFFFFFFF then seq else max G.last seq

/-- The verdict of the part's own DIGEST as it completes with a status other than those that send nothing (R491). -/
def World.digestEnd (w : World) (c : Coll) (st : Nat) : World :=
  match w.collEntry c with
  | some (_, t) =>
    if clKind t.cmd = 5 then w.digestDone (w.group c.group).owner c.group st (c.seen.map fun x => (x.1, x.2.1)) true else w
  | none => w

/-- The part's own COLL completed, or, where it has not started, its share of the result passed (R362, R363, R368); `block` says whether it writes its
completion block, `ended` whether the part has nothing more to pass on. -/
def World.collFinish (w : World) (c : Coll) (st : Nat) (block ended : Bool) : World :=
  let G := w.group c.group
  let p := G.members.length
  let k := (w.ownPos c.group).getD 0xFFFF
  let real := st != stState && st != stUnitAbsent
  let w :=
    match w.collEntry c with
    | some (core, t) =>
      let w := if block && t.cmd.p2 != 0 then
          w.writeCore core (some G.owner) .scratch [bytesAt (refAddr t.cmd.p2 (t.ind.getD 2 0)) (collBlock st p k c.seq c.written c.mask)]
        else w
      w.setCore core ((w.core core).mark .store t.id (.done st (if real then c.mask.length else 0) 0))
    | none => w
  let w := w.setGroup c.group { w.group c.group with
    last := G.lastWith c.seq, passed := if c.core.isSome then G.passed else G.passed.set c.seq c.mask }
  let w := if real && c.core.isSome then
      { w with collCtr := { w.collCtr with
        completed := bump 64 w.collCtr.completed 1
        withMissing := bump 64 w.collCtr.withMissing (if st == stTimeout || (c.mask.length < p && c.hdr.any fun m => m.kind != 3) then 1 else 0) } }
    else w
  (w.putColl { c with done := true, ended, core := none }).wakeColls

/-- Values of the result written into the destination of the part's own COLL, if it has started (R354). -/
def World.collStore (w : World) (res : Tab Resid) (c : Coll) (m : CollMsg) (vals : CollVals) : World :=
  let p := (w.group c.group).members.length
  let k := (w.ownPos c.group).getD 0
  match w.collEntry c with
  | some (core, _) =>
    if m.kind == 1 && decide ((shard m p k).2 ≤ (shard m p k).1) then w
    else
      let e := State.collEnv res w c.group core
      let d := Desc.ofBytes c.dst
      let u := w.writeSpace e c.pages d.space (resultWrites m p k d vals)
      if World.busMet w u then
        -- some of the writes are made (R164)
        let (mem, free) := EccMem.partly 64 w.hbm.mem u.hbm.mem u.free
        { u with hbm := { u.hbm with mem }, free }.putColl { c with bus := true }
      else u
  | none => w

/-- The end of the part's share of a result (R363): the status, the poison record, the verdict of a DIGEST. -/
def World.collClose (w : World) (res : Tab Resid) (c : Coll) (m : CollMsg) (ended : Bool) : World :=
  let p := (w.group c.group).members.length
  let st := collStatus c m p
  let poisoned := c.poison || (m.kind == 4 && decide (4 ≤ leNat ((Tab.get ([], false) c.seen 12).1)))
  let st := if st == stOk && poisoned then stPoison else st
  let st := if c.bus then stBusError else st
  match w.collEntry c with
  | some (core, t) =>
    let e := State.collEnv res w c.group core
    let w := if poisoned then w.raiseOp clsUe stPoison e t.idx t.cmd 0 else w
    let w := w.digestEnd c st
    let w := if m.kind == 5 && st == stDigestMismatch && !c.failed then
        { w with collCtr := { w.collCtr with unequal := bump 64 w.collCtr.unequal 1 } }
      else w
    w.collFinish c st true ended
  | none => w.collFinish c st false ended

/-- Values of the result arriving at this part for the positions of a node's cover (R354, R363): its own are written where its COLL has started, and
kept until it does; the last of them complete it, the last of all end the collective here. The messages written count those that bring own values;
the root's own result counts as the messages that R356 would cut it into (DESIGN CHOICE, log entry 171). -/
def World.collTake (w : World) (res : Tab Resid) (g seq level node : Nat) (m : CollMsg) (mask : List Nat) (failed : Bool) (vals : CollVals) : World :=
  match w.coll g seq with
  | none => w
  | some c =>
    let p := (w.group g).members.length
    let k := (w.ownPos g).getD 0
    let mine := vals.filter fun x => inCover m p [k] x.1
    let fresh := mine.filter fun x => !(c.seen.any fun y => y.1 == x.1)
    let seen := addVals c.seen vals
    let through := c.failed || failed || decide (coverCount m p (cover p level node) mask ≤ seen.length)
    if c.done then w.putColl { c with seen, ended := through }
    else
      let n := (packMsgs mine).length
      let c := { c with mask, failed := c.failed || failed, got := c.got + fresh.length, poison := c.poison || mine.any (·.2.2), seen
                        written := if (w.collEntry c).isSome then c.written + n else c.written
                        early := if (w.collEntry c).isSome then c.early else c.early + n }
      let w := w.putColl c
      let w := if failed then w else w.collStore res c m mine
      if c.failed || decide (downCount m p k mask ≤ c.got) then w.collClose res ((w.coll g seq).getD c) m through else w

/-! ## Down the tree (R354) -/

/-- Nodes below (level, node) to whose hosts this part passes the result: at each level the sibling of the branch that holds its own
position. `n` levels remain. -/
def downTargets (w : World) (g own : Nat) : Nat → Nat → Nat → List (Nat × Nat)
  | 0, _, _ => []
  | n + 1, level, node =>
    let p := (w.group g).members.length
    let l := (level - 1, 2 * node)
    let r := (level - 1, 2 * node + 1)
    if own ∈ cover p l.1 l.2 then r :: downTargets w g own n l.1 l.2 else l :: downTargets w g own n r.1 r.2

/-- The result passed on to one node's host: its values, one message with nothing where it has none. -/
def World.sendDown (w : World) (g seq : Nat) (h : CollMsg) (mask : List Nat) (failed first : Bool) (vals : CollVals) (t : Nat × Nat) : World :=
  let p := (w.group g).members.length
  let ks := cover p t.1 t.2
  match w.hostPos g t.1 t.2 with
  | none => w
  | some pos =>
    let vs := vals.filter fun x => inCover h p ks x.1
    let none_ := failed || mask.isEmpty || (first && h.kind == 1 && ks.all fun k => decide ((shard h p k).2 ≤ (shard h p k).1))
    let msgs := if none_ then [(0, 0, [], false)] else packMsgs vs
    msgs.foldl (fun w x =>
      let m := fillMsg h ((w.ownPos g).getD 0) p t.1 t.2 mask failed x (w.ownDigest g)
      match w.coll g seq with
      | some c => (w.putColl { c with sentDown := c.sentDown ++ [m] }).sendColl g seq pos m false
      | none => w) w

/-- Whether the result that a new root has formed is not sent to a node's host since all of its cover has completed with the old one (R360). No message
says which have: none has whose leaf is in the new result, and of the others it is free (DESIGN CHOICE, log entry 172). -/
def World.spares (w : World) (g seq : Nat) (mask : List Nat) (t : (Nat × Nat) × Nat) : Bool :=
  ((w.coll g seq).any fun c => c.redo) && (cover (w.group g).members.length t.1.1 t.1.2).all (fun k => !decide (k ∈ mask))
    && Config.freeBool (w.free + t.2)

/-- The result at this part as host of (level, node), passed on to the hosts below. -/
def World.passDown (w : World) (g seq level node : Nat) (h : CollMsg) (mask : List Nat) (failed first : Bool) (vals : CollVals) : World :=
  let ts := (downTargets w g ((w.ownPos g).getD 0) level level node).zipIdx
  ((ts.filter fun t => !w.spares g seq mask t).map (·.1)).foldl (fun w t => w.sendDown g seq h mask failed first vals t)
    { w with free := w.free + ts.length }

/-- The result at this part: passed down, then taken. -/
def World.resultAt (w : World) (res : Tab Resid) (g seq level node : Nat) (h : CollMsg) (mask : List Nat) (failed first : Bool)
    (vals : CollVals) : World :=
  let w := w.passDown g seq level node h mask failed first vals
  w.collTake res g seq level node h mask failed vals

/-! ## Up the tree (R353, R359) -/

/-- Standing of an input: whole, missing, or still to come. -/
inductive InputSt where
  | whole (v : NodeVal)
  | missing
  | pending
  deriving DecidableEq, Repr

def World.inputSt (w : World) (c : Coll) (level node : Nat) : InputSt :=
  let p := (w.group c.group).members.length
  match c.inputs.find? fun v => v.level == level && v.node == node && v.whole with
  | some v => .whole v
  | none =>
    if (cover p level node).all (fun k => w.gone (nth (w.group c.group).members k)) || decide ((level, node) ∈ c.missing) then .missing
    else .pending

/-- A node's value offered to its parent (R353, R354): the root gives the result, another node hosted here combines when its inputs
are settled, a node hosted elsewhere is sent there. `fuel` bounds the climb by the levels of the tree. -/
def World.offer (res : Tab Resid) : Nat → World → Nat → Nat → NodeVal → World
  | 0, w, _, _, _ => w
  | fuel + 1, w, g, seq, v =>
    match w.coll g seq with
    | none => w
    | some c =>
      match c.hdr with
      | none => w
      | some h =>
        let p := (w.group g).members.length
        if v.level = treeLevels p ∨ h.kind = 3 then
          w.resultAt res g seq (treeLevels p) 0 h v.mask v.failed true (if v.failed then [] else rootResult (w.group g).seed h p v)
        else
          let parent := (v.level + 1, v.node / 2)
          if !w.hosts g parent.1 parent.2 then
            match w.hostPos g parent.1 parent.2 with
            | some pos => w.sendUp g seq h pos v
            | none => w
          else if (v.level, v.node) ∈ c.missing then
            { w with collCtr := { w.collCtr with late := bump 64 w.collCtr.late 1 } }
          else
            let held := c.inputs.any fun x => x.level == v.level && x.node == v.node && x.whole
            let c := if held then c else { c with inputs := v :: c.inputs.filter fun x => !(x.level == v.level && x.node == v.node) }
            let w := w.putColl c
            let left := w.inputSt c (v.level) (2 * parent.2)
            let right := if (cover p v.level (2 * parent.2 + 1)).isEmpty then .missing else w.inputSt c v.level (2 * parent.2 + 1)
            let up (x : NodeVal) : World := World.offer res fuel w g seq { x with level := parent.1, node := parent.2 }
            match left, right with
            | .whole a, .whole b => up (combineNode (w.group g).seed h parent.1 parent.2 a b)
            | .whole a, .missing => up a
            | .missing, .whole b => up b
            | _, _ => if v.failed then up { v with failed := true } else w

/-- The settling of a node hosted here after one of its inputs went missing (R359). -/
def World.settleNode (w : World) (res : Tab Resid) (g seq level node : Nat) : World :=
  match w.coll g seq with
  | none => w
  | some c =>
    let p := (w.group g).members.length
    if level = 0 ∨ !w.hosts g level node then w
    else
      let left := w.inputSt c (level - 1) (2 * node)
      let right := if (cover p (level - 1) (2 * node + 1)).isEmpty then .missing else w.inputSt c (level - 1) (2 * node + 1)
      match left, right with
      | .whole a, .missing => World.offer res 14 w g seq a
      | .missing, .whole b => World.offer res 14 w g seq b
      | _, _ => w

/-- A part's leaf offered to the tree; that of a BROADCAST goes straight to the root's host (R354). -/
def World.sendLeaf (w : World) (res : Tab Resid) (g seq k : Nat) (h : CollMsg) (v : NodeVal) : World :=
  if h.kind = 3 then
    match w.hostPos g (treeLevels (w.group g).members.length) 0 with
    | some pos => if pos = k then World.offer res 14 w g seq v else w.sendUp g seq h pos v
    | none => w
  else World.offer res 14 w g seq v

/-- The root of a BROADCAST whose source is lost has nothing to wait for (R359): an empty result. -/
def World.settleSource (w : World) (res : Tab Resid) (g seq : Nat) : World :=
  match w.coll g seq with
  | none => w
  | some c =>
    match c.hdr with
    | none => w
    | some h =>
      let root := treeLevels (w.group g).members.length
      if h.kind = 3 ∧ c.done = false ∧ w.hosts g root 0 = true ∧ w.inputSt c 0 h.srcPos = .missing then
        w.resultAt res g seq root 0 h [] false true []
      else w

/-! ## Starting a COLL -/

/-- A descriptor of a COLL with the properties of R352. -/
def Desc.collOk (d : Desc) (spaces : List Nat) : Bool :=
  !d.bad && decide (d.space ∈ spaces) && d.rank == 1 && d.brim0 == 0 && decide (d.sz 0 ≤ d.valid0) && d.bound == 0 && d.qfmt == 0
    && d.w7 == 0 && !d.past none

/-- The own header of a COLL (R357). -/
def collHeader (w : World) (r : Record) (g seq e sf df : Nat) : CollMsg :=
  { kind := clKind r, group := g, pos := 0, seq, level := 0, avg := clAvg r, poison := false, failed := false, node := 0
    print := (w.group g).print, elems := e, srcFmt := sf, dstFmt := df
    accMode := if r.accMode = 7 then w.nums.accMode else r.accMode, outMode := if r.outMode = 7 then w.nums.outMode else r.outMode
    stream := r.stream.toNat, tau := if clKind r = 4 ∨ clKind r = 5 then fld r.imm.toNat 31 0 else 0, crc := 0, digest := []
    srcPos := clSrc r, first := 0, mask := [], values := [] }

/-- Whether formats and sizes agree with R351: kind, P, own position, source position, E, source and destination. -/
def collShapes (kind p k sp : Nat) (src dst : Option Desc) : Bool :=
  let plain (f : Nat) : Bool := f ≤ 2 || f == 12
  let block (f : Nat) : Bool := plain f || f == 13 || f == 14 || f == 15
  match kind, src, dst with
  | 0, some s, some d => plain s.fmt && plain d.fmt && d.sz 0 == s.sz 0 && decide (s.sz 0 ≤ 268435456)
  | 1, some s, some d =>
    let n := cdiv (s.sz 0) p
    let len := min ((k + 1) * n) (s.sz 0) - k * n
    plain s.fmt && plain d.fmt && len != 0 && d.sz 0 == len && decide (s.sz 0 ≤ 268435456)
  | 1, some s, none => plain s.fmt && decide (s.sz 0 ≤ k * cdiv (s.sz 0) p)
  | 2, some s, some d => block s.fmt && d.fmt == s.fmt && d.sz 0 == p * s.sz 0 && decide (p * s.sz 0 ≤ 268435456)
  | 3, some s, some d => sp == k && block s.fmt && d.fmt == s.fmt && d.sz 0 == s.sz 0 && decide (s.sz 0 ≤ 268435456)
  | 3, none, some d => sp != k && block d.fmt && decide (d.sz 0 ≤ 268435456)
  | 4, some s, some d => s.fmt == 12 && s.sz 0 == 1 && d.fmt == 15 && d.sz 0 == 16 && d.space != 3
  | 5, none, some d => d.fmt == 15 && d.sz 0 == 16 * p
  | _, _, _ => false

/-- The extent of the completion block in the scratchpad (R363). -/
def blockExtent (r : Record) (ind : Word) (p : Nat) : Extent :=
  if r.p2 = 0 then ⟨1, 0, 0⟩ else ⟨1, refAddr r.p2 ind, refAddr r.p2 ind + 64 + 8 * cdiv p 64⟩

/-- The checks of R349–R352 that give `ST_STATE`. -/
def collBad (w : World) (e : Env) (t : Entry) (o0 o1 o3 : Opd) : Bool :=
  let r := t.cmd
  let g := clGroup r
  let G := w.group g
  let p := G.members.length
  let kind := clKind r
  let k := (w.ownPos g).getD 0xFFFF
  let ind2 := t.ind.getD 2 0
  let src := o0.desc
  let dst := o1.desc
  let tau := fld r.imm.toNat 31 0
  let inPlace := kind == 0 && o0.block == o1.block && o0.block != []
  let exts := fun (d : Option Desc) => match d with | some x => [x.extent none] | none => []
  commonBad e r
    -- ALLGATHER, BROADCAST and DIGEST round nothing (R65)
    || (decide (kind ∈ [0, 1, 4]) && (decide (4 ≤ r.accMode ∧ r.accMode ≤ 6) || decide (4 ≤ r.outMode ∧ r.outMode ≤ 6)))
    || fld r.opflags.toNat 31 24 != 0 || fld r.opflags.toNat 1 0 != 0 || decide (5 < kind) || fld r.imm.toNat 63 32 != 0
    || (kind != 4 && kind != 5 && tau != 0) || (clAvg r && decide (1 < kind)) || (kind != 3 && clSrc r != 0)
    || (kind == 3 && decide (p ≤ clSrc r))
    || p == 0 || (w.ownPos g).isNone || G.owner != e.n
    || (kind == 4 && (match decElem 0 tau with | .fin d => d.neg || d.m == 0 | _ => true))
    || o0.isBad || o1.isBad || o3.isBad
    || (r.p2 != 0 && (refSpace r.p2 != 1 || !refOk r.p2 ind2 (64 + 8 * cdiv p 64)))
    || (match src with | some s => !s.collOk [0, 1, 3] | none => false)
    || (match dst with | some d => !d.collOk (if kind = 4 then [0, 1] else [0, 1, 3]) | none => false)
    || !collShapes kind p k (clSrc r) src dst
    || (!inPlace && (exts src).any fun a => (exts dst).any fun b => a.meets b)
    || (match o3.desc, src with
      | some x, some s => !inPlace || !x.collOk [0, 1] || x.fmt != s.fmt || x.sz 0 != s.sz 0 || (x.extent none).meets (s.extent none)
          || (x.extent none).meets (blockExtent r ind2 p)
      | some _, none => true
      | none, _ => !o3.isNone)

/-- Elements of a source of RANK 1. -/
def World.collElems (w : World) (core : Nat) (pages : List (Nat × Nat)) (d : Desc) : List Elem :=
  (vecCoords d).map (w.elemIter core { d, pages })

/-- The CRCs of the regions that a DIGEST reads, and the digest they fold into (R364). -/
def World.stateDigest (w : World) (r : Resid) (mask : Nat) : List Byte × List Byte :=
  let items := (List.range r.cores).flatMap fun j => ((List.range 32).filter (bit mask)).map fun i =>
    (32 * j + i, crc64 (Cells.read (w.core (r.core0 + j)).ws.cells (65536 * i) 65536))
  let x := items.flatMap fun p => leBytes 8 p.2.toNat
  let hi := items.foldl (fun (acc : Nat) p => (acc + p.2.toNat * (2 * p.1 + 1)) % 2 ^ 64) 0
  (leBytes 8 (crc64 x).toNat ++ leBytes 8 hi, x)

/-- Reads of a DIGEST: every word of the regions named, on every core of the group. -/
def World.digestReads (w : World) (n : Nat) (r : Resid) (mask : Nat) : World :=
  r.coreList.foldl (fun w c => ((List.range 32).filter (bit mask)).foldl (fun w i => w.touch c (some n) .weight (wordsOf 16 (65536 * i) 65536)) w) w

/-- The leaf of a part: values by index, read from the source or its staging copy (R351, R354). A PS36 container that carries its own tag is poison too
(R25, R28). -/
def World.leafOf (w : World) (core k n : Nat) (h : CollMsg) (pages : List (Nat × Nat)) (d : Option Desc) : NodeVal :=
  let vals : CollVals :=
    if h.kind = 5 then [(k, (w.ctx n).digest, false)]
    else
      match d with
      | none => []
      | some d =>
        (w.collElems core pages d).zipIdx.map fun x =>
          let poison := x.1.poison || (d.fmt == 12 && (psDecode x.1.raw).poison)
          if h.kind = 2 then (k * h.elems + x.2, leBytes (fmtBits d.fmt / 8) x.1.raw, poison)
          else if h.kind = 3 then (x.2, leBytes (fmtBits d.fmt / 8) x.1.raw, poison)
          else
            let v := x.1.val d.fmt
            (x.2, leBytes 5 (psEncode v), v.poison)
  { level := 0, node := k, mask := [k], vals, whole := true }

/-- The descriptor that a repeat of the leaf reads, as read when the COLL started (R82): the staging copy's where there is one (R352). -/
def Coll.leafDesc (c : Coll) : Option Desc :=
  if c.stage ≠ [] then some (Desc.ofBytes c.stage) else if c.src ≠ [] then some (Desc.ofBytes c.src) else none

/-- Whether a COLL's leaf can no longer be read: an in-place ALLREDUCE without a staging copy that has written a chunk of the result (R360). -/
def Coll.lostLeaf (c : Coll) (t : Entry) : Bool := clKind t.cmd == 0 && c.src == c.dst && c.stage == [] && c.written != 0

/-- Starting a COLL that its checks have passed (R354, R355, R362): the sequence number taken, the leaf formed and offered. -/
def World.collStart (w : World) (res : Tab Resid) (e : Env) (t : Entry) (o0 o1 o3 : Opd) (pages : List (Nat × Nat)) : World :=
  let r := t.cmd
  let src := o0.desc
  let dst := o1.desc
  let g := clGroup r
  let G := w.group g
  let p := G.members.length
  let k := (w.ownPos g).getD 0
  let seq := G.next
  let w := w.setGroup g { G with next := add32 seq 1 }
  let w := w.setCore e.c ((w.core e.c).mark .store t.id (.collective g seq))
  let elems := if clKind r = 5 then 1 else match src, dst with | some s, _ => s.sz 0 | none, some d => d.sz 0 | _, _ => 0
  let sf := match src, dst with | some s, _ => s.fmt | none, some d => d.fmt | _, _ => 0
  let df := match dst with | some d => d.fmt | none => sf
  let h := collHeader w r g seq elems sf df
  let old := w.coll g seq
  if G.last ≠ 0xFFFFFFFF ∧ seq ≤ G.last then
    let w := if clKind r = 5 then w.digestDone e.n g stTimeout [] false else w
    let c : Coll := old.getD { group := g, seq, ended := true }
    w.collFinish { c with core := some e.c, hdr := some (c.hdr.getD h), mask := Tab.get c.mask G.passed seq } stTimeout true c.ended
  else
    let c : Coll := { (old.getD { group := g, seq }) with core := some e.c, src := o0.block, dst := o1.block, stage := o3.block, pages }
    match c.hdr with
    | some q =>
      if sameHdr q h then store (begin_ (w.putColl c) p k seq h) seq h
      else
        -- the own leaf counts as missing; the part goes on hosting (R355)
        let w := w.collFinish { c with missing := (0, k) :: c.missing } stState false false
        w.settleNode res g seq 1 (k / 2)
    | none => store (begin_ (w.putColl { c with hdr := some h }) p k seq h) seq h
where
  /-- Values of the result that came before the record started, written now. -/
  store (w : World) (seq : Nat) (h : CollMsg) : World :=
    let g := clGroup t.cmd
    match w.coll g seq with
    | some c =>
      (w.putColl { c with written := c.written + c.early, early := 0 }).collStore res c h
        (c.seen.filter fun (x : Nat × List Byte × Bool) => inCover h (w.group g).members.length [(w.ownPos g).getD 0] x.1)
    | none => w
  /-- The leaf formed, its source copied to the staging area, and the leaf offered to the tree. -/
  begin_ (w : World) (_p k seq : Nat) (h : CollMsg) : World :=
    let g := clGroup t.cmd
    let src := o0.desc
    let w :=
      match src, o3.desc with
      | some s, some d =>
        let es : List Elem := w.collElems e.c pages s
        w.writeSpace e pages d.space (es.zipIdx.map fun (x : Elem × Nat) => ⟨d.bitAddr [x.2, 0, 0, 0, 0], d.bits, x.1.raw, x.1.poison⟩)
      | _, _ => w
    let w :=
      if h.kind = 5 then
        let w := w.digestReads e.n e.r h.tau
        let q := w.stateDigest e.r h.tau
        w.setCtx e.n { w.ctx e.n with digest := q.1, regionCrcs := q.2 }
      else
        match src with
        | some s => w.readSpans e pages s.space true ((vecCoords s).flatMap s.readSpan)
        | none => w
    if h.kind = 3 ∧ h.srcPos ≠ k then w.settleSource res g seq else w.sendLeaf res g seq k h (w.leafOf e.c k e.n h pages src)

/-- Reads of the source of a COLL: those that fail on the bus (R330). -/
def World.meetSource (w : World) (e : Env) (pages : List (Nat × Nat)) : Option Desc → World
  | some d =>
    if d.space = 0 then
      w.meetBus (some e.n) ((wordsOfSpans 64 ((vecCoords d).flatMap d.readSpan)).map fun b => physOf pages (64 * b) / 64)
    else w
  | none => w

/-- Clusters whose Weight Stores a DIGEST reads (R364). -/
def digestClusters (e : Env) (r : Record) : List Nat :=
  if clKind r = 5 ∧ fld r.imm.toNat 31 0 ≠ 0 then (List.range e.r.count).map (e.r.first + ·) else []

/-- The COLL at the start of a core's store queue (R349–R352): refused, waiting for admission, or started. It waits too while the
part is reported lost (R341; DEDUCED, log entry 43), and a DIGEST while a cluster that it reads sleeps, which it wakes (R109). -/
def State.collRow (s : State) (c kind : Nat) : World :=
  match s.starting c .store with
  | none => s.w
  | some (e, t) =>
    let r := t.cmd
    if r.op ≠ 0x2A ∨ clKind r ≠ kind then s.w
    else
      let g := clGroup r
      let fin (x : Run) : World :=
        let w := World.finish x c .store t.id
        if kind = 5 ∧ x.st ≠ stState ∧ x.st ≠ stUnitAbsent then w.digestDone e.n g x.st [] false else w
      if (s.w.collPeers g kind (clSrc r)).any fun k => s.w.licenceBars k then fin (.fail s.w stUnitAbsent)
      else if (s.w.seam.ownLost = true ∨ (s.w.collsOpen.filter fun x => x.group == g && x.core.isSome).length ≥ 4 ∨ (s.w.collsOpen.filter fun x => x.core.isSome).length ≥ 32) then s.w
      else
        let (o0, w) := s.w.fetchRef e r.p0 (t.ind.getD 0 0) 64
        let (o1, w) := w.fetchRef e r.p1 (t.ind.getD 1 0) 64
        let (o3, w) := w.fetchRef e r.p3 (t.ind.getD 3 0) 64
        match firstFault [o0, o1, o3] with
        | some st => fin (.fail w st)
        | none =>
          match firstRefusal [(collBad w e t o0 o1 o3, stState), (copyMisaligned o0 o1 o3, stAlign)] with
          | some st => fin (.fail w st)
          | none =>
            let span (o : Opd) (wr : Bool) (x : Except Nat (List (Nat × Nat)) × World) : Except Nat (List (Nat × Nat)) × World :=
              match x.1, o.desc with
              | .ok l, some d =>
                match x.2.xlateSpans e d.space wr ((vecCoords d).map fun i => (d.bitAddr i / 8, d.bits / 8)) with
                | (.ok m, w) => (.ok (l ++ m), w)
                | q => q
              | _, _ => x
            let refs := [r.p0, r.p1, r.p3].zipIdx.flatMap fun p =>
              if p.1 ≠ 0 ∧ refSpace p.1 = 0 then pagesOf (refAddr p.1 (t.ind.getD (if p.2 = 2 then 3 else p.2) 0)) 64 else []
            match w.xlatePages e false refs with
            | (.error st, w) => fin (.fail w st)
            | (.ok rp, w) =>
              match span o1 true (span o3 true (span o0 false (.ok rp, w))) with
              | (.error st, w) => fin (.fail w st)
              | (.ok pages, w) =>
                let w := w.meetSource e pages o0.desc
                if World.busMet s.w w then fin (.fail w stBusError)
                else if (digestClusters e r).any fun k => (s.w.cluster k).power == .off then fin (.fail w stState)
                else if (digestClusters e r).any fun k => s.w.asleep k then (digestClusters e r).foldl World.wake s.w
                else w.collStart s.res e t o0 o1 o3 pages

/-- COLL ALLREDUCE (R354). -/
def execCollAllreduce (c : CoreId) (s : State) : Out := .next (s.withW (s.collRow c 0))
/-- COLL REDUCE_SCATTER (R354). -/
def execCollReduceScatter (c : CoreId) (s : State) : Out := .next (s.withW (s.collRow c 1))
/-- COLL ALLGATHER (R354). -/
def execCollAllgather (c : CoreId) (s : State) : Out := .next (s.withW (s.collRow c 2))
/-- COLL BROADCAST (R354). -/
def execCollBroadcast (c : CoreId) (s : State) : Out := .next (s.withW (s.collRow c 3))
/-- COLL GNORM (R265, R354). -/
def execCollGnorm (c : CoreId) (s : State) : Out := .next (s.withW (s.collRow c 4))
/-- COLL DIGEST (R364). -/
def execCollDigest (c : CoreId) (s : State) : Out := .next (s.withW (s.collRow c 5))

/-! ## Messages received (R355–R359) -/

/-- Whether a message's checksum holds (R358). -/
def msgIntact (m : CollMsg) : Bool := crc64 (m.mask ++ m.values) == m.crc

/-- An answer to a message (R337): 0 ACCEPTED, 1 RESEND, 2 LATE, 3 REFUSED. -/
def World.collAnswer (w : World) (src : Nat) (m : CollMsg) (answer : Nat) : World :=
  w.sendRank src (.canswer m.seq m.group answer m.level m.node m.first)

/-- The record of a payload that failed its check twice (R358, R480), stamped by the I/O die of the collective engine that took it (R420); which of the
two engines takes a message is free (DESIGN CHOICE, log entry 173). -/
def World.digestFail (w : World) (m : CollMsg) : World :=
  let die := if Config.freeBool w.free then dieNone else dieNone + 1
  let w := { w with collCtr := { w.collCtr with crcFails := bump 64 w.collCtr.crcFails 1 }, free := w.free + 1 }
  w.raise clsUe uColl stDigestMismatch m.group none die 0 (leBytes 4 m.seq ++ leBytes 2 m.pos)

/-- A contribution to a collective that has ended here: late where its input was declared missing (R359), else a repeat of one that the host held
(R360); its checksum is tested first (R358). -/
def World.contribPast (w : World) (src : Nat) (m : CollMsg) (missing : List (Nat × Nat)) : World :=
  if !msgIntact m then w.collAnswer src m 1
  else if (m.level, m.node) ∈ missing then { w.collAnswer src m 2 with collCtr := { w.collCtr with late := bump 64 w.collCtr.late 1 } }
  else w.collAnswer src m 0

/-- A contribution taken by a host (R353–R359). -/
def World.takeContrib (w : World) (res : Tab Resid) (src : Nat) (m : CollMsg) : World :=
  let g := m.group
  let G := w.group g
  let p := G.members.length
  let held := w.coll g m.seq
  let past := match held with
    | some c => if c.ended then some c.missing else none
    | none => w.collThrough g m.seq
  if 64 ≤ g ∨ p = 0 ∨ (w.ownPos g).isNone = true then w.collAnswer src m 3
  else match past with
  | some missing =>
    match held with
    | some c =>
      let key := (m.level, m.node, m.first)
      if !msgIntact m && decide (key ∈ c.again) then w.digestFail m
      else (if msgIntact m then w else w.putColl { c with again := key :: c.again }).contribPast src m missing
    | none => w.contribPast src m missing
  | none =>
    let c := held.getD { group := g, seq := m.seq }
    let h := c.hdr.getD { m with mask := [], values := [] }
    if m.print != G.print || !sameHdr h m then
      let w := w.putColl { c with missing := (m.level, m.node) :: c.missing }
      (w.collAnswer src m 3).settleNode res g m.seq (m.level + 1) (m.node / 2)
    else
      let c := { c with hdr := some h }
      let key := (m.level, m.node, m.first)
      if !msgIntact m then
        if key ∈ c.again then
          let w := (w.putColl c).digestFail m
          World.offer res 14 w g m.seq { level := m.level, node := m.node, whole := true, failed := true }
        else (w.putColl { c with again := key :: c.again }).collAnswer src m 1
      else if (m.level, m.node) ∈ c.missing then
        let w := (w.putColl c).collAnswer src m 2
        { w with collCtr := { w.collCtr with late := bump 64 w.collCtr.late 1 } }
      else
        let old := (c.inputs.find? fun v => v.level == m.level && v.node == m.node).getD { level := m.level, node := m.node }
        if old.whole then (w.putColl c).collAnswer src m 0
        else
          let mask := maskOf p m.mask
          let vals := addVals old.vals (msgVals m false)
          let v := { old with mask, vals, failed := m.failed, whole := m.failed || decide (upCount h mask ≤ vals.length) }
          let c := { c with inputs := v :: c.inputs.filter fun x => !(x.level == m.level && x.node == m.node) }
          let w := (w.putColl c).collAnswer src m 0
          if v.whole then World.offer res 14 w g m.seq v else w

/-- A result message taken (R354, R358, R362). -/
def World.takeResult (w : World) (res : Tab Resid) (src : Nat) (m : CollMsg) : World :=
  let g := m.group
  let G := w.group g
  let p := G.members.length
  let held := w.coll g m.seq
  let past := match held with
    | some c => c.ended
    | none => (w.collThrough g m.seq).isSome
  -- the message that reaches covers with nothing of their own, once
  let first (h : CollMsg) : Bool := m.values.isEmpty || m.first == (shard h p (m.node * 2 ^ m.level)).1
  if 64 ≤ g ∨ p = 0 ∨ (w.ownPos g).isNone = true then w.collAnswer src m 0
  else if past then
    -- a part that is through with it passes it on to those that may not be (R360)
    if !msgIntact m then w.collAnswer src m 1
    else
      let w := w.collAnswer src m 0
      let c := held.getD { group := g, seq := m.seq, done := true }
      let h := c.hdr.getD { m with mask := [], values := [] }
      if c.failed then w
      else
        let w := (w.putColl { c with hdr := some h, ended := false }).passDown g m.seq m.level m.node h (maskOf p m.mask) m.failed (first h) (msgVals m true)
        match w.coll g m.seq with
        | some d => w.putColl { d with ended := true }
        | none => w
  else
    let c := held.getD { group := g, seq := m.seq }
    let h := c.hdr.getD { m with mask := [], values := [] }
    let c := { c with hdr := some h }
    let key := (m.level, m.node, m.first)
    if !msgIntact m then
      if key ∈ c.again then 
        let w := ((w.putColl { c with failed := true }).digestFail m).digestEnd { c with failed := true } stDigestMismatch
        w.collFinish { c with failed := true } stDigestMismatch true true
      else (w.putColl { c with again := key :: c.again }).collAnswer src m 1
    else
      let w := (w.putColl c).collAnswer src m 0
      w.resultAt res g m.seq m.level m.node h (maskOf p m.mask) m.failed (first h) (msgVals m true)

/-- A message sent once more (R358): a leaf is read again, from its staging copy where it has one; one that an in-place ALLREDUCE has overwritten is
not repeated (R361). -/
def World.repeatMsg (w : World) (res : Tab Resid) (c : Coll) (x : CollTx) : World :=
  let own := (w.ownPos c.group).getD 0xFFFF
  if c.sentDown.any fun m => m == x.msg then w.sendRank x.rank (.result x.msg)
  else if x.msg.level = 0 ∧ x.msg.node = own ∧ x.msg.kind ≠ 5 then
    match w.collEntry c, c.hdr with
    | some (core, t), some h =>
      if c.lostLeaf t then w
      else
        let d := c.leafDesc
        let n := x.msg.values.length / upBytes h
        let w := match d with
          | some s => w.readSpans (State.collEnv res w c.group core) c.pages s.space true ((vecCoords s).flatMap s.readSpan)
          | none => w
        let v := w.leafOf core own (w.group c.group).owner h c.pages d
        let part := v.vals.filter fun y => decide (x.msg.first ≤ y.1 ∧ y.1 < x.msg.first + n)
        let m := fillMsg x.msg own (w.group c.group).members.length 0 own [own] false
          (x.msg.first, n, part.flatMap (·.2.1), part.any (·.2.2)) x.msg.digest
        w.sendRank x.rank (.contrib m)
    | _, _ => w.sendRank x.rank (.contrib x.msg)
  else w.sendRank x.rank (.contrib x.msg)

/-- An answer to a message of this part (R355, R358). -/
def World.takeAnswer (w : World) (res : Tab Resid) (src seq g answer level node first : Nat) : World :=
  match w.coll g seq with
  | none => w
  | some c =>
    let hit (x : CollTx) : Bool := x.rank == src && x.msg.level == level && x.msg.node == node && x.msg.first == first
    match c.unacked.find? hit with
    | none => w
    | some x =>
      if answer = 1 then
        if x.resent then w
        else
          let w := w.putColl { c with unacked := c.unacked.map fun y => if hit y then { y with resent := true } else y }
          w.repeatMsg res c x
      else
        let c := { c with unacked := c.unacked.filter fun y => !hit y }
        let w := w.putColl c
        if answer = 3 ∧ c.core.isSome = true then w.collFinish c stState false false else w

/-- What a routed message does here: a message for another rank is FRAME_FORWARD's; a part that has been reported lost takes part in no
collective (R341), so it drops the message. -/
def State.collIn (s : State) (l : Nat) (h : SeamHdr) (b : FrameBody) (f : World → World) : Out :=
  if s.w.mine h = false then .next s
  else
    match s.w.receive l h b false with
    | .ok w => .next (s.withW (if w.seam.ownLost then w else f w))
    | .error w => .next (s.withW w)

/-- CONTRIB received (R353, R356–R359). -/
def execContrib (l : LinkId) (h : SeamHdr) (m : CollMsg) (s : State) : Out :=
  s.collIn l h (.contrib m) fun w => w.takeContrib s.res h.src m

/-- RESULT received (R354, R358). -/
def execResult (l : LinkId) (h : SeamHdr) (m : CollMsg) (s : State) : Out :=
  s.collIn l h (.result m) fun w => w.takeResult s.res h.src m

/-- CANSWER received (R355, R358). -/
def execCanswer (l : LinkId) (h : SeamHdr) (seq group answer level node first : Nat) (s : State) : Out :=
  s.collIn l h (.canswer seq group answer level node first) fun w => w.takeAnswer s.res h.src seq group answer level node first

/-- KEEPALIVE received (R359): the input it names has a host that waits. -/
def execKeepalive (l : LinkId) (h : SeamHdr) (group seq level node : Nat) (s : State) : Out :=
  s.collIn l h (.keepalive group seq level node) fun w =>
    match w.coll group seq with
    | some c => w.putColl { c with alive := (level, node) :: c.alive.filter (· != (level, node)) }
    | none => w

/-- Whether a host waits for an input of a node that it has not sent up (R359). -/
def World.waitsInput (w : World) (c : Coll) (level node : Nat) : Bool :=
  let p := (w.group c.group).members.length
  let ins := [2 * node, 2 * node + 1].filter fun j => !(cover p (level - 1) j).isEmpty
  level != 0 && !c.ended && (ins.any fun j => w.inputSt c (level - 1) j == .pending)
    && !c.inputs.any fun v => v.level + 1 == level && v.node / 2 == node && v.whole && v.failed

/-- Whether this part itself waits for an input of a node that it hosts, having received or formed one, or knowing one to be on its way: it needs no
KEEPALIVE from itself (R359; DEDUCED, log entry 31). -/
def World.waitsHere (w : World) (c : Coll) : Nat → Nat → Bool
  | 0, _ => false
  | level + 1, node =>
    w.hosts c.group (level + 1) node && w.waitsInput c (level + 1) node
      && (c.inputs.any (fun v => v.level == level && v.node / 2 == node) || c.alive.any (fun a => a.1 == level && a.2 / 2 == node)
        || w.waitsHere c level (2 * node) || w.waitsHere c level (2 * node + 1))

/-- KEEPALIVE_SEND (R359): a host that waits for an input of (level, node) tells the host of the parent. -/
def execKeepaliveSend (g : GroupId) (seq : Nat) (level node : Nat) (s : State) : Out :=
  match s.w.coll g seq with
  | none => .next s
  | some c =>
    let p := (s.w.group g).members.length
    if !s.w.seam.ownLost && s.w.hosts g level node && s.w.waitsInput c level node && decide (level < treeLevels p) && !s.w.hosts g (level + 1) (node / 2) then
      match s.w.hostPos g (level + 1) (node / 2) with
      | some pos => .next (s.withW (s.w.sendRank (nth (s.w.group g).members pos) (.keepalive g seq level node)))
      | none => .next s
    else .next s

/-- COLL_INPUT_TIMEOUT (R359): τ has passed at a host since a node's first input, and the input (level, node) is not there. A
KEEPALIVE since the last look puts it off, and so does this part's own wait where it hosts the input (DEDUCED, log entry 31). -/
def execCollInputTimeout (g : GroupId) (seq : Nat) (level node : Nat) (s : State) : Out :=
  match s.w.coll g seq with
  | none => .next s
  | some c =>
    let p := (s.w.group g).members.length
    let held := c.inputs.any fun v => v.level == level && v.node / 2 == node / 2
    let bc := (c.hdr.any fun m => m.kind == 3)
    if c.ended || s.w.seam.ownLost then .next s
    else if bc then
      match c.hdr with
      | some m =>
        if level = 0 ∧ node = m.srcPos ∧ s.w.hosts g (treeLevels p) 0 = true ∧ (s.w.inputSt c 0 node == .pending) = true ∧ c.inputs ≠ [] then
          .next (s.withW (s.w.resultAt s.res g seq (treeLevels p) 0 m [] false true []))
        else .next s
      | none => .next s
    else if s.w.hosts g (level + 1) (node / 2) && held && s.w.inputSt c level node == .pending then
      if (level, node) ∈ c.alive then .next (s.withW (s.w.putColl { c with alive := c.alive.filter (· != (level, node)) }))
      else if s.w.waitsHere c level node then .next s
      else
        let w := s.w.putColl { c with missing := (level, node) :: c.missing }
        .next (s.withW (w.settleNode s.res g seq (level + 1) (node / 2)))
    else .next s

/-! ## A rank goes (R359, R360) -/

/-- The highest node that a position hosted under the ranks held lost before. -/
def World.topHosted (w : World) (g k : Nat) : Option (Nat × Nat) :=
  let p := (w.group g).members.length
  ((List.range (treeLevels p + 1)).reverse.map fun l => (l, k / 2 ^ l)).find? fun n => w.hostPos g n.1 n.2 == some k

/-- One collective after the rank at position k has gone (R360): `before` is the part as it held the rank before. -/
def World.collLost (w before : World) (res : Tab Resid) (k : Nat) (c : Coll) : World :=
  let g := c.group
  let G := w.group g
  let p := G.members.length
  let own := (w.ownPos g).getD 0xFFFF
  let rank := nth G.members k
  match before.topHosted g k with
  | none => w
  | some top =>
    let c := { c with unacked := c.unacked.filter fun x => x.rank != rank }
    -- where the root has gone, the new result is taken whole (step 4)
    let c := if top.1 = treeLevels p ∧ c.ended = false then { c with got := 0, seen := [], mask := [], poison := false, early := 0, redo := true } else c
    let taken := ((List.range (top.1 + 1)).map fun l => (l, k / 2 ^ l)).filter fun n => w.hosts g n.1 n.2
    let w := w.putColl c
    let w := if c.ended then w else { w with collCtr := { w.collCtr with takeovers := bump 64 w.collCtr.takeovers taken.length } }
    -- the result goes again to the successor of each node that the rank hosted (step 3)
    let again := c.sentDown.filter fun m => before.hostPos g m.level m.node == some k
    let w := again.foldl (fun w m =>
      match w.hostPos g m.level m.node with
      | some pos => w.sendColl g c.seq pos m false
      | none => w) w
    if c.ended then w
    else
      -- the leaf goes again (step 2), or counts as missing
      let w :=
        if own ∈ cover p top.1 top.2 then
          match w.collEntry c, c.hdr with
          | some (core, t), some h =>
            if h.kind = 3 ∧ h.srcPos ≠ own then w
            else if c.lostLeaf t then
              let d := (w.coll g c.seq).getD c
              let w := w.putColl { d with missing := (0, own) :: d.missing, inputs := d.inputs.filter fun v => !(v.level == 0 && v.node == own) }
              w.settleNode res g c.seq 1 (own / 2)
            else w.sendLeaf res g c.seq own h (w.leafOf core own G.owner h c.pages c.leafDesc)
          | _, _ => w
        else w
      -- inputs wholly lost are missing at once (R359)
      let w := (List.range (treeLevels p)).foldl (fun w l => w.settleNode res g c.seq (l + 1) (k / 2 ^ (l + 1))) w
      w.settleSource res g c.seq

/-- Every collective after ranks have gone that were there before (R343, R360). A part that has been reported lost takes part in none (R341). -/
def World.collUpdate (w before : World) (res : Tab Resid) : World :=
  if w.seam.ownLost then w
  else before.colls.foldl (fun w c =>
    ((w.group c.group).members.zipIdx.filter fun m => w.gone m.1 && !before.gone m.1).foldl (fun w m =>
      match w.coll c.group c.seq with
      | some d => w.collLost before res m.2 d
      | none => w) w) w

/-! ## Group configuration (R369) -/

/-- The effect of a write of 0x6410 + g:01 to :04. -/
def groupConfigFx (s : State) (g sub : Nat) (v : List Byte) : State × Nat :=
  let G := s.w.group g
  let done (G : Group) : State × Nat :=
    (s.withW ({ s.w with colls := s.w.colls.filter fun c => c.group != g }.setGroup g { G with next := 0, last := 0xFFFFFFFF, passed := [], through := [] }), stOk)
  if s.w.collsOpen.any fun c => c.group == g then (s, stBusy)
  else
    match sub with
    | 1 =>
      let l := (List.range (v.length / 2)).map fun i => le v (2 * i) 2
      if v.length % 2 != 0 || decide (8192 < v.length) || l.any (fun r => decide (4095 < r)) || (distinct l).length != l.length
          || !decide (s.w.seam.rank ∈ l) then (s, stState)
      else done { G with members := l }
    | 2 => if v.length = 4 ∧ 100 ≤ leNat v ∧ leNat v ≤ 100000 then done { G with tau := leNat v } else (s, stState)
    | 3 => if v.length = 8 then done { G with seed := BitVec.ofNat 64 (leNat v) } else (s, stState)
    | 4 =>
      if v.length = 2 ∧ leNat v < 256 ∧ (s.ent (leNat v)).st ≠ .absent then done { G with owner := leNat v } else (s, stState)
    | _ => (s, stState)

end Sys2Proof.Machine
end

