-- ==== Sys2Proof/Machine/Fx.lean ====
section
/-! DEFINITION. What an admitted object access does: the state after it, its status and value, and what its answer still waits for
(R285, R317, R467). -/
namespace Sys2Proof.Machine

/-- The effect of an object access: state, status, value read, what the answer waits for, and what follows the answer (R429, R473). -/
structure Fx where
  s : State
  st : Nat := stOk
  value : List Byte := []
  wait : Option WaitFor := none
  post : State → State := id

/-- A write that is refused and changes nothing. -/
def Fx.refuse (s : State) (st : Nat) : Fx := { s, st }
/-- A write that acts on the world only. -/
def Fx.world (s : State) (w : World) : Fx := { s := s.withW w }

/-- The value of an unsigned object of `n` bytes; none where the length differs (R404). -/
def uintOf (n : Nat) (v : List Byte) : Option Nat := if v.length = n then some (leNat v) else none

end Sys2Proof.Machine
end

