-- ==== Sys2Proof/Machine/CoreMemory.lean ====
section
/-! DEFINITION. Upkeep of the core memories and the caches (R88, R95, R105–R107, R115–R123, R214): write-backs, patrol scrub, cache
fills and invalidation, RESUME of a core, OPEN and CLOSE of windows, the dirty map. -/
namespace Sys2Proof.Machine

/-- A write-back made (R95): the word holds its corrected value again. -/
def World.writeBack (w : World) (c : Nat) : World :=
  let k := w.core c
  match k.wbq with
  | [] => w
  | (m, word) :: rest =>
    let v := k.mem m
    let v := { v with upsets := v.upsets.filter fun e => !(e.1 == word && !e.2.fatal) }
    w.setCore c { (k.setMem m v) with wbq := rest }

/-- CORRECTED_WRITEBACK: the oldest queued write-back of a core takes a free write slot. -/
def execCorrectedWriteback (c : CoreId) (s : State) : Out :=
  if (s.w.cluster (c / 16)).power = .run then .next (s.withW (s.w.writeBack c)) else .next s

/-- One scrub access to a core (R107): a row of each memory, in the order of addresses (DESIGN CHOICE, log entry 29). -/
def World.scrubCore (w : World) (k c : Nat) : World :=
  let v := w.cluster k
  let w := w.touch c none .weight ((List.range 8).map (8 * v.scrubW + ·))
  let w := w.touch c none .scratch ((List.range 4).map (4 * v.scrubS + ·))
  w.touch c none .psum ((List.range 2).map (2 * v.scrubP + ·))

/-- One patrol scrub step of a cluster (R107): the rows read, the positions advanced. -/
def World.scrubCluster (w : World) (k : Nat) : World :=
  let w := (List.range 16).foldl (fun w i => w.scrubCore k (16 * k + i)) w
  let v := w.cluster k
  w.setCluster k { v with
    scrubW := (v.scrubW + 1) % 16384
    scrubS := (v.scrubS + 1) % 6144
    scrubP := (v.scrubP + 1) % 4096 }

/-- A memory's ECC words (R99, R105). -/
def wordsIn : CoreMem → Nat
  | .weight => 131072
  | .scratch => 24576
  | .psum => 8192

/-- An error that may befall a word of a core memory as time passes (R105), by a free choice (DESIGN CHOICE, log entry 151). -/
def EccMem.strike (m : EccMem) (words f : Nat) : EccMem :=
  let word := Config.freeNat f % words
  let u : Upset := if Config.freeBool (f + 1) then .ue else .ce (Config.freeNat (f + 2) % 137) false
  if Config.freeBool (f + 3) then m else m.befall word u

/-- The same for one word of one core of a cluster. -/
def World.strikeCluster (w : World) (k : Nat) : World :=
  let f := w.free
  let c := 16 * k + Config.freeNat f % 16
  let v := w.core c
  let m : CoreMem := if Config.freeBool (f + 1) then .weight else if Config.freeBool (f + 2) then .scratch else .psum
  { w.setCore c (v.setMem m ((v.mem m).strike (wordsIn m) (f + 3))) with free := f + 7 }

/-- CORE_PATROL_SCRUB: only while the cluster is in RUN. -/
def execCorePatrolScrub (k : ClusterId) (s : State) : Out :=
  if (s.w.cluster k).power = .run then .next (s.withW ((s.w.scrubCluster k).strikeCluster k)) else .next s

/-! ## Shared Activation Cache (R115–R119) -/

/-- A line installed in its set (R115): a free way first (DESIGN CHOICE, log entry 30), else the tree's victim; the way is then used. -/
def SacSet.install (v : SacSet) (x : SacLine) : SacSet :=
  let way := ((v.ways.findIdx? Option.isNone)).getD (plruVictim v.plru)
  { ways := v.ways.set way (some x), plru := plruUse v.plru way }

/-- The oldest fill of a line ends (R118): installed, unless its line was invalidated meanwhile. -/
def Die.fill (d : Die) (line : Nat) : Die :=
  match d.fills.find? fun f => f.line == line with
  | none => d
  | some f =>
    let i := sacIndex line
    let v : SacSet := Tab.get {} d.sets i
    { d with
      fills := d.fills.erase f
      sets := if f.dropped || d.holds line then d.sets else d.sets.set i (v.install ⟨line, f.bad⟩) }

/-- SAC_LINE_FILL. -/
def execSacLineFill (d : DieId) (line : Nat) (s : State) : Out :=
  .next (s.withW (s.w.setDie d ((s.w.die d).fill line)))

/-- A cache without any line (R119). -/
def Die.invalidateAll (d : Die) : Die :=
  { d with
    sets := d.sets.map fun e => (e.1, { e.2 with ways := List.replicate 16 none })
    fills := d.fills.map fun f => { f with dropped := true } }

/-- The effect of 0x2810:05 (R119). -/
def cacheInvalidateFx (s : State) (v : List Byte) : Fx :=
  if uintOf 1 v = some 1 then
    .world s ((s.w.setDie 0 (s.w.die 0).invalidateAll).setDie 1 (s.w.die 1).invalidateAll)
  else .refuse s stState

/-! ## RESUME of a core (R88) -/

/-- A STOPPED core that dispatches again at the first record not dispatched; it fetches that index again (R286). Where it had dispatched an END before
it stopped, that END takes effect: nothing is in flight, so the core is DONE (R69; DEDUCED, log entry 142). -/
def Core.resume (k : Core) : Core := { k with state := if k.ended then .done else .running, halted := false, ended := false, buf := [] }

/-- The effect of 0x4000 + c:02 (R98). -/
def coreResumeFx (s : State) (c : Nat) (v : List Byte) : Fx :=
  if uintOf 1 v = some 1 ∧ (s.w.core c).state = .stopped then
    .world s ((s.w.setCore c (s.w.core c).resume).wake (c / 16))
  else .refuse s stState

/-! ## OPEN and CLOSE of a window (R121–R123) -/

/-- Context bound to a core (R283): resident there, else the one most recently saved from it. -/
def State.bound (s : State) (c : Nat) : Option Nat :=
  match s.res.find? fun e => e.2.st.live && e.2.holds (c / 16) with
  | some e => some e.1
  | none =>
    match (s.w.core c).savedCtx with
    | some n => if (s.ent n).st = .saved then some n else none
    | none => none

/-- The first refusal of an OPEN (R122). Where several conditions hold at once, R122 does not say which answers: the model takes the window's state,
context and geometry, then an absent link, then rank and link, then the overlap (DESIGN CHOICE, log entry 167). -/
def openRefusal (s : State) (c i : Nat) : Option Nat :=
  let v := s.w.win c i
  let k := s.w.link v.link
  firstRefusal
    [ (v.st != .closed || (s.bound c).isNone || !v.geomOk, stState),
      (decide (v.link < 20) && k.st == .disabled, stUnitAbsent),
      (decide (20 ≤ v.link) || k.st != .up || k.peerRank != v.rank || decide (v.rank ∈ s.w.seam.lost), stState),
      ((List.range 8).any fun j => j != i && (s.w.win c j).st != .closed && (s.w.win c j).meets v, stOverlap) ]

/-- The effect of OPEN (R122, R123). -/
def windowOpenFx (s : State) (c i : Nat) : Fx :=
  match openRefusal s c i, s.bound c with
  | some st, _ => .refuse s st
  | none, some n => .world s (s.w.openWin c i n)
  | none, none => .refuse s stState

/-- The effect of CLOSE (R122, R123). -/
def windowCloseFx (s : State) (c i : Nat) : Fx :=
  if (s.w.win c i).st = .open_ then .world s (s.w.closeWin c i) else .refuse s stState

/-- WINDOW_DRAIN_TIMEOUT (R123): the drain limit of a DRAINING window expires. -/
def execWindowDrainTimeout (c : CoreId) (w : WinId) (s : State) : Out :=
  if (s.w.win c w).st = .draining then .next (s.withW (s.w.reclaimWin c w)) else .next s

/-! ## The dirty map (R214) -/

/-- The effect of 0x4000 + c:0E: bits that are 1 are cleared. -/
def dirtyClearFx (s : State) (c : Nat) (v : List Byte) : Fx :=
  match uintOf 4 v with
  | some x => let k := s.w.core c; .world s (s.w.setCore c { k with dirty := k.dirty &&& ~~~(BitVec.ofNat 32 x) })
  | none => .refuse s stState

end Sys2Proof.Machine
end

