-- ==== Sys2Proof/Machine/Reply.lean ====
section
/-! DEFINITION. Answers to KOC requests (R392, R393): sent, kept for repeats, and the answers that wait for an action to end. -/
namespace Sys2Proof.Machine

/-- A session after its answer to a request: the last 64 answers are kept, and the id is answered once (R393). -/
def Session.answered (k : Session) (a : Answer) : Session :=
  let l := k.answers.filter (fun b => b.rid != a.rid) ++ [a]
  { k with
    answers := l.drop (l.length - 64), busy := k.busy.filter (· != a.rid)
    given := (a.rid :: k.given).filter fun x => decide (k.highRid ≤ x + 64) }

/-- A session replaced. -/
def World.setSession (w : World) (sid : Nat) (f : Session → Session) : World :=
  { w with koc := { w.koc with sessions := w.koc.sessions.map fun k => if k.sid = sid then f k else k } }

/-- A session by its id. -/
def World.session (w : World) (sid : Nat) : Option Session := w.koc.sessions.find? fun k => k.sid == sid

/-- Frames sent in a session (R392): each with the next sequence number of the part's direction and its tag. -/
def World.send (w : World) (port : KocPort) (dst sid : Nat) (l : List (Nat × KocBody)) : World :=
  match w.session sid with
  | none => w
  | some k => { w.setSession sid fun x => { x with tx := k.tx + l.length } with outbox := w.outbox ++ k.frames port dst l }

/-- A segment cut into its frames (R394). -/
def segFrames (v : List Byte) : List (Nat × List Byte) := (List.range (cdiv v.length 1024)).map fun i => (i, (v.drop (1024 * i)).take 1024)

/-- The frames that carry an answer. -/
def Answer.bodies (a : Answer) : List (Nat × KocBody) :=
  match a.kind with
  | .reply => [(a.rid, .reply a.status a.value)]
  | .segAck m => [(a.rid, .segAck m a.status)]
  | .segData => (segFrames a.value).map fun f => (a.rid, .segData f.1 f.2)

/-- An answer to a request, sent and kept (R393). -/
def World.reply (w : World) (port : KocPort) (dst sid : Nat) (a : Answer) : World :=
  (w.send port dst sid a.bodies).setSession sid fun k => k.answered a

/-- The answers that waited for an action to end (R285, R317, R467). -/
def World.resolve (w : World) (what : WaitFor) (st : Nat) (value : List Byte) : World :=
  let due := w.waiters.filter fun x => x.what == what
  due.foldl (fun w x => w.reply x.port x.src x.sid { rid := x.rid, status := st, value }) { w with waiters := w.waiters.filter fun x => x.what != what }

end Sys2Proof.Machine
end

