-- ==== Sys2Proof/Machine/Dma.lean ====
section
/-! DEFINITION. DMA engines (R299–R319): descriptors, the funnel, pause, halt and the registers, channels across pre-emption. -/
namespace Sys2Proof.Machine

/-! ## Addresses and descriptors (R302–R305) -/

/-- Fields of a DMA address (R303). -/
def dSpace (a : Nat) : Nat := fld a 63 61
def dCore (a : Nat) : Nat := fld a 57 48
def dAddr (a : Nat) : Nat := fld a 47 0
/-- An address moved on by some bytes. -/
def dPlus (a : Word) (n : Nat) : Word := BitVec.ofNat 64 (a.toNat + n)

/-- Fields of a descriptor (R302). -/
def ddSrc (d : List Byte) : Nat := le d 0 8
def ddDst (d : List Byte) : Nat := le d 8 8
def ddNext (d : List Byte) : Nat := le d 16 8
def ddSync (d : List Byte) : Nat := le d 24 8
def ddLen (d : List Byte) : Nat := le d 32 4
def ddRows (d : List Byte) : Nat := le d 36 4
def ddSStride (d : List Byte) : Nat := le d 40 4
def ddDStride (d : List Byte) : Nat := le d 44 4
def ddTag (d : List Byte) : Nat := le d 48 2
def ddEvt (d : List Byte) : Bool := bit (le d 50 2) 1
def ddBar (d : List Byte) : Bool := bit (le d 50 2) 0

/-- Fields of a descriptor's sync word (R305). -/
def dsSigEn (x : Nat) : Bool := bit x 63
def dsSigCtr (x : Nat) : Nat := fld x 62 57
def dsSigCore (x : Nat) : Nat := fld x 56 47
def dsSigInc (x : Nat) : Nat := fld x 46 39
def dsWaitEn (x : Nat) : Bool := bit x 38
def dsWaitCtr (x : Nat) : Nat := fld x 37 32
def dsWaitThr (x : Nat) : Nat := fld x 31 16

/-- Channel and cluster numbers (R299). -/
def chanCluster (d : Nat) : Nat := d / 8

/-- Bytes of a DMA space (R303, R304). -/
def dSpaceSize : Nat → Nat
  | 0 => 2 ^ 48
  | 1 => 0x60000
  | 2 => 0x200000
  | _ => 0x20000

/-- An address field that breaks R303 or R304 for a channel of cluster k: its rows run from it for `span` bytes. -/
def dAddrBad (k a span : Nat) (src : Bool) : Bool :=
  decide (4 ≤ dSpace a) || fld a 60 58 != 0 || (!src && dSpace a == 2) || (dSpace a == 0 && dCore a != 0)
    || (dSpace a != 0 && dCore a / 16 != k) || decide (dSpaceSize (dSpace a) < dAddr a + span)

/-- A next-descriptor address that breaks R303; its alignment is checked when it is fetched (R304). -/
def dNextBad (core a : Nat) : Bool :=
  a != 0 && (decide (2 ≤ dSpace a) || fld a 60 58 != 0 || (dSpace a == 0 && dCore a != 0) || (dSpace a == 1 && dCore a != core))

/-- A malformed descriptor (R304, R305, R319). -/
def descriptorBad (r : Resid) (k core : Nat) (d : List Byte) : Bool :=
  let rows := ddRows d + 1
  let span (stride : Nat) : Nat := if ddLen d = 0 then 0 else (rows - 1) * stride + ddLen d
  let s := ddSync d
  fld (le d 50 2) 15 2 != 0 || !allZero (sl d 52 12) || dAddrBad k (ddSrc d) (span (ddSStride d)) true
    || dAddrBad k (ddDst d) (span (ddDStride d)) false || dNextBad core (ddNext d) || fld s 15 0 != 0
    || (dsSigEn s && (dsSigInc s == 0 || decide (dsSigCore s < r.core0) || decide (r.core0 + r.cores ≤ dsSigCore s)))
    || decide (2 ^ 40 < ddLen d * rows)

/-! ## Events and states (R300, R301, R317) -/

/-- State code (R300). -/
def chanCode : ChanSt → Nat
  | .idle => 0
  | .running => 1
  | .pausing => 2
  | .paused => 3
  | .halted => 4

/-- The event of a channel (R317, R421): the channel, its descriptor's address and tag, a status. -/
def World.chanEvent (w : World) (n d : Nat) (c : Chan) (st : Nat) : World :=
  w.event 0x0201 (0x5000 + d) 1 (dieOfChan d) (some n) st (leBytes 2 d ++ leBytes 2 (ddTag c.desc) ++ leBytes 8 c.cur.toNat)

/-- A channel written with a new state; a change of state raises an event. -/
def World.moveChan (w : World) (n d : Nat) (c : Chan) (st : Nat) : World :=
  let old := (w.chan d).st
  let w := w.setChan d c
  if old = c.st then w else w.chanEvent n d c st

/-- Whether the current descriptor's bytes are known: fetched, or fetched and found malformed (R304). -/
def Chan.known (c : Chan) : Bool := c.have_ || (c.latDir == 2 && !allZero c.desc)

/-- The signal of a descriptor raised (R305, R307), where its fields name a core of the group and an increment. -/
def World.chanSignal (w : World) (r : Resid) (c : Chan) : World :=
  let s := ddSync c.desc
  if c.known && dsSigEn s && dsSigInc s != 0 && decide (r.core0 ≤ dsSigCore s) && decide (dsSigCore s < r.core0 + r.cores) then
    { w with signals := w.signals ++ [{ src := c.core, cores := [dsSigCore s], ctr := dsSigCtr s, inc := dsSigInc s }] }
  else w

/-- A channel with a descriptor fetched: its registers at the first row. -/
def Chan.load (c : Chan) (b : List Byte) : Chan :=
  { c with have_ := true, desc := b, src := BitVec.ofNat 64 (ddSrc b), dst := BitVec.ofNat 64 (ddDst b), rowLeft := ddLen b
           rowsLeft := ddRows b, poisoned := false, ahead := [] }

/-- The end of a PAUSE or an ABORT that drained (R308, R315, R317): the control object answers, and so will the DMAGO that asked for it, whatever the
channel does next. -/
def World.chanDone (w : World) (d st : Nat) : World :=
  let w := w.resolve (.dma d) st []
  { w with cores := w.cores.map fun e =>
      match e.2.dmaWait with
      | some (x, none) => if x = d then (e.1, { e.2 with dmaWait := some (d, some st) }) else e
      | _ => e }

/-- The current descriptor completed with a status (R301, R307): counted, its signal and event raised; the next one is current, or
the channel is idle. `last` drops the rest of the chain. The events carry the descriptor completed. -/
def World.endDescriptor (w : World) (r : Resid) (n d : Nat) (c : Chan) (st : Nat) (last : Bool) : World :=
  let was := (w.chan d).st
  let w := w.chanSignal r c
  let w := if c.known && ddEvt c.desc then w.chanEvent n d c st else w
  let next := if last || !c.known then 0 else ddNext c.desc
  let out := { c with lastStatus := st, done := bump 64 c.done 1, have_ := false, desc := List.replicate 64 0, nextDesc := none, ahead := []
                      latStatus := 0, latAddr := 0, latDir := 0, latKind := 0, poisoned := false, aborting := false, by_ := .nobody }
  if next = 0 then
    let w := w.setChan d { out with st := .idle }
    (if was = .idle then w else w.chanEvent n d c st).chanDone d stOk
  else
    let out := { out with st := .running, cur := BitVec.ofNat 64 next }
    let w := w.setChan d (match c.nextDesc with | some b => out.load b | none => out)
    if was = .running then w else w.chanEvent n d c st

/-- A channel halted with a failure latched (R301, R312–R314). One that an ABORT drains completes its descriptor with that failure. -/
def World.haltChan (w : World) (r : Resid) (n d : Nat) (c : Chan) (st : Nat) (addr : Word) (dir kind : Nat) : World :=
  let k : Chan := { c with st := .halted, latStatus := st, latAddr := addr, latDir := dir, latKind := kind, aborting := false, ahead := [] }
  let w := w.moveChan n d k st
  let w := if st = stBusError then w.raise clsUe uDma st d (some n) (dieOfChan d) addr.toNat [BitVec.ofNat 8 dir] else w
  if c.aborting then w.endDescriptor r n d k st true else w.chanDone d stState

/-- Whether the wait of the current descriptor holds, or its first read has been made (R305). -/
def World.chanReady (w : World) (c : Chan) : Bool :=
  let s := ddSync c.desc
  !(dsWaitEn s && c.rowsLeft == ddRows c.desc && c.rowLeft == ddLen c.desc)
    || waitHolds ((w.core c.core).ctrs.getD (dsWaitCtr s) 0).toNat (dsWaitThr s)

/-! ## The funnel (R311–R313) -/

/-- A run of one row still to be copied: source and destination byte addresses, bytes. -/
structure RowRun where
  src : Nat
  dst : Nat
  len : Nat
  deriving DecidableEq, Repr

/-- What is left of the current descriptor: the rest of the current row and the rows after it. -/
def Chan.runs (c : Chan) : List RowRun :=
  let s := dAddr c.src.toNat
  let t := dAddr c.dst.toNat
  let done := ddLen c.desc - c.rowLeft
  (if c.rowLeft = 0 then [] else [⟨s, t, c.rowLeft⟩]) ++
    (List.range c.rowsLeft).filterMap fun i =>
      if ddLen c.desc = 0 then none
      else some ⟨s - done + (i + 1) * ddSStride c.desc, t - done + (i + 1) * ddDStride c.desc, ddLen c.desc⟩

/-- The first bytes of a list of runs. -/
def firstBytes : Nat → List RowRun → List RowRun
  | _, [] => []
  | 0, _ => []
  | n + 1, r :: rs => if r.len ≤ n + 1 then r :: firstBytes (n + 1 - r.len) rs else [{ r with len := n + 1 }]

/-- What is left of a list of runs after its first bytes. -/
def restBytes : Nat → List RowRun → List RowRun
  | _, [] => []
  | n, r :: rs => if r.len ≤ n then restBytes (n - r.len) rs else { src := r.src + n, dst := r.dst + n, len := r.len - n } :: rs

/-- The end of the last whole access within the first `moved` bytes of runs, for the side that `at_` gives (R311): accesses do not cross a 64-byte
boundary of their space. -/
def accessFloor (at_ : RowRun → Nat) : Nat → List RowRun → Nat
  | _, [] => 0
  | moved, r :: rs =>
    if r.len ≤ moved then r.len + accessFloor at_ (moved - r.len) rs
    else
      let head := min r.len (64 - at_ r % 64)
      if moved < head then 0 else head + (moved - head) / 64 * 64

/-- Bytes in a list of runs. -/
def runBytes (l : List RowRun) : Nat := sumN (l.map (·.len))

/-- Where a source access of a run that covers a byte starts and ends (R311). -/
def accessOf (r : RowRun) (a : Nat) : Nat × Nat := (max r.src (a / 64 * 64), min (r.src + r.len) (a / 64 * 64 + 64))

/-- The accesses of a run with what they deliver (R312): destination address, bytes, whether the access delivers poison. -/
def World.runAccesses (w : World) (pages : List (Nat × Nat)) (space core : Nat) (r : RowRun) : List (Nat × List Byte × Bool) :=
  let first := r.src / 64
  let last := (r.src + r.len - 1) / 64
  (List.range (last - first + 1)).map fun i =>
    let x := accessOf r (max r.src (64 * (first + i)))
    let n := x.2 - x.1
    (r.dst + (x.1 - r.src), (List.range n).map fun j => w.rdByte core pages space (x.1 + j),
      (List.range n).any fun j => w.rdPoison core pages false space (x.1 + j))

/-- Source of a channel's translations (R282). -/
def chanSource (d access : Nat) : XSource := ⟨access, 1, d, dieOfChan d⟩

/-- Pages translated for a channel through its cluster's TLB: bases, or the first fault with its address. -/
def World.chanPages (w : World) (n d : Nat) (root : Nat) (wr : Bool) (pages : List Nat) :
    Except (Nat × XFault) (List (Nat × Nat)) × World :=
  let r := (w.walker (chanCluster d)).pages w.hbm.mem root n wr pages
  (r.1, w.putWalker (chanCluster d) n r.2)

/-- Bytes that reads ahead have delivered. -/
def Chan.aheadBytes (c : Chan) : Nat := sumN (c.ahead.map (·.1.length))

/-- The accesses of rows, the first of them with what their reads delivered earlier; of an access that a write failure cuts, the bytes before it. -/
def withAhead : List (List Byte × Bool) → List (List (Nat × List Byte × Bool)) → List (List (Nat × List Byte × Bool))
  | _, [] => []
  | a, r :: rs =>
    (r.zipIdx.map fun x => match a[x.2]? with | some y => (x.1.1, y.1.take x.1.2.1.length, y.2) | none => x.1) :: withAhead (a.drop r.length) rs

/-- Reads of runs made by a channel: errors met, bytes counted. -/
def World.chanReads (w : World) (n : Nat) (c : Chan) (sp : List (Nat × Nat)) (l : List RowRun) : World :=
  let spans := l.map fun r => (r.src, r.len)
  if dSpace c.src.toNat = 0 then w.readBlocks (some n) ((wordsOfSpans 64 spans).map fun b => physOf sp (64 * b) / 64)
  else w.touch (dCore c.src.toNat) (some n) (memOfSpace (dSpace c.src.toNat)) (wordsOfSpans 16 spans)

/-- The registers of a channel after the bytes moved (R313). -/
def Chan.moveOn (c : Chan) (moved : Nat) : Chan :=
  let len := ddLen c.desc
  let at_ (r : RowRun) (k : Nat) : Chan :=
    { c with src := BitVec.ofNat 64 (c.src.toNat - dAddr c.src.toNat + r.src + k), dst := BitVec.ofNat 64 (c.dst.toNat - dAddr c.dst.toNat + r.dst + k) }
  if moved < c.rowLeft then at_ ⟨dAddr c.src.toNat, dAddr c.dst.toNat, 0⟩ moved |> fun c => { c with rowLeft := c.rowLeft - moved }
  else
    let past := moved - c.rowLeft
    let full := if len = 0 then 0 else past / len
    match c.runs[full + (if c.rowLeft = 0 then 0 else 1)]? with
    | some r => { at_ r (past % len) with rowLeft := len - past % len, rowsLeft := c.rowsLeft - full - 1 }
    | none =>
      -- every row has moved: the end of the last one
      match c.runs.getLast? with
      | some r => { at_ r r.len with rowLeft := 0, rowsLeft := 0 }
      | none => { c with rowLeft := 0, rowsLeft := 0 }

/-- The bytes of runs copied (R311, R312): reads, the writes of each row in turn with poison marking, bytes counted; the registers move on. -/
def World.chanCopy (w : World) (n : Nat) (c : Chan) (sp dp : List (Nat × Nat)) (l : List RowRun) : World × Chan :=
  let ds := dSpace c.dst.toNat
  let rows := withAhead c.ahead (l.map (w.runAccesses sp (dSpace c.src.toNat) (dCore c.src.toNat)))
  let w := w.chanReads n c sp (restBytes c.aheadBytes l)
  let w := rows.foldl (fun w r =>
    let bs := r.map fun a => bytesAt a.1 a.2.1 a.2.2
    if ds = 0 then w.writeHbm (some n) (physWrites dp bs) else w.writeCore (dCore c.dst.toNat) (some n) (memOfSpace ds) bs) w
  let moved := runBytes l
  (w, { c.moveOn moved with poisoned := c.poisoned || rows.any fun r => r.any (·.2.2), bytes := bump 64 c.bytes moved, ahead := [] })

/-- The first byte that one side of runs touches in each of its pages, in the order of its bytes. -/
def sidePages (space : Nat) (at_ : RowRun → Nat) (l : List RowRun) : List Nat :=
  if space = 0 then
    (l.flatMap fun r => pagesOf (at_ r) r.len).foldl (fun acc a => if acc.any fun b => b / 0x10000 == a / 0x10000 then acc else acc ++ [a]) []
  else []

/-- Bytes of runs that come before the first access at an address. -/
def bytesBefore (at_ : RowRun → Nat) (va : Nat) : List RowRun → Nat
  | [] => 0
  | r :: rs => if at_ r ≤ va ∧ va < at_ r + r.len then va - at_ r else r.len + bytesBefore at_ va rs

/-- How a copy of runs goes: the pages of both sides, or the first failure: bytes before it, its direction, and the translation fault with its
address, or a bus error, `walk` where a page-table read met it (R312). -/
inductive CopyPlan where
  | clear (sp dp : List (Nat × Nat))
  | faulty (before dir va : Nat) (f : XFault)
  | broken (before dir : Nat) (walk : Bool)

/-- Pages translated one after another: their bases, or the first that fails, with its fault, or none where the walk failed on the bus. -/
def World.chanWalk (w : World) (n d root : Nat) (wr : Bool) : List Nat → Except (Nat × Option XFault) (List (Nat × Nat)) × World
  | [] => (.ok [], w)
  | va :: vas =>
    let x := w.chanPages n d root wr [va]
    if World.busMet w x.2 then (.error (va, none), x.2)
    else
      match x.1 with
      | .error f => (.error (va, some f.2), x.2)
      | .ok p =>
        let rest := World.chanWalk x.2 n d root wr vas
        match rest.1 with
        | .error e => (.error e, rest.2)
        | .ok l => (.ok (p ++ l), rest.2)

/-- Bytes of runs before the first access of one side to a block of HBM that fails on the bus. -/
def World.busAccess (w : World) (pages : List (Nat × Nat)) (at_ : RowRun → Nat) : List RowRun → Option Nat
  | [] => none
  | r :: rs =>
    let first := at_ r / 64
    match (if r.len = 0 then none else
        (List.range ((at_ r + r.len - 1) / 64 - first + 1)).find? fun i => w.busHits [physOf pages (64 * (first + i)) / 64]) with
    | some i => some (64 * (first + i) - at_ r)
    | none => (World.busAccess w pages at_ rs).map (r.len + ·)

/-- The first failure of one side of a copy, and its pages: `before` counts the bytes before an address. -/
def World.planSide (w : World) (n d root dir space : Nat) (at_ : RowRun → Nat) (l : List RowRun) :
    Except (Nat × CopyPlan) (List (Nat × Nat)) × World :=
  let x := w.chanWalk n d root (dir == 1) (sidePages space at_ l)
  match x.1 with
  | .error (va, some f) => let b := bytesBefore at_ va l; (.error (b, .faulty b dir va f), x.2)
  | .error (va, none) => let b := bytesBefore at_ va l; (.error (b, .broken b dir true), x.2)
  | .ok p =>
    match (if space = 0 then w.busAccess p at_ l else none) with
    | some b => (.error (b, .broken b dir false), x.2)
    | none => (.ok p, x.2)

/-- A plan whose bytes are counted from further back. -/
def CopyPlan.after (k : Nat) : CopyPlan → CopyPlan
  | .clear sp dp => .clear sp dp
  | .faulty b dir va f => .faulty (k + b) dir va f
  | .broken b dir walk => .broken (k + b) dir walk

/-- The accesses of a copy (R311, R312); what has been read ahead is not read again. The failure that comes first in the order of bytes counts. -/
def World.planCopy (w : World) (n d root : Nat) (c : Chan) (l : List RowRun) : CopyPlan × World :=
  let x := w.planSide n d root 0 (dSpace c.src.toNat) (·.src) (restBytes c.aheadBytes l)
  let y := x.2.planSide n d root 1 (dSpace c.dst.toNat) (·.dst) l
  match x.1, y.1 with
  | .ok sp, .ok dp => (.clear sp dp, y.2)
  | .error (_, p), .ok _ => (p.after c.aheadBytes, x.2)
  | .ok _, .error (_, q) => (q, y.2)
  | .error (a, p), .error (b, q) =>
    if c.aheadBytes + a ≤ b then (p.after c.aheadBytes, x.2) else (q, (w.planSide n d root 1 (dSpace c.dst.toNat) (·.dst) l).2)

/-- Reads of a descriptor made before its predecessor's writes (R307), as the part may: some of its first accesses, by a free choice (DESIGN CHOICE, log
entry 186), at most the 64 that a channel has outstanding (R319), of memory as it stood in `old`. One that waits reads nothing ahead (R305). -/
def World.readAhead (w old : World) (n d root : Nat) : World :=
  let c := w.chan d
  let free := w.free
  let w := { w with free := free + 1 }
  if !c.have_ || dsWaitEn (ddSync c.desc) then w
  else
    let l := firstBytes (accessFloor (·.src) (min (Config.freeNat free % 4097) (runBytes c.runs)) c.runs) c.runs
    match w.planSide n d root 0 (dSpace c.src.toNat) (·.src) l with
    | (.error _, _) => w
    | (.ok sp, w) =>
      let acc := l.flatMap (old.runAccesses sp (dSpace c.src.toNat) (dCore c.src.toNat))
      (w.chanReads n c sp l).setChan d { c with ahead := (acc.map (·.2)).take 64 }

/-! ## The commands of a channel -/

/-- The resident context of a channel's cluster with its entry (R299). -/
def State.chanCtx (s : State) (d : Nat) : Option (Nat × Resid) :=
  if s.ctl.part = .ready then (runningOn s.res (chanCluster d)).map fun n => (n, s.ent n) else none

/-- The descriptor at an address read by a channel: bytes with poison, or a fault (R304, R306). -/
def World.readDescriptor (w : World) (n d : Nat) (r : Resid) (a : Nat) : Except (Nat × XFault) (List Byte × Bool) × World :=
  if dSpace a = 0 then
    match w.chanPages n d r.root false (pagesOf (dAddr a) 64) with
    | (.error f, w) => (.error f, w)
    | (.ok pages, w) =>
      let p := physOf pages (dAddr a)
      (.ok (Cells.read w.hbm.mem.cells p 64, w.hbm.mem.poisoned 64 p 64), w.readBlocks (some n) [p / 64])
  else
    let m := (w.core (dCore a)).sp
    (.ok (Cells.read m.cells (dAddr a) 64, m.poisoned 16 (dAddr a) 64), w.touch (dCore a) (some n) .scratch (wordsOf 16 (dAddr a) 64))

/-- A bus error of a channel at an address of HBM, counted for its stack (R330); the channel raises the record itself. -/
def World.chanBus (w : World) (n d root : Nat) (wr : Bool) (a : Nat) : World :=
  if dSpace a = 0 then
    match w.chanPages n d root wr (pagesOf (dAddr a) 1) with
    | (.ok pages, w) => w.busFail (some n) (physOf pages (dAddr a) / 64) true
    | (.error _, _) => w
  else w

/-- Whether the block of a descriptor fails on the bus (R330). -/
def World.descriptorLost (w : World) (n d : Nat) (r : Resid) (a : Nat) : Bool :=
  dSpace a == 0 &&
    (match (w.chanPages n d r.root false (pagesOf (dAddr a) 64)).1 with
      | .ok pages => w.busHits [physOf pages (dAddr a) / 64]
      | .error _ => false)

/-- The current descriptor of a channel fetched (R304): loaded, or the channel halted: at an address that R303 does not admit, which a SKIP of a
descriptor with a bad next field can leave, on a bus error of the walk or of the descriptor itself (R312, R330), on a fault, on poison (DEDUCED,
log entry 33) or on a malformed descriptor. -/
def World.fetchCurrent (w : World) (n d : Nat) (r : Resid) (c : Chan) : World :=
  let none_ : Chan := { c with desc := List.replicate 64 0 }
  let a := c.cur.toNat
  if dNextBad c.core a then w.haltChan r n d none_ stState c.cur 2 0
  else if a % 64 ≠ 0 then w.haltChan r n d none_ stAlign c.cur 2 0
  else if w.descriptorLost n d r a then (w.chanBus n d r.root false a).haltChan r n d none_ stBusError c.cur 2 0
  else
    let x := w.readDescriptor n d r a
    if World.busMet w x.2 then x.2.haltChan r n d none_ stBusError c.cur 2 0
    else
      match x.1 with
      | .error (va, f) => (x.2.reportFault n va f (chanSource d 0)).haltChan r n d none_ f.status c.cur 2 f.kind
      | .ok (b, poison) =>
        if poison then x.2.haltChan r n d none_ stState c.cur 2 0
        else if descriptorBad r (chanCluster d) c.core b then x.2.haltChan r n d { c with desc := b } stState c.cur 2 0
        else x.2.setChan d (c.load b)

/-- Bytes that the source accesses of a run take, in order. -/
def RowRun.lens (r : RowRun) : List Nat :=
  if r.len = 0 then []
  else (List.range ((r.src + r.len - 1) / 64 - r.src / 64 + 1)).map fun i => let x := accessOf r (max r.src (64 * (r.src / 64 + i))); x.2 - x.1

/-- Bytes of runs before their last 64 source accesses, the most that a channel has outstanding (R319). -/
def beforeLast (l : List RowRun) : Nat :=
  let a := l.flatMap RowRun.lens
  sumN (a.take (a.length - 64))

/-- The last reads of the current descriptor issued (R306): what comes before them has been written, they stand in the channel's buffer. None where an
access of the descriptor would fail. -/
def World.issueReads (w : World) (n d root : Nat) (c : Chan) : Option (World × Chan) :=
  match w.planCopy n d root c c.runs with
  | (.clear sp dp, w) =>
    let k := if beforeLast c.runs = 0 then 0 else max c.aheadBytes (beforeLast c.runs)
    let (w, c) := if k = 0 then (w, c) else w.chanCopy n c sp dp (firstBytes k c.runs)
    let l := restBytes c.aheadBytes c.runs
    let acc := l.flatMap (w.runAccesses sp (dSpace c.src.toNat) (dCore c.src.toNat))
    some (w.chanReads n c sp l, { c with ahead := c.ahead ++ acc.map (·.2) })
  | _ => none

/-- The next descriptor fetched while the current one, which does not set BAR, still writes: once its last read has been issued (R306). A fetch that
would fail is left until the descriptor is the current one. -/
def World.fetchNext (w : World) (n d : Nat) (r : Resid) (c : Chan) : World :=
  let a := ddNext c.desc
  if ddBar c.desc || a == 0 || c.nextDesc.isSome || !w.chanReady c || a % 64 != 0 || w.descriptorLost n d r a then w
  else
    match w.issueReads n d r.root c with
    | none => w
    | some (w, c) =>
      let x := w.readDescriptor n d r a
      match x.1 with
      | .error _ => w.setChan d c
      | .ok (b, poison) =>
        if poison || descriptorBad r (chanCluster d) c.core b || World.busMet w x.2 then w.setChan d c
        else x.2.setChan d { c with nextDesc := some b }

/-- The context of a channel whose cluster can serve its accesses (R109, R310); a sleeping cluster is asked to wake. -/
def State.chanRun (s : State) (d : Nat) (f : Nat → Resid → Out) : Out :=
  match s.chanCtx d with
  | none => .next s
  | some (n, r) =>
    if (s.w.chan d).st ≠ .idle ∧ s.w.asleep (chanCluster d) = true then .next (s.withW (s.w.wake (chanCluster d))) else f n r

/-- DMA_DESCRIPTOR_FETCH (R304, R306): the current descriptor is read and checked, or the one after it. A translation fault halts the channel (R312). -/
def execDmaDescriptorFetch (d : ChanId) (s : State) : Out :=
  s.chanRun d fun n r =>
    let c := s.w.chan d
    if c.st ≠ .running then .next s
    else if c.have_ then .next (s.withW (s.w.fetchNext n d r c))
    else .next (s.withW (s.w.fetchCurrent n d r c))

/-- A halt after the whole accesses within some bytes have moved (R313): a write failure sets the source back to match the destination. A bus error
is counted for the block that it met, unless a `walk` met it, which is counted already. -/
def World.haltAfter (w : World) (r : Resid) (n d : Nat) (c : Chan) (moved dir st kind : Nat) (walk : Bool := false) : Option World :=
  let k := if dir = 0 then max c.aheadBytes (accessFloor (·.src) moved c.runs) else accessFloor (·.dst) moved c.runs
  if runBytes c.runs ≤ moved ∨ runBytes c.runs ≤ k then none
  else
    let l := firstBytes k c.runs
    match w.planCopy n d r.root c l with
    | (.clear sp dp, w) =>
      let (w, c) := if k = 0 then (w, c) else w.chanCopy n c sp dp l
      let a := if dir = 0 then c.src else c.dst
      let w := if st = stBusError ∧ walk = false then w.chanBus n d r.root (dir == 1) a.toNat else w
      some (w.haltChan r n d c st a dir kind)
    | _ => none

/-- What a channel does where a copy meets a bus error (R312, R330): it halts there. -/
def World.breakChan (w : World) (r : Resid) (n d : Nat) (c : Chan) (before dir : Nat) (walk : Bool) : World :=
  (w.haltAfter r n d c before dir stBusError 0 walk).getD w

/-- DMA_DESCRIPTOR_COMPLETE (R307): everything left of the descriptor moves, then it completes. A fault on the way is the matter of
DMA_HALT; an access or a page-table read that fails on the bus halts the channel (R312, R330). -/
def execDmaDescriptorComplete (d : ChanId) (s : State) : Out :=
  s.chanRun d fun n r =>
    let c := s.w.chan d
    if c.st ≠ .running ∨ c.have_ = false ∨ s.w.chanReady c = false then .next s
    else
      let l := c.runs
      match s.w.planCopy n d r.root c l with
      | (.faulty _ _ _ _, _) => .next s
      | (.broken before dir walk, w) => .next (s.withW (w.breakChan r n d c before dir walk))
      | (.clear sp dp, w) =>
        let (w, c) := w.chanCopy n c sp dp l
        let w := w.endDescriptor r n d c (if c.poisoned then stPoison else stOk) false
        .next (s.withW (if ddBar c.desc then w else w.readAhead s.w n d r.root))

/-- DMA_PAUSE_DRAINED (R301, R313): the accesses read before the pause, those within `moved` bytes, have been written; an ABORT then ends the
descriptor. -/
def execDmaPauseDrained (d : ChanId) (moved : Nat) (s : State) : Out :=
  s.chanRun d fun n r =>
    let c := s.w.chan d
    if c.st ≠ .pausing ∨ (moved ≠ 0 ∧ (c.have_ = false ∨ s.w.chanReady c = false)) ∨ runBytes c.runs < moved then .next s
    else
      let k := max c.aheadBytes (accessFloor (·.src) moved c.runs)
      let l := firstBytes k c.runs
      match s.w.planCopy n d r.root c l with
      | (.faulty _ _ _ _, _) => .next s
      | (.broken before dir walk, w) => .next (s.withW (w.breakChan r n d c before dir walk))
      | (.clear sp dp, w) =>
        let (w, c) := if k = 0 then (w, c) else w.chanCopy n c sp dp l
        if c.aborting then
          let w := w.moveChan n d { c with st := .paused, aborting := true } c.lastStatus
          .next (s.withW (w.endDescriptor r n d c (if c.latStatus = 0 then stState else c.latStatus) true))
        else .next (s.withW ((w.moveChan n d { c with st := .paused } c.lastStatus).chanDone d stOk))

/-- DMA_HALT (R312): the translation fault that the channel meets, or a bus error that the environment reports. -/
def execDmaHalt (d : ChanId) (cause : HaltCause) (s : State) : Out :=
  s.chanRun d fun n r =>
    let c := s.w.chan d
    let active := c.st == .running || c.st == .pausing
    let moving := active && c.have_ && s.w.chanReady c
    let done (w : Option World) : Out := match w with | some w => .next (s.withW w) | none => .next s
    match cause with
    | .translation =>
      if !moving then .next s
      else
        match s.w.planCopy n d r.root c c.runs with
        | (.clear _ _, _) => .next s
        | (.broken _ _ _, _) => .next s
        | (.faulty before dir va f, w) =>
          let w := w.reportFault n va f (chanSource d dir)
          done (w.haltAfter r n d c before dir f.status f.kind)
    | .busRead moved => if moving then done (s.w.haltAfter r n d c moved 0 stBusError 0) else .next s
    | .busWrite moved => if moving then done (s.w.haltAfter r n d c moved 1 stBusError 0) else .next s
    | .busFetch =>
      if c.st = .running ∧ c.have_ = false then
        .next (s.withW ((s.w.chanBus n d r.root false c.cur.toNat).haltChan r n d c stBusError c.cur 2 0))
      else .next s

/-- DMA_WAIT_TIMEOUT (R305): the wait limit of the issuing core expires. -/
def execDmaWaitTimeout (d : ChanId) (s : State) : Out :=
  match s.chanCtx d with
  | none => .next s
  | some (n, r) =>
    let c := s.w.chan d
    if c.st = .running ∧ c.have_ = true ∧ s.w.chanReady c = false then .next (s.withW (s.w.haltChan r n d c stTimeout c.cur 3 0))
    else .next s

/-! ## Control (R301, R308, R317) -/

/-- What a control of a channel answers: the world, a status, whether the action is still draining. -/
structure Ctrl where
  w : World
  st : Nat
  draining : Bool := false

/-- START (R301): the issuing core recorded, the first descriptor to be fetched. -/
def World.chanStart (w : World) (n d core : Nat) (first : Word) (held : Bool) : Ctrl :=
  let c := w.chan d
  if c.st ≠ .idle ∨ held = true then { w, st := stBusy }
  else
    let c := { c with st := .running, core, cur := first, have_ := false, desc := List.replicate 64 0, nextDesc := none, ahead := []
                      latStatus := 0, latAddr := 0, latDir := 0, latKind := 0, by_ := .nobody, aborting := false, poisoned := false }
    { w := w.moveChan n d c c.lastStatus, st := stOk }

/-- RESUME (R301): a PAUSED channel goes on, one that the part holds for a pre-emption or a snapshot too, a HALTED one retries. A descriptor whose
fetch failed is fetched again. -/
def World.chanResume (w : World) (n d : Nat) : Ctrl :=
  let c := w.chan d
  if c.st = .paused ∨ c.st = .halted then
    { w := w.moveChan n d { c with st := .running, by_ := .nobody, desc := if c.have_ then c.desc else List.replicate 64 0
                                   latStatus := 0, latAddr := 0, latDir := 0, latKind := 0 } c.lastStatus, st := stOk }
  else { w, st := stState }

/-- Whether a RUNNING channel has no read in flight, so that it pauses at once (R315). -/
def World.chanQuiet (w : World) (c : Chan) : Bool := !c.have_ || !w.chanReady c || runBytes c.runs == 0

/-- PAUSE (R301, R315). -/
def World.chanPause (w : World) (n d : Nat) : Ctrl :=
  let c := w.chan d
  if c.st = .running then
    if w.chanQuiet c then { w := w.moveChan n d { c with st := .paused, by_ := .user } c.lastStatus, st := stOk }
    else { w := w.moveChan n d { c with st := .pausing, by_ := .user } c.lastStatus, st := stOk, draining := true }
  else { w, st := stState }

/-- SKIP (R301): the descriptor of a HALTED channel completed with the latched status. -/
def World.chanSkip (w : World) (r : Resid) (n d : Nat) : Ctrl :=
  let c := w.chan d
  if c.st = .halted then { w := w.endDescriptor r n d c c.latStatus false, st := stOk } else { w, st := stState }

/-- ABORT (R301): a RUNNING channel pauses first. -/
def World.chanAbort (w : World) (r : Resid) (n d : Nat) : Ctrl :=
  let c := w.chan d
  match c.st with
  | .idle => { w, st := stState }
  | .running =>
    if w.chanQuiet c then { w := w.endDescriptor r n d c stState true, st := stOk }
    else { w := w.moveChan n d { c with st := .pausing, aborting := true, by_ := .user } c.lastStatus, st := stOk, draining := true }
  | .pausing => { w := w.setChan d { c with aborting := true }, st := stOk, draining := true }
  | _ => { w := w.endDescriptor r n d c (if c.latStatus = 0 then stState else c.latStatus) true, st := stOk }

/-- A control write of a channel (R317). -/
def chanFx (s : State) (d : Nat) (f : World → Resid → Nat → Nat → Ctrl) : Fx :=
  match s.chanCtx d with
  | none => .refuse s stState
  | some (n, r) =>
    let x := f (s.w.wake (chanCluster d)) r n d
    { s := s.withW x.w, st := x.st, wait := if x.draining then some (.dma d) else none }

/-! ## Pre-emption and snapshots (R316) -/

/-- The channels of a context. -/
def Resid.chans (r : Resid) : List Nat := (List.range (8 * r.count)).map (8 * r.first + ·)

/-- Every RUNNING channel of a context paused by the part. -/
def World.pauseChans (w : World) (n : Nat) (r : Resid) : World :=
  r.chans.foldl (fun w d =>
    let c := w.chan d
    if c.st = .running then w.moveChan n d { c with st := if w.chanQuiet c then .paused else .pausing, by_ := .part } c.lastStatus else w) w

/-- Whether a channel of a context is still draining. -/
def World.chansDraining (w : World) (r : Resid) : Bool := r.chans.any fun d => (w.chan d).st == .pausing

/-- The channels that the part paused go on; their clusters are asked to wake (R310). -/
def World.resumeChans (w : World) (n : Nat) (r : Resid) : World :=
  r.chans.foldl (fun w d =>
    let c := w.chan d
    if c.st = .paused ∧ c.by_ = .part then (w.moveChan n d { c with st := .running, by_ := .nobody } c.lastStatus).wake (chanCluster d) else w) w

/-- The image of a channel (R316). -/
def Chan.image (c : Chan) (core0 : Nat) : List Byte :=
  let code := if c.st = .paused ∧ c.by_ = .part then 1 else chanCode c.st
  leBytes 1 code ++ leBytes 1 0 ++ leBytes 2 (c.core - core0) ++ leBytes 2 c.lastStatus ++ leBytes 2 c.latStatus ++ leBytes 8 c.cur.toNat
    ++ leBytes 8 c.src.toNat ++ leBytes 8 c.dst.toNat ++ leBytes 4 c.rowLeft ++ leBytes 4 c.rowsLeft ++ leBytes 8 c.latAddr.toNat
    ++ leBytes 1 c.latDir ++ leBytes 1 c.latKind ++ leBytes 14 0 ++ sl c.desc 0 64 ++ leBytes 128 0

/-- A status that an image brings: R11 has no code above 0x0011, so that any other, which only an image from outside can hold, is taken as `ST_STATE`
(DESIGN CHOICE, log entry 165). -/
def statusOf (st : Nat) : Nat := if st ≤ 0x11 then st else stState

/-- A channel from its image (R296, R316). A channel saved before its descriptor was fetched has an image descriptor of zeros. -/
def Chan.ofImage (b : List Byte) (core0 : Nat) (old : Chan) : Chan :=
  let st : ChanSt := match le b 0 1 with | 1 => .running | 3 => .paused | 4 => .halted | _ => .idle
  let desc := sl b 64 64
  { old with
    st, core := core0 + le b 2 2, lastStatus := statusOf (le b 4 2), latStatus := statusOf (le b 6 2), cur := BitVec.ofNat 64 (le b 8 8), src := BitVec.ofNat 64 (le b 16 8)
    dst := BitVec.ofNat 64 (le b 24 8), rowLeft := le b 32 4, rowsLeft := le b 36 4, latAddr := BitVec.ofNat 64 (le b 40 8), latDir := le b 48 1
    latKind := le b 49 1, desc, have_ := !allZero desc && le b 48 1 != 2, by_ := if st = .paused then .user else .nobody, aborting := false, poisoned := false, nextDesc := none, ahead := [] }

end Sys2Proof.Machine
end

