-- ==== Sys2Proof/Machine/Context.lean ====
section
/-! DEFINITION. Contexts (R283–R298): the context record, CREATE, RESUME, PREEMPT, DESTROY, save, restore, import, doorbell,
invalidations, seeding (R247, R248, R255), predictor slots (R242). -/
namespace Sys2Proof.Machine

/-- State code (R298). -/
def ctxCode : CtxSt → Nat
  | .absent => 0
  | .saved => 1
  | .resident => 2
  | .saving => 3
  | .restoring => 4

/-- A context given a state, with its event (R285, R421). -/
def State.ctxTo (s : State) (n : Nat) (st : CtxSt) (after : AfterSave) : State :=
  let s := s.setEnt n { s.ent n with st, after }
  s.withW (s.w.event 0x0101 (0x3100 + n) 2 dieNone (some n) stOk (leBytes 1 (ctxCode st)))

/-- Whether a configuration record keeps R284 and R278. A ring base is a DVA, so below 2^48. -/
def cfgOk (cfg : List Byte) : Bool :=
  let first := le cfg 0 1
  let count := le cfg 1 1
  let root := le cfg 8 8
  let dva (off align : Nat) : Bool := le cfg off 8 % align == 0 && decide (le cfg off 8 < 2 ^ 48)
  cfg.length == 64 && decide (1 ≤ count) && decide (first + count ≤ 64) && decide (le cfg 2 1 ≤ 1)
    && decide (6 ≤ le cfg 3 1) && decide (le cfg 3 1 ≤ 20) && decide (6 ≤ le cfg 4 1) && decide (le cfg 4 1 ≤ 20)
    && allZero (sl cfg 5 3) && allZero (sl cfg 48 16) && root % 65536 == 0 && !inReserved root 65536
    && dva 16 64 && dva 24 64 && dva 32 8

/-! ## The context record (R288–R290) -/

/-- The header of a slot (R289). -/
def Ctx.header (x : Ctx) (cores : Nat) : List Byte :=
  leBytes 2 1 ++ leBytes 2 x.lanes ++ leBytes 2 cores ++ leBytes 1 (if x.reseedable then 1 else 0) ++ leBytes 1 0
    ++ leBytes 4 x.step ++ leBytes 4 x.tail ++ leBytes 4 x.prod ++ leBytes 4 x.cons ++ leBytes 4 x.lost ++ leBytes 4 x.faults
    ++ leBytes 8 x.seed.toNat ++ leBytes 4 x.saves ++ leBytes 20 0

/-- The running state that a header brings (R289). -/
def Ctx.ofHeader (x : Ctx) (b : List Byte) : Ctx :=
  { x with
    lanes := le b 2 2, reseedable := bit (le b 6 1) 0, step := le b 8 4, tail := le b 12 4, prod := le b 16 4, cons := le b 20 4, lost := le b 24 4
    faults := le b 28 4, seed := BitVec.ofNat 64 (le b 32 8), saves := le b 40 4 }

/-- The header of a context's slot brought up to date. -/
def State.putHeader (s : State) (n : Nat) : State :=
  s.withW (s.w.hbmPut (slotBase n) ((s.w.ctx n).header (s.ent n).cores))

/-- A context's running state changed by a write; the header of a SAVED context holds it too (R286, R289). -/
def State.ctxField (s : State) (n : Nat) (x : Ctx) : State :=
  let t := s.withW (s.w.setCtx n x)
  if (s.ent n).st = .saved then t.putHeader n else t

/-- Engine entries of a core in dispatch order, with their queues. -/
def Core.entries (k : Core) : List (Queue × Entry) :=
  let all := k.load.map (Queue.load, ·) ++ k.matrix.map (Queue.matrix, ·) ++ k.vector.map (Queue.vector, ·) ++ k.store.map (Queue.store, ·)
  all.foldl (fun l x => l.takeWhile (fun y => decide (y.2.id < x.2.id)) ++ x :: l.dropWhile fun y => decide (y.2.id < x.2.id)) []

/-- The image of an engine entry (R290): progress 1 for a matrix record that was stopped at a K-group boundary, 0 for one not started
(DEDUCED, log entry 35). -/
def entryImage (q : Queue) (t : Entry) : List Byte :=
  t.cmd.bytes ++ leBytes 1 (queueCode q) ++ leBytes 1 (if t.descs.isEmpty then 0 else 1) ++ leBytes 6 0
    ++ (List.range 4).flatMap (fun i => leBytes 8 (t.ind.getD i 0).toNat) ++ leBytes 2 t.thr.toNat ++ leBytes 6 0
    ++ leBytes 8 t.next ++ leBytes 8 0 ++ sl t.descs 0 256

/-- State code of a core in its image (R289): STOPPED and DONE where the core is on its way there. -/
def Core.imageState (k : Core) : Nat :=
  match k.state with
  | .stopped => 2
  | .done => 3
  | .idle => 0
  | .running => if k.halted then 2 else if k.ended then 3 else 1

/-- The first 512 and the entry bytes of a core image (R289). -/
def Core.controlImage (k : Core) (c j : Nat) : List Byte :=
  let es := k.entries
  leBytes 2 c ++ leBytes 2 j ++ leBytes 1 k.imageState ++ leBytes 1 0 ++ leBytes 2 k.failStatus ++ leBytes 4 k.nextIdx
    ++ leBytes 4 k.failIdx ++ leBytes 1 es.length ++ leBytes 47 0
    ++ (List.range 32).flatMap (fun i => leBytes 8 (k.regs.getD i 0).toNat)
    ++ (List.range 64).flatMap (fun i => leBytes 2 (k.ctrs.getD i 0).toNat) ++ leBytes 64 0
    ++ es.flatMap fun x => entryImage x.1 x.2

/-- The cells of a core image that stands at an address. -/
def Core.imageCells (k : Core) (a c j : Nat) : List Host.Cell :=
  cellsOf a (k.controlImage c j) ++ cellsOf (a + 8192) k.stream.image
    ++ (k.ps.cells.filter fun x => decide (x.1 < 0x20000) && decide (x.1 % 8 < 5)).map (fun x => (a + 16384 + 5 * (x.1 / 8) + x.1 % 8, x.2))
    ++ Cells.moved k.sp.cells 0 0x60000 (a + 98304)

/-- Blocks of a core image that hold a poisoned word of its memories. -/
def Core.imageBad (k : Core) (a : Nat) : List Nat :=
  k.ps.marks.flatMap (fun m => [(a + 16384 + 10 * m) / 64, (a + 16384 + 10 * m + 9) / 64]) ++ k.sp.marks.map fun m => (a + 98304 + 16 * m) / 64

/-- Whether the words of a core's Scratchpad and Partial-Sum Store hold latent errors that reading them meets. -/
def World.readMemories (w : World) (c n : Nat) : World :=
  let w := w.touch c (some n) .psum ((w.core c).ps.upsets.map (·.1))
  w.touch c (some n) .scratch ((w.core c).sp.upsets.map (·.1))

/-- The core image of index j written (R291 step 4). -/
def World.saveCore (w : World) (n j c : Nat) : World :=
  let w := w.readMemories c n
  let k := w.core c
  let a := coreImageBase n j
  w.blit a 491520 (k.imageCells a c j) (k.imageBad a)

/-- What is kept of a core beside its image. -/
def Core.held (k : Core) : HeldCore :=
  let es := k.entries
  { deferred := k.deferred.map fun d => { d with ids := d.ids.filterMap fun i => es.findIdx? fun x => x.2.id == i }
    ended := k.ended, endTail := k.endTail, ents := es.map fun x => (x.2.idx, x.2.ind.drop 4, x.2.begun) }

/-- A core that no context runs on (R291, R295): IDLE, its Scratchpad and Partial-Sum Store zero; what belongs to the core stays. What a context left
in the failed record and its status, the next ring index and the sync counters (R98) is with the context, and the core reads 0 there, which the
spec does not say (DESIGN CHOICE, log entry 164). -/
def Core.cleared (k : Core) : Core :=
  { k with
    state := .idle, regs := List.replicate 32 0, ctrs := List.replicate 64 0, nextIdx := 0, buf := [], halted := false, ended := false
    endTail := 0, nextId := 0, load := [], matrix := [], vector := [], store := [], deferred := [], dmaWait := none, stepWait := false
    failIdx := 0, failStatus := 0, sp := {}, ps := {}, wbq := k.wbq.filter fun x => x.1 == .weight, stream := {} }

/-- A channel without a descriptor; its counters since reset stay. -/
def Chan.cleared (c : Chan) : Chan := { done := c.done, bytes := c.bytes }

/-- DESTROY drops what the channels of a group hold (R301): each that was not IDLE becomes so, with the event of a change of state and no signal
(R317). -/
def World.dropChans (w : World) (n : Nat) (r : Resid) : World :=
  r.chans.foldl (fun w d =>
    let c := w.chan d
    let w := w.setChan d c.cleared
    if c.st = .idle then w else w.chanEvent n d c c.lastStatus) w

/-- Cores and channels of a group cleared. A channel that a save takes off its cluster has not changed its state (DEDUCED, log entry 148). -/
def World.clearGroup (w : World) (r : Resid) : World :=
  let w := r.coreList.foldl (fun w c => w.setCore c (w.core c).cleared) w
  r.chans.foldl (fun w d => w.setChan d (w.chan d).cleared) w

/-! ## Draining (R291, R269) -/

/-- Whether a phase that a core's CROWN record takes part in has begun. -/
def World.inPhase (w : World) (c : Nat) : Bool :=
  w.crown.any fun p => p.started && decide (p.first ≤ c) && decide (c < p.first + 2 ^ p.slog)

/-- Whether nothing that has started on a core is still under way (R291 step 2). -/
def World.coreDrained (w : World) (c : Nat) : Bool :=
  let k := w.core c
  k.dmaWait.isNone && k.entries.all fun x =>
    match x.2.st with
    | .waiting => true
    | .arrived _ => !w.inPhase c
    | _ => false

/-- Whether a group has drained: cores, channels, signals in flight (R291 steps 2 and 3). -/
def World.drained (w : World) (r : Resid) : Bool :=
  (r.coreList.all w.coreDrained) && !w.chansDraining r && !w.signals.any fun x => decide (r.core0 ≤ x.src) && decide (x.src < r.core0 + r.cores)

/-- Whether every cluster of a group is in RUN. -/
def World.groupRuns (w : World) (r : Resid) : Bool :=
  (List.range r.count).all fun i => (w.cluster (r.first + i)).power == .run && (w.cluster (r.first + i)).entering.isNone

/-- Wake requests for the clusters of a group (R434). -/
def World.wakeGroup (w : World) (r : Resid) : World := (List.range r.count).foldl (fun w i => w.wake (r.first + i)) w

/-- The run of a matrix record that is to stop at a K-group boundary (R96). -/
def stopRun (units upTo : Nat) (w : World) (e : Env) (t : Entry) : Option Run :=
  match t.cmd.op.toNat with
  | 0x30 => some (goingOn (runMatmul (some upTo)) w e t)
  | 0x31 => some (goingOn (runSparse false units (some upTo)) w e t)
  | 0x32 => some (goingOn (runSparse true units (some upTo)) w e t)
  | 0x33 => some (goingOn (runSddmm (some upTo)) w e t)
  | _ => none

/-- What the pre-emption of a core's context finds in its matrix engine (R96, R291): the record that can start may have started, and stops at a K-group
boundary; whether it has, and at which, is free (DEDUCED, log entry 35). One that cannot stop there, or that fails, is taken as not started. -/
def State.stopCore (s : State) (c : Nat) : State :=
  match s.starting c .matrix with
  | none => s
  | some (e, t) =>
    let f := s.w.free
    let w := { s.w with free := f + 2 }
    if Config.freeBool f then
      match stopRun s.ctl.sec.units (Config.freeNat (f + 1)) w e t with
      | some { w := v, stopped := some (next, descs, begun), .. } =>
        if World.busMet w v then s.withW w
        else s.withW (v.setCore c (let k := v.core c; k.setQueue .matrix ((k.queue .matrix).map fun x => if x.id = t.id then { x with next, descs, begun := some begun } else x)))
      | _ => s.withW w
    else s.withW w

/-- The first step of a pre-emption (R291): SAVING, the context's RUNNING channels pause, its matrix engines come to a boundary. -/
def State.startSave (s : State) (n : Nat) (after : AfterSave) : State :=
  let r := s.ent n
  let s := r.coreList.foldl State.stopCore s
  let s := s.ctxTo n .saving after
  s.withW ((s.w.pauseChans n r).wakeGroup r)

/-! ## RESUME (R285) -/

/-- Contexts other than n that occupy a part of its group. -/
def State.inWay (s : State) (n : Nat) : List (Nat × Resid) :=
  s.res.filter fun e => e.1 != n && e.2.st.live && e.2.meets (s.ent n)

/-- Contexts that would be resident beside n once those in its way are gone. -/
def State.beside (s : State) (n : Nat) : Nat :=
  (s.res.filter fun e => e.1 != n && e.2.st.live && !e.2.meets (s.ent n)).length

/-- Whether a RESUME of n waits for a pre-emption to end. -/
def State.resuming (s : State) (n : Nat) : Bool := s.res.any fun e => e.2.st == .saving && e.2.after == .resume n

/-- The next thing that a RESUME of a SAVED context does: pre-empt the lowest resident context in its way, or restore. A context in
the way that is not RESIDENT, or a seventeenth context, ends it. -/
def State.goResume (s : State) (n : Nat) : State :=
  match (s.inWay n).find? fun e => e.2.st == .resident with
  | some e => s.startSave e.1 (.resume n)
  | none =>
    if (s.inWay n).isEmpty = false then s.withW (s.w.resolve (.ctx n) stBusy [])
    else if 16 ≤ s.beside n ∨ (s.w.ctx n).hold ≠ 0 then s.withW (s.w.resolve (.ctx n) stState [])
    else
      let s := s.ctxTo n .restoring .stay
      s.withW (s.w.wakeGroup (s.ent n))

/-- Whether a cluster of a context's group is held in OFF (R285, R435). -/
def State.heldOff (s : State) (r : Resid) : Bool := (List.range r.count).any fun i => (s.w.cluster (r.first + i)).floor == 3

/-- Whether a restore from a buddy's image runs (R505). -/
def Restore.busy (x : Restore) : Bool := x.st == .checking || x.st == .transferring

/-- The first refusal of a RESUME (R285, R478, R495; DEDUCED, log entry 36 for contexts in the way that are not RESIDENT). -/
def resumeRefusal (s : State) (n : Nat) : Option Nat :=
  let r := s.ent n
  firstRefusal
    [ (r.st == .absent, stState), (r.st == .saving || r.st == .restoring || s.resuming n, stBusy), (r.st == .resident, stState),
      ((s.w.ctx n).hold != 0 || s.heldOff r || decide (16 ≤ s.beside n), stState),
      ((s.inWay n).any (fun e => e.2.st != .resident) || s.res.any (fun e => e.1 != n && s.resuming e.1 && e.2.meets r)
        || (s.w.scan.st == 1 && r.holds s.w.scan.cluster) || (s.w.ctx n).rst.busy, stBusy) ]

/-- RESUME: the answer comes when the context is RESIDENT or the restore has failed. -/
def resumeFx (s : State) (n : Nat) : Fx :=
  match resumeRefusal s n with
  | some st => .refuse s st
  | none => { s := s.goResume n, wait := some (.ctx n) }

/-- PREEMPT (R285, R291). -/
def preemptFx (s : State) (n : Nat) : Fx :=
  match (s.ent n).st with
  | .resident => { s := s.startSave n .stay, wait := some (.ctx n) }
  | .saving => .refuse s stBusy
  | .restoring => .refuse s stBusy
  | .saved => .refuse s stState
  | .absent => .refuse s stState

/-! ## CREATE and DESTROY (R285) -/

/-- The cells of the image of a core that no context has run on yet: registers of R62, stream of R247 at an epoch. -/
def newImage (a c j n : Nat) (g : Stream) : List Host.Cell :=
  cellsOf (a + 64) (leBytes 8 0 ++ leBytes 8 c ++ leBytes 8 j ++ leBytes 8 n) ++ cellsOf (a + 8192) g.image

/-- CREATE. -/
def createFx (s : State) (n : Nat) : Fx :=
  let r := s.ent n
  match r.st with
  | .absent =>
    if cfgOk r.cfg = false then .refuse s stState
    else
      let x : Ctx := { wsRefused := (s.w.ctx n).wsRefused, seed := BitVec.ofNat 64 r.seed }
      let w := s.w.setCtx n x
      let images := (List.range r.cores).flatMap fun j => newImage (coreImageBase n j) (r.core0 + j) j n (seedStream x.seed 0 j)
      let w := w.blit (coreImageBase n 0) 0x1E000000 images []
      let w := w.hbmPut (slotBase n) (x.header r.cores ++ sl r.cfg 0 64)
      let w := w.hbmPut (predBase n 0) ((List.range 256).flatMap fun _ => defaultSlot)
      let w := { w with nums := { w.nums with seedings := bump 64 w.nums.seedings r.cores } }
      { s := (s.withW w).ctxTo n .saved .stay }
  | .saving => .refuse s stBusy
  | .restoring => .refuse s stBusy
  | .saved => .refuse s stState
  | .resident => .refuse s stState

/-- Windows that a context owns close (R123, R285). -/
def World.closeOwned (w : World) (n : Nat) : World :=
  (w.cores.map (·.1)).foldl (fun w c => (List.range 8).foldl (fun w i => if (w.win c i).owner = n then w.closeWin c i else w) w) w

/-- An armed snapshot of a destroyed context is cancelled (R272). -/
def World.cancelSnap (w : World) (n : Nat) : World :=
  if w.snap.st = .armed ∧ w.snap.ctx = n then
    ({ w with snap := { w.snap with st := .idle } }).event 0x0502 0x3200 2 dieNone (some n) stOk (leBytes 4 w.snap.step)
  else w

/-- The cores that a context was saved from no longer name it (R283). -/
def World.forgetSaved (w : World) (n : Nat) : World :=
  { w with cores := w.cores.map fun e => (e.1, if e.2.savedCtx = some n then { e.2 with savedCtx := none } else e.2) }

/-- A RESUME that still pre-empts other contexts ends with `ST_STATE` when its context is destroyed (DEDUCED, log entry 36); those stay SAVED. -/
def State.dropResume (s : State) (n : Nat) : State :=
  if s.resuming n then
    let s := { s with res := s.res.map fun (e : Nat × Resid) => (e.1, if e.2.after = AfterSave.resume n then { e.2 with after := .stay } else e.2) }
    s.withW (s.w.resolve (.ctx n) stState [])
  else s

/-- The end of a context (R285, R378): slot zeroed, windows closed, its queue pairs in ERROR, an armed snapshot cancelled. -/
def State.wipeCtx (s : State) (n : Nat) : State :=
  let w := (s.w.blit (slotBase n) 0x20000000 [] []).forgetSaved n
  let w := (w.closeOwned n).cancelSnap n
  let w := { w with qps := w.qps.map fun (e : Nat × Qp) => if e.2.ctx == n then (e.1, { e.2 with st := .error }) else e }
  let w := w.setCtx n { wsRefused := (w.ctx n).wsRefused }
  ((s.withW w).setEnt n {}).ctxTo n .absent .stay

/-- DESTROY: at once from SAVED, after the drain from RESIDENT. `abandon` ends a checkpoint of the context in progress (R503). -/
def destroyFx (s : State) (n : Nat) (abandon : State → Nat → State) : Fx :=
  match (s.ent n).st with
  | .resident => { s := (abandon s n).startSave n .destroy, wait := some (.ctx n) }
  | .saved => { s := ((abandon s n).dropResume n).wipeCtx n }
  | .saving => .refuse s stBusy
  | .restoring => .refuse s stBusy
  | .absent => .refuse s stState

/-! ## PREEMPT_SAVE (R291) -/

/-- The images, the channels' images and the header written; cores and channels cleared. -/
def State.saveCtx (s : State) (n : Nat) : State :=
  let r := s.ent n
  let held := (List.range r.cores).map fun j => (j, (s.w.core (r.core0 + j)).held)
  let w := (List.range r.cores).foldl (fun w j => w.saveCore n j (r.core0 + j)) s.w
  let w := w.hbmPut (dmaImageBase n) (r.chans.flatMap fun d => (w.chan d).image r.core0)
  let x := w.ctx n
  let heldPoison := (List.range (8 * r.count)).filter fun i => (w.chan (8 * r.first + i)).poisoned
  let heldNext := (List.range (8 * r.count)).filterMap fun i => (w.chan (8 * r.first + i)).nextDesc.map (i, ·)
  let w := w.setCtx n { x with saves := bump 32 x.saves 1, held, heldPoison, heldNext, lanes := laneCount }
  let w := w.clearGroup r
  let w := r.coreList.foldl (fun w c => w.setCore c { w.core c with savedCtx := some n }) w
  let c := w.ctxCtr
  let w := { w with ctxCtr := { c with preempts := bump 64 c.preempts 1, longest := max c.longest (Config.freeNat w.free % 2 ^ 32) }, free := w.free + 1 }
  let s1 := (s.withW w).putHeader n
  s1.withW (s1.w.landed s.w n (slotBase n) 0x20000000)

/-- The windows' commits that waited for a save or a wake, made where they can be. -/
def State.unparked (s : State) : State := s.withW (s.w.unpark s.res)

/-- PREEMPT_SAVE: steps 3 to 5 once the group has drained and no snapshot copy runs (R272, R292); then what the pre-emption was for. -/
def execPreemptSave (n : CtxId) (s : State) : Out :=
  let r := s.ent n
  if s.ctl.part = .ready ∧ r.st = .saving ∧ s.w.drained r = true ∧ s.w.groupRuns r = true
      ∧ (r.coreList.any fun c => (s.w.core c).stepWait) = false ∧ s.w.snap.st ≠ .copying ∧ (s.w.ctx n).ck.st ≠ .reading then
    match r.after with
    | .destroy =>
      let s := s.withW ((s.w.dropChans n r).clearGroup r)
      let s := s.wipeCtx n
      .next (s.withW (s.w.resolve (.ctx n) stOk [])).unparked
    | .stay =>
      let s := (s.saveCtx n).ctxTo n .saved .stay
      .next (s.withW (s.w.resolve (.ctx n) stOk [])).unparked
    | .resume m =>
      let s := (s.saveCtx n).ctxTo n .saved .stay
      .next ((s.withW (s.w.resolve (.ctx n) stOk [])).unparked.goResume m)
  else .next s

/-! ## CONTEXT_RESTORE (R294–R296) -/

/-- Bytes of sorted cells from an address on. -/
def cellRun : List Host.Cell → Nat → Nat → List Byte
  | _, _, 0 => []
  | [], a, n + 1 => 0 :: cellRun [] (a + 1) n
  | (j, b) :: t, a, n + 1 => if j = a then b :: cellRun t (a + 1) n else 0 :: cellRun ((j, b) :: t) (a + 1) n

/-- A range of HBM as bytes. -/
def World.hbmRange (w : World) (a n : Nat) : List Byte :=
  cellRun (w.hbm.mem.cells.filter fun c => decide (a ≤ c.1) && decide (c.1 < a + n)) a n

/-- The queue of an entry image (R290). -/
def queueOfCode : Nat → Queue
  | 0 => .load
  | 1 => .matrix
  | 2 => .vector
  | _ => .store

/-- An engine entry from its image, with what the part kept beside it; values that an image does not hold are free. -/
def entryOf (b : List Byte) (id : Nat) (kept : Option (Nat × List Word × Option Begun)) (free : Nat) : Entry :=
  { id, cmd := Record.ofBytes (sl b 0 64)
    ind := (List.range 4).map (fun i => BitVec.ofNat 64 (le b (72 + 8 * i) 8))
      ++ (match kept with | some x => x.2.1 | none => [BitVec.ofNat 64 (Config.freeNat free)])
    thr := BitVec.ofNat 16 (le b 104 2)
    next := le b 112 8
    descs := if le b 65 1 = 1 then sl b 128 256 else []
    begun := if le b 65 1 = 1 then kept.bind fun x => x.2.2 else none
    idx := match kept with | some x => x.1 | none => Config.freeNat (free + 1) % 2 ^ 32 }

/-- The Partial-Sum Store and the Scratchpad of an image: bytes as saved, words of a poisoned block with poison marking. -/
def psOfImage (m : EccMem) (a : Nat) : EccMem :=
  let bad := m.marks.filter fun b => decide (a + 16384 ≤ 64 * b) && decide (64 * b < a + 98304)
  { cells := (m.cells.filter fun c => decide (a + 16384 ≤ c.1) && decide (c.1 < a + 98304)).map fun c =>
      let o := c.1 - (a + 16384)
      (8 * (o / 5) + o % 5, c.2)
    marks := bad.foldl (fun l b =>
      let o := 64 * b - (a + 16384)
      (List.range ((o + 63) / 10 - o / 10 + 1)).foldl (fun l i => insertNat (o / 10 + i) l) l) [] }
def spOfImage (m : EccMem) (a : Nat) : EccMem :=
  let bad := m.marks.filter fun b => decide (a + 98304 ≤ 64 * b) && decide (64 * b < a + 491520)
  { cells := Cells.moved m.cells (a + 98304) (a + 491520) 0
    marks := bad.foldl (fun l b => (List.range 4).foldl (fun l i => insertNat ((64 * b - (a + 98304)) / 16 + i) l) l) [] }

/-- A core as its image brings it back (R294 step 4). -/
def Core.ofImage (k : Core) (m : EccMem) (a : Nat) (control stream : List Byte) (held : Option HeldCore) (tail free : Nat) : Core :=
  let es := (List.range (min 16 (le control 16 1))).map fun i =>
    let b := sl control (512 + 384 * i) 384
    (queueOfCode (le b 64 1), entryOf b i (held.bind fun h => h.ents[i]?) (free + 2 * i))
  let q (x : Queue) : List Entry := (es.filter fun e => e.1 == x).map (·.2)
  let st := le control 4 1
  let deferred := match held with | some h => h.deferred | none => []
  let busy := !es.isEmpty || !deferred.isEmpty
  { k.cleared with
    state := if st = 2 ∧ busy = false then .stopped else if st = 3 ∧ busy = false then .done else .running
    halted := st == 2 && busy
    ended := match held with | some h => h.ended | none => st == 3 && busy
    endTail := match held with | some h => h.endTail | none => tail
    regs := 0 :: (List.range 31).map (fun i => BitVec.ofNat 64 (le control (72 + 8 * i) 8))
    ctrs := (List.range 64).map (fun i => BitVec.ofNat 16 (le control (320 + 2 * i) 2))
    nextIdx := le control 8 4, failIdx := le control 12 4, failStatus := statusOf (le control 6 2), nextId := es.length
    load := q .load, matrix := q .matrix, vector := q .vector, store := q .store, deferred
    stream := Stream.ofImage stream, ps := psOfImage m a, sp := spOfImage m a }

/-- Poisoned blocks of a saved memory brought back: one record each (R295). -/
def World.restorePoison (w : World) (n c a : Nat) (bad : List Nat) : World :=
  bad.foldl (fun w b =>
    let o := 64 * b - a
    let ps := decide (o < 98304)
    w.raise clsUe (memUnit (if ps then .psum else .scratch)) stPoison c (some n) (dieOfCore c)
      (if ps then (o - 16384) / 10 * 16 else o - 98304) [BitVec.ofNat 8 (w.core c).phys, 0xFF]) w

/-- Core index j restored. A block whose error this read finds has its one record from the read (R326, R295). -/
def World.restoreCore (w : World) (n j c : Nat) : World :=
  let a := coreImageBase n j
  let bad := w.badBlocks (a + 16384) 475136
  let w := w.readRange (some n) a 491520
  let x := w.ctx n
  let held : Option HeldCore := (x.held.find? fun e => e.1 == j).map (·.2)
  let k := (w.core c).ofImage w.hbm.mem a (w.hbmRange a 6656) (w.hbmRange (a + 8192) 4872) held x.tail w.free
  ({ w.setCore c k with free := w.free + 32 }).restorePoison n c a bad

/-- The control state that step 2 reads: ranges of the slot. -/
def controlRanges (n : Nat) (r : Resid) : List (Nat × Nat) :=
  (slotBase n, 128) :: (statBase n 0, 0x140000) :: (predBase n 0, 0x4000) :: (dmaImageBase n, 2048 * r.count)
    :: (List.range r.cores).map fun j => (coreImageBase n j, 6656)

/-- Address of a ring slot (R286). -/
def ringAddr (r : Resid) (j idx : Nat) : Nat := r.ring + (if r.perCore then j * 64 * 2 ^ r.rlog else 0) + 64 * (idx % 2 ^ r.rlog)

/-- Translations of step 3: source 5, the access code and the number reported; a restore's checks are stamped by I/O die 0 (R420). -/
def World.checkPage (w : World) (n k root va : Nat) (wr : Bool) (access num : Nat) : Option Nat × World :=
  let x := (w.walker k).xlate w.hbm.mem root n va wr
  let w1 := w.putWalker k n x.2
  if World.busMet w w1 then (some stBusError, w1)
  else
    match x.1 with
    | .ok _ => (none, w1)
    | .error f => (some f.status, w1.reportFault n va f ⟨access, 5, num, dieNone⟩)

/-- Step 3: the ring page of each core's next index, the completion ring's page and the index word's. -/
def World.checkRings (w : World) (n : Nat) (r : Resid) : Option Nat × World :=
  let one (a : Option Nat × World) (f : World → Option Nat × World) : Option Nat × World := match a.1 with | some _ => a | none => f a.2
  let cores := (List.range r.cores).foldl (fun a j =>
    one a fun w =>
      let idx := leNat (w.hbmBytes (coreImageBase n j + 8) 4)
      w.checkPage n (r.first + j / 16) r.root (ringAddr r j idx) false 2 (r.core0 + j)) (none, w)
  let ring := one cores fun w => w.checkPage n r.first r.root (r.comp + 16 * ((w.ctx n).prod % 2 ^ r.clog)) true 3 r.core0
  one ring fun w => w.checkPage n r.first r.root r.compIdx true 3 r.core0

/-- A restore that fails (R295). -/
def State.restoreFail (s : State) (n st : Nat) : State :=
  let w := s.w.clearGroup (s.ent n)
  let w := { w with ctxCtr := { w.ctxCtr with restFailed := bump 64 w.ctxCtr.restFailed 1 } }
  let s := (s.withW w).ctxTo n .saved .stay
  (s.withW (s.w.resolve (.ctx n) st [])).unparked

/-- Every core of a resident context seeded (R247, R248). -/
def World.seedCores (w : World) (n : Nat) (r : Resid) (epoch : Nat) : World :=
  let x := w.ctx n
  let w := (List.range r.cores).foldl (fun w j =>
    let c := r.core0 + j
    w.setCore c { w.core c with stream := seedStream x.seed epoch j }) w
  { w.setCtx n { x with epoch } with nums := { w.nums with seedings := bump 64 w.nums.seedings r.cores } }

/-- Reseeding under R250. -/
def World.reseed (w : World) (n : Nat) (r : Resid) : World :=
  let step := (w.ctx n).step
  let w := w.seedCores n r step
  let w := { w with nums := { w.nums with reseeds := bump 64 w.nums.reseeds 1 } }
  w.event 0x0105 (0x3F00 + n) 3 dieNone (some n) stOk (leBytes 4 step)

/-- The channels of a context loaded from their images, with what was kept beside them; one saved halted on a fault raises its event again
(R296). -/
def World.restoreChans (w : World) (n : Nat) (r : Resid) : World :=
  (List.range (8 * r.count)).foldl (fun w i =>
    let d := 8 * r.first + i
    let c := Chan.ofImage (w.hbmRange (dmaImageBase n + 256 * i) 256) r.core0 (w.chan d)
    let c := { c with poisoned := decide (i ∈ (w.ctx n).heldPoison), nextDesc := ((w.ctx n).heldNext.find? fun x => x.1 == i).map (·.2) }
    let w := w.setChan d c
    if c.st = .halted ∧ c.latKind ≠ 0 then w.chanEvent n d c c.latStatus else w) w

/-- The channels that were saved while RUNNING go on from their pause (R296, R301), each with its event (R317; DEDUCED, log entry 148). -/
def World.goChans (w : World) (n : Nat) (r : Resid) : World :=
  r.chans.foldl (fun w d => let c := w.chan d; if c.st = .running then w.chanEvent n d c c.lastStatus else w) w

/-- The bytes that a restore reads of a slot (R294): its ranges of step 2, then each core's image. -/
def restoreRanges (n : Nat) (r : Resid) : List (Nat × Nat) :=
  controlRanges n r ++ (List.range r.cores).map fun j => (coreImageBase n j, 491520)

/-- CONTEXT_RESTORE. A read that fails on the bus ends it with `ST_BUS_ERROR` (R330; DEDUCED, log entry 64). -/
def execContextRestore (n : CtxId) (s : State) : Out :=
  let r := s.ent n
  if s.ctl.part = .ready ∧ r.st = .restoring ∧ s.w.groupRuns r = true then
    let w := (controlRanges n r).foldl (fun w x => w.readRange (some n) x.1 x.2) s.w
    let h := w.hbmRange (slotBase n) 64
    let bad := (controlRanges n r).flatMap fun x => w.badBlocks x.1 x.2
    let alien := le h 2 2 != laneCount
    let lost := ((restoreRanges n r).flatMap fun x => s.w.busRange x.1 x.2).foldl (fun l b => insertNat b l) []
    if lost.isEmpty = false then .next ((s.withW (s.w.meetBus (some n) lost)).restoreFail n stBusError)
    else if le h 0 2 ≠ 1 ∨ le h 4 2 ≠ r.cores then .next ((s.withW w).restoreFail n stState)
    else if alien = true ∧ bit (le h 6 1) 0 = false then .next ((s.withW w).restoreFail n stLaneMismatch)
    else
      match bad with
      | b :: _ =>
        let fresh := decide (b ∈ s.w.hbm.mem.marks)
        let p := 64 * b
        let w := if fresh then w.raise clsUe uHbm stPoison (stackOf p) (some n) (dieOfStack (stackOf p)) p
            [BitVec.ofNat 8 (chanOf p).1, BitVec.ofNat 8 (chanOf p).2, 0] else w
        .next ((s.withW w).restoreFail n stPoison)
      | [] =>
        match w.checkRings n r with
        | (some st, w) => .next ((s.withW w).restoreFail n st)
        | (none, w) =>
          let w := (List.range r.cores).foldl (fun w j => w.restoreCore n j (r.core0 + j)) w
          let w := w.restoreChans n r
          let x := w.ctx n
          let w := w.setCtx n { x with held := [], heldPoison := [], heldNext := [], lanes := laneCount, epoch := (w.core r.core0).stream.epoch }
          let w := if alien then w.reseed n r else w
          let w := { w with ctxCtr := { w.ctxCtr with restores := bump 64 w.ctxCtr.restores 1 } }
          let s := (s.withW w).ctxTo n .resident .stay
          let s := s.withW (s.w.goChans n r)
          let s := (s.withW (s.w.resolve (.ctx n) stOk [])).unparked
          .next (if (s.w.ctx n).hold = 1 then s.startSave n .stay else s)
  else .next s

/-! ## Object writes of a context -/

/-- Whether a context stands on its cores: it is resident, or on its way out. -/
def Resid.onCores (r : Resid) : Bool := r.st == .resident || r.st == .saving

/-- Whether a core of a context is RUNNING (R242, R255, R274). -/
def State.ctxRuns (s : State) (n : Nat) : Bool :=
  let r := s.ent n
  r.onCores && r.coreList.any fun c => (s.w.core c).state == .running

/-- The effect of a doorbell write (R286). -/
def doorbellFx (s : State) (n : Nat) (v : List Byte) : Fx :=
  let r := s.ent n
  let x := s.w.ctx n
  match uintOf 4 v with
  | none => .refuse s stState
  | some t =>
    if r.st = .absent ∨ 2 ^ r.rlog < sub32 t x.tail then .refuse s stState
    else
      let w := s.w.setCtx n { x with tail := t }
      match r.st with
      | .saved => { s := (s.withW w).putHeader n }
      | .resident => .world s (if t = x.tail then w else w.wakeGroup r)
      | _ => .world s w

/-- The effect of an invalidation request (R281). -/
def invalidateFx (s : State) (n : Nat) (v : List Byte) : Fx :=
  let x := s.w.ctx n
  if (s.ent n).st = .absent ∨ v.length ≠ 16 ∨ le v 0 8 % 65536 ≠ 0 ∨ allZero (sl v 12 4) = false then .refuse s stState
  else .world s (s.w.setCtx n { x with invq := x.invq ++ [v] })

/-- Whether a cached entry of context n overlaps the range of a request. -/
def TlbEntry.dropped (t : TlbEntry) (n : Nat) (q : List Byte) : Bool :=
  let lo := le q 0 8
  let len := le q 8 4
  t.ctx == n && (len == 0 || (decide (lo < t.va + t.size) && decide (t.va < lo + 65536 * len)))

/-- Every TLB and walk cache without the entries of a request. -/
def World.dropTlb (w : World) (n : Nat) (q : List Byte) : World :=
  let keep (l : List TlbEntry) : List TlbEntry := l.filter fun t => !t.dropped n q
  { w with
    clusters := w.clusters.map fun e => (e.1, { e.2 with tlb := keep e.2.tlb, walks := keep e.2.walks })
    ports := w.ports.map fun e => (e.1, { e.2 with tlb := keep e.2.tlb, walks := keep e.2.walks }) }

/-- Whether a collective of the context still uses a page of a request's range. -/
def World.pageInUse (w : World) (r : Resid) (q : List Byte) : Bool :=
  let lo := le q 0 8 / 65536
  let len := le q 8 4
  w.collsOpen.any fun x =>
    (match x.core with | some c => decide (r.core0 ≤ c) && decide (c < r.core0 + r.cores) | none => false)
      && x.pages.any fun p => len == 0 || (decide (lo ≤ p.1) && decide (p.1 < lo + len))

/-- TLB_INVALIDATE_COMPLETE (R281): the oldest request of a context. -/
def execTlbInvalidateComplete (n : CtxId) (s : State) : Out :=
  let x := s.w.ctx n
  match x.invq with
  | [] => .next s
  | q :: rest =>
    if s.w.pageInUse (s.ent n) q then .next s
    else
      let done := bump 32 x.invDone 1
      let w := (s.w.dropTlb n q).setCtx n { x with invq := rest, invDone := done }
      .next (s.withW (w.event 0x0103 (0x3100 + n) 0x0B dieNone (some n) stOk (leBytes 4 done)))

/-- Seeding at an epoch (R248, R255): on the cores that the context stands on, else in its images, which then have this part's lane count (DEDUCED, log
entry 149). -/
def State.seedAt (s : State) (n epoch : Nat) : State :=
  let r := s.ent n
  if r.onCores then s.withW (s.w.seedCores n r epoch)
  else
    let x := s.w.ctx n
    let w := (List.range r.cores).foldl (fun w j => w.hbmPut (coreImageBase n j + 8192) (seedStream x.seed epoch j).image) s.w
    let w := { w.setCtx n { x with epoch, lanes := laneCount } with nums := { w.nums with seedings := bump 64 w.nums.seedings r.cores } }
    (s.withW w).putHeader n

/-- The effect of a write of the seed object. -/
def seedFx (s : State) (n : Nat) (v : List Byte) : Fx :=
  match uintOf 8 v with
  | none => .refuse s stState
  | some k =>
    if (s.ent n).st = .absent then .refuse s stState
    else if s.ctxRuns n then .refuse s stBusy
    else
      let x := s.w.ctx n
      { s := (s.withW (s.w.setCtx n { x with seed := BitVec.ofNat 64 k })).seedAt n 0 }

/-- The effect of a write of the reseed object. -/
def reseedFx (s : State) (n : Nat) (v : List Byte) : Fx :=
  match uintOf 4 v with
  | none => .refuse s stState
  | some e =>
    if (s.ent n).st = .absent then .refuse s stState
    else if s.ctxRuns n then .refuse s stBusy
    else { s := s.seedAt n e }

/-- Whether a predictor slot keeps R232. -/
def predSlotOk (b : List Byte) : Bool :=
  let fin (off : Nat) : Bool := match decElem 0 (le b off 4) with | .fin _ => true | _ => false
  let d := le b 24 2
  fin 0 && fin 8 && fin 12 && !(decElem 0 (le b 20 4)).lt (decElem 0 (le b 16 4))
    && (d == 0 || decide (d ∈ (List.range 11).map (2 ^ ·))) && fld (le b 26 2) 15 1 == 0 && allZero (sl b 60 4)

/-- The effect of a write of the predictor slots (R242). -/
def predictorSlotsFx (s : State) (n : Nat) (v : List Byte) : Fx :=
  if (s.ent n).st = .absent then .refuse s stState
  else if s.ctxRuns n then .refuse s stBusy
  else if v.length ≠ 16384 ∨ ((List.range 256).all fun i => predSlotOk (sl v (64 * i) 64)) = false then .refuse s stState
  else .world s (s.w.hbmPut (predBase n 0) v)

/-- Byte offsets of a core image that hold something (R289, R290); the others are reserved. -/
def imageNamed (o : Nat) : Bool :=
  if o < 512 then decide (o < 5) || (decide (6 ≤ o) && decide (o < 17)) || (decide (64 ≤ o) && decide (o < 448))
  else if o < 6656 then
    let b := (o - 512) % 384
    decide (b < 66) || (decide (72 ≤ b) && decide (b < 106)) || (decide (112 ≤ b) && decide (b < 120)) || decide (128 ≤ b)
  else (decide (8192 ≤ o) && decide (o < 13064)) || decide (16384 ≤ o)

/-- Byte offsets of a context record that hold something (R288, R289, R53, R232, R316); the others read zero (R7), those between the configuration and
the statistics slots too (DEDUCED, log entry 149). -/
def slotNamed (cores count a : Nat) : Bool :=
  if a < 0x1000 then decide (a < 7) || (decide (8 ≤ a) && decide (a < 44)) || (decide (64 ≤ a) && decide (a < 128))
  else if a < 0x141000 then
    let b := (a - 0x1000) % 320
    decide (b < 17) || decide (64 ≤ b)
  else if a < 0x145000 then decide ((a - 0x141000) % 64 < 60)
  else if a < 0x165000 then
    let b := (a - 0x145000) % 256
    decide (a < 0x145000 + 2048 * count) && b != 1 && !(decide (50 ≤ b) && decide (b < 64)) && decide (b < 128)
  else decide (0x2000000 ≤ a) && decide (a < 0x2000000 + 491520 * cores) && imageNamed ((a - 0x2000000) % 491520)

/-- The effect of an import (R298): slot and configuration replaced whole; the hold returns to 0 (R478). Bytes of the image that
are not listed are zero, and reserved ones are not kept (R7). The epoch of the last seeding is that of the images. -/
def importFx (s : State) (n : Nat) (image : List (Nat × Byte)) : Fx :=
  if (s.ent n).st = .absent then .refuse s stState
  else if (s.ent n).st ≠ .saved ∨ (s.w.ctx n).rst.busy = true then .refuse s stBusy
  else
    let cells := (image.filter fun c => decide (c.1 < 0x20000000)).foldl (fun m c => Cells.set m c.1 c.2) []
    let h := cellRun (cells.filter fun c => decide (c.1 < 128)) 0 128
    let cfg := sl h 64 64
    if le h 0 2 ≠ 1 ∨ cfgOk cfg = false ∨ le h 4 2 ≠ 16 * le cfg 1 1 then .refuse s stState
    else
      let count := le cfg 1 1
      let flag (c : Host.Cell) : Host.Cell :=
        if c.1 = 6 then (6, c.2 &&& 1)
        else if c.1 < 0x141000 ∨ 0x145000 ≤ c.1 then c
        else if (c.1 - 0x141000) % 64 = 26 then (c.1, c.2 &&& 1)
        else if (c.1 - 0x141000) % 64 = 27 then (c.1, 0) else c
      let kept := ((cells.filter fun c => slotNamed (16 * count) count c.1).map flag).filter fun c => c.2 != 0
      let w := s.w.blit (slotBase n) 0x20000000 (kept.map fun c => (c.1 + slotBase n, c.2)) []
      let x := w.ctx n
      let w := w.setCtx n { x.ofHeader h with
        hold := 0, held := [], heldPoison := [], heldNext := [], epoch := leNat (w.hbmBytes (coreImageBase n 0 + 8196) 4) }
      { s := (s.withW w).setEnt n { s.ent n with cfg } }

/-- The record of a SAVED context as an export reads it (R288, R298): its slot. -/
def State.exportByte (s : State) (n a : Nat) : Byte := Cells.get s.w.hbm.mem.cells (slotBase n + a)

/-- The effect of a configuration write (R284). What stands in reserved bytes is refused at CREATE and reads zero (R7). -/
def configFx (s : State) (n : Nat) (v : List Byte) : Fx :=
  if (s.ent n).st ≠ .absent then .refuse s stBusy
  else if v.length ≠ 64 then .refuse s stState
  else { s := s.setEnt n { s.ent n with cfg := v } }

/-! ## Killing a context (R478) -/

/-- A context killed: pre-empted if RESIDENT, its hold KILLED. One being restored is pre-empted when it is RESIDENT. -/
def State.kill (s : State) (n : Nat) : State :=
  let t := if (s.ent n).st = .resident then s.startSave n .stay else s
  if (s.ent n).st = .absent then t else t.withW (t.w.setCtx n { t.w.ctx n with hold := 1 })

end Sys2Proof.Machine
end

