-- ==== Sys2Proof/Machine/Checkpoint.lean ====
section
/-! DEFINITION. Buddy checkpoints and their restore (R497–R507, R510): tables, reading, sending, the buddy's image, PULL, transfer. -/
namespace Sys2Proof.Machine

/-! ## Tables (R499) -/

/-- Entries of a table. -/
def ckEntries (t : List Byte) : List (Nat × List Byte) := (List.range (t.length / 32)).map fun i => (i, sl t (32 * i) 32)
/-- Regions that a Weight Store entry names. -/
def ceRegions (b : List Byte) : List Nat := (List.range 32).filter (bit (le b 8 4))
/-- Granules of an entry. -/
def ceCount (b : List Byte) : Nat := if le b 16 1 = 0 then le b 8 8 / 65536 else (ceRegions b).length
/-- Whether an entry keeps R499 for a group of so many cores. -/
def ceOk (cores : Nat) (b : List Byte) : Bool :=
  decide (le b 17 1 ≤ 2)
    && (if le b 16 1 = 0 then le b 0 8 % 65536 == 0 && le b 8 8 % 65536 == 0 && decide (le b 0 8 + le b 8 8 ≤ 2 ^ 48)
        else le b 16 1 == 1 && decide (le b 0 8 < cores))
/-- An entry as it reads back: its reserved fields are zero (R7, R499). -/
def ceRead (b : List Byte) : List Byte :=
  (if le b 16 1 = 0 then sl b 0 16 else leBytes 8 (le b 0 2 % 1024) ++ leBytes 8 (le b 8 4)) ++ sl b 16 2 ++ leBytes 14 0
/-- Bytes of a state block (R499): slot up to the predictor slots, one stream image per core. -/
def stateBytes (cores : Nat) : Nat := 0x145000 + 4872 * cores
/-- Whether a table keeps R499. -/
def tableOk (cores : Nat) (t : List Byte) : Bool :=
  t.length % 32 == 0 && decide (32 ≤ t.length) && decide (t.length ≤ 32768) && (ckEntries t).all (fun e => ceOk cores e.2)
    && decide (stateBytes cores + 65536 * sumN ((ckEntries t).map fun e => ceCount e.2) ≤ 2 ^ 35)

/-- Table entry number that stands for the state block (R504). -/
abbrev ceState : Nat := 0xFFFFFFFF
/-- Granule numbers that stand for the control messages in an ANSWER (DESIGN CHOICE, log entry 37). -/
abbrev gBegin : Nat := 0xFFFFFFFF
abbrev gEnd : Nat := 0xFFFFFFFE

/-- Whether a checkpoint is in progress at its source. -/
def Ckpt.busy (k : Ckpt) : Bool :=
  match k.st with
  | .reading => true
  | .sending => true
  | .committing => true
  | _ => false
/-- The interval K. -/
def Ckpt.interval (k : Ckpt) : Nat := le k.cfg 0 4
/-- The state outside a checkpoint. -/
def Ckpt.rest (k : Ckpt) : CkptSt := if k.interval = 0 then .off else .idle

/-- A byte string cut into pieces of 64 KiB. -/
def piecesOf (bs : List Byte) : List (Nat × List Byte) :=
  (List.range (cdiv bs.length 65536)).map fun i => (i, (bs.drop (65536 * i)).take 65536)

/-! ## The Buddy Checkpoint Area (R324, R498) -/

/-- First bytes of the image, of inbound and of outbound staging. -/
abbrev imageBase : Nat := 0xE000000000
abbrev inboundBase : Nat := 0xF000000000
abbrev outboundBase : Nat := 0xF800000000
/-- Places of 64 KiB in a staging area. -/
abbrev stagePlaces : Nat := 0x80000

/-- Whether a piece number is one of the state block's, or of a table entry's granules. -/
def ckNamed (t : List Byte) (entry gran : Nat) : Bool :=
  if entry = ceState then decide (gran < 128) else (ckEntries t).any fun e => e.1 == entry && decide (gran < ceCount e.2)

/-- The place of a piece in the image: the state block first, then the entries in table order (DESIGN CHOICE, log entry 146). -/
def ckPlace (t : List Byte) (entry gran : Nat) : Nat :=
  if entry = ceState then gran else 128 + sumN (((ckEntries t).take entry).map fun e => ceCount e.2) + gran

/-- Where the granule CRCs of a context's last committed checkpoint stand: 8 bytes a granule, in the last 2 GiB of outbound staging (R498; DESIGN CHOICE,
log entry 146). -/
def crcBase (n : Nat) : Nat := 0xFF80000000 + 0x800000 * n

/-- The granule CRCs of a commit written into outbound staging, in whole blocks. -/
def World.putCrcs (w : World) (n : Nat) (l : List GranCrc) : World :=
  w.blit (crcBase n) (alignUp (8 * l.length) 64) (cellsOf (crcBase n) (l.flatMap fun x => leBytes 8 x.crc.toNat)) []

/-- The granule CRCs of the last commit read back: one that the bus or a poisoned block keeps back is unknown, and its granule is sent. -/
def World.getCrcs (w : World) (n : Nat) (l : List GranCrc) : World × List GranCrc :=
  let len := alignUp (8 * l.length) 64
  let lost := w.busRange (crcBase n) len
  let w := (w.meetBus (some n) lost).readRange (some n) (crcBase n) len
  let bad := lost ++ w.badBlocks (crcBase n) len
  (w, (l.zipIdx.filter fun x => !decide ((crcBase n + 8 * x.2) / 64 ∈ bad)).map (·.1))

/-- A piece written into an area, in whole blocks. -/
def World.putPiece (w : World) (base : Nat) (p : CkPiece) (data : List Byte) (bad : List Nat) : World :=
  let a := base + 65536 * p.place
  w.blit a (alignUp p.len 64) (cellsOf a data) (bad.map (· + a / 64))

/-- A piece read from an area: the world, its bytes, its blocks that carry poison marking. -/
def World.getPiece (w : World) (base : Nat) (p : CkPiece) : World × List Byte × List Nat :=
  let a := base + 65536 * p.place
  let n := alignUp p.len 64
  let w := (w.meetBus none (w.busRange a n)).readRange none a n
  (w, w.hbmRange a p.len, (w.badBlocks a n).map (· - a / 64))

/-- A piece staged for its way out: at the first place after every piece staged (DESIGN CHOICE, log entry 146). -/
def World.stagePiece (w : World) (n entry gran : Nat) (data : List Byte) (bad : List Nat) : World :=
  let place := (w.ctxs.flatMap fun e => e.2.ck.staged).foldl (fun m p => max m (p.place + 1)) 0 % stagePlaces
  let p : CkPiece := { entry, gran, place, len := data.length, crc := crc64 data }
  let w := w.putPiece outboundBase p data bad
  let x := w.ctx n
  w.setCtx n { x with ck := { x.ck with staged := x.ck.staged ++ [p] } }

/-- The state block of a context (R499). -/
def State.stateBlock (s : State) (n : Nat) : List Byte :=
  let r := s.ent n
  let live := r.st == .resident || r.st == .saving
  (s.w.ctx n).header r.cores ++ sl r.cfg 0 64 ++ leBytes 3968 0 ++ s.w.hbmRange (statBase n 0) 0x140000 ++ s.w.hbmRange (predBase n 0) 0x4000
    ++ (List.range r.cores).flatMap fun j =>
      if live then (s.w.core (r.core0 + j)).stream.image else s.w.hbmRange (coreImageBase n j + 8192) 4872

/-- Where in HBM a state block stands, and at which of its bytes each run begins. -/
def State.stateRuns (s : State) (n : Nat) : List (Nat × Nat × Nat) :=
  let r := s.ent n
  let live := r.st == .resident || r.st == .saving
  (statBase n 0, 0x140000, 0x1000) :: (predBase n 0, 0x4000, 0x141000)
    :: if live then [] else (List.range r.cores).map fun j => (coreImageBase n j + 8192, 4872, 0x145000 + 4872 * j)

/-- The reads of HBM that a state block takes: errors met, blocks that fail on the bus too (R326, R330). -/
def State.stateReads (s : State) (n : Nat) (w : World) : World :=
  (s.stateRuns n).foldl (fun w x =>
    let len := alignUp x.2.1 64
    (w.meetBus (some n) (w.busRange x.1 len)).readRange (some n) x.1 len) w

/-- The 64-byte blocks of a state block that hold a byte read with the poison tag. -/
def State.stateBad (s : State) (n : Nat) (w : World) : List Nat :=
  (s.stateRuns n).flatMap fun x => (w.badBlocks x.1 (alignUp x.2.1 64)).flatMap fun b =>
    wordsOf 64 (x.2.2 + (64 * b - x.1)) (min 64 (x.2.1 - (64 * b - x.1)))

/-! ## Messages -/

/-- A message to a direct peer: number `i` of a transfer goes on one of the UP links to it. -/
def World.ckptSend (w : World) (rank i op : Nat) (k : CkptHdr) (data : List Byte) : World :=
  let ls := w.directLinks rank
  match ls[i % ls.length]? with
  | some l => w.sendLink l rank (.ckpt op k data)
  | none => w

/-- An answer (R504). -/
def World.ckptAnswer (w : World) (rank answer ctx step entry granule : Nat) : World :=
  w.ckptSend rank 0 5 { answer, ctx, step, entry, granule, crc := 0 } []

/-- One piece or granule of a transfer, read from its area, with the CRC that it travels with (R500). -/
def World.ckptPiece (w : World) (base rank ctx step : Nat) (p : CkPiece) : World :=
  let x := w.getPiece base p
  x.1.ckptSend rank p.gran (if p.entry = ceState then 1 else 2) { answer := 0, ctx, step, entry := p.entry, granule := p.gran, crc := p.crc } x.2.1

/-- BEGIN with a table. -/
def World.ckptBegin (w : World) (rank ctx step : Nat) (table : List Byte) : World :=
  w.ckptSend rank 0 0 { answer := 0, ctx, step, entry := ceState, granule := gBegin, crc := crc64 table } table

/-- END. -/
def World.ckptEnd (w : World) (rank ctx step : Nat) : World :=
  w.ckptSend rank 0 3 { answer := 0, ctx, step, entry := ceState, granule := gEnd, crc := crc64 [] } []

/-- REPLAY with a replay value. -/
def World.ckptValue (w : World) (rank ctx step : Nat) (value : List Byte) : World :=
  w.ckptSend rank 0 4 { answer := 0, ctx, step, entry := ceState, granule := gBegin, crc := crc64 value } value

/-- A record of unit 21 (R480). -/
def World.ckptRecord (w : World) (n status rank answer : Nat) : World :=
  w.raise clsCe uCkpt status n (some n) dieNone 0 (leBytes 2 rank ++ leBytes 2 answer)

/-! ## The source part (R501, R503) -/

/-- Dirty bits taken by a checkpoint set again. -/
def World.dirtyBack (w : World) (taken : List (Nat × Nat)) : World :=
  taken.foldl (fun w x => let k := w.core x.1; w.setCore x.1 { k with dirty := k.dirty ||| BitVec.ofNat 32 x.2 }) w

/-- A checkpoint abandoned (R503). -/
def World.ckptAbandon (w : World) (n : Nat) : World :=
  let x := w.ctx n
  if x.ck.busy then
    (w.setCtx n { x with ck := { x.ck with st := x.ck.rest, staged := [], taken := [], crcs := [], begun := false, ending := false
                                           abandoned := bump 32 x.ck.abandoned 1 } }).dirtyBack x.ck.taken
  else w

/-- What DESTROY does to a checkpoint (R503): abandoned, and the buddy told. -/
def ckptDestroy (s : State) (n : Nat) : State :=
  let k := (s.w.ctx n).ck
  if k.busy then s.withW ((s.w.ckptAnswer s.w.buddy.buddy 2 n k.step ceState gBegin).ckptAbandon n) else s

/-- Dirty bits of the named regions taken and cleared at one instant (R419, R501). -/
def World.takeDirty (w : World) (r : Resid) (t : List Byte) : World × List (Nat × Nat) :=
  (ckEntries t).foldl (fun a e =>
    if le e.2 16 1 = 1 then
      let c := r.core0 + le e.2 0 8
      let k := a.1.core c
      let m := BitVec.ofNat 32 (le e.2 8 4)
      (a.1.setCore c { k with dirty := k.dirty &&& ~~~m }, a.2 ++ [(c, (k.dirty &&& m).toNat)])
    else a) (w, [])

/-- The changed fraction c of an entry (R500): 1 until two checkpoints have committed. -/
def Ckpt.changed (k : Ckpt) (i : Nat) : Rat := match k.methods[i]? with | some m => m.2 | none => 1

/-- The method of an entry at this checkpoint (R500): 1 MIRROR, 2 DELTA. -/
def Ckpt.method (k : Ckpt) (i : Nat) (e : List Byte) : Nat :=
  if le e 17 1 ≠ 0 then le e 17 1
  else if decide (1024 < ceCount e) && Rat.blt (k.changed i) (mkRat 1 2) then 2 else 1

/-- The start of a checkpoint at the step that a context has advanced to (R501): skipped, or READING. -/
def State.ckptStart (s : State) (n : Nat) : State :=
  let x := s.w.ctx n
  let k := x.ck
  let b := s.w.buddy.buddy
  if k.interval = 0 ∨ x.step % k.interval ≠ 0 then s
  else if k.busy = true ∨ b = 0xFFFF ∨ b ∈ s.w.seam.lost ∨ (s.w.directLinks b).isEmpty = true then
    s.withW ((s.w.setCtx n { x with ck := { k with skipped := bump 32 k.skipped 1 } }).ckptRecord n stOk b 0)
  else
    let t := s.w.takeDirty (s.ent n) k.table
    let x := t.1.ctx n
    let methods := (ckEntries k.table).map fun e => (k.method e.1 e.2, k.changed e.1)
    let w := t.1.setCtx n { x with ck := { k with st := .reading, step := x.step, staged := [], taken := t.2, begun := false, ending := false, methods } }
    let w := s.stateReads n w
    if World.busMet s.w w then s.withW ((w.ckptAbandon n).ckptRecord n stBusError b 0)
    else
      let bad := s.stateBad n w
      s.withW ((piecesOf (s.stateBlock n)).foldl (fun w p =>
        w.stagePiece n ceState p.1 p.2 ((bad.filter fun k => k / 1024 == p.1).map (· % 1024))) w)

/-- The replay value read and sent at the first STEP after a commit (R501); nothing is sent where the read fails. -/
def State.ckptReplay (s : State) (n : Nat) : State :=
  let x := s.w.ctx n
  let k := x.ck
  let r := s.ent n
  let va := le k.cfg 8 8
  if k.replayDue = false then s
  else
    let w := s.w.setCtx n { x with ck := { k with replayDue := false } }
    match (w.walker r.first).xlate w.hbm.mem r.root n va false with
    | (.error f, y) => s.withW ((w.putWalker r.first n y).reportFault n va f ⟨0, 0, r.core0, dieNone⟩)
    | (.ok pa, y) =>
      let w := ((w.putWalker r.first n y).meetBus (some n) [pa / 64]).readBlocks (some n) [pa / 64]
      s.withW (if World.busMet s.w w then w else w.ckptValue w.buddy.buddy n k.lastStep (w.hbmBytes pa 64))

/-- A granule read (R501): its bytes and its poisoned blocks, or the status that ends the reading: a fault, a failure on the bus (R330), a Weight Store
that is switched off (R109). -/
def State.readGranule (s : State) (n : Nat) (e : List Byte) (g : Nat) : Except Nat (List Byte × List Nat) × State :=
  let r := s.ent n
  if le e 16 1 = 0 then
    let va := le e 0 8 + 65536 * g
    match (s.w.walker r.first).xlate s.w.hbm.mem r.root n va false with
    | (.error f, y) => (.error f.status, s.withW ((s.w.putWalker r.first n y).reportFault n va f ⟨0, 0, r.core0, dieNone⟩))
    | (.ok pa, y) =>
      let w := ((s.w.putWalker r.first n y).meetBus (some n) (s.w.busRange pa 65536)).readRange (some n) pa 65536
      if World.busMet s.w w then (.error stBusError, s.withW w)
      else (.ok (w.hbmRange pa 65536, (w.badBlocks pa 65536).map (· - pa / 64)), s.withW w)
  else
    let c := r.core0 + le e 0 8
    if (s.w.cluster (c / 16)).power = .off then (.error stState, s)
    else
      let i := nth (ceRegions e) g
      let here (k : Nat) : Bool := decide (4096 * i ≤ k) && decide (k < 4096 * (i + 1))
      let w := s.w.touch c (some n) .weight (((s.w.core c).ws.upsets.map (·.1)).filter here)
      let a := 65536 * i
      let m := (w.core c).ws
      (.ok (cellRun (m.cells.filter fun x => decide (a ≤ x.1) && decide (x.1 < a + 65536)) a 65536,
        (m.marks.filter here).foldl (fun l k => insertNat (k / 4 - 1024 * i) l) []), s.withW w)

/-- The CRC that the baseline holds for a granule. -/
def baseCrc (l : List GranCrc) (i g : Nat) : Option Word := (l.find? fun x => x.entry == i && x.gran == g).map (·.crc)

/-- What READING collects. -/
structure CkRead where
  s : State
  crcs : List GranCrc := []
  sent : Nat := 0
  fault : Option Nat := none

/-- One granule of an entry read, or left where its baseline still holds (R501). -/
def CkRead.granule (a : CkRead) (n : Nat) (k : Ckpt) (i : Nat) (e : List Byte) (g : Nat) : CkRead :=
  match a.fault with
  | some _ => a
  | none =>
    let c := (a.s.ent n).core0 + le e 0 8
    let dirty := le e 16 1 == 0 || k.taken.any fun t => t.1 == c && bit t.2 (nth (ceRegions e) g)
    let old := if k.valid then baseCrc k.baseline i g else none
    match old, k.method i e == 2 && !dirty with
    | some crc, true => { a with crcs := a.crcs ++ [{ entry := i, gran := g, crc }] }
    | _, _ =>
      match a.s.readGranule n e g with
      | (.error st, s) => { a with s, fault := some st }
      | (.ok (bs, bad), s) =>
        let crc := crc64 bs
        let out := k.method i e == 1 || old != some crc
        { a with s := if out then s.withW (s.w.stagePiece n i g bs bad) else s
                 crcs := a.crcs ++ [{ entry := i, gran := g, crc }], sent := if out then a.sent + 1 else a.sent }

/-- Clusters whose Weight Stores a table's granules touch and that sleep (R109). -/
def World.sleepers (w : World) (core0 : Nat) (t : List Byte) : List Nat :=
  distinct (((ckEntries t).filter fun e => le e.2 16 1 == 1 && ceCount e.2 != 0 && w.asleep ((core0 + le e.2 0 8) / 16)).map fun e =>
    (core0 + le e.2 0 8) / 16)

/-- The clusters of the STEPs that a checkpoint being read held back asked to wake (R501; DEDUCED, log entry 183). -/
def World.wakeSteps (w : World) (r : Resid) : World :=
  r.coreList.foldl (fun w c =>
    match (w.core c).buf with
    | (_, t) :: _ => if t.op = 0x0C then w.wake (c / 16) else w
    | [] => w) w

/-- CHECKPOINT_READ_DONE (R501): the granules are read, the configured counter is signalled, sending begins with BEGIN. It waits for the clusters that it
reads to wake (R109). A granule whose page faults, or whose read fails, abandons the checkpoint (DEDUCED, log entry 38). -/
def execCheckpointReadDone (n : CtxId) (s : State) : Out :=
  let k := (s.w.ctx n).ck
  let r := s.ent n
  if k.st = .reading ∧ (r.st = .resident ∨ r.st = .saving) ∧ s.ctl.part = .ready then
    if s.w.sleepers r.core0 k.table ≠ [] then .next (s.withW ((s.w.sleepers r.core0 k.table).foldl World.wake s.w)) else
    let old := s.w.getCrcs n (if k.valid then k.baseline else [])
    let k := { k with baseline := old.2 }
    let a := (ckEntries k.table).foldl (fun a e => (List.range (ceCount e.2)).foldl (fun a g => a.granule n k e.1 e.2 g) a) { s := s.withW old.1 : CkRead }
    let w := a.s.w
    let ctr := le k.cfg 4 1
    let w := if ctr = 0xFF then w
      else { w with signals := w.signals ++ [{ src := r.core0, cores := r.coreList, ctr := ctr % 64, inc := 1 }] }
    match a.fault with
    | some st => .next (s.withW (((w.ckptAbandon n).ckptRecord n st s.w.buddy.buddy 0).wakeSteps r))
    | none =>
      let x := w.ctx n
      let w := w.setCtx n { x with ck := { x.ck with st := .sending, crcs := a.crcs, granules := a.sent } }
      .next (s.withW ((w.ckptBegin w.buddy.buddy n k.step k.table).wakeSteps r))
  else .next s

/-- Changed fraction of an entry per step since the last commit (R500). -/
def Ckpt.fraction (k : Ckpt) (i : Nat) (e : List Byte) : Rat :=
  let total := ceCount e
  let changed := ((List.range total).filter fun g => baseCrc k.crcs i g != baseCrc k.baseline i g).length
  if total = 0 then 0 else (changed : Rat) / total / (max 1 (k.step - k.lastStep) : Nat)

/-- A commit at the source (R501). -/
def Ckpt.commit (k : Ckpt) : Ckpt :=
  let methods := (ckEntries k.table).map fun e => (((k.methods[e.1]?).map (·.1)).getD 0, if k.valid then k.fraction e.1 e.2 else (1 : Rat))
  { k with
    st := k.rest, baseline := k.crcs, valid := true, crcs := [], staged := [], taken := [], begun := false, ending := false, lastStep := k.step
    committed := bump 32 k.committed 1, methods, replayDue := le k.cfg 8 8 != 0 }

/-- A context without a baseline: its next checkpoint sends every granule (R501). -/
def World.dropBaseline (w : World) (n : Nat) : World :=
  let x := w.ctx n
  w.setCtx n { x with ck := { x.ck with valid := false, replayDue := false } }

/-- The baselines that a buddy in bring-up or SAFE leaves without an image dropped (R488; DEDUCED from its HEARTBEAT, log entry 157). -/
def World.buddyReset (w : World) (rank state : Nat) : World :=
  if rank = w.buddy.buddy ∧ rank ≠ 0xFFFF ∧ (state = 0 ∨ state = 3) then (w.ctxs.map (·.1)).foldl World.dropBaseline w else w

/-- What of a checkpoint in progress may have been lost on a link to the buddy that went down while others stay: sent again (R501; DEDUCED, log entry 178). -/
def World.ckptAgain (w : World) (n : Nat) : World :=
  let c := (w.ctx n).ck
  let b := w.buddy.buddy
  if c.st = .committing then w.ckptEnd b n c.step
  else if c.st = .sending then
    if c.begun then c.staged.foldl (fun w p => w.ckptPiece outboundBase b n c.step p) w else w.ckptBegin b n c.step c.table
  else w

/-- An answer to a checkpoint of this part (R501, R503). A refusal tells that the buddy holds no image to build on: the next one sends every granule
(DEDUCED, log entry 157). -/
def World.ckptAnswered (w : World) (src : Nat) (k : CkptHdr) : World :=
  let x := w.ctx k.ctx
  let c := x.ck
  if c.busy = false ∨ c.st = .reading ∨ c.step ≠ k.step then w
  else
    match k.answer with
    | 0 =>
      if k.entry = ceState ∧ k.granule = gBegin then
        let w := w.setCtx k.ctx { x with ck := { c with begun := true } }
        if c.begun then w else c.staged.foldl (fun w p => w.ckptPiece outboundBase src k.ctx c.step p) w
      else
        let staged := c.staged.filter fun p => !(p.entry == k.entry && p.gran == k.granule)
        let due := staged.isEmpty && c.begun && !c.ending
        let w := w.setCtx k.ctx { x with ck := { c with staged, st := if due then .committing else c.st, ending := c.ending || due } }
        if due then w.ckptEnd src k.ctx c.step else w
    | 1 =>
      if k.entry = ceState ∧ k.granule = gBegin then w.ckptBegin src k.ctx c.step c.table
      else if k.entry = ceState ∧ k.granule = gEnd then w.ckptEnd src k.ctx c.step
      else match c.staged.find? fun p => p.entry == k.entry && p.gran == k.granule with
        | some p => w.ckptPiece outboundBase src k.ctx c.step p
        | none => w
    | 4 => if c.ending then (w.setCtx k.ctx { x with ck := c.commit }).putCrcs k.ctx c.crcs else w
    | a =>
      let w := (w.ckptAbandon k.ctx).ckptRecord k.ctx (if a = 2 then stDigestMismatch else stState) src a
      if a = 3 then w.dropBaseline k.ctx else w

/-! ## The buddy (R497, R501, R503) -/

/-- Whether a rank is the ward. -/
def World.isWard (w : World) (src : Nat) : Bool := src != 0xFFFF && w.buddy.ward == src

/-- Whether a restore that runs pulls its image from a rank. -/
def Restore.from_ (x : Restore) (src : Nat) : Bool := (x.st == .checking || x.st == .transferring) && x.holder == src
/-- Whether a message names the image that a restore has asked for. -/
def Restore.asked (x : Restore) (k : CkptHdr) : Bool := x.srcCtx == k.ctx && (x.step == 0xFFFFFFFF || x.step == k.step)

/-- The context whose restore a rank's message belongs to: one that asked for what the message names; else, where the rank is not the ward, any that
pulls from it (DESIGN CHOICE, log entry 153). -/
def World.pulling (w : World) (src : Nat) (k : CkptHdr) : Option Nat :=
  ((w.ctxs.find? fun e => e.2.rst.from_ src && (!w.isWard src || e.2.rst.asked k))).map (·.1)

/-- A message that failed its CRC at the buddy: asked for once more, then the checkpoint is refused (R503). -/
def World.inboundBad (w : World) (src : Nat) (k : CkptHdr) (i : CkImage) : World :=
  if (k.entry, k.granule) ∈ i.retried then
    ({ w with buddy := { w.buddy with inbound := none } }).ckptAnswer src 2 k.ctx k.step k.entry k.granule
  else
    ({ w with buddy := { w.buddy with inbound := some { i with retried := (k.entry, k.granule) :: i.retried } } }).ckptAnswer src 1 k.ctx k.step k.entry k.granule

/-- BEGIN of the ward's checkpoint (R501). One of another context in transfer is refused. -/
def World.wardBegin (w : World) (src : Nat) (k : CkptHdr) (table : List Byte) : World :=
  let fresh : CkImage := { ctx := k.ctx, step := k.step, table }
  let busy := match w.buddy.inbound with | some i => i.ctx != k.ctx | none => false
  let again := match w.buddy.inbound with | some i => i.ctx == k.ctx && i.step == k.step && !i.retried.isEmpty | none => false
  if busy then w.ckptAnswer src 3 k.ctx k.step ceState gBegin
  else if crc64 table = k.crc then ({ w with buddy := { w.buddy with inbound := some fresh } }).ckptAnswer src 0 k.ctx k.step ceState gBegin
  else w.inboundBad src { k with entry := ceState, granule := gBegin } (if again then { fresh with retried := [(ceState, gBegin)] } else fresh)

/-- A message of the ward's checkpoint in transfer, by its context and step. -/
def World.inboundOf (w : World) (k : CkptHdr) : Option CkImage :=
  match w.buddy.inbound with
  | some i => if i.ctx = k.ctx ∧ i.step = k.step then some i else none
  | none => none

/-- A piece of the ward's state block, or a granule (R501): into inbound staging, at its place or the next one. One that the table does not name, or
that is too long for its place, is refused (DEDUCED, log entry 146). -/
def World.wardData (w : World) (src : Nat) (k : CkptHdr) (data : List Byte) : World :=
  match w.inboundOf k with
  | none => w.ckptAnswer src 3 k.ctx k.step k.entry k.granule
  | some i =>
    let place := (i.held.findIdx? fun p => p.entry == k.entry && p.gran == k.granule).getD i.held.length
    if crc64 data ≠ k.crc then w.inboundBad src k i
    else if ckNamed i.table k.entry k.granule = false ∨ 65536 < data.length ∨ stagePlaces ≤ place then
      w.ckptAnswer src 3 k.ctx k.step k.entry k.granule
    else
      let p : CkPiece := { entry := k.entry, gran := k.granule, place, len := data.length, crc := k.crc }
      let w := w.putPiece inboundBase p data []
      let i := { i with held := i.held.take place ++ [p] ++ i.held.drop (place + 1) }
      ({ w with buddy := { w.buddy with inbound := some i } }).ckptAnswer src 0 k.ctx k.step k.entry k.granule

/-- An image after a commit, its pieces at their places: those that the checkpoint did not send stay from the image before, if it is of the same
context and table and of this ward without a change between (R501). -/
def CkImage.onto (i : CkImage) (old : Option CkImage) : CkImage :=
  let new := i.held.map fun p => { p with place := ckPlace i.table p.entry p.gran }
  let kept := match old with
    | some o =>
      if o.ctx = i.ctx ∧ o.table = i.table ∧ o.former = false then o.held.filter fun p => !new.any fun q => q.entry == p.entry && q.gran == p.gran
      else []
    | none => []
  { i with retried := [], held := new ++ kept }

/-- Whether an image holds every granule of its table. -/
def CkImage.complete (i : CkImage) : Bool :=
  (ckEntries i.table).all fun e => (List.range (ceCount e.2)).all fun g => i.held.any fun p => p.entry == e.1 && p.gran == g

/-- Inbound staging copied into the image (R501). -/
def World.commitImage (w : World) (i : CkImage) : World :=
  i.held.foldl (fun w p =>
    let x := w.getPiece inboundBase p
    x.1.putPiece imageBase { p with place := ckPlace i.table p.entry p.gran } x.2.1 x.2.2) w

/-- END of the ward's checkpoint (R501). One whose granules do not make a whole image is refused, its staging discarded (DEDUCED, log entry 157). -/
def World.wardEnd (w : World) (src : Nat) (k : CkptHdr) : World :=
  match w.inboundOf k with
  | none => w.ckptAnswer src 3 k.ctx k.step ceState gEnd
  | some i =>
    if (i.onto w.buddy.image).complete = false then
      ({ w with buddy := { w.buddy with inbound := none } }).ckptAnswer src 3 k.ctx k.step ceState gEnd
    else
    let w := w.commitImage i
    ({ w with buddy := { w.buddy with image := some (i.onto w.buddy.image), inbound := none } }).ckptAnswer src 4 k.ctx k.step ceState gEnd

/-- REPLAY of the ward (R501): stored with the image of its step. -/
def World.wardReplay (w : World) (k : CkptHdr) (data : List Byte) : World :=
  match w.buddy.image with
  | some i => if i.ctx = k.ctx ∧ i.step = k.step ∧ crc64 data = k.crc then { w with buddy := { w.buddy with image := some { i with replay := some data } } } else w
  | none => w

/-! ## The image holder of a restore (R506) -/

/-- What reading the whole image meets: a poisoned block, or a piece whose bytes no longer give its CRC. -/
def World.readImage (w : World) (i : CkImage) : World × Option Nat :=
  i.held.foldl (fun x p =>
    let y := x.1.getPiece imageBase p
    let st := if y.2.2.isEmpty = false then some stPoison else if crc64 y.2.1 = p.crc then none else some stDigestMismatch
    (y.1, x.2.or st)) (w, none)

/-- Pieces of an image that go out together: the state block, or the granules of the table's entries. -/
def CkImage.part (i : CkImage) (state : Bool) : List CkPiece := i.held.filter fun p => (p.entry == ceState) == state

/-- PULL: the image is read, and BEGIN sent; a poisoned block of it, or a CRC that differs, refuses the restore. -/
def World.pull (w : World) (src : Nat) (k : CkptHdr) : World :=
  match w.buddy.image with
  | none => w.ckptAnswer src 3 k.ctx k.step ceState gBegin
  | some i =>
    if i.ctx ≠ k.ctx ∨ (k.step ≠ 0xFFFFFFFF ∧ i.step ≠ k.step) then w.ckptAnswer src 3 k.ctx k.step ceState gBegin
    else
      match w.readImage i with
      | (w, some st) => w.ckptAnswer src 2 k.ctx i.step ceState st
      | (w, none) =>
        let left := (ceState, gBegin) :: i.held.map fun (p : CkPiece) => (p.entry, p.gran)
        ({ w with buddy := { w.buddy with out := some { rank := src, left } } }).ckptBegin src i.ctx i.step i.table

/-- How far a pulled image is out: BEGIN, the state block, the granules, all of it. -/
def pullStage (left : List (Nat × Nat)) : Nat :=
  if (ceState, gBegin) ∈ left then 0 else if left.any (·.1 == ceState) then 1 else if left.isEmpty then 3 else 2

/-- What a pulled image sends next: its state block after BEGIN, its granules once the state block is accepted, then the replay value and END
(DESIGN CHOICE, log entry 153). -/
def World.pullNext (w : World) (src : Nat) (i : CkImage) (stage : Nat) : World :=
  match stage with
  | 0 => w
  | 3 =>
    let w := match i.replay with | some v => w.ckptValue src i.ctx i.step v | none => w
    ({ w with buddy := { w.buddy with out := none } }).ckptEnd src i.ctx i.step
  | n => (i.part (n == 1)).foldl (fun w p => w.ckptPiece imageBase src i.ctx i.step p) w

/-- An answer of the part that pulls the image. -/
def World.pullAnswered (w : World) (src : Nat) (k : CkptHdr) (o : PullOut) (i : CkImage) : World :=
  match k.answer with
  | 0 =>
    let left := o.left.filter fun p => !(p.1 == k.entry && p.2 == k.granule)
    let w := { w with buddy := { w.buddy with out := some { o with left } } }
    if pullStage left = pullStage o.left then w else w.pullNext src i (pullStage left)
  | 1 =>
    if k.entry = ceState ∧ k.granule = gBegin then w.ckptBegin src i.ctx i.step i.table
    else match i.held.find? fun p => p.entry == k.entry && p.gran == k.granule with
      | some p => w.ckptPiece imageBase src i.ctx i.step p
      | none => w
  | _ => { w with buddy := { w.buddy with out := none } }

/-! ## The restoring part (R505–R507) -/

/-- A restore that has failed (R506): past CHECKING the context is left with hold RESTORE_INCOMPLETE. -/
def State.pullFail (s : State) (n st : Nat) : State :=
  let x := s.w.ctx n
  s.withW (s.w.setCtx n
    { x with hold := if x.rst.st = .transferring then 2 else x.hold
             rst := { x.rst with st := .failed, status := st, state := [], present := false } })

/-- The bytes of a state block received. -/
def Restore.block (x : Restore) : List Byte := (List.range x.state.length).flatMap fun i => (Tab.get [] x.state i : List Byte)

/-- The first address of each page that the HBM entries of a table name. -/
def tablePages (t : List Byte) : List Nat :=
  (ckEntries t).flatMap fun e => if le e.2 16 1 = 0 then (List.range (ceCount e.2)).map (le e.2 0 8 + 65536 * ·) else []

/-- The checks that end CHECKING once the state block is there: header, lane count, every page; a walk that fails on the bus fails the restore (R330). -/
def State.pullCheck (s : State) (n : Nat) : State :=
  let x := s.w.ctx n
  let r := s.ent n
  let b := x.rst.block
  let alien := le b 2 2 != laneCount
  if le b 4 2 ≠ r.cores ∨ tableOk r.cores x.rst.table = false ∨ (alien = true ∧ bit (le b 6 1) 0 = false) then s.pullFail n stState
  else
    let walk := (s.w.walker r.first).pages s.w.hbm.mem r.root n true (tablePages x.rst.table)
    let w := s.w.putWalker r.first n walk.2
    if World.busMet s.w w then (s.withW w).pullFail n stBusError else
    match walk.1 with
    | .error (va, f) => (s.withW (w.reportFault n va f ⟨1, 5, r.core0, dieNone⟩)).pullFail n f.status
    | .ok _ => s.withW (w.setCtx n { x with rst := { x.rst with st := .transferring } })

/-- A granule written by a restore: into its page, with the invalidation of R18, or into its Weight Store region; or the status that ends the restore:
a fault, reported as those of its check are (R282), a failure on the bus (R330), a Weight Store that is switched off (R109). -/
def State.putGranule (s : State) (n : Nat) (e : List Byte) (g : Nat) (data : List Byte) : Except (Nat × State) State :=
  let r := s.ent n
  if le e 16 1 = 0 then
    let va := le e 0 8 + 65536 * g
    match (s.w.walker r.first).xlate s.w.hbm.mem r.root n va true with
    | (.error f, y) => .error (f.status, s.withW ((s.w.putWalker r.first n y).reportFault n va f ⟨1, 5, r.core0, dieNone⟩))
    | (.ok pa, y) =>
      let w := (s.w.putWalker r.first n y).meetBus (some n) (s.w.busRange pa 65536)
      if World.busMet s.w w then .error (stBusError, s.withW w)
      else
        let w := w.blit pa 65536 (cellsOf pa data) []
        .ok (s.withW ((List.range 256).foldl (fun w i => w.invalidateLine (pa / 256 + i)) w))
  else if (s.w.cluster ((r.core0 + le e 0 8) / 16)).power = .off then .error (stState, s)
  else
    let c := r.core0 + le e 0 8
    let i := nth (ceRegions e) g
    let k := s.w.core c
    let a := 65536 * i
    let out (b : Nat) : Bool := decide (16 * b < a) || decide (a + 65536 ≤ 16 * b)
    let ws : EccMem :=
      { cells := Cells.splice k.ws.cells a (a + 65536) (cellsOf a data), marks := k.ws.marks.filter out
        upsets := k.ws.upsets.filter fun u => out u.1 }
    .ok (s.withW (s.w.setCore c { k with ws }))

/-- A message that failed its CRC at the restoring part: asked for once more, then the restore fails (R506). -/
def State.pullBad (s : State) (src n : Nat) (k : CkptHdr) : State :=
  let x := s.w.ctx n
  if (k.entry, k.granule) ∈ x.rst.retried then
    let s := s.pullFail n stDigestMismatch
    s.withW (s.w.ckptAnswer src 2 k.ctx k.step k.entry k.granule)
  else
    let w := s.w.setCtx n { x with rst := { x.rst with retried := (k.entry, k.granule) :: x.rst.retried } }
    s.withW (w.ckptAnswer src 1 k.ctx k.step k.entry k.granule)

/-- A restore's messages while it runs; an answer goes back to the holder. -/
def State.pullBegin (s : State) (src n : Nat) (k : CkptHdr) (table : List Byte) : State :=
  let x := s.w.ctx n
  if x.rst.st ≠ .checking then s
  else if k.ctx ≠ x.rst.srcCtx ∨ (x.rst.step ≠ 0xFFFFFFFF ∧ k.step ≠ x.rst.step) then
    let s := s.pullFail n stState
    s.withW (s.w.ckptAnswer src 2 k.ctx k.step ceState gBegin)
  else if crc64 table ≠ k.crc then s.pullBad src n { k with entry := ceState, granule := gBegin }
  else
    let w := s.w.setCtx n { x with rst := { x.rst with table, step := k.step, state := [] } }
    s.withW (w.ckptAnswer src 0 k.ctx k.step ceState gBegin)

def State.pullState (s : State) (src n : Nat) (k : CkptHdr) (data : List Byte) : State :=
  let x := s.w.ctx n
  if x.rst.st ≠ .checking then s
  else if crc64 data ≠ k.crc then s.pullBad src n k
  else
    let state := x.rst.state.filter (fun (p : Nat × List Byte) => p.1 != k.granule) ++ [(k.granule, data)]
    let s := s.withW (s.w.setCtx n { x with rst := { x.rst with state } })
    if sumN (state.map (·.2.length)) < stateBytes (s.ent n).cores then s.withW (s.w.ckptAnswer src 0 k.ctx k.step k.entry k.granule)
    else
      let s := s.pullCheck n
      s.withW (s.w.ckptAnswer src (if (s.w.ctx n).rst.st = .transferring then 0 else 2) k.ctx k.step k.entry k.granule)

/-- A granule of a restore; one that overtakes the state block is asked for again. -/
def State.pullGranule (s : State) (src n : Nat) (k : CkptHdr) (data : List Byte) : State :=
  let x := s.w.ctx n
  if x.rst.st = .checking then s.withW (s.w.ckptAnswer src 1 k.ctx k.step k.entry k.granule)
  else if crc64 data ≠ k.crc then s.pullBad src n k
  else
    match (ckEntries x.rst.table).find? fun e => e.1 == k.entry with
    | none => s.withW (s.w.ckptAnswer src 0 k.ctx k.step k.entry k.granule)
    | some e =>
      match s.putGranule n e.2 k.granule data with
      | .ok s => s.withW (s.w.ckptAnswer src 0 k.ctx k.step k.entry k.granule)
      | .error (st, s) =>
        let s := s.pullFail n st
        s.withW (s.w.ckptAnswer src 2 k.ctx k.step k.entry k.granule)

/-- The end of a restore (R506 step 3): the state block goes into the slot. -/
def State.pullEnd (s : State) (src n : Nat) (k : CkptHdr) : State :=
  let x := s.w.ctx n
  let r := s.ent n
  if x.rst.st ≠ .transferring then s
  else
    let b := x.rst.block
    let w := s.w.hbmPut (statBase n 0) (sl b 0x1000 0x140000)
    let w := w.hbmPut (predBase n 0) (sl b 0x141000 0x4000)
    let step := le b 8 4
    let w := w.setCtx n { x with step, hold := 0, lanes := laneCount, epoch := le b 0x145004 4, rst := { x.rst with st := .done, status := stOk, state := [] } }
    let s :=
      if le b 2 2 = laneCount then
        (s.withW ((List.range r.cores).foldl (fun w j => w.hbmPut (coreImageBase n j + 8192) (sl b (0x145000 + 4872 * j) 4872)) w)).putHeader n
      else
        let s := (s.withW { w with nums := { w.nums with reseeds := bump 64 w.nums.reseeds 1 } }).seedAt n step
        s.withW (s.w.event 0x0105 (0x3F00 + n) 3 dieNone (some n) stOk (leBytes 4 step))
    s.withW (s.w.ckptAnswer src 0 k.ctx k.step ceState gEnd)

def State.pullReplay (s : State) (n : Nat) (k : CkptHdr) (data : List Byte) : State :=
  let x := s.w.ctx n
  if x.rst.st = .transferring ∧ crc64 data = k.crc then
    s.withW (s.w.setCtx n { x with rst := { x.rst with replay := sl data 0 64, present := true } })
  else s

/-! ## Receipt (R497, R504) -/

/-- A received CKPT message: what it does at the ward's buddy, at a restoring part, or discarded and counted. -/
def State.ckptIn (s : State) (l : Nat) (h : SeamHdr) (op : Nat) (k : CkptHdr) (data : List Byte)
    (ward : World → World) (pull : State → Nat → State) : Out :=
  match s.w.receive l h (.ckpt op k data) false with
  | .error w => .next (s.withW w)
  | .ok w =>
    if w.mine h = false then .next (s.withW (w.setLink l { w.link l with discarded := bump 64 (w.link l).discarded h.frames }))
    else
      match w.pulling h.src k with
      | some n => .next (pull (s.withW w) n)
      | none =>
        if w.isWard h.src then .next (s.withW (ward w))
        else .next (s.withW { w with buddy := { w.buddy with discarded := bump 64 w.buddy.discarded 1 } })

def execCkptBegin (l : LinkId) (h : SeamHdr) (k : CkptHdr) (table : List Byte) (s : State) : Out :=
  s.ckptIn l h 0 k table (fun w => w.wardBegin h.src k table) fun s n => s.pullBegin h.src n k table
def execCkptState (l : LinkId) (h : SeamHdr) (k : CkptHdr) (data : List Byte) (s : State) : Out :=
  s.ckptIn l h 1 k data (fun w => w.wardData h.src k data) fun s n => s.pullState h.src n k data
/-- The sleeping cluster whose Weight Store a granule of a restore goes to. -/
def State.granuleSleeper (s : State) (h : SeamHdr) (k : CkptHdr) : Option Nat :=
  match s.w.pulling h.src k with
  | none => none
  | some n =>
    match (ckEntries (s.w.ctx n).rst.table).find? fun e => e.1 == k.entry with
    | some e =>
      let q := ((s.ent n).core0 + le e.2 0 8) / 16
      if (s.w.ctx n).rst.st = .transferring ∧ le e.2 16 1 = 1 ∧ s.w.asleep q = true then some q else none
    | none => none

/-- CKPT GRANULE. One of a restore that goes to a sleeping cluster asks for its wake and is taken when it is replayed (R109, R338; DEDUCED, log entry
147). -/
def execCkptGranule (l : LinkId) (h : SeamHdr) (k : CkptHdr) (data : List Byte) (s : State) : Out :=
  match s.granuleSleeper h k with
  | some q => .next (s.withW (s.w.wake q))
  | none =>
  s.ckptIn l h 2 k data (fun w => w.wardData h.src k data) fun s n => s.pullGranule h.src n k data
def execCkptEnd (l : LinkId) (h : SeamHdr) (k : CkptHdr) (s : State) : Out :=
  s.ckptIn l h 3 k [] (fun w => w.wardEnd h.src k) fun s n => s.pullEnd h.src n k
def execCkptReplay (l : LinkId) (h : SeamHdr) (k : CkptHdr) (data : List Byte) (s : State) : Out :=
  s.ckptIn l h 4 k data (fun w => w.wardReplay k data) fun s n => s.pullReplay n k data

/-- The restore that a holder's ABANDON or REFUSED ends: not one that answers a checkpoint of this part, which names its own context and step. -/
def World.pullRefused (w : World) (src : Nat) (k : CkptHdr) : Option Nat :=
  let c := (w.ctx k.ctx).ck
  if (k.answer = 2 ∨ k.answer = 3) ∧ ¬(w.buddy.buddy = src ∧ c.busy = true ∧ c.step = k.step) then
    (w.ctxs.find? fun e => e.2.rst.from_ src && e.2.rst.srcCtx == k.ctx && e.2.rst.asked k).map (·.1)
  else none

/-- Whether an answer is a ward's that gives its checkpoint in transfer up (R503): it names the checkpoint as a whole, where a holder names a
status or a piece. -/
def World.wardAbandons (w : World) (src : Nat) (k : CkptHdr) : Bool :=
  w.isWard src && k.answer == 2 && k.entry == ceState && k.granule == gBegin && (w.inboundOf k).isSome

/-- The image that an answer of the part that pulls it speaks of. -/
def World.pullOf (w : World) (src : Nat) (k : CkptHdr) : Option (PullOut × CkImage) :=
  match w.buddy.out, w.buddy.image with
  | some o, some i =>
    if o.rank = src ∧ i.ctx = k.ctx ∧ i.step = k.step ∧ ((k.entry, k.granule) ∈ o.left ∨ k.answer ≠ 0) then some (o, i) else none
  | _, _ => none

/-- CKPT_ANSWER: from a holder that refuses, from the part that pulls the image, from a ward that gives up, or from the buddy. -/
def State.answered (s : State) (src : Nat) (k : CkptHdr) : State :=
  let w := s.w
  if w.wardAbandons src k then
    s.withW (({ w with buddy := { w.buddy with inbound := none } }).ckptAnswer src 2 k.ctx k.step ceState gBegin)
  else
  match w.pullRefused src k, w.pullOf src k with
  | some n, _ => s.pullFail n (if k.answer = 3 then stState else if k.granule = stPoison then stPoison else stDigestMismatch)
  | none, some (o, i) => s.withW (w.pullAnswered src k o i)
  | none, none => if w.buddy.buddy = src then s.withW (w.ckptAnswered src k) else s

def execCkptAnswer (l : LinkId) (h : SeamHdr) (k : CkptHdr) (s : State) : Out :=
  match s.w.receive l h (.ckpt 5 k []) false with
  | .error w => .next (s.withW w)
  | .ok w =>
    if w.mine h = false then .next (s.withW (w.setLink l { w.link l with discarded := bump 64 (w.link l).discarded h.frames }))
    else if h.src = w.buddy.buddy ∨ w.isWard h.src = true ∨ (w.ctxs.any fun e => e.2.rst.from_ h.src) = true then .next ((s.withW w).answered h.src k)
    else .next (s.withW { w with buddy := { w.buddy with discarded := bump 64 w.buddy.discarded 1 } })

def execCkptPull (l : LinkId) (h : SeamHdr) (k : CkptHdr) (s : State) : Out :=
  match s.w.receive l h (.ckpt 6 k []) false with
  | .error w => .next (s.withW w)
  | .ok w =>
    if w.mine h = false then .next (s.withW (w.setLink l { w.link l with discarded := bump 64 (w.link l).discarded h.frames }))
    else if w.isWard h.src then .next (s.withW (w.pull h.src k))
    else .next (s.withW { w with buddy := { w.buddy with discarded := bump 64 w.buddy.discarded 1 } })

/-- The restores that pull from a rank fail: a link to it went down (R506). -/
def State.pullLost (s : State) (rank : Nat) : State :=
  ((s.w.ctxs.filter fun e => e.2.rst.from_ rank).map (·.1)).foldl (fun s n => s.pullFail n stTimeout) s

/-- A link to a rank down while others stay (R501, R506): a restore from it fails, a checkpoint to it goes on. -/
def State.ckptLinkDown (s : State) (rank : Nat) : State :=
  let s := s.pullLost rank
  if rank = s.w.buddy.buddy then s.withW ((s.w.ctxs.map (·.1)).foldl World.ckptAgain s.w) else s

/-- What the loss of a rank, or of the last link to it, does to checkpoints and restores (R503, R506). -/
def State.ckptLost (s : State) (rank : Nat) : State :=
  let w := if s.w.buddy.buddy = rank then (s.w.ctxs.map (·.1)).foldl (fun w n => w.ckptAbandon n) s.w else s.w
  let w := if w.isWard rank then { w with buddy := { w.buddy with inbound := none } } else w
  let w := match w.buddy.out with
    | some o => if o.rank = rank then { w with buddy := { w.buddy with out := none } } else w
    | none => w
  (s.withW w).pullLost rank

/-! ## Object writes (R497, R499, R505, R510) -/

/-- Whether a rank may be a buddy or a ward: none, or a direct peer with an UP link. -/
def World.peerOk (w : World) (rank : Nat) : Bool := rank == 0xFFFF || !(w.directLinks rank).isEmpty

/-- The effect of a write of 0x7400:01. A change leaves no baseline (R501). -/
def buddyFx (s : State) (v : List Byte) : Fx :=
  match uintOf 2 v with
  | none => .refuse s stState
  | some x =>
    let b := s.w.buddy
    if s.w.peerOk x = false then .refuse s stState
    else if s.w.ctxs.any fun e => e.2.ck.busy then .refuse s stBusy
    else
      let ctxs := if x = b.buddy then s.w.ctxs else s.w.ctxs.map fun e => (e.1, { e.2 with ck := { e.2.ck with valid := false, replayDue := false } })
      .world s { s.w with buddy := { b with buddy := x }, ctxs }

/-- The effect of a write of 0x7400:02. -/
def wardFx (s : State) (v : List Byte) : Fx :=
  match uintOf 2 v with
  | none => .refuse s stState
  | some x =>
    let b := s.w.buddy
    if s.w.peerOk x = false then .refuse s stState
    else if b.inbound.isSome then .refuse s stBusy
    else
      let image := if x = b.ward then b.image else b.image.map fun i => { i with former := true }
      .world s { s.w with buddy := { b with ward := x, image } }

/-- The effect of a write of 0x7500 + n:10 (R499): its reserved bytes read 0 (R7). -/
def ckptConfigFx (s : State) (n : Nat) (v : List Byte) : Fx :=
  let x := s.w.ctx n
  if (s.ent n).st = .absent then .refuse s stState
  else if x.ck.busy then .refuse s stBusy
  else if v.length ≠ 32 ∨ (63 < le v 4 1 ∧ le v 4 1 ≠ 0xFF) ∨ le v 8 8 % 64 ≠ 0 then .refuse s stState
  else
    let ck := { x.ck with cfg := sl v 0 5 ++ leBytes 3 0 ++ sl v 8 8 ++ leBytes 16 0 }
    .world s (s.w.setCtx n { x with ck := { ck with st := ck.rest } })

/-- The effect of a write of 0x7500 + n:11 (R499). -/
def ckptTableFx (s : State) (n : Nat) (v : List Byte) : Fx :=
  let x := s.w.ctx n
  let table := (ckEntries v).flatMap fun e => ceRead e.2
  if (s.ent n).st = .absent then .refuse s stState
  else if x.ck.busy then .refuse s stBusy
  else if v.length % 32 ≠ 0 ∨ tableOk (s.ent n).cores table = false then .refuse s stState
  else .world s (s.w.setCtx n { x with ck := { x.ck with table, valid := false, baseline := [], methods := [] } })

/-- The effect of a write of 0x7500 + n:20 (R505). A holder that is held lost gets no PULL (R342): the restore fails as at the loss of its link (DEDUCED, log entry 178). -/
def restoreRequestFx (s : State) (n : Nat) (v : List Byte) : Fx :=
  let x := s.w.ctx n
  let holder := le v 0 2
  if (s.ent n).st = .absent ∨ v.length ≠ 16 then .refuse s stState
  else if (s.ent n).st ≠ .saved ∨ s.resuming n = true ∨ x.rst.st = .checking ∨ x.rst.st = .transferring
      ∨ (s.inWay n).isEmpty = false then .refuse s stBusy
  else if holder = 0xFFFF ∨ (s.w.directLinks holder).isEmpty = true ∨ allZero (sl v 8 8) = false then .refuse s stState
  else
    let w := s.w.setCtx n { x with rst := { st := .checking, holder, srcCtx := le v 2 2, step := le v 4 4 } }
    if holder ∈ w.seam.lost then { s := (s.withW w).pullFail n stTimeout }
    else .world s (w.ckptSend holder 0 6 { answer := 0, ctx := le v 2 2, step := le v 4 4, entry := ceState, granule := gBegin, crc := 0 } [])

end Sys2Proof.Machine
end

