-- ==== Sys2Proof/Machine/Part.lean ====
section
/-! DEFINITION. The part as a whole (R428, R439–R458, R487, R488): part states, the end of the lease and of sessions, error records
that go to the log, SAFE, resets, main power, the expected-topology record and its comparison, the route table. -/
namespace Sys2Proof.Machine

/-- Codes of part states (R428). -/
def partCode : PartSt → Nat
  | .bringup => 0
  | .mismatch => 1
  | .ready => 2
  | .safe => 3

/-- Codes of life-cycle states (R428). -/
def lifeCode : LifeSt → Nat
  | .blank => 0
  | .provisioned => 1
  | .field => 2
  | .returned => 3
  | .scrapped => 4

/-! ## Lease and sessions (R396, R417) -/

/-- The end of the lease (R417): reason 0 release, 1 expiry, 2 session closed, 3 revoked, 4 reset, 5 part left READY. -/
def World.endLease (w : World) (reason : Nat) : World :=
  let l := w.lease
  if l.holder = 0 then w
  else
    let ended := if reason = 1 ∨ reason = 3 then bump 32 l.ended 1 else l.ended
    ({ w with lease := { l with holder := 0, term := 0, start := 0, ended } }).event 0x0902 0x1020 2 dieNone none stOk
      (leBytes 4 l.holder ++ leBytes 1 reason)

/-- A session closed (R396, R409): its staged writes and unanswered requests go with it, and a lease that it held ends; `notice` is
the status of the CLOSE that the part sends, if it sends one. -/
def World.closeSession (w : World) (sid : Nat) (notice : Option Nat) : World :=
  match w.koc.sessions.find? fun k => k.sid == sid with
  | none => w
  | some k =>
    let w := { w with
      koc := { w.koc with sessions := w.koc.sessions.filter fun k => k.sid != sid }
      waiters := w.waiters.filter fun x => x.sid != sid
      outbox := w.outbox ++ (match notice with | some st => k.frames k.port k.addr [(0, .close st)] | none => []) }
    if w.lease.holder = sid then w.endLease 2 else w

/-- Every session that a test picks closed, in the order in which they opened. -/
def World.closeSessions (w : World) (p : Session → Bool) (notice : Option Nat) : World :=
  (w.koc.sessions.filter p).foldl (fun w k => w.closeSession k.sid notice) w

/-! ## Frames that wait at a paused class (R373) -/

/-- Port number of a host port. -/
def kocPortNo : KocPort → Option Nat
  | .host0 => some 0
  | .host1 => some 1
  | .side => none

/-- The host port that a message leaves by, and its lossless class: RoCEv2 on LL-A, KOC on LL-B (R373). -/
def OutMsg.lossless : OutMsg → Option (Nat × LossClass)
  | .koc port _ _ _ _ _ _ => (kocPortNo port).map fun p => (p, .llB)
  | .ack p _ _ | .nak p _ _ _ | .rnr p _ _ _ | .readResp p _ _ _ _ | .cnp p _ => some (p, .llA)
  | .pfc _ _ _ | .arpReply _ _ | .neighbour _ _ | .echo _ _ => none

/-- Where in the outbox the frames of a class begin to wait while the peer pauses it. -/
def HPort.paused (v : HPort) : LossClass → Option Nat
  | .llA => v.pausedA
  | .llB => v.pausedB
def HPort.setPaused (v : HPort) (k : LossClass) (x : Option Nat) : HPort :=
  match k with
  | .llA => { v with pausedA := x }
  | .llB => { v with pausedB := x }

/-- Whether the message at a place in the outbox waits (R373). -/
def World.holds (w : World) (i : Nat) (m : OutMsg) : Bool :=
  match m.lossless with
  | none => false
  | some (p, k) => match (w.port p).paused k with | none => false | some n => decide (n ≤ i)

/-- A host port without link: its buffer is empty, neither side is paused, and what waited to leave by it is gone. -/
def World.portDown (w : World) (p : Nat) : World :=
  let gone (i : Nat) (m : OutMsg) : Bool := m.lossless.any (·.1 == p) && w.holds i m
  let lost := (w.outbox.zipIdx.filter fun x => gone x.2 x.1).map (·.2)
  let kept := (w.outbox.zipIdx.filter fun x => !gone x.2 x.1).map (·.1)
  let back (n : Nat) : Nat := n - (lost.filter (· < n)).length
  let w := { w with
    outbox := kept
    ports := w.ports.map fun (e : Nat × HPort) => (e.1, { e.2 with pausedA := e.2.pausedA.map back, pausedB := e.2.pausedB.map back }) }
  w.setPort p { w.port p with
    st := 0, inA := {}, inB := {}, inOther := 0, xoffA := false, xoffB := false, pausedA := none, pausedB := none }

/-! ## Error records that reach flash (R489) -/

/-- An entry added to the error log: a ring of 4,096, the newest replacing the oldest. -/
def Flash.addLog (f : Flash) (r : ErrRec) : Flash :=
  let l := f.log ++ [{ r with logged := true }]
  { f with log := l.drop (l.length - 4096) }

/-- LOGGED set in the queued copy. -/
def Errs.setLogged (e : Errs) (seq : Nat) : Errs :=
  let f (r : ErrRec) : ErrRec := if r.seq = seq then { r with logged := true } else r
  { e with queue := e.queue.map f, waiting := e.waiting.map f, inService := e.inService.map f, unqueued := e.unqueued.map f }

/-- A record put into the log, once. -/
def State.logRec (s : State) (r : ErrRec) : State :=
  if r.logged then s else { s with flash := s.flash.addLog r, w := { s.w with errs := s.w.errs.setLogged r.seq } }

/-- The records that no one has logged yet and that R489 puts into the log: every UE-context and FATAL record. -/
def Errs.owed (e : Errs) : List ErrRec := (e.waiting ++ e.unqueued).filter fun r => decide (clsCtx ≤ r.cls) && !r.logged

/-- The records that still wait, but those of a class or a worse one: their action is done. -/
def Errs.below (e : Errs) (cls : Nat) : Errs := { e with waiting := e.waiting.filter fun r => decide (r.cls < cls), unqueued := [] }

/-- Every record that the log is owed, logged (R489). -/
def State.logOwed (s : State) : State := s.w.errs.owed.foldl State.logRec s

/-- The die whose counter a record of a unit and instance carries (R13, R420): an HBM stack's I/O die, the compute die of a slice of a Shared Activation
Cache; the others, the built-in test's among them (unit 22), have no die of their own (DESIGN CHOICE, log entry 166). -/
def dieOfUnit (unit inst : Nat) : Nat :=
  if unit = uHbm then dieOfStack inst else if unit = uSac then inst / 32 else dieNone

/-- A record of unit 20 or 22, or of a failure of R447, raised and logged (R447, R489). A record that the queue has no room for is
logged with sequence number 0 unless it is FATAL (DEDUCED, log entry 39). One that joins a record still queued (R485) is logged under that one's number,
`again` not where nothing failed (log entry 39). -/
def State.raiseLogged (s : State) (cls unit status inst : Nat) (addr : Nat := 0) (detail : List Byte := []) (again : Bool := true) : State :=
  let die := dieOfUnit unit inst
  let w := s.w.raise cls unit status inst none die addr detail
  let s' := s.withW w
  let fresh (r : ErrRec) : Bool := r.seq == s.w.errs.next && r.unit == unit
  let r0 : ErrRec := { seq := 0, cls, unit, status, inst, ctx := 0xFFFF, step := 0, ctr := s.w.tick.getD die 0, die, addr, detail }
  match s.w.errs.queue.find? fun q => r0.merges q with
  | some q =>
    if again then { s' with flash := s'.flash.addLog { r0 with seq := q.seq }, w := { w with errs := w.errs.setLogged q.seq } } else s'
  | none =>
    match (w.errs.queue ++ w.errs.unqueued).find? fresh with
    | some r => s'.logRec r
    | none => { s' with flash := s'.flash.addLog r0 }

/-! ## Power states of clusters, duty (R432, R439, R443, R444) -/

/-- State code of a cluster (R443). -/
def powerCode : PowerSt → Nat
  | .run => 0
  | .idle => 1
  | .doze => 2
  | .nap => 3
  | .off => 4
  | .waking => 5

/-- The event of a cluster entering or leaving OFF (R444). -/
def World.offEvent (w : World) (k : Nat) : World :=
  w.event 0x0805 (0x2100 + k) 1 dieNone none stOk (leBytes 1 k ++ leBytes 1 (powerCode (w.cluster k).power))

/-- What OFF leaves of a core (R432): its place, which context it was saved from, the generations of its windows, what it counts since reset (DEDUCED, log
entry 154). -/
def Core.afterOff (c : Nat) (k : Core) : Core :=
  { Core.fresh c with
    phys := k.phys, savedCtx := k.savedCtx, softStarts := k.softStarts, oobFill := k.oobFill, oobDrop := k.oobDrop, wbDropped := k.wbDropped
    windows := k.windows.map fun (e : Nat × Window) => (e.1, { gen := e.2.gen, discarded := e.2.discarded, ignored := e.2.ignored }) }

/-- A cluster in OFF: nothing of its cores, their memories, its channels, its TLB stays (R108, R432). -/
def World.zeroCluster (w : World) (k : Nat) : World :=
  let w := (List.range 16).foldl (fun w i => w.setCore (16 * k + i) ((w.core (16 * k + i)).afterOff (16 * k + i))) w
  let w := (List.range 8).foldl (fun w i => w.setChan (8 * k + i) (w.chan (8 * k + i)).cleared) w
  w.setCluster k { w.cluster k with tlb := [], walks := [], scrubW := 0, scrubS := 0, scrubP := 0 }

/-- The duty of a die changed, with its event and the count of reductions (R439, R443, R444). -/
def World.setDuty (w : World) (d new cause : Nat) : World :=
  let v := w.die d
  if v.duty = new then w
  else
    let w := w.setDie d { v with duty := new }
    let w := if new < v.duty then { w with tele := { w.tele with reductions := bump 64 w.tele.reductions 1 } } else w
    w.event 0x0801 0 0 dieNone none stOk (leBytes 1 d ++ leBytes 1 new ++ leBytes 1 cause)

/-! ## Part state (R446, R457) -/

/-- A change of 0x0100:01 with its event (R446). -/
def State.partTo (s : State) (p : PartSt) : State :=
  if s.ctl.part = p then s
  else
    { s with
      ctl := { s.ctl with part := p }
      w := s.w.event 0x0A01 0x0100 1 dieNone none s.ctl.endStatus (leBytes 1 (partCode p) ++ leBytes 2 s.ctl.endStatus) }

/-- A cluster to Nap, its TLB and walk cache empty (R432); one that leaves OFF by it is zeroed, with its event (R108, R444). -/
def World.nap (w : World) (k : Nat) : World :=
  let v := w.cluster k
  let w' := w.setCluster k { v with power := .nap, entering := none, tlb := [], walks := [] }
  if v.power = .off then (w'.zeroCluster k).offEvent k else w'

/-- Every cluster to Nap, but for those whose rails are off; the wake arbiter's queues empty (R487 step 2; DEDUCED, log entry 40). -/
def World.napAll (w : World) (pgMain : Bool) : World :=
  let w := if pgMain then (List.range 64).foldl World.nap w else w
  { w with dies := w.dies.map fun e => (e.1, { e.2 with powerQ := [], restartQ := [], poweringUp := [], restarting := [] }) }

/-- A link whose transmitters are off: down, nothing in flight; what it counts stays. -/
def Link.silent (k : Link) : Link :=
  let fresh : Link := {}
  { k with
    st := if k.st = .disabled then .disabled else .waitSignal, peerId := 0, peerRank := 0xFFFF, peerLink := 0xFF, tries := 0
    txSeq := 1, rxSeq := 1, replay := [], waitq := [], resv := fresh.resv, shared := fresh.shared, toReturn := fresh.toReturn, parts := fresh.parts }

/-- Links and host ports without transmitters (R487 step 3). -/
def World.silence (w : World) : World :=
  let w := (List.range 20).foldl (fun w l => w.setLink l (w.link l).silent) w
  (List.range 2).foldl (fun w p => let w := w.portDown p; w.setPort p { w.port p with tlb := [], walks := [] }) w

/-- What runs is stopped where it stands (R487 step 1): phases, collectives, window traffic, a snapshot, a scan, answers that wait. -/
def World.stopAll (w : World) : World :=
  { w with
    signals := [], crown := [], colls := [], waiters := w.waiters.filter fun x => x.what == .quote
    seam := { w.seam with credits := [], writes := [], parked := [] }
    koc := { w.koc with sessions := w.koc.sessions.map fun k =>
      { k with busy := k.busy.filter fun r => w.waiters.any fun x => x.sid == k.sid && x.rid == r && x.what == .quote } } }

/-- SAFE entered (R457, R487) with a status; the fault service, which stops with it, leaves no record unlogged (R489). -/
def State.safe (s : State) (st : Nat) : State :=
  let s := s.logOwed
  let s := s.withW { s.w with errs := s.w.errs.below clsFatal }
  let w := (s.w.stopAll.napAll s.ctl.pgMain).silence
  let w := (w.endLease 5).closeSessions (fun k => k.port != .side) none
  let w := { w with koc := { w.koc with asleep := [] } }
  let s := { s with
    ctl := { s.ctl with mgmt := false, endStatus := st, pins := { s.ctl.pins with faultLow := true }, safeOff := false }
    w }
  s.partTo .safe

/-- A failure that ends in SAFE (R441, R447): its FATAL record raised and logged, and SAFE entered. In SAFE nothing more happens. -/
def State.fatal (s : State) (unit status inst st : Nat) (addr : Nat := 0) (detail : List Byte := []) : State :=
  if s.ctl.part = .safe then s
  else
    (s.logOwed.raiseLogged clsFatal unit status inst addr detail).safe st

/-- Several units failed at once (R447, R451): a FATAL record for each, raised and logged, and SAFE entered. -/
def State.fatals (s : State) (failed : List (Nat × Nat)) (st : Nat) : State :=
  (failed.foldl (fun s x => s.raiseLogged clsFatal x.1 st x.2) s.logOwed).safe st

/-! ## Main power and resets (R424, R443, R448, R457, R488, R517) -/

/-- The world once the main rails are off: what the Always-On domain holds stays (side-band sessions, the lease's counts, the
error queue without records in service whose contexts are gone or that ended in SAFE, the training objects as last reported, R399; the wake arbiter's
place in each queue, the floors of the clusters, the counts of power-ups and of duty reductions since reset, R436, R443; DEDUCED, log entry 65); all else is
as after reset. -/
def World.dark (w : World) : World :=
  let w := ((w.closeSessions (fun k => k.port != .side) none).portDown 0).portDown 1
  { koc := { w.koc with openings := w.koc.openings.filter fun o => o.port == .side, asleep := [] }
    lease := w.lease, outbox := w.outbox, free := w.free
    clusters := w.clusters.map fun (e : Nat × Cluster) => (e.1, { floor := e.2.floor, powerUps := e.2.powerUps })
    dies := w.dies.map fun (e : Nat × Die) => (e.1, { lastPower := e.2.lastPower, lastRestart := e.2.lastRestart })
    tele := { reductions := w.tele.reductions }
    waiters := w.waiters.filter fun x => x.what == .quote && x.port == .side
    errs := { w.errs.below clsCtx with inService := w.errs.inService.filter fun r => decide (r.cls < clsCtx) }
    hbm := { stackTab := w.hbm.stackTab.map fun (e : Nat × Stack) => (e.1, { train := e.2.train }), wipe := w.hbm.wipe } }

/-- Every context destroyed (R443, R473): each one's state change is reported. -/
def State.destroyAll (s : State) : State :=
  let s := (s.res.map (·.1)).foldl (fun s n => if (s.ent n).st = .absent then s else ((s.withW (s.w.cancelSnap n)).setEnt n {}).ctxTo n .absent .stay) s
  { s with res := [] }

/-- The clusters as their rails go: each one that was not in OFF enters it (R444). -/
def World.allOff (w : World) : World :=
  (List.range 64).foldl (fun w k =>
    let v := w.cluster k
    if v.power = .off then w else (w.setCluster k { v with power := .off, entering := none }).offEvent k) w

/-- The main rails off (R515): every cluster in OFF, the duty back at 8 (R443, R444); in SAFE the part stays in SAFE, else bring-up stands at its
third step, or where it was before it. The groups go off within the one command (log entry 181). -/
def State.railsOff (s : State) : State :=
  let s := s.logOwed.destroyAll
  let s := s.withW (((s.w.endLease 5).allOff.setDuty 0 8 4).setDuty 1 8 4)
  let s := { s with
    ctl := { s.ctl with mainPower := 0, railGroups := 0, pgMain := false, mgmt := false, pins := { s.ctl.pins with pgMain := false }, step := if s.ctl.step ≤ 2 then s.ctl.step else 3 }
    w := s.w.dark }
  if s.ctl.part = .safe then s
  else { s with ctl := { s.ctl with endStatus := stOk, mismatches := 0 } }.partTo .bringup

/-- The third step of bring-up begun (R445, R515): the first rail group is enabled. -/
def State.startRails (s : State) : State :=
  { s with ctl := { s.ctl with
      step := 3, railGroups := 1, pgMain := false, pins := { s.ctl.pins with pgMain := false }, safeOff := false, endStatus := stOk, mismatches := 0 } }.partTo .bringup

/-- One persistent object after a reset or a loss of power: while writes are pending, its old or its new value (R424). -/
def keepOne {α : Type} (pending : Bool) (free : Nat) (old new : α) : α := if pending && Config.freeBool free then new else old

/-- The persistent objects that a reset or a loss of power leaves (R424). -/
def State.keepPersist (s : State) : Persist :=
  let a := s.flash.persist
  let b := s.ctl.persist
  let p := !s.ctl.persistQ.isEmpty
  let f := s.w.free
  { barred := keepOne p f a.barred b.barred
    roceOn := keepOne p (f + 1) a.roceOn b.roceOn
    prioA := keepOne p (f + 2) a.prioA b.prioA
    prioB := keepOne p (f + 3) a.prioB b.prioB
    elec := [keepOne p (f + 4) (nth a.elec 0) (nth b.elec 0), keepOne p (f + 5) (nth a.elec 1) (nth b.elec 1)]
    vlan := [keepOne p (f + 6) (nth a.vlan 0) (nth b.vlan 0), keepOne p (f + 7) (nth a.vlan 1) (nth b.vlan 1)]
    ip6 := [keepOne p (f + 8) (a.ip6.getD 0 []) (b.ip6.getD 0 []), keepOne p (f + 9) (a.ip6.getD 1 []) (b.ip6.getD 1 [])]
    ip4 := [keepOne p (f + 10) (a.ip4.getD 0 []) (b.ip4.getD 0 []), keepOne p (f + 11) (a.ip4.getD 1 []) (b.ip4.getD 1 [])]
    udp := keepOne p (f + 12) a.udp b.udp
    hostKeys := keepOne p (f + 13) a.hostKeys b.hostKeys
    mgmtKeys := keepOne p (f + 14) a.mgmtKeys b.mgmtKeys
    sideIp6 := keepOne p (f + 15) a.sideIp6 b.sideIp6
    sideIp4 := keepOne p (f + 16) a.sideIp4 b.sideIp4 }

/-- Value of 0x2000:01 that the straps give (R518). -/
def strapPower (straps : BitVec 4) : Nat := if straps.getLsbD 0 then 1 else 0

/-- A reset (R429, R448, R517): bring-up at step 1, sessions closed, memories wiped; flash and OTP stay. -/
def State.restart (s : State) (straps : BitVec 4) (resets : Nat) : State :=
  let keep := s.keepPersist
  let s := s.logOwed
  let s := s.withW (s.w.endLease 4)
  let s := { s with ctl := { s.ctl with endStatus := stOk } }.partTo .bringup
  let w := ((s.w.closeSessions (fun _ => true) (some stState)).portDown 0).portDown 1
  { s with
    flash := { s.flash with persist := keep }
    ctl := { step := 1, mainPower := strapPower straps, resets, pins := { pgAon := true, straps }, persist := keep
             sec := { nextSig := 256 * s.otp.blocks, skipped := s.ctl.sec.skipped } }
    res := []
    w := { outbox := w.outbox, free := w.free + 17 } }

/-! ## Keys and the expected-topology record (R452–R454, R459) -/

/-- Whether a signature verifies under a key of the flash key area whose hash is programmed in one of the slots (R459). -/
def State.signedBy (s : State) (slots : List (List Byte)) (msg sig : List Byte) : Bool :=
  s.flash.keys.any fun k =>
    k.length == 68 && slots.any (fun h => !allZero h && h == Config.shake256 k 32) && Config.xmssVerify k msg sig

/-- Parts in a record (R452). -/
def topoParts (r : List Byte) : Nat := le r 2 2
/-- Identity of rank k (R453). -/
def topoId (r : List Byte) (k : Nat) : Nat := le r (64 + 128 * k) 8
/-- Link entry l of rank k: peer rank, peer link (R453). -/
def topoLink (r : List Byte) (k l : Nat) : Nat × Nat :=
  let x := le r (64 + 128 * k + 16 + 4 * l) 4
  (fld x 31 16, fld x 7 0)

/-- Whether a link entry is well formed and symmetric (R454). -/
def topoLinkOk (r : List Byte) (k l : Nat) : Bool :=
  let p := topoLink r k l
  fld (le r (64 + 128 * k + 16 + 4 * l) 4) 15 8 == 0
    && (p == (0xFFFF, 0xFF) || (decide (p.1 < topoParts r) && p.1 != k && decide (p.2 ≤ 19) && topoLink r p.1 p.2 == (k, l)))

/-- Whether a record is accepted (R454). -/
def State.topoOk (s : State) (r : List Byte) : Bool :=
  let n := topoParts r
  le r 0 2 == 1 && decide (1 ≤ n) && decide (n ≤ 4096) && r.length == 64 + 128 * n + 2820 && allZero (sl r 8 56)
    && ((List.range n).all fun k =>
      allZero (sl r (64 + 128 * k + 8) 8) && allZero (sl r (64 + 128 * k + 96) 32) && (List.range 20).all (topoLinkOk r k)
        && (List.range k).all fun j => topoId r j != topoId r k)
    && s.signedBy s.otp.topoKeys (r.take (64 + 128 * n)) (r.drop (64 + 128 * n))

/-- Rank of the part by the record in force (R454); 0xFFFF without an entry. -/
def State.topoRank (s : State) : Nat :=
  ((List.range (topoParts s.ctl.sec.record)).find? fun k => topoId s.ctl.sec.record k == s.otp.identity).getD 0xFFFF

/-! ## The route table (R343) -/

/-- Neighbours of a rank by its links. -/
def topoPeers (r : List Byte) (k : Nat) : List Nat := ((List.range 20).map fun l => (topoLink r k l).1).filter (· != 0xFFFF)

/-- Everything that steps reach from a set, within so many rounds. -/
def reach (next : Nat → List Nat) : Nat → List Nat → List Nat → List Nat
  | 0, seen, _ => seen
  | _, seen, [] => seen
  | n + 1, seen, f =>
    let new := distinct ((f.flatMap next).filter fun x => x ∉ seen)
    reach next n (seen ++ new) new

/-- Ranks by their distance from rank 0: one list a distance. -/
def levelsOf (r : List Byte) : Nat → List Nat → List Nat → List (List Nat)
  | 0, _, _ => []
  | _, _, [] => []
  | n + 1, seen, f =>
    let new := distinct ((f.flatMap (topoPeers r)).filter fun x => x ∉ seen)
    f :: levelsOf r n (seen ++ new) new

/-- Whether a step between neighbours goes up: toward rank 0, between equal distances toward the lower rank. -/
def goesUp (levels : List (List Nat)) (a b : Nat) : Bool :=
  let d (x : Nat) : Nat := (levels.findIdx? fun l => decide (x ∈ l)).getD levels.length
  decide (d b < d a) || (d b == d a && decide (b < a))

/-- Ranks that an up*/down* route through a neighbour reaches without coming back (R343). -/
def upDown (r : List Byte) (levels : List (List Nat)) (own b : Nat) : List Nat :=
  let n := topoParts r
  let step (up : Bool) (x : Nat) : List Nat := (topoPeers r x).filter fun y => y != own && goesUp levels x y == up
  let ups := if goesUp levels own b then reach (step true) n [b] [b] else [b]
  reach (step false) n ups ups

/-- Up to so many elements of a list, in an order that the spec leaves open (free values from `f` on; DESIGN CHOICE, log entry 41). -/
def anyOrder : Nat → Nat → List Nat → List Nat
  | 0, _, _ => []
  | _, _, [] => []
  | n + 1, f, x :: xs =>
    let l := x :: xs
    let y := l.getD (Config.freeNat f % l.length) x
    y :: anyOrder n (f + 1) (l.erase y)

/-- The route table (R343): for every rank, up to four links that begin an up*/down* route to it: those that begin by going down where there are
any, else those that go up, so that no part sends upward what came down to it and no cycle forms. -/
def routeTable (r : List Byte) (own free : Nat) : List (List Nat) :=
  let levels := levelsOf r (topoParts r) [0] [0]
  let ways := (List.range 20).filterMap fun l =>
    let p := (topoLink r own l).1
    if p = 0xFFFF then none else some (l, goesUp levels own p, upDown r levels own p)
  (List.range (topoParts r)).map fun d =>
    if d = own then []
    else
      let near := ways.filter fun w => d ∈ w.2.2
      let down := near.filter fun w => !w.2.1
      anyOrder 4 (free + 4 * d) ((if down.isEmpty then near else down).map (·.1))

/-! ## Comparison and READY (R455–R457) -/

/-- Whether a link matches its entry (R455). -/
def State.linkMatches (s : State) (own l : Nat) : Bool :=
  let k := s.w.link l
  let r := s.ctl.sec.record
  let p := topoLink r own l
  if p = (0xFFFF, 0xFF) then k.st == .disabled || k.st == .waitSignal
  else k.st == .up && k.peerId == topoId r p.1 && k.peerRank == p.1 && k.peerLink == p.2

/-- Links that do not match; all twenty without a usable record (R456). -/
def State.badLinks (s : State) : List Nat :=
  let own := s.topoRank
  if own = 0xFFFF then List.range 20 else (List.range 20).filter fun l => !s.linkMatches own l

/-- Step 7 (R445): the route table is built, the rank shown, and the part READY. -/
def State.enterReady (s : State) : State :=
  let own := s.topoRank
  let w := { s.w with seam := { s.w.seam with rank := own, routes := routeTable s.ctl.sec.record own s.w.free }
                      free := s.w.free + 4 * topoParts s.ctl.sec.record }
  { s with
    ctl := { s.ctl with step := 7, endStatus := stOk, mismatches := 0, readyMs := (s.ctl.clock - s.ctl.began) / 100000 % 2 ^ 32 }
    w }.partTo .ready

/-- Detail of the record of a mismatching link (R456, R480). -/
def State.linkDetail (s : State) (l : Nat) : List Byte :=
  let own := s.topoRank
  let p := if own = 0xFFFF then (0xFFFF, 0xFF) else topoLink s.ctl.sec.record own l
  let k := s.w.link l
  leBytes 2 p.1 ++ leBytes 1 p.2 ++ leBytes 8 (if k.st = .up then k.peerId else 0) ++ leBytes 1 (if k.st = .up then k.peerLink else 0xFF)

/-- TOPOLOGY_MISMATCH entered (R456). -/
def State.enterMismatch (s : State) (bad : List Nat) : State :=
  let st := if s.ctl.sec.record.isEmpty && !s.flash.topology.isEmpty then stDigestMismatch else stState
  let s := bad.foldl (fun s l => s.raiseLogged clsCe uBringup st l 0 (s.linkDetail l)) s
  { s with ctl := { s.ctl with endStatus := st, mismatches := bad.length } }.partTo .mismatch

/-- The comparison of R455: in step 6 it ends once every link is decided, or at the deadline; in TOPOLOGY_MISMATCH it is repeated
each time a link enters or leaves UP (R456). -/
def State.compare (s : State) (deadline : Bool) : State :=
  let bad := s.badLinks
  let counted := { s with ctl := { s.ctl with compares := bump 32 s.ctl.compares 1 } }
  match s.ctl.part with
  | .bringup =>
    if s.ctl.step ≠ 6 then s
    else if bad.isEmpty then counted.enterReady
    else if deadline || s.topoRank == 0xFFFF || bad.all (fun l => (s.w.link l).st == .up) then counted.enterMismatch bad
    else s
  | .mismatch =>
    if bad.isEmpty then counted.enterReady else { counted with ctl := { counted.ctl with mismatches := bad.length } }
  | _ => s

end Sys2Proof.Machine
end

