-- ==== Sys2Proof/Machine/Mask.lean ====
section
/-! DEFINITION. Mask evolution (R196–R217): PRUNE, REGROW and PROBE, the rewrite of a tile, the remap region and candidate lists. -/
namespace Sys2Proof.Machine

/-! ## Rank (R196) -/

/-- Whether a magnitude lies below another: NaN below every number (R196). -/
def FNum.below (a b : FNum) : Bool :=
  if b = .nan then false else if a = .nan then true else a.abs.lt b.abs

/-- Whether (a, p) ranks at or below (b, q): magnitude first, the lower position higher (R196). -/
def rankLe (a : FNum × Nat) (b : FNum × Nat) : Bool := a.1.below b.1 || (!b.1.below a.1 && decide (b.2 ≤ a.2))

/-- Positions in increasing rank. -/
def byRank (l : List (FNum × Nat)) : List Nat := (sortBy rankLe l).map (·.2)

/-! ## The frame of a mask record -/

/-- Fields of a mask record: range, selection, immediate (R197, R198). -/
structure MaskRec where
  t0 : Nat
  tc : Nat
  sel : Nat
  hi : Nat
  lo : Nat
  deriving DecidableEq, Repr

def maskRec (r : Record) : MaskRec :=
  { t0 := fld r.opflags.toNat 24 12, tc := fld r.opflags.toNat 11 7 + 1, sel := fld r.opflags.toNat 6 4
    hi := fld r.imm.toNat 63 32, lo := fld r.imm.toNat 31 0 }

/-- The list entries of the range, in increasing order. -/
def MaskRec.es (x : MaskRec) : List Nat := (List.range x.tc).map (x.t0 + ·)

/-- Bytes of a pool's free map in the Weight Store: address and count. -/
def BattList.mapAt (l : BattList) : Nat × Nat := (256 * (l.pool + 1), 256 * mapGranules (l.hi - l.pool))

/-- Whether the pool header, the free map or a word of the list is read with the poison tag (R199). -/
def BattList.poolPoison (l : BattList) (m : EccMem) : Bool :=
  m.poisoned 16 l.mapAt.1 l.mapAt.2 || m.poisoned 16 (256 * l.gran) (64 + 2 * l.entries)

/-- Words that every mask record reads: free map and list. -/
def BattList.poolWords (l : BattList) : List Nat :=
  wordsOf 16 l.mapAt.1 l.mapAt.2 ++ wordsOf 16 (256 * l.gran) (64 + 2 * l.entries)

/-- The free map as a number: bit g is pool granule g. -/
def BattList.map (l : BattList) (m : List Host.Cell) : Nat := leNat (Cells.read m l.mapAt.1 l.mapAt.2)

/-- A header, map and list that disagree (R213; DEDUCED, log entry 24): free granules, bits beyond the pool, header, map and list granules
not in use, a Batt of the range not in use. -/
def BattList.inconsistent (l : BattList) (m : EccMem) (es : List Nat) : Bool :=
  let n := l.hi - l.pool
  let map := l.map m.cells
  let used := ((List.range n).filter fun g => bit map g).length
  let need := List.range (mapGranules n + 1) ++ (List.range (listGranules l.kt l.nt)).map (l.gran - l.pool + ·)
    ++ es.flatMap fun e => match l.batt m e with
      | .ok b => (List.range b.granules).map (l.entry m.cells e - l.pool + ·)
      | _ => []
  map >>> n != 0 || leNat (Cells.read m.cells (256 * l.pool + 6) 2) != n - used || need.any fun g => !bit map g

/-- The lowest run of `n` free granules of a pool (R208). -/
def BattList.freeRun (l : BattList) (m : List Host.Cell) (n : Nat) : Option Nat :=
  let map := l.map m
  (List.range (l.hi - l.pool)).find? fun g =>
    decide (g + n ≤ l.hi - l.pool) && (List.range n).all fun i => !bit map (g + i)

/-- A map with a run of granules set or cleared. -/
def markRun (map g n : Nat) (use : Bool) : Nat :=
  let mask := (2 ^ n - 1) * 2 ^ g
  if use then map ||| mask else map - (map &&& mask)

/-- What a mask record has done so far. -/
structure MaskAcc where
  w : World
  before : Nat := 0
  after : Nat := 0
  rewritten : Nat := 0
  refused : Nat := 0
  unchanged : Nat := 0
  removed : Nat := 0
  added : Nat := 0
  remap : List Nat := []

/-- The tile rewritten out of place (R208): new Batt, list entry, free map, free granules, NNZTOTAL. The regions of the whole list become dirty with
those of the writes (R214). -/
def World.rewriteTile (w : World) (e : Env) (l : BattList) (entry : Nat) (old new : Batt) (run : Nat) : World :=
  let m := (w.core e.c).ws.cells
  let map := l.map m
  let bs := new.encode
  let gnew := bs.length / 256
  let gold := l.entry m entry - l.pool
  let map' := markRun (markRun map run gnew true) gold old.granules false
  let free := leNat (Cells.read m (256 * l.pool + 6) 2)
  let total := leNat (Cells.read m (256 * l.gran + 28) 4)
  let w := w.writeCore e.c (some e.n) .weight
    [bytesAt (256 * (l.pool + run)) bs, bytesAt (l.entryAddr entry) (leBytes 2 (l.pool + run)), bytesAt l.mapAt.1 (leBytes l.mapAt.2 map'),
      bytesAt (256 * l.pool + 6) (leBytes 2 (free + old.granules - gnew)), bytesAt (256 * l.gran + 28) (leBytes 4 (total + new.nnz - old.nnz))]
  let k := w.core e.c
  w.setCore e.c { k with dirty := k.dirty ||| dirtyRun (256 * l.gran) (64 + 2 * l.entries) ||| dirtyRun (256 * l.pool) 64 }

/-- One tile of a PRUNE or REGROW (R208–R211): `pick` gives the new stored weights of a usable Batt. -/
def MaskAcc.tile (e : Env) (l : BattList) (oldbase : Nat) (pick : Batt → Nat → List (Nat × Nat)) (a : MaskAcc) (entry : Nat) : MaskAcc :=
  let m := (a.w.core e.c).ws
  let keepAll (b : Batt) : List Nat := (List.range b.nnz).map (oldbase + a.before + ·)
  match l.batt m entry with
  | .ok b =>
    let same : MaskAcc := { a with before := a.before + b.nnz, after := a.after + b.nnz, remap := a.remap ++ keepAll b }
    if l.tainted m entry then
      { same with unchanged := a.unchanged + 1, w := a.w.raiseSparse e stPoison (256 * l.gran) entry }
    else
      let ws := pick b entry
      if ws.map (·.1) = b.w.map (·.1) then same
      else
        let mx := if b.nnz = 0 then List.replicate 128 0x7F else b.mx
        let new : Batt := { b with w := ws, mx, gen := add32 b.gen 1 }
        let total := leNat (Cells.read m.cells (256 * l.gran + 28) 4)
        let fits := decide (l.ordbase + (total + new.nnz - b.nnz) ≤ 2 ^ 32)
        match (if fits then l.freeRun m.cells (new.encode.length / 256) else none) with
        | none => { same with refused := a.refused + 1 }
        | some run =>
          { a with
            w := a.w.rewriteTile e l entry b new run
            before := a.before + b.nnz
            after := a.after + new.nnz
            rewritten := a.rewritten + 1
            removed := a.removed + (b.w.filter fun x => !decide (x.1 ∈ ws.map (·.1))).length
            added := a.added + (ws.filter fun x => !decide (x.1 ∈ b.w.map (·.1))).length
            remap := a.remap ++ ws.map fun x =>
              match (b.w.zipIdx.find? fun y => y.1.1 = x.1) with
              | some y => oldbase + a.before + y.2
              | none => 0xFFFFFFFF }
  | _ => { a with unchanged := a.unchanged + 1, w := a.w.raiseSparse e stPoison (256 * l.gran) entry }

/-- Stored weights of a range, as far as its Batts can be read. -/
def BattList.count (l : BattList) (m : EccMem) (es : List Nat) : Nat :=
  sumN (es.map fun e => match l.batt m e with | .ok b => b.nnz | _ => 0)

/-- The remap region (R211). -/
def MaskAcc.region (a : MaskAcc) : List Byte :=
  leBytes 4 a.before ++ leBytes 4 a.after ++ leBytes 2 a.rewritten ++ leBytes 2 a.refused ++ leBytes 2 a.unchanged ++ leBytes 50 0
    ++ a.remap.flatMap (leBytes 4)

/-- The frame of PRUNE and REGROW (R197–R212): checks, tiles in entry order, the remap region, the counts. `extra` are the
record's own breaches, `overlap` its candidate list. -/
def runMask (w : World) (e : Env) (t : Entry) (lr : ListRead) (extra : Bool) (cand : Option (Nat × Nat))
    (pick : World → BattList → Batt → Nat → List (Nat × Nat)) : Run :=
  let r := t.cmd
  let x := maskRec r
  let ind2 := t.ind.getD 2 0
  match lr with
  | .ok l =>
    let m := (w.core e.c).ws
    let w := w.touch e.c (some e.n) .weight l.poolWords
    let size := 64 + 16384 * x.tc
    let structural := commonBad e r || fld r.opflags.toNat 31 25 != 0 || fld r.opflags.toNat 3 0 != 0 || r.p3 != 0 || decide (8 < x.tc)
      || decide (l.entries < x.t0 + x.tc) || (r.p2 != 0 && !regionOk r.p2 ind2 [1] size) || extra
    if l.poolPoison m then .fail (w.listRefused e (.poison l.pool)) stState
    else
      let w := w.touch e.c (some e.n) .weight (if structural then [] else l.words m.cells x.es)
      let bad := structural || l.inconsistent m x.es || decide (0xFFFFFFFF < x.lo + l.count m x.es)
      let a := refAddr r.p2 ind2
      let overlap := match cand with
        | some (lo, hi) => r.p2 != 0 && decide (a < hi) && decide (lo < a + size)
        | none => false
      if bad then .fail w stState
      else if (w.ctx e.n).wsRo then .fail (w.wsRefuse e.n) stFaultPerm
      else if overlap then .fail w stOverlap
      else
        let acc := x.es.foldl (fun (acc : MaskAcc) entry => acc.tile e l x.lo (pick w l) entry) { w := w.softStart e.c }
        let w1 := if r.p2 != 0 then acc.w.writeCore e.c (some e.n) .scratch [bytesAt a acc.region] else acc.w
        let n := w1.nums
        let w1 := { w1 with nums := { n with pruned := bump 64 n.pruned acc.removed, regrown := bump 64 n.regrown acc.added
                                             rewritten := bump 64 n.rewritten acc.rewritten, refused := bump 64 n.refused acc.refused
                                             unchanged := bump 64 n.unchanged acc.unchanged } }
        { w := w1, st := if acc.refused = 0 then stOk else stPoolExhausted, count := acc.rewritten }
  | _ => .fail (w.listRefused e lr) stState

/-! ## PRUNE (R200, R201) -/

/-- Ranked stored weights of a Batt. -/
def Batt.ranked (b : Batt) (l : List (Nat × Nat)) : List (FNum × Nat) := l.map fun x => (b.num x.1 x.2, x.1)

/-- The weights that PRUNE keeps (R200). -/
def pruneKeep (sel count : Nat) (thr : FNum) (b : Batt) : List (Nat × Nat) :=
  let drop : List Nat :=
    if sel = 0 then (b.w.filter fun x => (b.num x.1 x.2).below thr).map (·.1)
    else if sel = 1 then (byRank (b.ranked b.w)).take count
    else (List.range 64).flatMap fun k => (byRank (b.ranked (b.w.filter fun x => x.1 / 64 == k))).take count
  b.w.filter fun x => !decide (x.1 ∈ drop)

/-- PRUNE with one selection. -/
def runPrune (w : World) (e : Env) (t : Entry) : Run :=
  let r := t.cmd
  let x := maskRec r
  let (lr, w) := w.readList e r.p1 (t.ind.getD 1 0)
  let thr := decElem 0 x.hi
  let thrBad := match thr with
    | .fin d => d.neg && d.m != 0
    | _ => true
  let extra := r.p0 != 0 || (if x.sel = 0 then thrBad else fld r.imm.toNat 63 45 != 0)
    || (x.sel == 1 && decide (4096 < x.hi)) || (x.sel == 2 && decide (64 < x.hi))
  runMask w e t lr extra none fun _ _ b _ => pruneKeep x.sel x.hi thr b

/-- Whether a record is a mask record of an opcode and selection. -/
def isMask (op sel : Nat) (r : Record) : Bool := r.op.toNat == op && fld r.opflags.toNat 6 4 == sel

/-- PRUNE THRESH (R200): stored weights below a magnitude, and stored NaNs, removed. -/
def execPruneThresh (c : CoreId) (s : State) : Out := .next (s.withW (s.runRow c .matrix (isMask 0x35 0) runPrune))
/-- PRUNE TILEK (R200): the COUNT lowest-ranked stored weights of each tile removed. -/
def execPruneTilek (c : CoreId) (s : State) : Out := .next (s.withW (s.runRow c .matrix (isMask 0x35 1) runPrune))
/-- PRUNE ROWK (R200): the COUNT lowest-ranked stored weights of each row removed. -/
def execPruneRowk (c : CoreId) (s : State) : Out := .next (s.withW (s.runRow c .matrix (isMask 0x35 2) runPrune))

/-! ## REGROW (R205–R207) -/

/-- Absent positions of a tile that may be selected: within K_L and N_L (R199). -/
def BattList.absent (l : BattList) (b : Batt) : List Nat :=
  (List.range 4096).filter fun p =>
    !decide (p ∈ b.w.map (·.1)) && decide (64 * b.kti + p / 64 < l.kl) && decide (64 * b.nti + p % 64 < l.nl)

/-- Stored weights with positions added, each holding +0 (R207), in increasing position. -/
def addWeights (b : Batt) (ps : List Nat) : List (Nat × Nat) := ps.foldl (fun (t : Tab Nat) p => Tab.set t p 0) b.w

/-- The global index of a position (R202). -/
def BattList.global (l : BattList) (b : Batt) (p : Nat) : Nat :=
  (l.kbase + 64 * b.kti + p / 64) * l.ntotal + l.nbase + 64 * b.nti + p % 64

/-- Absent positions in increasing PMX output, the lower position first among equals (R206). -/
def BattList.randomOrder (l : BattList) (seed : Word) (tid : Nat) (b : Batt) (ps : List Nat) : List Nat :=
  (sortBy (fun x y : Nat × Nat => decide (x.1 < y.1) || (x.1 == y.1 && decide (x.2 ≤ y.2)))
    (ps.map fun p => ((pmx seed tid (BitVec.ofNat 64 (l.global b p)) b.gen).toNat, p))).map (·.2)

/-- A candidate list (R203): header fields, address of its first pair. -/
structure CandList where
  t0 : Nat
  n : Nat
  len : Nat
  row : Bool
  kc : Nat
  gran : Nat
  at_ : Nat
  deriving DecidableEq, Repr

/-- A candidate list from its header at a scratchpad address; none where it breaks R203 or the limits of R216. A KC of 256 does not fit the byte that
R203 gives it: the header holds its low byte, 0, and a TILE header of 0 means 256 (DESIGN CHOICE, log entry 162). -/
def CandList.parse (b : List Byte) (a : Nat) : Option CandList :=
  let x : CandList := { t0 := le b 0 4, n := le b 4 4, len := le b 8 2, row := le b 10 1 == 1, kc := le b 11 1, gran := le b 12 2, at_ := a + 64 }
  let kc := if le b 10 1 = 0 ∧ x.kc = 0 then 256 else x.kc
  if decide (1 < le b 10 1) || !allZero (sl b 14 50) || kc == 0 || (x.row && decide (4 < kc)) || x.len != (if x.row then 64 * kc else kc)
      || decide (0x60000 < a + 64 + 16 * x.len * x.n) then none
  else some { x with kc }

/-- Candidates of slots: positions that may be added, in slot order (R205). One whose key names another entry than its block's is skipped, R205 not
speaking of it (DESIGN CHOICE, log entry 162). -/
def World.candidates (w : World) (c : Nat) (x : CandList) (entry : Nat) (slots : List Nat) : List Nat :=
  slots.filterMap fun s =>
    let a := x.at_ + 16 * (x.len * (entry - x.t0) + s)
    let m := (w.core c).sp
    let key := leNat (Cells.read m.cells a 4)
    if key = 0xFFFFFFFF ∨ m.poisoned 16 a 16 = true ∨ (w.container c 1 (a + 8)).poison = true ∨ key / 4096 ≠ entry then none
    else some (key % 4096)

/-- The first `count` distinct positions of a list that are absent. -/
def takeAbsent (absent : List Nat) : Nat → List Nat → List Nat → List Nat
  | 0, _, acc => acc
  | _, [], acc => acc
  | count + 1, p :: ps, acc =>
    if p ∈ absent ∧ p ∉ acc then takeAbsent absent count ps (acc ++ [p]) else takeAbsent absent (count + 1) ps acc

/-- The positions that REGROW adds to a tile (R205, R206). -/
def World.regrowPick (w : World) (e : Env) (r : Record) (cl : Option CandList) (l : BattList) (b : Batt) (entry : Nat) : List (Nat × Nat) :=
  let x := maskRec r
  let absent := l.absent b
  let seed := (w.ctx e.n).seed
  let ps : List Nat :=
    match cl with
    | some q =>
      if q.row then (List.range 64).flatMap fun k =>
        takeAbsent (absent.filter fun p => p / 64 == k) x.hi (w.candidates e.c q entry ((List.range q.kc).map (k * q.kc + ·))) []
      else takeAbsent absent x.hi (w.candidates e.c q entry (List.range q.len)) []
    | none =>
      if x.sel = 1 then (l.randomOrder seed r.stream.toNat b absent).take x.hi
      else (List.range 64).flatMap fun k => (l.randomOrder seed r.stream.toNat b (absent.filter fun p => p / 64 == k)).take x.hi
  addWeights b ps

/-- REGROW with one selection. -/
def runRegrow (w : World) (e : Env) (t : Entry) : Run :=
  let r := t.cmd
  let x := maskRec r
  let (lr, w) := w.readList e r.p1 (t.ind.getD 1 0)
  let (oc, w) := if x.sel = 0 ∧ refSpace r.p0 = 1 then w.fetchRef e r.p0 (t.ind.getD 0 0) 64 else (.none, w)
  let cl : Option CandList := match oc with
    | .at_ _ a b false => CandList.parse b a
    | _ => none
  let gran := match lr with | .ok l => l.gran | _ => 0
  let extra := fld r.imm.toNat 63 45 != 0
    || (if x.sel = 0 then
      (match cl with
      | some q => q.gran != gran || decide (x.t0 < q.t0) || decide (q.t0 + q.n < x.t0 + x.tc) || decide ((if q.row then 64 else 4096) < x.hi)
      | none => true)
      else r.p0 != 0 || decide ((if x.sel = 1 then 4096 else 64) < x.hi))
  let span := cl.map fun q => (q.at_ - 64, q.at_ + 16 * q.len * q.n)
  let w := match cl with
    | some q => if extra then w else w.touch e.c (some e.n) .scratch (wordsOf 16 (q.at_ + 16 * q.len * (x.t0 - q.t0)) (16 * q.len * x.tc))
    | none => w
  runMask w e t lr extra span fun w l b entry => w.regrowPick e r cl l b entry

/-- REGROW GRAD (R205): positions added from a candidate list. -/
def execRegrowGrad (c : CoreId) (s : State) : Out := .next (s.withW (s.runRow c .matrix (isMask 0x36 0) runRegrow))
/-- REGROW RANDT (R206): absent positions of each tile chosen by PMX. -/
def execRegrowRandt (c : CoreId) (s : State) : Out := .next (s.withW (s.runRow c .matrix (isMask 0x36 1) runRegrow))
/-- REGROW RANDR (R206): absent positions of each row chosen by PMX. -/
def execRegrowRandr (c : CoreId) (s : State) : Out := .next (s.withW (s.runRow c .matrix (isMask 0x36 2) runRegrow))

/-! ## PROBE (R202–R204) -/

/-- The longest record that R96 admits, in clk (R204, R222, R239). -/
abbrev clkLimit : Nat := 8200

/-- Time of a PROBE (R204). -/
def probeClk (tc m len f1 f2 : Nat) : Nat := tc * cdiv (131072 * cdiv m 32) (32 * subTileK f1 f2) + cdiv len 4 + 48

/-- The block of pairs of one list entry (R203): the KC highest-ranked unpoisoned values of the tile or of each row. -/
def probeBlock (row : Bool) (kc entry : Nat) (vals : List (Nat × Val)) : List (Option (Nat × Val)) :=
  let best (l : List (Nat × Val)) : List (Option (Nat × Val)) :=
    let order := (byRank (l.map fun x => (x.2.n, x.1))).reverse.take kc
    let found := order.filterMap fun p => (l.find? fun x => x.1 = p).map fun x => some (entry * 4096 + p, x.2)
    found ++ List.replicate (kc - found.length) none
  let live := vals.filter fun x => !x.2.poison
  if row then (List.range 64).flatMap fun k => best (live.filter fun x => x.1 / 64 == k) else best live

/-- A tile of a list that a PROBE evaluates, with its entry (R202): the Batts that can be read. -/
def BattList.tiles (l : BattList) (mem : EccMem) (es : List Nat) : List (Nat × Batt) :=
  (es.filter fun en => !l.tainted mem en).filterMap fun en => match l.batt mem en with | .ok q => some (en, q) | _ => none

/-- The absent positions of a tile, as samples. -/
def BattList.absentSamples (l : BattList) (y : Nat × Batt) : List Sample :=
  (l.absent y.2).map fun p =>
    { k := 64 * y.2.kti + p / 64, n := 64 * y.2.nti + p % 64, ord := l.global y.2 p, idx := y.1 * 4096 + p, tile := y.1 }

/-- Iteration coordinates of the first `m` elements of each column that samples take. -/
def probeRows (m : Nat) (us : List Nat) : List (List Nat) := (distinct us).flatMap fun k => (List.range m).map fun i => [i, k, 0, 0, 0]

/-- PROBE (R202–R204). It rounds, so all of its mode fields are checked, the output mode too, which R197 does not list among those it uses; a Batt that
is malformed or holds poison gives its block no candidates, with the record of R210 and its count in 0x3A00:05 (DESIGN CHOICE, log entry 163). -/
def runProbe (w : World) (e : Env) (t : Entry) : Run :=
  let r := t.cmd
  let ind (i : Nat) : Word := t.ind.getD i 0
  let x := maskRec r
  let (oa, w) := w.fetchRef e r.p0 (ind 0) 64
  let (ob, w) := w.fetchRef e r.p2 (ind 2) 64
  let (lr, w) := w.readList e r.p1 (ind 1)
  let row := x.sel == 1
  let kc := fld r.imm.toNat 8 0
  let len := if row then 64 * kc else kc
  match firstFault [oa, ob] with
  | some st => .fail w st
  | none =>
    let mem := (w.core e.c).ws
    let poison := match lr with | .ok l => l.poolPoison mem | _ => false
    let lr : ListRead := match lr with | .ok l => if poison then .poison l.pool else lr | _ => lr
    let w := match lr with | .ok l => w.touch e.c (some e.n) .weight l.poolWords | _ => w
    let tiles : List (Nat × Batt) := match lr with | .ok l => l.tiles mem x.es | _ => []
    let ss : List Sample := match lr with | .ok l => tiles.flatMap l.absentSamples | _ => []
    let shapeBad : Bool :=
      match oa.desc, ob.desc, lr with
      | some a, some b, .ok l =>
        a.matOperandBad || b.matOperandBad || a.qfmt != 0 || b.qfmt != 0 || a.rank != 2 || b.rank != 2 || a.sz 0 != b.sz 0
          || a.sz 1 != l.kl || b.sz 1 != l.nl || decide (1048576 < a.sz 0) || decide (l.entries < x.t0 + x.tc)
          || pairBad a.fmt b.fmt || groupSize r.gsize a.fmt b.fmt == 0 || decide (clkLimit < probeClk x.tc (a.sz 0) len a.fmt b.fmt)
          || (decide (x.t0 + x.tc ≤ l.entries) && l.inconsistent mem x.es)
      | _, _, _ => true
    let bad := commonBad e r || modeBad r || fld r.opflags.toNat 31 25 != 0 || fld r.opflags.toNat 3 0 != 0
      || fld r.imm.toNat 63 9 != 0 || oa.isBad || ob.isBad || oa.isNone || ob.isNone || kc == 0 || decide ((if row then 4 else 256) < kc)
      || !regionOk r.p3 (ind 3) [1] (64 + 16 * len * x.tc) || shapeBad
    let scBad := match oa.desc, ob.desc with
      | some a, some b =>
        w.operandScaleRefused e a (probeRows (a.sz 0) (ss.map (·.k))) || w.operandScaleRefused e b (probeRows (a.sz 0) (ss.map (·.n)))
      | _, _ => false
    match firstRefusal [(bad || scBad, stState), ([oa, ob].any fun o => (o.desc.map Desc.misaligned).getD false, stAlign)] with
    | some st => .fail (w.listRefused e lr) st
    | none =>
      match oa.desc, ob.desc, lr with
      | some a, some b, .ok l =>
        let M := a.sz 0
        let bads : List Nat := x.es.filter fun en => !decide (en ∈ tiles.map (·.1))
        let ia := probeRows M (ss.map (·.k))
        let ib := probeRows M (ss.map (·.n))
        match w.xlateScales e { d := a } false ia with
        | (.error st, w) => .fail w st
        | (.ok pa, w) =>
          match w.xlateScales e { d := b } false ib with
          | (.error st, w) => .fail w st
          | (.ok pb, w) =>
            let sa : Src := { d := a, pages := pa }
            let sb : Src := { d := b, pages := pb }
            if w.operandBadScale e sa ia || w.operandBadScale e sb ib then .fail w stState
            else
              let G := groupSize r.gsize a.fmt b.fmt
              let A := w.matOperand e r sa ia
              let B := w.matOperand e r sb ib
              let narrow := fmtNarrow a.fmt && fmtNarrow b.fmt
              let byIdx : Tab Sample := ss.foldl (fun (u : Tab Sample) y => Tab.set u y.idx y) []
              let get (i : Nat) : Sample := Tab.get ⟨0, 0, 0, 0, 0, false⟩ byIdx i
              let sum (i _n g : Nat) : Val :=
                dotGroup narrow (fun m => A.at_ m (get i).k) (fun m => B.at_ m (get i).n) ((List.range (min G (M - g * G))).map (g * G + ·))
              let at_ (tile k n : Nat) : Option Nat :=
                if byIdx.any fun y => y.1 == tile * 4096 + 64 * k + n then some (tile * 4096 + 64 * k + n) else none
              let acc := accumulateSteps (accRm w r) 1 (fun i _ => (get i).ord) id sum (rngOf w e r (isPositional w r)) []
                (sampleSteps (tiles.map (·.1)) at_ M G (subTileK a.fmt b.fmt))
              let vals (en : Nat) : List (Nat × Val) :=
                (ss.filter fun y => y.tile == en).map fun y => (y.idx % 4096, Tab.get Val.zero acc.1 y.idx)
              let blocks := x.es.flatMap fun en => probeBlock row kc en (vals en)
              let origin := r.stream.toNat
              let head := leBytes 4 x.t0 ++ leBytes 4 x.tc ++ leBytes 2 len ++ leBytes 1 x.sel ++ leBytes 1 kc ++ leBytes 2 l.gran ++ leBytes 50 0
              let body := blocks.flatMap fun y => match y with
                | some (key, v) => pairBytes key origin v
                | none => leBytes 4 0xFFFFFFFF ++ leBytes 4 origin ++ leBytes 8 0
              let w1 := w.touch e.c (some e.n) .weight (l.words mem.cells x.es)
              let w1 := bads.foldl (fun w en => w.raiseSparse e stPoison (256 * l.gran) en) w1
              let w1 := ((w1.readOperand e sa ia).readOperand e sb ib).softStart e.c
              let w1 := w1.writeCore e.c (some e.n) .scratch [bytesAt (refAddr r.p3 (ind 3)) (head ++ body)]
              let w1 := (w1.putRng e.c acc.2).countOob e.c (A.fills + B.fills) 0
              let w1 := { w1 with nums := { w1.nums with probed := bump 64 w1.nums.probed ss.length
                                                         unchanged := bump 64 w1.nums.unchanged bads.length } }
              Run.settle e t.idx r w1 [] (ss.any fun y => (Tab.get Val.zero acc.1 y.idx).poison)
                (blocks.filter Option.isSome).length (oobFlag (A.fills + B.fills))
      | _, _, _ => .fail w stState

/-- PROBE TILE (R202): the KC highest-ranked absent positions of each tile. -/
def execProbeTile (c : CoreId) (s : State) : Out := .next (s.withW (s.runRow c .matrix (isMask 0x37 0) runProbe))
/-- PROBE ROW (R202): the KC highest-ranked absent positions of each row. -/
def execProbeRow (c : CoreId) (s : State) : Out := .next (s.withW (s.runRow c .matrix (isMask 0x37 1) runProbe))

end Sys2Proof.Machine
end

