-- ==== Sys2Proof/Machine/Predict.lean ====
section
/-! DEFINITION. The Predictor Engine and the Screener (R218–R225, R233–R243). -/
namespace Sys2Proof.Machine

/-- A dot product of length K in groups of G under RNE with S = 1 (R29, R218, R238); no stage takes random bits. -/
def dotRne (G : Nat) (narrow : Bool) (K : Nat) (a b : Nat → Val) : Val :=
  (accumulate .rne 0 { positional := true, seed := 0, tid := 0, gen := {} } 0 Val.zero
    ((List.range (cdiv K G)).map fun g => dotGroup narrow a b ((List.range (min G (K - g * G))).map (g * G + ·)))).1

/-- A PS36 value converted to BF16 with RNE, its poison kept (R46, R218). -/
def toBf16 (v : Val) : Val :=
  { n := if v.poison then .nan else decElem 1 (convPlain 1 .rne 0 v.n), poison := v.poison }

/-- The largest of several values, NaN below every number (R218); poison of any. -/
def scoreOf (vs : List Val) : Val :=
  { n := vs.foldl (fun acc v => if acc = .nan then v.n else if v.n = .nan then acc else if acc.lt v.n then v.n else acc) .nan
    poison := vs.any (·.poison) }

/-- Whether a score ranks before another (R219, R238): poisoned first where `poisonFirst`, decreasing value with NaN last, lower
index. -/
def scoreBefore (poisonFirst : Bool) (a b : Nat × Val) : Bool :=
  if poisonFirst && a.2.poison != b.2.poison then a.2.poison
  else
    let an := a.2.n == .nan
    let bn := b.2.n == .nan
    if an != bn then bn
    else if an then decide (a.1 ≤ b.1)
    else if b.2.n.lt a.2.n then true
    else if a.2.n.lt b.2.n then false
    else decide (a.1 ≤ b.1)

/-- Bytes of an active-neuron list. -/
def actListBytes (mode slot n0 nc active step theta stream : Nat) (es : List (Nat × Bool)) : List Byte :=
  actHeader mode slot n0 nc es.length active (es.filter (·.2)).length 0 step theta stream ++ es.flatMap actEntry

/-- A dense operand of the Predictor Engine or the Screener: P0 in SPACE 1, weights in SPACE 2 (R220, R237). -/
def predOperandBad (d : Desc) (space : Nat) (fmts : List Nat) (qfmt : Nat) : Bool :=
  d.matOperandBad || d.rank != 2 || d.space != space
    || !(if d.qfmt = 0 then decide (d.fmt ∈ fmts) else d.qfmt == qfmt && qfmt != 0)

/-- Iteration coordinates of a dense operand of rank 2. -/
def denseCoords (n m : Nat) : List (List Nat) := (List.range m).flatMap fun j => (List.range n).map fun i => [i, j, 0, 0, 0]

/-- Time bound of a PREDICT with E = N_C (R222). -/
def predictClk (m kp r nc : Nat) (hin : Bool) : Nat :=
  (if hin then 0 else cdiv (m * kp * r) 16384) + cdiv (m * r * nc) 16384 + cdiv nc 64 + cdiv nc 16 + 64

/-- The record of unit 8 (R480). -/
def World.raisePred (w : World) (e : Env) (st idx : Nat) : World := w.raise clsUe uPred st e.c (some e.n) (dieOfCore e.c) idx

/-- PREDICT (R218–R225, R233, R241); `units` are the units that the licence enables. The neurons predicted active are those of R219 before the cut to
AMAX (DEDUCED, log entry 140). -/
def runPredict (units : Nat) (w : World) (e : Env) (t : Entry) : Run :=
  let r := t.cmd
  let ind (i : Nat) : Word := t.ind.getD i 0
  let f := r.opflags.toNat
  let hin := bit f 4
  let mode := fld f 3 2
  let n0 := fld f 23 6
  let slot := fld r.imm.toNat 39 32
  let amax := fld r.imm.toNat 16 0
  let present := bit units 0
  if !present && !bit f 1 then .fail w stUnitAbsent
  else
    let (ox, w) := w.fetchRef e r.p0 (ind 0) 64
    let (ou, w) := w.fetchRef e r.p1 (ind 1) 64
    let (ov, w) := w.fetchRef e r.p2 (ind 2) 64
    match firstFault [ox, ou, ov] with
    | some st => .fail w st
    | none =>
      let shapeBad : Bool :=
        match ox.desc, ov.desc with
        | some x, some v =>
          let rk := v.sz 1
          let kp := if hin then 1 else x.sz 0
          (if hin then predOperandBad x 1 [1] 0 || x.sz 0 != rk else predOperandBad x 1 [3, 4] 3)
            || predOperandBad v 2 [3] 0 || rk % 16 != 0 || decide (256 < rk) || decide (1024 < x.sz 1) || decide (65536 < kp)
            || decide (65536 < v.sz 0) || decide (262144 < n0 + v.sz 0)
            || (match ou.desc with
              | some u => hin || predOperandBad u 2 [3] 0 || u.sz 0 != rk || u.sz 1 != x.sz 0
              | none => !hin)
            || !regionOk r.p3 (ind 3) [1] (64 + 4 * v.sz 0) || decide (clkLimit < predictClk (x.sz 1) kp rk (v.sz 0) hin)
        | _, _ => true
      let bad := commonBad e r || fld f 31 24 != 0 || bit f 5 || bit f 0 || decide (2 ≤ mode) || fld r.imm.toNat 63 40 != 0
        || fld r.imm.toNat 31 17 != 0 || amax == 0 || decide (65536 < amax) || ox.isBad || ou.isBad || ov.isBad || shapeBad
      let ix := match ox.desc with | some x => denseCoords (x.sz 0) (x.sz 1) | none => []
      let iv := match ov.desc with | some v => denseCoords (v.sz 0) (v.sz 1) | none => []
      let iu := match ou.desc with | some u => denseCoords (u.sz 0) (u.sz 1) | none => []
      let scBad := present && [(ox, ix), (ou, iu), (ov, iv)].any fun y => match y.1.desc with | some d => w.operandScaleRefused e d y.2 | none => false
      match firstRefusal [(bad || scBad, stState), ([ox, ou, ov].any fun o => (o.desc.map Desc.misaligned).getD false, stAlign)] with
      | some st => .fail w st
      | none =>
        match ox.desc, ov.desc with
        | some x, some v =>
          let nc := v.sz 0
          let step := (w.ctx e.n).step
          let dst := refAddr r.p3 (ind 3)
          if !present then
            let bs := actListBytes 3 0xFFFF n0 nc nc step 0 r.stream.toNat ((List.range nc).map fun i => (i, false))
            let w1 := w.writeCore e.c (some e.n) .scratch [bytesAt dst bs]
            { w := { w1 with nums := { w1.nums with fallbacks := bump 64 w1.nums.fallbacks 1 } }, st := stOk, count := nc, flags := 1 }
          else
            let M := x.sz 1
            let rk := v.sz 1
            match w.xlateScales e { d := x } (x.qfmt != 0) ix with
            | (.error st, w) => .fail w st
            | (.ok px, w) =>
              match (match ou.desc with | some u => w.xlateScales e { d := u } false iu | none => (.ok [], w)) with
              | (.error st, w) => .fail w st
              | (.ok pu, w) =>
                match w.xlateScales e { d := v } false iv with
                | (.error st, w) => .fail w st
                | (.ok pv, w) =>
                  let sx_ : Src := { d := x, pages := px }
                  let sv : Src := { d := v, pages := pv }
                  let su : Option Src := ou.desc.map fun u => { d := u, pages := pu }
                  let badSc := w.operandBadScale e sx_ ix || w.operandBadScale e sv iv
                    || (match su with | some u => w.operandBadScale e u iu | none => false)
                  if badSc then .fail w stState
                  else
                    let X := w.matOperand e r sx_ ix
                    let V := w.matOperand e r sv iv
                    let U := (su.map fun u => w.matOperand e r u iu).getD { vals := [] }
                    let h : Tab Val := (List.range M).foldl (fun (u : Tab Val) m => (List.range rk).foldl (fun (u : Tab Val) j =>
                      Tab.set u (m * rk + j)
                        (if hin then X.at_ j m else toBf16 (dotRne 16 true (x.sz 0) (fun k => X.at_ k m) fun k => U.at_ j k))) u) []
                    let score (n : Nat) : Val :=
                      scoreOf ((List.range M).map fun m =>
                        dotRne 8 false rk (fun j => Tab.get Val.zero h (m * rk + j)) fun j => V.at_ n j)
                    let sb := w.hbmBytes (predBase e.n slot) 64
                    let theta := decElem 0 (le sb 0 4)
                    let scores := (List.range nc).map fun n => (n, score n)
                    let lost := w.hbm.mem.bad (predBase e.n slot / 64)
                    let hot := scores.filter fun s => lost || s.2.poison || (s.2.n != .nan && theta != .nan && !s.2.n.lt theta)
                    let act := ((sortBy (scoreBefore true) hot).take amax).map (·.1)
                    let div := le sb 24 2
                    let sampled (n : Nat) : Bool :=
                      div != 0 && decide ((pmx (w.ctx e.n).seed r.stream.toNat (BitVec.ofNat 64 (n0 + n)) step).toNat / 2 ^ 32 < 2 ^ 32 / div)
                    let es := (List.range nc).filterMap fun n =>
                      if n ∈ act then some (n, false) else if mode = 1 ∨ sampled n = true then some (n, true) else none
                    let skips := (es.filter (·.2)).length
                    let w1 := (w.readOperand e sx_ ix).readOperand e sv iv
                    let w1 := match su with | some u => w1.readOperand e u iu | none => w1
                    let w1 := (w1.putMatOp e sx_ X).softStart e.c
                    let w1 := w1.writeCore e.c (some e.n) .scratch
                      [bytesAt dst (actListBytes mode slot n0 nc hot.length step (le sb 0 4) r.stream.toNat es)]
                    let w1 := w1.hbmUpdate (some e.n) (predBase e.n slot) 64 fun b => slotCount b step 32 40 skips
                    let w1 := w1.countOob e.c (X.fills + V.fills + U.fills) 0
                    let w1 := { w1 with nums := { w1.nums with predicts := bump 64 w1.nums.predicts 1
                                                               predActive := bump 64 w1.nums.predActive hot.length
                                                               samples := bump 64 w1.nums.samples skips } }
                    let poison := lost || scores.any fun s => s.2.poison
                    let q := Run.settle e t.idx r w1 X.sat false hot.length (oobFlag (X.fills + V.fills + U.fills) + retryFlag X.retries)
                    if poison then { q with w := q.w.raisePred e stPoison t.idx, st := stPoison } else q
        | _, _ => .fail w stState

/-- Whether a PREDICT of a core may start: not while its context's predictor slots are being updated (R235). One that the part refuses for its
absent unit does not wait (R523). -/
def State.predictReady (s : State) (c : Nat) : Bool :=
  match s.starting c .matrix with
  | some (e, t) => !(s.w.ctx e.n).predWait || s.w.lacksUnit s.ctl.sec.units e t
  | none => false

/-- PREDICT of one mode. -/
def State.predict (s : State) (c : Nat) (mode : Nat) : World :=
  if s.predictReady c then
    s.runRow c .matrix (fun r => r.op == 0x38 && fld r.opflags.toNat 3 2 == mode) (runPredict s.ctl.sec.units)
  else s.w

/-- PREDICT in mode PREDICTED (R218, R225). -/
def execPredictPredicted (c : CoreId) (s : State) : Out := .next (s.withW (s.predict c 0))
/-- PREDICT in mode EXACT (R218, R225). -/
def execPredictExact (c : CoreId) (s : State) : Out := .next (s.withW (s.predict c 1))

/-- Time bound of a SCREEN with E = N_C (R239). -/
def screenClk (m ks nc : Nat) : Nat := cdiv (m * ks * nc) 32768 + cdiv (m * nc) 64 + cdiv nc 16 + 64

/-- SCREEN (R237–R240). -/
def runScreen (units : Nat) (w : World) (e : Env) (t : Entry) : Run :=
  let r := t.cmd
  let ind (i : Nat) : Word := t.ind.getD i 0
  let f := r.opflags.toNat
  let n0 := fld f 23 6
  let topk := fld r.imm.toNat 10 0
  if !bit units 1 then .fail w stUnitAbsent
  else
    let (ox, w) := w.fetchRef e r.p0 (ind 0) 64
    let (ov, w) := w.fetchRef e r.p1 (ind 1) 64
    match firstFault [ox, ov] with
    | some st => .fail w st
    | none =>
      let shapeBad : Bool :=
        match ox.desc, ov.desc with
        | some x, some v =>
          predOperandBad x 1 [5] 5 || predOperandBad v 2 [5] 0 || v.sz 1 != x.sz 0 || decide (1024 < x.sz 1) || decide (65536 < x.sz 0)
            || decide (65536 < v.sz 0) || decide (262144 < n0 + v.sz 0) || decide (v.sz 0 < topk) || decide (65536 < x.sz 1 * topk)
            || !regionOk r.p3 (ind 3) [1] (64 + 4 * v.sz 0) || decide (clkLimit < screenClk (x.sz 1) (x.sz 0) (v.sz 0))
        | _, _ => true
      let bad := commonBad e r || r.p2 != 0 || fld f 31 24 != 0 || fld f 5 0 != 0 || fld r.imm.toNat 63 11 != 0 || topk == 0
        || decide (1024 < topk) || ox.isBad || ov.isBad || shapeBad
      let ix := match ox.desc with | some x => denseCoords (x.sz 0) (x.sz 1) | none => []
      let iv := match ov.desc with | some v => denseCoords (v.sz 0) (v.sz 1) | none => []
      let scBad := [(ox, ix), (ov, iv)].any fun y => match y.1.desc with | some d => w.operandScaleRefused e d y.2 | none => false
      match firstRefusal [(bad || scBad, stState), ([ox, ov].any fun o => (o.desc.map Desc.misaligned).getD false, stAlign)] with
      | some st => .fail w st
      | none =>
        match ox.desc, ov.desc with
        | some x, some v =>
          let nc := v.sz 0
          let M := x.sz 1
          match w.xlateScales e { d := x } (x.qfmt != 0) ix with
          | (.error st, w) => .fail w st
          | (.ok px, w) =>
            match w.xlateScales e { d := v } false iv with
            | (.error st, w) => .fail w st
            | (.ok pv, w) =>
              let sx_ : Src := { d := x, pages := px }
              let sv : Src := { d := v, pages := pv }
              if w.operandBadScale e sx_ ix || w.operandBadScale e sv iv then .fail w stState
              else
                let X := w.matOperand e r sx_ ix
                let V := w.matOperand e r sv iv
                let rows := (List.range M).map fun m => (List.range nc).map fun n =>
                  (n, dotRne 16 true (x.sz 0) (fun k => X.at_ k m) fun k => V.at_ n k)
                -- a poisoned value selects its neuron beside the row's TOPK others (DEDUCED, log entry 25)
                let pick (row : List (Nat × Val)) : List Nat :=
                  ((sortBy (scoreBefore false) (row.filter fun y => !y.2.poison)).take topk).map (·.1)
                    ++ (row.filter fun y => y.2.poison).map (·.1)
                let sel := distinct (rows.flatMap pick)
                let poison := rows.any fun row => row.any fun y => y.2.poison
                let w1 := (w.readOperand e sx_ ix).readOperand e sv iv
                let w1 := (w1.putMatOp e sx_ X).softStart e.c
                let w1 := w1.writeCore e.c (some e.n) .scratch
                  [bytesAt (refAddr r.p3 (ind 3)) (actListBytes 2 0xFFFF n0 nc sel.length (w.ctx e.n).step 0 r.stream.toNat
                    (sel.map fun n => (n, false)))]
                let w1 := w1.countOob e.c (X.fills + V.fills) 0
                let w1 := { w1 with nums := { w1.nums with screens := bump 64 w1.nums.screens 1
                                                           selected := bump 64 w1.nums.selected sel.length } }
                let q := Run.settle e t.idx r w1 X.sat false sel.length (oobFlag (X.fills + V.fills) + retryFlag X.retries)
                if poison then { q with w := q.w.raisePred e stPoison t.idx, st := stPoison } else q
        | _, _ => .fail w stState

/-- SCREEN (R237): the union of each row's TOPK neurons by FP4 scores. -/
def execScreen (c : CoreId) (s : State) : Out := .next (s.withW (s.runRow c .matrix (fun r => r.op == 0x39) (runScreen s.ctl.sec.units)))

/-! ## The policy engine (R234) -/

/-- An F32 number of exact arithmetic rounded with RNE: its bits. -/
def f32Bits (x : FNum) : Nat := convPlain 0 .rne 0 x

/-- F32 sum, difference, quotient (R234). Each count is rounded to F32 before it is divided (DESIGN CHOICE, log entry 168). -/
def f32Add (a b : Nat) : Nat := f32Bits ((decElem 0 a).add (decElem 0 b))
def f32Sub (a b : Nat) : Nat := f32Bits ((decElem 0 a).add (decElem 0 b).neg)
def f32DivN (a b : Nat) : Nat := f32Bits (psDivN (decElem 0 (f32Bits (.fin ⟨false, a, 0⟩))) (decElem 0 (f32Bits (.fin ⟨false, b, 0⟩))))
where
  /-- Exact quotient of two finite numbers. -/
  psDivN : FNum → FNum → FNum
    | .fin x, .fin y => if y.m = 0 then .nan else .fin (x.div y)
    | _, _ => .nan

/-- One predictor slot at an advance to a new step (R234). A bound that is NaN bounds nothing (DESIGN CHOICE, log entry 169). -/
def slotAdvance (b : List Byte) (new : Nat) : List Byte :=
  let adapt := bit (le b 26 2) 0
  let samples := le b 32 4
  let misses := le b 36 4
  let theta := le b 0 4
  let moved :=
    let q := decElem 0 (f32DivN misses samples)
    let rho := le b 12 4
    let lo := decElem 0 (le b 16 4)
    let hi := decElem 0 (le b 20 4)
    if (decElem 0 (f32Add rho rho)).lt q then
      let d := f32Sub theta (le b 8 4)
      if (decElem 0 d).lt lo then le b 16 4 else d
    else if q.lt (decElem 0 (f32Bits ((decElem 0 rho).scale (-1)))) then
      let d := f32Add theta (le b 8 4)
      if hi.lt (decElem 0 d) then le b 20 4 else d
    else theta
  let due := adapt && decide (64 ≤ samples)
  let theta' := if due then moved else theta
  let b := putAt b 0 (leBytes 4 theta')
  let b := if due || !adapt then putAt (putAt b 32 (leBytes 4 0)) 36 (leBytes 4 0) else b
  let b := putAt b 28 (leBytes 4 new)
  if theta' = theta then b else putAt b 56 (leBytes 4 (add32 (le b 56 4) 1))

end Sys2Proof.Machine
end

