-- ==== Sys2Proof/Machine/Crown.lean ====
section
/-! DEFINITION. The Crown (R35, R59, R92–R94): arrival of CROWN records at their group, the start of a phase, its end. -/
namespace Sys2Proof.Machine

/-- Fields of a CROWN record (R68). -/
def crownKind (r : Record) : Nat := fld r.opflags.toNat 1 0
def crownBcast (r : Record) : Bool := bit r.opflags.toNat 2
def crownOffset (r : Record) : Nat := fld r.imm.toNat 15 0
def crownTag (r : Record) : Nat := fld r.imm.toNat 31 16
def crownElems (r : Record) : Nat := fld r.imm.toNat 47 32
/-- Containers of a region: E, or 3E for kind 1 (R94). -/
def crownWords (r : Record) : Nat := if crownKind r = 1 then 3 * crownElems r else crownElems r

/-- First core of the aligned group of a core (R92). -/
def crownFirst (c slog : Nat) : Nat := c / 2 ^ slog * 2 ^ slog
/-- The cores of a group. -/
def crownCores (first slog : Nat) : List Nat := (List.range (2 ^ slog)).map (first + ·)

/-- What completes a CROWN record on its own with `ST_STATE` (R92, R94, R97); MAX rounds nothing, so its rounding fields are not checked (R65). -/
def crownBad (e : Env) (t : Entry) : Bool :=
  let r := t.cmd
  let n := 8 * crownWords r
  commonBad e r || (crownKind r != 2 && modeBad r) || r.p2 != 0 || r.p3 != 0 || fld r.opflags.toNat 31 3 != 0 || fld r.imm.toNat 63 48 != 0 || crownKind r == 3
    || crownElems r == 0 || decide (16384 < crownElems r) || decide (4095 < crownOffset r) || decide (16384 < crownWords r)
    || decide (10 < r.slog) || !(crownCores (crownFirst e.c r.slog) r.slog).all e.inGroup
    || !regionOk r.p0 (t.ind.getD 0 0) [1, 3] n || !regionOk r.p1 (t.ind.getD 1 0) [1, 3] n

/-- The CROWN record that has arrived at the head of a core's matrix queue, with its accumulation mode. -/
def World.arrived (w : World) (c : Nat) : Option (Entry × Nat) :=
  match (w.core c).matrix.find? fun t => !t.st.isDone with
  | some t => (match t.st with | .arrived a => some (t, a) | _ => none)
  | none => none

/-- The records of a group when every core of it has arrived. -/
def World.crownGroup (w : World) (first slog : Nat) : Option (List (Nat × Entry × Nat)) :=
  let l := (crownCores first slog).map fun c => (w.arrived c).map fun t => (c, t)
  if l.all Option.isSome then some (l.filterMap id) else none

/-- Whether the records of a phase agree (R92). -/
def crownAgree : List (Nat × Entry × Nat) → Bool
  | [] => true
  | a :: l => l.all fun b =>
    a.2.1.cmd.slog == b.2.1.cmd.slog && crownTag a.2.1.cmd == crownTag b.2.1.cmd && crownElems a.2.1.cmd == crownElems b.2.1.cmd
      && crownKind a.2.1.cmd == crownKind b.2.1.cmd && a.2.2 == b.2.2

/-- Whether the group that a core's arrived record names has a phase: all of its cores have arrived, and their records agree (R92). -/
def World.hasPhase (w : World) (c : Nat) : Bool :=
  match w.arrived c with
  | none => false
  | some (t, _) => ((w.crownGroup (crownFirst c t.cmd.slog) t.cmd.slog).map crownAgree).getD false

/-- The group whose last core a core is, where its records disagree: it holds the core, a record of it names it, and none of its records has a phase
of its own (R92). -/
def World.crownClash (w : World) (c : Nat) : Option (List (Nat × Entry × Nat)) :=
  (List.range 11).findSome? fun g =>
    match w.crownGroup (crownFirst c g) g with
    | some l => if (l.any fun x => x.2.1.cmd.slog == g) && !crownAgree l && !l.any (fun x => w.hasPhase x.1) then some l else none
    | none => none

/-- Records of a phase completed with one status and no effect. -/
def World.crownFail (w : World) (l : List (Nat × Entry × Nat)) (st : Nat) : World :=
  l.foldl (fun w x => w.setCore x.1 ((w.core x.1).mark .matrix x.2.1.id (.done st 0 0))) w

/-- A CROWN record checked on its own and arrived at its group (R92): where the last core arrives and the records disagree, every
record of the phase completes with `ST_STATE`. -/
def State.crownArrive (s : State) (c kind : Nat) : World :=
  match s.starting c .matrix with
  | none => s.w
  | some (e, t) =>
    if t.cmd.op ≠ 0x3A ∨ crownKind t.cmd ≠ kind then s.w
    else if crownBad e t then World.finish (.fail s.w stState) c .matrix t.id
    else
      let acc := if t.cmd.accMode = 7 then s.w.nums.accMode else t.cmd.accMode
      let w := s.w.softStart c
      let w := w.setCore c ((w.core c).mark .matrix t.id (.arrived acc))
      match w.crownClash c with
      | some l => w.crownFail l stState
      | none => w

/-- CROWN SUM (R94): the record arrives at its group. -/
def execCrownSum (c : CoreId) (s : State) : Out := .next (s.withW (s.crownArrive c 0))
/-- CROWN MEANVAR (R94): the record arrives at its group. -/
def execCrownMeanvar (c : CoreId) (s : State) : Out := .next (s.withW (s.crownArrive c 1))
/-- CROWN MAX (R94): the record arrives at its group. -/
def execCrownMax (c : CoreId) (s : State) : Out := .next (s.withW (s.crownArrive c 2))

/-- The group of core c whose cores have all arrived and agree, if its phase has not begun. -/
def World.crownReady (w : World) (c : Nat) : Option (Nat × Nat) :=
  match w.arrived c with
  | none => none
  | some (t, _) =>
    let first := crownFirst c t.cmd.slog
    match w.crownGroup first t.cmd.slog with
    | some l => if crownAgree l && !w.crown.any fun p => p.first == first then some (first, t.cmd.slog) else none
    | none => none

/-- The start pulse of the phase of core c's group (R93): sent once its cores have all arrived with agreeing records, not while the group drains for a
save or a snapshot (R269, R291). -/
def execCrownPhaseStart (c : CoreId) (s : State) : Out :=
  match s.w.crownReady c, s.env c with
  | some (first, slog), some e =>
    if e.st = .resident ∧ s.w.snapHolds e.n = false then .next (s.withW { s.w with crown := s.w.crown ++ [{ first, slog, started := true }] }) else .next s
  | _, _ => .next s

/-- Arrival times of a tree's nodes, level by level (R93): none where two inputs of a node lie more than 64 clk apart. -/
def crownSkew : Nat → List Nat → Option (List Nat)
  | 0, l => some l
  | n + 1, l =>
    let pairs := (List.range (l.length / 2)).map fun j => (l.getD (2 * j) 0, l.getD (2 * j + 1) 0)
    if pairs.all fun p => decide (max p.1 p.2 - min p.1 p.2 ≤ 64) then crownSkew n (pairs.map fun p => max p.1 p.2) else none

/-- Draw index of node j of level l (R35). -/
def crownDraw (l j : Nat) : Nat := 0x80000000 + l * 0x00100000 + j

/-- The tree of R35 over the partials of one element; `n` levels remain, `l` is the level formed next. -/
def crownTree (g : Rng) (mode : Rm) (pos : Nat) : Nat → Nat → List Val → Val
  | 0, _, vs => vs.headD Val.zero
  | n + 1, l, vs =>
    crownTree g mode pos n (l + 1) ((List.range (vs.length / 2)).map fun j =>
      (g.roundPs mode pos (crownDraw l j) ((vs.getD (2 * j) Val.zero).add (vs.getD (2 * j + 1) Val.zero))).1)

/-- Two triples combined (R59). -/
def combineTriples (a b : Triple) : Triple :=
  if a.n = 0 then b
  else if b.n = 0 then a
  else
    let n := a.n + b.n
    let sat := decide (2 ^ 40 - 1 < n)
    let n := min n (2 ^ 40 - 1)
    let tag (v : Val) : Val := if sat then { v with overflow := true } else v
    let d := psSub b.mu a.mu
    let mu := psAdd a.mu (psDiv (psMul d (psCount b.n)) (psCount n))
    let m2 := psAdd (psAdd a.m2 b.m2) (psDiv (psMul (psMul (psMul d d) (psCount a.n)) (psCount b.n)) (psCount n))
    { n, mu := tag mu, m2 := tag m2 }

/-- A binary tree over a list of 2^n items. -/
def foldTree {α : Type} (f : α → α → α) (dflt : α) : Nat → List α → α
  | 0, l => l.headD dflt
  | n + 1, l => foldTree f dflt n ((List.range (l.length / 2)).map fun j => f (l.getD (2 * j) dflt) (l.getD (2 * j + 1) dflt))

/-- Exact maximum (R94). -/
def crownMax2 (a b : Val) : Val := orTags (a.n.max b.n) [a, b]

/-- A triple in three containers (R78). -/
def Triple.ofVals (w : World) (c space a : Nat) : Triple :=
  let m := (w.core c).mem (memOfSpace space)
  let poison := m.poisoned 16 a 8
  let tag (v : Val) : Val := { v with poison := v.poison || poison }
  { n := leNat (Cells.read m.cells a 8) % 2 ^ 40, mu := tag (w.container c space (a + 8)), m2 := tag (w.container c space (a + 16)) }

/-- The combined elements of a phase as containers with their poison (R35, R59, R94). -/
def World.crownResult (w : World) (e : Env) (l : List (Nat × Entry × Nat)) : List (Nat × Bool) :=
  match l with
  | [] => []
  | h :: _ =>
    let r := h.2.1.cmd
    let E := crownElems r
    let src (x : Nat × Entry × Nat) : Nat × Nat := (refSpace x.2.1.cmd.p0, refAddr x.2.1.cmd.p0 (x.2.1.ind.getD 0 0))
    match crownKind r with
    | 1 =>
      (List.range E).flatMap fun i =>
        let t := foldTree combineTriples ⟨0, Val.zero, Val.zero⟩ r.slog (l.map fun x => Triple.ofVals w x.1 (src x).1 ((src x).2 + 24 * i))
        [(t.n, false), (psEncode t.mu, t.mu.poison), (psEncode t.m2, t.m2.poison)]
    | k =>
      let g : Rng := { positional := true, seed := (w.ctx e.n).seed, tid := r.stream.toNat, gen := {} }
      (List.range E).map fun i =>
        let vs := l.map fun x => w.container x.1 (src x).1 ((src x).2 + 8 * i)
        let v := if k = 0 then crownTree g ((Rm.ofCode h.2.2).getD .rne) i r.slog 1 vs else foldTree crownMax2 Val.zero r.slog vs
        (psEncode v, v.poison)

/-- One core's record of a phase at its end: P1 written where it receives the result (R92, R94); the Crown stands on compute die 1 (R13). -/
def World.crownStore (w : World) (n first : Nat) (e : Env) (vals : List (Nat × Bool)) (x : Nat × Entry × Nat) : World :=
  let r := x.2.1.cmd
  let gets := x.1 == first || crownBcast r
  let poison := gets && vals.any (·.2)
  let a := refAddr r.p1 (x.2.1.ind.getD 1 0)
  let w := if gets then
      w.writeSpace { e with c := x.1 } [] (refSpace r.p1) (vals.zipIdx.map fun v => ⟨8 * (a + 8 * v.2), 64, v.1.1, false⟩) else w
  let w := if poison then w.raise clsUe uCrown stPoison first (some n) 1 0 (leBytes 2 (crownTag r)) else w
  w.setCore x.1 ((w.core x.1).mark .matrix x.2.1.id (.done (if poison then stPoison else stOk) (crownElems r) 0))

/-- The end of a phase (R93, R94): skew within 64 clk at every node, then the result to core 0 and to each BCAST core. -/
def World.crownEnd (w : World) (e : Env) (p : CrownPhase) : World :=
  match w.crownGroup p.first p.slog with
  | none => w
  | some l =>
    let w := { w with crown := w.crown.filter fun q => q.first != p.first }
    match crownSkew p.slog (l.map fun x => crownOffset x.2.1.cmd) with
    | none => w.crownFail l stTimeout
    | some _ =>
      let vals := w.crownResult e l
      let w := l.foldl (fun w x =>
        w.touch x.1 (some e.n) (memOfSpace (refSpace x.2.1.cmd.p0))
          (wordsOf 16 (refAddr x.2.1.cmd.p0 (x.2.1.ind.getD 0 0)) (8 * crownWords x.2.1.cmd))) w
      l.foldl (fun w x => w.crownStore e.n p.first e vals x) w

/-- The end of the phase that core c's group runs. -/
def execCrownPhaseEnd (c : CoreId) (s : State) : Out :=
  match s.w.crown.find? fun p => p.started && decide (c.val ∈ crownCores p.first p.slog), s.env c with
  | some p, some e => .next (s.withW (s.w.crownEnd e p))
  | _, _ => .next s

end Sys2Proof.Machine
end

