-- ==== Sys2Proof/Machine/Sequencer.lean ====
section
/-! DEFINITION. The sequencer (R61–R71, R80–R89, R258, R286, R287, R308): fetch, dispatch, completion, signals, waits, the scalar
records, STEP with what an advance does. -/
namespace Sys2Proof.Machine

/-! ## Completion (R83, R87–R89, R287) -/

/-- The 16 bytes of a completion record (R89). -/
def completionBytes (r : Record) (st flags c step count : Nat) : List Byte :=
  leBytes 2 r.tag.toNat ++ leBytes 2 st ++ leBytes 1 r.op.toNat ++ leBytes 1 flags ++ leBytes 2 c ++ leBytes 4 step ++ leBytes 4 count

/-- A completion entry lost (R287). -/
def World.loseEntry (w : World) (n : Nat) : World :=
  let x := w.ctx n
  let lost := add32 x.lost 1
  (w.setCtx n { x with lost }).event 0x0104 (0x3100 + n) 7 dieNone (some n) stOk (leBytes 4 lost)

/-- A write of the part's own into a context's rings: translated as core c's completion write; none where it
faults or fails on the bus. -/
def World.ringWrite (w : World) (e : Env) (va : Nat) (bs : List Byte) : Option World × World :=
  let k := e.c / 16
  let x := (w.walker k).xlate w.hbm.mem e.r.root e.n va true
  let w := w.putWalker k e.n x.2
  match x.1 with
  | .ok pa =>
    if w.busHits [pa / 64] then (none, w.meetBus (some e.n) [pa / 64]) else (some (w.writeHbm (some e.n) [bytesAt pa bs]), w)
  | .error f => (none, w.reportFault e.n va f ⟨3, 0, e.c, dieOfCore e.c⟩)

/-- A completion entry written, with the producer index (R287). -/
def World.complete (w : World) (e : Env) (bs : List Byte) : World :=
  let x := w.ctx e.n
  if sub32 x.prod x.cons = 2 ^ e.r.clog then w.loseEntry e.n
  else
    match w.ringWrite e (e.r.comp + 16 * (x.prod % 2 ^ e.r.clog)) bs with
    | (none, w) => w.loseEntry e.n
    | (some w, _) =>
      let x := w.ctx e.n
      let prod := add32 x.prod 1
      let w := w.setCtx e.n { x with prod }
      match w.ringWrite e e.r.compIdx (leBytes 4 prod) with
      | (some w, _) => w
      | (none, w) => w

/-- Whether a record's signal fields name cores and an increment that exist (R66). A record refused because they do not raises no signal: the spec gives
it none to raise (DESIGN CHOICE, log entry 141). -/
def signalOk (e : Env) (r : Record) : Bool :=
  r.sigEn && r.sigTgt != 3 && r.sigInc != 0 && !(r.sigTgt == 2 && decide (10 < r.slog)) && (sigCores r e.c).all e.inGroup

/-- The signal of a record raised (R83, R87). -/
def World.raiseSignal (w : World) (e : Env) (r : Record) : World :=
  if signalOk e r then
    { w with signals := w.signals ++ [{ src := e.c, cores := sigCores r e.c, ctr := r.sigCtr, inc := r.sigInc }] }
  else w

/-- The event that a core raises for a record (R64, R69, R421). -/
def World.recordEvent (w : World) (e : Env) (r : Record) (st : Nat) : World :=
  w.event 0x0002 (0x4000 + e.c) 0 (dieOfCore e.c) (some e.n) st (leBytes 2 r.tag.toNat ++ leBytes 2 r.op.toNat ++ leBytes 8 r.imm.toNat)

/-- A core that dispatches nothing further comes to its end when nothing is in flight (R69, R88). -/
def World.settle (w : World) (c n : Nat) : World :=
  let k := w.core c
  if k.state ≠ .running ∨ k.inFlight ≠ 0 ∨ k.deferred.isEmpty = false then w
  else if k.halted then
    (w.setCore c { k with state := .stopped, halted := false }).event 0x0001 (0x4000 + c) 1 (dieOfCore c) (some n) k.failStatus
      (leBytes 4 k.failIdx ++ leBytes 4 k.nextIdx)
  else if k.ended then w.setCore c { k with state := .done, ended := false }
  else w

/-- What a record's completion does (R83, R87–R89): signal, completion record, event; a failure without CONT halts the core. -/
def World.completeRec (w : World) (e : Env) (r : Record) (idx st count flags : Nat) : World :=
  let failed := !continuing st
  let w := w.raiseSignal e r
  let w := if r.cr || failed then w.complete e (completionBytes r st flags e.c (w.ctx e.n).step count) else w
  let w := if r.evt then w.recordEvent e r st else w
  let k := w.core e.c
  if failed && !r.cont && !k.halted then w.setCore e.c { k with halted := true, failIdx := idx, failStatus := st } else w

/-- The SIGNAL records whose earlier records are all complete (R69). -/
def World.releaseDeferred (w : World) (e : Env) : World :=
  let k := w.core e.c
  let live := (k.entries.map fun x => x.2.id)
  let due (d : Deferred) : Bool := !d.ids.any fun i => decide (i ∈ live)
  let w := w.setCore e.c { k with deferred := k.deferred.filter fun d => !due d }
  (k.deferred.filter due).foldl (fun w d => w.completeRec e d.cmd d.idx stOk 0 0) w

/-! ## Fetch (R286) -/

/-- Whether a core can take part in dispatch: its context is RESIDENT, its cluster in RUN, no snapshot drains the group. -/
def State.dispatching (s : State) (c : Nat) : Option Env :=
  match s.env c with
  | none => none
  | some e =>
    let k := s.w.core c
    if e.st = .resident ∧ (s.w.cluster (c / 16)).power = .run ∧ (s.w.cluster (c / 16)).entering = none ∧ s.w.snapHolds e.n = false
        ∧ k.state = .running ∧ k.halted = false ∧ k.ended = false ∧ k.stepWait = false then some e else none

/-- A command fetch that fails stops the core with the fetched index as the failed record (R286, R88). -/
def World.fetchFail (w : World) (c n idx st : Nat) : World :=
  (w.setCore c { w.core c with halted := true, failIdx := idx, failStatus := st }).settle c n

/-- A core in DONE under whose tail new records stand fetches again (R286). -/
def State.reawaken (s : State) (c : Nat) : State :=
  match s.env c with
  | none => s
  | some e =>
    let k := s.w.core c
    if e.st = .resident ∧ k.state = .done ∧ (s.w.ctx e.n).tail ≠ k.endTail then s.withW (s.w.setCore c { k with state := .running }) else s

/-- COMMAND_FETCH (R286): the record at the next index not yet in the fetch buffer. A fetch ahead of dispatch that would fail is left
until its record is the next one. -/
def execCommandFetch (c : CoreId) (s : State) : Out :=
  let s1 := s.reawaken c
  match s1.dispatching c with
  | none => .next s
  | some e =>
    let k := s1.w.core c
    let x := s1.w.ctx e.n
    let idx := add32 k.nextIdx k.buf.length
    let ahead := sub32 x.tail idx
    if ahead = 0 ∨ 2 ^ 31 < ahead ∨ 64 ≤ k.buf.length then .next s
    else
      let va := ringAddr e.r e.j idx
      let q := (s1.w.walker (c / 16)).xlate s1.w.hbm.mem e.r.root e.n va false
      let w := s1.w.putWalker (c / 16) e.n q.2
      match q.1 with
      | .error f =>
        if k.buf.isEmpty then .next (s1.withW ((w.reportFault e.n va f ⟨2, 0, c, dieOfCore c⟩).fetchFail c e.n idx f.status)) else .next s
      | .ok pa =>
        let poison := w.hbmPoison pa 64
        if (poison || w.busHits [pa / 64]) && !k.buf.isEmpty then .next s
        else if w.busHits [pa / 64] then .next (s1.withW ((w.meetBus (some e.n) [pa / 64]).fetchFail c e.n idx stBusError))
        else
          let w := w.readBlocks (some e.n) [pa / 64]
          if poison then .next (s1.withW (w.fetchFail c e.n idx stPoison))
          else .next (s1.withW (w.setCore c { w.core c with buf := k.buf ++ [(idx, Record.ofBytes (w.hbmBytes pa 64))] }))

/-! ## Dispatch (R61, R80, R82) -/

/-- Records that a queue holds at most (R80). -/
def queueCap : Queue → Nat
  | .load => 8
  | .matrix => 4
  | .vector => 4
  | .store => 8

/-- A register value (R62). -/
def Core.reg (k : Core) (i : Nat) : Word := k.regs.getD i 0
/-- A register written; s0 stays zero (R62). -/
def Core.setReg (k : Core) (i : Nat) (v : Word) : Core := if i = 0 then k else { k with regs := k.regs.set i v }

/-- The threshold of a wait, taken at dispatch (R66). -/
def Core.threshold (k : Core) (r : Record) : BitVec 16 :=
  if r.treg then
    let off := sx 11 (r.waitThr / 32)
    BitVec.ofNat 16 (k.reg (r.waitThr % 32)).toNat + BitVec.ofInt 16 off
  else BitVec.ofNat 16 r.waitThr

/-- The registers that an engine record reads at dispatch (R82): of P0 to P3 under IND, and the fifth that its opcode names. -/
def Core.captures (k : Core) (r : Record) : List Word :=
  let ind (p : Word) : Word := k.reg (fld p.toNat 60 56)
  [ind r.p0, ind r.p1, ind r.p2, ind r.p3, if r.op = 0x29 then k.reg (atReg r) else ind r.imm]

/-- Whether a record's own wait holds (R84). -/
def Core.waitReady (k : Core) (r : Record) : Bool :=
  !r.waitEn || waitHolds (k.ctrs.getD r.waitCtr 0).toNat (k.threshold r).toNat

/-- A scalar subcode, condition or action that does not exist (R71, R308): no row names such a record. -/
def scalarUnnamed (r : Record) : Bool :=
  (r.op == 3 && decide (12 < r.sub)) || (r.op == 6 && decide (4 < r.sub)) || (r.op == 0x0B && decide (4 < fld r.imm.toNat 5 3))

/-- The head of the fetch buffer taken, the next index at `next`; records fetched for other indices are dropped. -/
def Core.advance (k : Core) (idx next : Nat) : Core :=
  { k with nextIdx := next, buf := if next = add32 idx 1 then k.buf.drop 1 else [] }

/-- A record that ends at dispatch with a status: the head taken, completed (R69, R87). -/
def World.endScalar (w : World) (e : Env) (idx : Nat) (r : Record) (st next : Nat) : World :=
  ((w.setCore e.c ((w.core e.c).advance idx next)).completeRec e r idx st 0 0).settle e.c e.n

/-- ENGINE_RECORD_DISPATCH (R80, R82); an opcode that does not exist and a scalar record that no row names end with `ST_STATE`. -/
def execEngineRecordDispatch (c : CoreId) (s : State) : Out :=
  match s.dispatching c, (s.w.core c).buf with
  | some e, (idx, r) :: _ =>
    let k := s.w.core c
    match queueOf r.op.toNat with
    | some q =>
      if (k.queue q).length < queueCap q ∧ k.inFlight < 16 then
        let t : Entry := { id := k.nextId, cmd := r, ind := k.captures r, thr := k.threshold r, idx }
        let k := k.advance idx (add32 idx 1)
        .next (s.withW (s.w.setCore c { k.setQueue q (k.queue q ++ [t]) with nextId := k.nextId + 1 }))
      else .next s
    | none =>
      if isScalarOp r.op.toNat = false ∨ (scalarUnnamed r = true ∧ k.waitReady r = true) then
        .next (s.withW (s.w.endScalar e idx r stState (add32 idx 1)))
      else .next s
  | _, _ => .next s

/-! ## Completion of engine records -/

/-- Whether some row runs a record of an engine queue; the others end with `ST_STATE` (R69–R71). -/
def rowNamed (r : Record) : Bool :=
  match r.op.toNat with
  | 0x21 => decide (loadwMode r ≤ 2)
  | 0x29 => decide (atOp r ≤ 2)
  | 0x2A => decide (clKind r ≤ 5)
  | 0x35 => decide (fld r.opflags.toNat 6 4 ≤ 2)
  | 0x36 => decide (fld r.opflags.toNat 6 4 ≤ 2)
  | 0x37 => decide (fld r.opflags.toNat 6 4 ≤ 1)
  | 0x38 => decide (fld r.opflags.toNat 3 2 ≤ 1)
  | 0x3A => decide (crownKind r ≤ 2)
  | 0x40 => decide (fld r.opflags.toNat 7 0 ≤ 0x13)
  | 0x41 => decide (fld r.opflags.toNat 7 0 ≤ 5)
  | 0x43 => decide (fld r.opflags.toNat 7 0 ≤ 2)
  | _ => true

/-- The operands of a record that no row names whose descriptors it still reads at its start (R82). -/
def descRefs (r : Record) : List (Nat × Word) :=
  let p : List (Nat × Word) := [(0, r.p0), (1, r.p1), (2, r.p2), (3, r.p3)]
  let take (l : List Nat) : List (Nat × Word) := p.filter fun x => decide (x.1 ∈ l)
  match r.op.toNat with
  | 0x21 => take [0]
  | 0x2A => take [0, 1, 3]
  | 0x37 => take [0, 2]
  | 0x38 => take [0, 1, 2]
  | 0x40 => p
  | 0x41 => take [0, 3]
  | 0x43 => take [3]
  | _ => []

/-- What a record that no row names ends with (R523): an absent unit comes first (R2, R3, R344), then a page fault of its descriptors, then the field
that names no row. -/
def unnamedRun (s : State) (e : Env) (t : Entry) : Run :=
  if s.w.lacksUnit s.ctl.sec.units e t then .fail s.w stUnitAbsent
  else
    (descRefs t.cmd).foldl (fun (q : Run) x =>
      if q.st = stState then
        match q.w.fetchRef e x.2 (t.ind.getD x.1 0) 64 with
        | (.fault st, w) => .fail w st
        | (_, w) => .fail w stState
      else q) (.fail s.w stState)

/-- An entry taken from its queue and completed (R83, R89). -/
def World.retire (w : World) (e : Env) (q : Queue) (t : Entry) (st count flags : Nat) : World :=
  let k := w.core e.c
  let w := w.setCore e.c (k.setQueue q ((k.queue q).filter fun x => x.id != t.id))
  ((w.completeRec e t.cmd t.idx st count flags).releaseDeferred e).settle e.c e.n

/-- RECORD_COMPLETE (R83): the first record of a queue, once it has run. -/
def execRecordComplete (c : CoreId) (q : Queue) (s : State) : Out :=
  match s.env c, (s.w.core c).queue q with
  | some e, t :: _ =>
    match t.st with
    | .done st count flags => .next (s.withW (s.w.retire e q t st count flags))
    | .waiting =>
      if rowNamed t.cmd = false ∧ (s.starting c q).isSome = true then
        let x := unnamedRun s e t
        .next (s.withW (x.w.retire e q t x.st 0 0))
      else .next s
    | _ => .next s
  | _, _ => .next s

/-! ## Signals (R85) and waits (R86) -/

/-- SYNC_SIGNAL_DELIVERY: signal i of those in flight, unless an earlier one of the same source reaches one of its counters. A sleeping
target cluster is woken first (R434). -/
def execSyncSignalDelivery (i : Nat) (s : State) : Out :=
  match s.w.signals[i]? with
  | none => .next s
  | some x =>
    let earlier := (s.w.signals.take i).any fun y => y.src == x.src && y.ctr == x.ctr && y.cores.any fun c => decide (c ∈ x.cores)
    let asleep := x.cores.filter fun c => s.w.asleep (c / 16)
    if earlier then .next s
    else if asleep.isEmpty = false then .next (s.withW (asleep.foldl (fun w c => w.wake (c / 16)) s.w))
    else
      let w := { s.w with signals := s.w.signals.eraseIdx i }
      .next (s.withW (x.cores.foldl (fun w c => w.raiseCtr s.res c x.ctr x.inc) w))

/-- A STORE at its start that waits for a window credit (R127). -/
def storeWaits (w : World) (e : Env) (t : Entry) : Bool :=
  match remoteDest w e t with
  | none => false
  | some d =>
    let q := remoteWindow d
    !w.licenceBars q.1
      && (match w.prepareCopy storeKind e t false with
          | .ok (x, w) =>
            x.d.d.space == 4 && !(w.seam.credits.any fun y => y.rank == q.1 && y.core == q.2.1 && y.win == q.2.2)
              && !(decide (q.1 ∈ w.seam.lost) || ((w.seam.remote q.1 q.2.1 q.2.2).map (·.closed)).getD false)
          | .error _ => false)

/-- The UE-context record of an expired wait (R86, R480). -/
def World.waitRecord (w : World) (e : Env) (r : Record) (idx st : Nat) : World :=
  w.raise clsCtx uCore st e.c (some e.n) (dieOfCore e.c) idx (leBytes 1 r.op.toNat ++ leBytes 2 r.tag.toNat)

/-- The entry of a queue whose wait can expire, with the status it then completes with. -/
def State.expiring (s : State) (e : Env) (q : Queue) : Option (Entry × Nat) :=
  let k := s.w.core e.c
  match s.w.arrived e.c, q with
  | some (t, _), .matrix => if s.w.inPhase e.c then none else some (t, stTimeout)
  | _, _ =>
    match firstWaiting q (k.queue q) with
    | none => none
    | some t =>
      if s.w.lacksUnit s.ctl.sec.units e t then none
      else if k.entryReady t = false then some (t, stTimeout)
      else if (s.starting e.c q).isNone then none
      else if t.cmd.op = 0x28 ∧ storeWaits s.w e t = true then some (t, stNoCredit)
      else if collWaits s.w t then some (t, stTimeout)
      else none

/-- WAIT_TIMEOUT (R86, R127): the wait limit of the core has passed. In a sleeping cluster the record completes after the wake. -/
def execWaitTimeout (c : CoreId) (at_ : WaitSite) (s : State) : Out :=
  match s.env c with
  | none => .next s
  | some e =>
    if e.st ≠ .resident then .next s
    else if s.w.asleep (c / 16) then .next (s.withW (s.w.wake (c / 16)))
    else
      match at_ with
      | .queue q =>
        match s.expiring e q with
        | some (t, st) => .next (s.withW ((s.w.setCore c ((s.w.core c).mark q t.id (.done st 0 0))).waitRecord e t.cmd t.idx st))
        | none => .next s
      | .sequencer =>
        match s.dispatching c, (s.w.core c).buf with
        | some _, (idx, r) :: _ =>
          if isScalarOp r.op.toNat = true ∧ (s.w.core c).waitReady r = false then
            .next (s.withW ((s.w.waitRecord e r idx stTimeout).endScalar e idx r stTimeout (add32 idx 1)))
          else .next s
        | _, _ => .next s

/-! ## Scalar records (R69, R71) -/

/-- What a scalar record does: the world, its status, the next ring index. -/
structure Scalar where
  w : World
  st : Nat := stOk
  next : Nat

/-- Reserved fields that every scalar record checks (R68, R7). -/
def scalarBad (e : Env) (r : Record) : Bool :=
  commonBad e r || unusedBad r (r.op != 0x0B) true true true || fld r.opflags.toNat 31 20 != 0

/-- The scalar record at the head of a core's fetch buffer, if it is of the row asked for and its wait holds. -/
def State.scalarHead (s : State) (c : Nat) (row : Record → Bool) : Option (Env × Nat × Record) :=
  match s.dispatching c, (s.w.core c).buf with
  | some e, (idx, r) :: _ => if row r && (s.w.core c).waitReady r && (s.w.core c).dmaWait.isNone then some (e, idx, r) else none
  | _, _ => none

/-- One scalar record run and completed at dispatch. -/
def State.scalar (s : State) (c : Nat) (row : Record → Bool) (f : World → Env → Nat → Record → Scalar) : Out :=
  match s.scalarHead c row with
  | none => .next s
  | some (e, idx, r) =>
    if scalarBad e r then .next (s.withW (s.w.endScalar e idx r stState (add32 idx 1)))
    else
      let x := f s.w e idx r
      .next (s.withW (x.w.endScalar e idx r x.st x.next))

/-- Whether a record has an opcode. -/
def isOp (op : Nat) (r : Record) : Bool := r.op.toNat == op

/-- A scalar record that writes its destination register and goes on. -/
def writesReg (f : Core → Record → Word) (w : World) (e : Env) (idx : Nat) (r : Record) : Scalar :=
  let k := w.core e.c
  { w := w.setCore e.c (k.setReg r.rd (f k r)), next := add32 idx 1 }

/-- A scalar record that only completes. -/
def goesOn (w : World) (_ : Env) (idx : Nat) (_ : Record) : Scalar := { w, next := add32 idx 1 }

/-- NOP. -/
def execNop (c : CoreId) (s : State) : Out := s.scalar c (isOp 0x00) goesOn
/-- SETI: s[d] = immediate. -/
def execSeti (c : CoreId) (s : State) : Out := s.scalar c (isOp 0x01) (writesReg fun _ r => r.imm)
/-- ADDI: s[d] = s[a] + immediate. -/
def execAddi (c : CoreId) (s : State) : Out := s.scalar c (isOp 0x02) (writesReg fun k r => k.reg r.ra + r.imm)

/-- ALU with a subcode (R71). -/
def isAlu (sub : Nat) (r : Record) : Bool := r.op.toNat == 3 && r.sub == sub
/-- An ALU record over two operands. -/
def State.alu (s : State) (c sub : Nat) (f : Word → Word → Word) : Out :=
  s.scalar c (isAlu sub) (writesReg fun k r => f (k.reg r.ra) (k.reg r.rb))

def execAluAdd (c : CoreId) (s : State) : Out := s.alu c 0 fun a b => a + b
def execAluSub (c : CoreId) (s : State) : Out := s.alu c 1 fun a b => a - b
def execAluAnd (c : CoreId) (s : State) : Out := s.alu c 2 fun a b => a &&& b
def execAluOr (c : CoreId) (s : State) : Out := s.alu c 3 fun a b => a ||| b
def execAluXor (c : CoreId) (s : State) : Out := s.alu c 4 fun a b => a ^^^ b
def execAluShl (c : CoreId) (s : State) : Out := s.alu c 5 fun a b => a <<< (b.toNat % 64)
def execAluShr (c : CoreId) (s : State) : Out := s.alu c 6 fun a b => a >>> (b.toNat % 64)
def execAluSar (c : CoreId) (s : State) : Out := s.alu c 7 fun a b => a.sshiftRight (b.toNat % 64)
def execAluMul (c : CoreId) (s : State) : Out := s.alu c 8 fun a b => a * b
def execAluMin (c : CoreId) (s : State) : Out := s.alu c 9 fun a b => if a.slt b then a else b
def execAluMax (c : CoreId) (s : State) : Out := s.alu c 10 fun a b => if a.slt b then b else a
def execAluSlt (c : CoreId) (s : State) : Out := s.alu c 11 fun a b => if a.slt b then 1 else 0
def execAluSltu (c : CoreId) (s : State) : Out := s.alu c 12 fun a b => if a < b then 1 else 0

/-- The scratchpad address of LDS and STS (R71); none where it is refused. -/
def Core.spAddr (k : Core) (r : Record) : Option Nat :=
  let a := (k.reg r.ra + r.imm).toNat
  if a % 8 = 0 ∧ a + 8 ≤ memSize .scratch then some a else none

/-- LDS: s[d] = 8 bytes of the own scratchpad; `ST_POISON` from a poisoned word (R106). -/
def runLds (w : World) (e : Env) (idx : Nat) (r : Record) : Scalar :=
  match (w.core e.c).spAddr r with
  | none => { w, st := stState, next := add32 idx 1 }
  | some a =>
    let m := (w.core e.c).sp
    let w := w.touch e.c (some e.n) .scratch (wordsOf 16 a 8)
    { w := w.setCore e.c ((w.core e.c).setReg r.rd (BitVec.ofNat 64 (leNat (Cells.read m.cells a 8)))),
      st := if m.poisoned 16 a 8 then stPoison else stOk, next := add32 idx 1 }
def execLds (c : CoreId) (s : State) : Out := s.scalar c (isOp 0x04) runLds

/-- STS: 8 bytes of the own scratchpad = s[b]. -/
def runSts (w : World) (e : Env) (idx : Nat) (r : Record) : Scalar :=
  match (w.core e.c).spAddr r with
  | none => { w, st := stState, next := add32 idx 1 }
  | some a => { w := w.writeCore e.c (some e.n) .scratch [bytesAt a (leBytes 8 ((w.core e.c).reg r.rb).toNat)], next := add32 idx 1 }
def execSts (c : CoreId) (s : State) : Out := s.scalar c (isOp 0x05) runSts

/-- The target of a branch: ring index + immediate, modulo 2^32 (R71). -/
def branchTo (idx : Nat) (r : Record) : Nat := add32 idx (r.imm.toNat % 2 ^ 32)

/-- A branch condition (R71). -/
def condHolds (code : Nat) (a : Word) : Bool :=
  match code with
  | 0 => true
  | 1 => a == 0
  | 2 => a != 0
  | 3 => a.slt 0
  | _ => !a.slt 0

/-- BR. -/
def runBr (w : World) (e : Env) (idx : Nat) (r : Record) : Scalar :=
  { w, next := if condHolds r.sub ((w.core e.c).reg r.ra) then branchTo idx r else add32 idx 1 }
def execBr (c : CoreId) (s : State) : Out := s.scalar c (fun r => r.op == 6 && decide (r.sub ≤ 4)) runBr

/-- LOOP: s[a] = s[a] − 1, and back while the result is not zero. -/
def runLoop (w : World) (e : Env) (idx : Nat) (r : Record) : Scalar :=
  let k := w.core e.c
  let v := k.reg r.ra - 1
  { w := w.setCore e.c (k.setReg r.ra v), next := if v = 0 then add32 idx 1 else branchTo idx r }
def execLoop (c : CoreId) (s : State) : Out := s.scalar c (isOp 0x07) runLoop

/-- WAIT: dispatch stops until the wait holds; the record then completes. -/
def execWait (c : CoreId) (s : State) : Out := s.scalar c (isOp 0x08) goesOn

/-- Entries of the queues that a mask names (R69). -/
def Core.named (k : Core) (mask : Nat) : List Nat :=
  (if bit mask 0 then k.load.map (·.id) else []) ++ (if bit mask 1 then k.matrix.map (·.id) else [])
    ++ (if bit mask 2 then k.vector.map (·.id) else []) ++ (if bit mask 3 then k.store.map (·.id) else [])

/-- SIGNAL: the signal is raised once the earlier records of the named queues are complete; dispatch goes on meanwhile. -/
def execSignal (c : CoreId) (s : State) : Out :=
  match s.scalarHead c (isOp 0x09) with
  | none => .next s
  | some (e, idx, r) =>
    let k := s.w.core c
    let ids := k.named r.imm.toNat
    if scalarBad e r || fld r.imm.toNat 63 4 != 0 then .next (s.withW (s.w.endScalar e idx r stState (add32 idx 1)))
    else if ids.isEmpty then .next (s.withW (s.w.endScalar e idx r stOk (add32 idx 1)))
    else
      let k := k.advance idx (add32 idx 1)
      .next (s.withW (s.w.setCore c { k with deferred := k.deferred ++ [{ cmd := r, idx, ids }] }))

/-- FENCE: dispatch stops until the earlier records of the named queues are complete. -/
def execFence (c : CoreId) (s : State) : Out :=
  match s.scalarHead c (isOp 0x0A) with
  | none => .next s
  | some (e, idx, r) =>
    if scalarBad e r || fld r.imm.toNat 63 4 != 0 then .next (s.withW (s.w.endScalar e idx r stState (add32 idx 1)))
    else if ((s.w.core c).named r.imm.toNat).isEmpty then .next (s.withW (s.w.endScalar e idx r stOk (add32 idx 1)))
    else .next s

/-! ## DMAGO (R308) -/

/-- DMAGO with an action. -/
def isDmago (action : Nat) (r : Record) : Bool := r.op.toNat == 0x0B && fld r.imm.toNat 5 3 == action
/-- The channel that a DMAGO names. -/
def dmagoChan (c : Nat) (r : Record) : Nat := 8 * (c / 16) + fld r.imm.toNat 2 0

/-- Reserved fields of a DMAGO. -/
def dmagoBad (e : Env) (r : Record) (start : Bool) : Bool :=
  scalarBad e r || fld r.imm.toNat 63 6 != 0 || (!start && r.p0 != 0)

/-- A DMAGO that has waited for its channel to drain: its record completes with what the drain came to, PAUSED or IDLE with `ST_OK`, HALTED with
`ST_STATE`. -/
def State.dmagoDrained (s : State) (c : Nat) (row : Record → Bool) : Option World :=
  let k := s.w.core c
  match s.env c, k.dmaWait, k.buf with
  | some e, some (_, some st), (idx, r) :: _ =>
    if row r then some ((s.w.setCore c { k with dmaWait := none }).endScalar e idx r st (add32 idx 1)) else none
  | _, _, _ => none

/-- DMAGO with an action on a channel that may drain. -/
def State.dmago (s : State) (c action : Nat) (f : World → Resid → Nat → Nat → Ctrl) : Out :=
  match s.dmagoDrained c (isDmago action) with
  | some w => .next (s.withW w)
  | none =>
    match s.scalarHead c (isDmago action) with
    | none => .next s
    | some (e, idx, r) =>
      if dmagoBad e r false then .next (s.withW (s.w.endScalar e idx r stState (add32 idx 1)))
      else
        let d := dmagoChan c r
        let x := f s.w e.r e.n d
        if x.draining then .next (s.withW (x.w.setCore c { x.w.core c with dmaWait := some (d, none) }))
        else .next (s.withW (x.w.endScalar e idx r x.st (add32 idx 1)))

/-- DMAGO START: the channel takes the chain at the descriptor that P0 locates. -/
def execDmagoStart (c : CoreId) (s : State) : Out :=
  match s.scalarHead c (isDmago 0) with
  | none => .next s
  | some (e, idx, r) =>
    let fin (x : Ctrl) : Out := .next (s.withW (x.w.endScalar e idx r x.st (add32 idx 1)))
    let reg := (s.w.core c).reg (fld r.p0.toNat 60 56)
    let sp := refSpace r.p0
    if dmagoBad e r true || r.p0 == 0 || decide (1 < sp) || !refOk r.p0 reg 64 then fin { w := s.w, st := stState }
    else
      let a := refAddr r.p0 reg
      let first : Word := BitVec.ofNat 64 (sp * 2 ^ 61 + (if sp = 1 then c.val * 2 ^ 48 else 0) + a)
      let d := dmagoChan c r
      fin (s.w.chanStart e.n d c first ((s.w.chan d).st == .paused && (s.w.chan d).by_ == .part))

def execDmagoResume (c : CoreId) (s : State) : Out := s.dmago c 1 fun w _ => w.chanResume
def execDmagoPause (c : CoreId) (s : State) : Out := s.dmago c 2 fun w _ => w.chanPause
def execDmagoSkip (c : CoreId) (s : State) : Out := s.dmago c 3 World.chanSkip
def execDmagoAbort (c : CoreId) (s : State) : Out := s.dmago c 4 World.chanAbort

/-! ## STEP (R258), EVENT, END -/

/-- Statistics slots of a context that hold anything. -/
def World.liveSlots (w : World) (n : Nat) : List Nat :=
  ((w.hbm.mem.cells.filter fun c => decide (statBase n 0 ≤ c.1) && decide (c.1 < statBase n 4096)).map fun c => (c.1 - statBase n 0) / 320).foldl
    (fun l k => insertNat k l) []

/-- The histories and the predictor slots at an advance (R54, R234, R258). -/
def World.advanceSlots (w : World) (n new : Nat) : World :=
  let w := (w.liveSlots n).foldl (fun w k =>
    let b := w.hbmBytes (statBase n k) 320
    if le b 0 4 = 0 then w else w.hbmUpdate (some n) (statBase n k) 320 shiftSlot) w
  let w := (List.range 256).foldl (fun w k =>
    let b := w.hbmBytes (predBase n k) 64
    let b' := slotAdvance b new
    let changed := le b 56 4 != le b' 56 4
    let w := if changed then { w with nums := { w.nums with thrChanges := bump 64 w.nums.thrChanges 1 } } else w
    w.hbmUpdate (some n) (predBase n k) 64 fun b => slotAdvance b new) w
  w.setCtx n { w.ctx n with predWait := true }

/-- The advance of a context's step number, once its slots have moved on (R258): the management cores start (R431), then the replay value of a committed
checkpoint and a checkpoint that is due. -/
def State.advanceStep (s : State) (n new : Nat) : State :=
  let x := s.w.ctx n
  let s := s.withW { s.w.setCtx n { x with step := new } with koc := { s.w.koc with asleep := [] } }
  (s.ckptReplay n).ckptStart n

/-- STEP: a larger number advances: the slots move on first; an armed snapshot that the number reaches drains the group and is taken then (R258, R269;
DEDUCED, log entry 143), its matrix records held at a K-group boundary; a checkpoint still being read holds it back (R501). -/
def execStepRec (c : CoreId) (s : State) : Out :=
  match s.scalarHead c (isOp 0x0C) with
  | none => .next s
  | some (e, idx, r) =>
    let x := s.w.ctx e.n
    let new := fld r.imm.toNat 31 0
    let fin (s : State) (st : Nat) : Out := .next (s.withW (s.w.endScalar e idx r st (add32 idx 1)))
    if scalarBad e r || fld r.imm.toNat 63 32 != 0 || new == 0xFFFFFFFF || decide (new < x.step) then fin s stState
    else if new = x.step then fin s stOk
    else if x.ck.st = .reading then .next s
    else if s.w.snap.st = .armed ∧ s.w.snap.ctx = e.n ∧ s.w.snap.step ≤ new then
      let s := e.r.coreList.foldl State.stopCore s
      let w := s.w.advanceSlots e.n new
      let w := w.setCore c { w.core c with stepWait := true }
      let w := { w with snap := { w.snap with draining := true, core := c, newStep := new } }
      .next (s.withW (w.pauseChans e.n e.r))
    else fin ((s.withW (s.w.advanceSlots e.n new)).advanceStep e.n new) stOk

/-- EVENT: an event with the tag and the immediate. -/
def execEventRec (c : CoreId) (s : State) : Out :=
  s.scalar c (isOp 0x0D) fun w e idx r => { w := w.recordEvent e r stOk, next := add32 idx 1 }

/-- END: the core stops fetching. -/
def execEndRec (c : CoreId) (s : State) : Out :=
  s.scalar c (isOp 0x0E) fun w e idx _ =>
    { w := w.setCore e.c { w.core e.c with ended := true, endTail := (w.ctx e.n).tail, buf := (w.core e.c).buf.take 1 }, next := add32 idx 1 }

/-- PREDICTOR_UPDATE_DONE (R235): the slots of a context are updated; its PREDICT records start again. -/
def execPredictorUpdateDone (n : CtxId) (s : State) : Out :=
  let x := s.w.ctx n
  .next (s.withW (s.w.setCtx n { x with predWait := false }))

end Sys2Proof.Machine
end

