-- ==== Sys2Proof/Machine/Snapshot.lean ====
section
/-! DEFINITION. Evaluation snapshots (R267–R273). -/
namespace Sys2Proof.Machine

/-- First byte and size of the snapshot region (R323, R273). -/
abbrev snapBase : Nat := 0xB000000000
abbrev snapSize : Nat := 0x1000000000

/-- The effect of a write of 0x3200:01 (R267). -/
def snapshotRequestFx (s : State) (v : List Byte) : Fx :=
  let n := le v 0 2
  let step := le v 4 4
  let list := le v 8 8
  if s.w.snap.st ≠ .idle then .refuse s stBusy
  else if v.length ≠ 16 ∨ 256 ≤ n ∨ (s.ent n).st = .absent ∨ step ≤ (s.w.ctx n).step ∨ le v 2 2 ≠ 0 ∨ list % 64 ≠ 0 then
    .refuse s stState
  else .world s { s.w with snap := { s.w.snap with st := .armed, ctx := n, step, list } }

/-- The effect of a write of 0x3200:03 (R272). -/
def snapshotReleaseFx (s : State) (v : List Byte) : Fx :=
  if uintOf 1 v = some 1 ∧ s.w.snap.st = .ready then .world s { s.w with snap := { s.w.snap with st := .idle } } else .refuse s stState

/-- Whether an entry of a snapshot list keeps R268 for a group of so many cores. -/
def snapEntryOk (cores : Nat) (b : List Byte) : Bool :=
  allZero (sl b 13 3)
    && (match le b 12 1 with
        | 0 => le b 0 8 % 64 == 0 && decide (1 ≤ le b 8 4)
        | 1 => decide (le b 0 8 < cores) && le b 8 4 == 0
        | _ => false)

/-- Bytes that an entry copies. -/
def snapEntryBytes (b : List Byte) : Nat := if le b 12 1 = 0 then 64 * le b 8 4 else 0x200000

/-- A copy in progress: the world, where the next byte goes, units copied poisoned, the failure that ended it. -/
structure SnapCopy where
  w : World
  at_ : Nat
  bad : Nat := 0
  fail : Option Nat := none

/-- Translation of an address for a snapshot: source 4 (R282), stamped by I/O die 0 as a snapshot is (R420). A table read that fails on the bus ends it with `ST_BUS_ERROR` (R330). -/
def World.snapPage (w : World) (n c root va : Nat) : Except Nat Nat × World :=
  let x := (w.walker (c / 16)).xlate w.hbm.mem root n va false
  let w1 := w.putWalker (c / 16) n x.2
  if World.busMet w w1 then (.error stBusError, w1)
  else
    match x.1 with
    | .ok pa => (.ok pa, w1)
    | .error f => (.error f.status, w1.reportFault n va f ⟨0, 4, c, dieNone⟩)

/-- A run of HBM bytes copied, block by block with its marking (R270). A read or a write that fails on the bus ends the copy with `ST_BUS_ERROR` (R330;
DEDUCED, log entry 64): the blocks before it have been copied. -/
def SnapCopy.run (x : SnapCopy) (n pa len : Nat) : SnapCopy :=
  let hit := (x.w.busRange pa len).map (· - pa / 64) ++ (x.w.busRange x.at_ len).map (· - x.at_ / 64)
  let upTo := hit.foldl min (len / 64)
  let len := 64 * upTo
  let failing := [pa / 64 + upTo, x.at_ / 64 + upTo]
  let w := x.w.readRange (some n) pa len
  let bad := w.badBlocks pa len
  let w := w.blit x.at_ len (Cells.moved w.hbm.mem.cells pa (pa + len) x.at_) (bad.map fun b => b - pa / 64 + x.at_ / 64)
  { x with w := if hit.isEmpty then w else w.meetBus (some n) failing
           at_ := x.at_ + len, bad := x.bad + bad.length, fail := if hit.isEmpty then x.fail else some stBusError }

/-- What of an extent lies in one page, from the first of its addresses in it on. -/
def SnapCopy.page (x : SnapCopy) (n c root hi va : Nat) : SnapCopy :=
  match x.fail with
  | some _ => x
  | none =>
    match x.w.snapPage n c root va with
    | (.error st, w) => { x with w, fail := some st }
    | (.ok pa, w) => { x with w }.run n pa (min hi (va / 0x10000 * 0x10000 + 0x10000) - va)

/-- One entry of the list copied (R269, R270); a Weight Store that is switched off ends the copy (R109). -/
def SnapCopy.entry (x : SnapCopy) (n c : Nat) (r : Resid) (b : List Byte) : SnapCopy :=
  match x.fail with
  | some _ => x
  | none =>
    if le b 12 1 = 0 then
      let lo := le b 0 8
      let hi := lo + 64 * le b 8 4
      (pagesOf lo (hi - lo)).foldl (fun x p => x.page n c r.root hi p) x
    else if (x.w.cluster ((r.core0 + le b 0 8) / 16)).power = .off then { x with fail := some stState }
    else
      let t := r.core0 + le b 0 8
      let w := x.w.touch t (some n) .weight ((x.w.core t).ws.upsets.map (·.1))
      let m := (w.core t).ws
      let bad := m.marks.foldl (fun l k => insertNat (k / 4) l) []
      { x with w := w.blit x.at_ 0x200000 (Cells.moved m.cells 0 0x200000 x.at_) (bad.map (· + x.at_ / 64))
               at_ := x.at_ + 0x200000, bad := x.bad + bad.length }

/-- The list as a snapshot reads it: the header, then the entries; none where it breaks R268 or where a block of it is poisoned. -/
def World.snapList (w : World) (n c : Nat) (r : Resid) (va : Nat) : Except Nat (Option (List Byte)) × World :=
  match w.snapPage n c r.root va with
  | (.error st, w) => (.error st, w)
  | (.ok pa, w) =>
    let h := w.hbmBytes pa 64
    let count := le h 0 4
    if w.busHits [pa / 64] then (.error stBusError, w.meetBus (some n) [pa / 64]) else
    let w := w.readBlocks (some n) [pa / 64]
    if count = 0 ∨ 4096 < count ∨ allZero (sl h 4 60) = false ∨ w.hbmPoison pa 64 = true then (.ok none, w)
    else
      let bytes := alignUp (16 * count) 64
      let a := va + 64
      let pages := (pagesOf a bytes).foldl (fun (x : Except Nat (List (Nat × Nat)) × World) p =>
        match x.1 with
        | .error _ => x
        | .ok l =>
          match x.2.snapPage n c r.root p with
          | (.ok pa, w) => (.ok (l ++ [(p / 0x10000, pa - p % 0x10000)]), w)
          | (.error st, w) => (.error st, w)) (.ok [], w)
      match pages with
      | (.error st, w) => (.error st, w)
      | (.ok l, w) =>
        let blks := (List.range (bytes / 64)).map fun i => physOf l (a + 64 * i) / 64
        let poison := blks.any w.hbm.mem.bad
        if w.busHits blks then (.error stBusError, w.meetBus (some n) blks) else
        let w := w.readBlocks (some n) blks
        let t := (List.range (16 * count)).map fun i => Cells.get w.hbm.mem.cells (physOf l (a + i))
        (.ok (if poison then none else some t), w)

/-- The header of an image (R270). -/
def snapHeader (n st step count bytes bad : Nat) : List Byte :=
  leBytes 2 n ++ leBytes 2 st ++ leBytes 4 step ++ leBytes 4 count ++ leBytes 4 0 ++ leBytes 8 bytes ++ leBytes 8 bad ++ leBytes 32 0

/-- The copy of a drained snapshot: the world, status, bytes of the image. -/
def State.snapCopy (s : State) : World × Nat × Nat :=
  let m := s.w.snap
  let r := s.ent m.ctx
  let c := m.core
  let none_ (w : World) (st : Nat) : World × Nat × Nat := (w.blit snapBase 64 (cellsOf snapBase (snapHeader m.ctx st m.newStep 0 0 0)) [], st, 64)
  match s.w.snapList m.ctx c r m.list with
  | (.error st, w) => none_ w st
  | (.ok none, w) => none_ w stState
  | (.ok (some t), w) =>
    let es := (List.range (t.length / 16)).map fun i => sl t (16 * i) 16
    let data := sumN (es.map snapEntryBytes)
    let head := 64 + alignUp t.length 64
    if (es.all (snapEntryOk r.cores)) = false ∨ snapSize < head + data then none_ w stState
    else
      let w := w.blit (snapBase + 64) (head - 64) (cellsOf (snapBase + 64) t) []
      let x := es.foldl (fun x b => x.entry m.ctx c r b) { w, at_ := snapBase + head : SnapCopy }
      let bytes := x.at_ - (snapBase + head)
      let st := x.fail.getD stOk
      (x.w.blit snapBase 64 (cellsOf snapBase (snapHeader m.ctx st m.newStep es.length bytes x.bad)) [], st, head + bytes)

/-- The sleeping clusters whose Weight Stores a snapshot's list names. -/
def State.snapSleepers (s : State) : List Nat :=
  let m := s.w.snap
  let r := s.ent m.ctx
  match (s.w.snapList m.ctx m.core r m.list).1 with
  | .ok (some t) =>
    ((List.range (t.length / 16)).map fun i => sl t (16 * i) 16).filterMap fun b =>
      let k := (r.core0 + le b 0 8) / 16
      if snapEntryOk r.cores b && le b 12 1 == 1 && s.w.asleep k then some k else none
  | _ => []

/-- SNAPSHOT_COPY (R269): once the group has drained and its channels are paused, the list's entries are copied; sleeping clusters whose Weight Stores
it names are woken first (R109). -/
def execSnapshotCopy (s : State) : Out :=
  let m := s.w.snap
  let r := s.ent m.ctx
  if s.ctl.part = .ready ∧ m.st = .armed ∧ m.draining = true ∧ s.w.drained r = true then
    if s.snapSleepers.isEmpty then
      let (w, st, bytes) := s.snapCopy
      .next (s.withW { w with snap := { m with st := .copying, copied := true, status := st, bytes } })
    else .next (s.withW (s.snapSleepers.foldl World.wake s.w))
  else .next s

/-- Whether the sequencer of a core can dispatch (R433): a record stands before it, and nothing holds that record back: no wait, FENCE or full queue, no
snapshot that drains the group or is copied (R269), and for a STEP that advances no checkpoint still being read (R501). -/
def State.canDispatch (s : State) (e : Env) : Bool :=
  let k := s.w.core e.c
  let tail := (s.w.ctx e.n).tail
  let ahead := sub32 tail k.nextIdx
  let open_ := (k.state == .running && !k.halted && !k.ended && !k.stepWait && k.dmaWait.isNone) || (k.state == .done && tail != k.endTail)
  let held :=
    match k.buf with
    | [] => false
    | (_, r) :: _ =>
      match queueOf r.op.toNat with
      | some q => decide (queueCap q ≤ (k.queue q).length) || decide (16 ≤ k.inFlight)
      | none => isScalarOp r.op.toNat && (!k.waitReady r || (r.op == 0x0A && !(k.named r.imm.toNat).isEmpty)
          || (r.op == 0x0C && (s.w.ctx e.n).ck.st == .reading && decide ((s.w.ctx e.n).step < fld r.imm.toNat 31 0)))
  open_ && ahead != 0 && decide (ahead ≤ 2 ^ 31) && !held && !s.w.snapHolds e.n

/-- The clusters of a group whose cores can dispatch again asked to wake (DEDUCED, log entry 183). -/
def State.wakeReady (s : State) (r : Resid) : State :=
  r.coreList.foldl (fun s c =>
    match s.env c with
    | some e => if s.canDispatch e then s.withW (s.w.wake (c / 16)) else s
    | none => s) s

/-- SNAPSHOT_READY (R269): channels go on, the advance is completed with its STEP, dispatch starts again, READY with an event. -/
def execSnapshotReady (s : State) : Out :=
  let m := s.w.snap
  if s.ctl.part = .ready ∧ m.st = .copying ∧ m.copied = true then
    let r := s.ent m.ctx
    let w := { s.w with snap := { m with st := .ready, draining := false, copied := false, taken := bump 64 m.taken 1 } }
    let w := if r.st = .resident then w.resumeChans m.ctx r else w
    let w := w.setCore m.core { w.core m.core with stepWait := false }
    let s := (s.withW w).advanceStep m.ctx m.newStep
    let s :=
      match s.env m.core, (s.w.core m.core).buf with
      | some e, (idx, t) :: _ => s.withW (s.w.endScalar e idx t stOk (add32 idx 1))
      | _, _ => s
    let s := s.wakeReady r
    .next (s.withW (s.w.event 0x0501 0x3200 2 dieNone (some m.ctx) m.status (leBytes 4 m.newStep ++ leBytes 8 m.bytes)))
  else .next s

end Sys2Proof.Machine
end

