-- ==== Sys2Proof/Machine/Power.lean ====
section
/-! DEFINITION. Power states, clocks, the wake arbiter, the governor, thermal and rail faults (R430–R444, R513–R515). -/
namespace Sys2Proof.Machine

/-- One cycle of the 100 MHz reference, from PG_AON on; every die counts it while the main rails are up (R420, R430; DESIGN CHOICE, log entry 2). -/
def State.idleTick (s : State) : State :=
  let s := if s.ctl.pgMain then { s with w := { s.w with tick := s.w.tick.map fun t => (t + 1) % 2 ^ 64 } } else s
  if s.ctl.pins.pgAon then { s with ctl := { s.ctl with clock := s.ctl.clock + 1 } } else s

/-! ## Quiet clusters (R433) -/

/-- Whether the head of an engine queue, and so every record of it, waits on a counter, a window credit or an admission (R433). -/
def State.queueWaits (s : State) (e : Env) (q : Queue) : Bool :=
  let k := s.w.core e.c
  match k.queue q with
  | [] => true
  | t :: _ =>
    t.st.isWaiting && (!k.entryReady t || (t.cmd.op == 0x28 && storeWaits s.w e t) || collWaits s.w t)
      && (k.queue q).all fun t => t.st.isWaiting

/-- Whether a core does nothing that keeps its cluster awake. -/
def State.coreQuiet (s : State) (c : Nat) : Bool :=
  match s.env c with
  | none => true
  | some e => e.st == .resident && !s.canDispatch e && [Queue.load, .matrix, .vector, .store].all (s.queueWaits e)

/-- Whether a cluster is quiet (R433, R495). -/
def State.quiet (s : State) (k : Nat) : Bool :=
  ((List.range 16).all fun i => s.coreQuiet (16 * k + i))
    && ((List.range 8).all fun i => let st := (s.w.chan (8 * k + i)).st; st != .running && st != .pausing)
    && !(s.w.seam.parked.any fun p => p.write.core / 16 == k)
    && !(s.w.crown.any fun p => p.first / 16 == k)
    && !(s.res.any fun e => (e.2.st == .saving || e.2.st == .restoring) && e.2.holds k)
    && !(s.w.scan.st == 1 && s.w.scan.cluster == k)

/-! ## Descent (R432, R433, R435) -/

/-- Depth of a power state. -/
def depth : PowerSt → Nat
  | .run => 0
  | .idle => 1
  | .doze => 2
  | .nap => 3
  | .off => 4
  | .waking => 0

/-- Deepest state of a floor (R435). -/
def floorDepth : Nat → Nat
  | 0 => 3
  | 1 => 2
  | 2 => 1
  | _ => 4

/-- Whether the clusters are powered and the arbiter serves them. -/
def State.powered (s : State) : Bool := s.ctl.pgMain && s.ctl.part != .safe

/-- An entry begun from one state to the next; during self-test every cluster stays in RUN (R449), and one with a wake request queued goes no deeper
(R434). -/
def State.descend (s : State) (k : Nat) (from_ to_ : PowerSt) : Out :=
  let v := s.w.cluster k
  if s.powered = true ∧ s.ctl.step ≠ 5 ∧ v.power = from_ ∧ v.entering = none ∧ depth to_ ≤ floorDepth v.floor ∧ s.quiet k = true
      ∧ s.w.wakeQueued k = false then
    .next (s.withW (s.w.setCluster k { v with entering := some to_ }))
  else .next s

/-- CLUSTER_IDLE_ENTRY, after the IDLE delay. -/
def execClusterIdleEntry (k : ClusterId) (s : State) : Out := s.descend k .run .idle
/-- CLUSTER_DOZE_ENTRY, after the further DOZE delay. -/
def execClusterDozeEntry (k : ClusterId) (s : State) : Out := s.descend k .idle .doze
/-- CLUSTER_NAP_ENTRY, after the further Nap delay. -/
def execClusterNapEntry (k : ClusterId) (s : State) : Out := s.descend k .doze .nap


/-- A cluster whose floor is OFF goes on to it (R435). -/
def Cluster.toFloor (v : Cluster) : Cluster :=
  if v.floor = 3 ∧ v.power ≠ .off ∧ v.power ≠ .waking ∧ v.entering = none then { v with entering := some .off } else v

/-- CLUSTER_ENTRY_DONE (R432): Nap empties the TLB and the walk cache, OFF keeps nothing. -/
def execClusterEntryDone (k : ClusterId) (s : State) : Out :=
  let v := s.w.cluster k
  match v.entering with
  | none => .next s
  | some p =>
    let v := { v with power := p, entering := none }
    let v := if p = .nap then { v with tlb := [], walks := [] } else v
    let w := s.w.setCluster k v.toFloor
    .next (s.withW (if p = .off then (w.zeroCluster k).offEvent k else w))

/-! ## The wake arbiter (R436, R437) -/

/-- The next cluster of a queue: the first index of the die after the last one started, wrapping; one that is still entering a state
is passed over until its entry ends. -/
def World.nextOf (w : World) (d last : Nat) (q : List Nat) : Option Nat :=
  let order := (List.range 32).map fun i => 32 * d + (last + 1 + i) % 32
  order.find? fun k => decide (k ∈ q) && (w.cluster k).entering.isNone

/-- POWER_UP_START: two power-ups at a time on a die; leaving OFF raises its event. -/
def execPowerUpStart (d : DieId) (s : State) : Out :=
  let v := s.w.die d
  match s.powered, decide (v.poweringUp.length < 2), s.w.nextOf d v.lastPower v.powerQ with
  | true, true, some k =>
    let w := s.w.setDie d { v with powerQ := v.powerQ.filter (· != k), poweringUp := v.poweringUp ++ [k], lastPower := k % 32 }
    let c := w.cluster k
    let w := w.setCluster k { c with power := .waking, powerUps := bump 32 c.powerUps 1 }
    .next (s.withW (if c.power = .off then (w.zeroCluster k).offEvent k else w))
  | _, _, _ => .next s

/-- DOZE_RESTART_START: eight restarts at a time on a die. -/
def execDozeRestartStart (d : DieId) (s : State) : Out :=
  let v := s.w.die d
  match s.powered, decide (v.restarting.length < 8), s.w.nextOf d v.lastRestart v.restartQ with
  | true, true, some k =>
    let w := s.w.setDie d { v with restartQ := v.restartQ.filter (· != k), restarting := v.restarting ++ [k], lastRestart := k % 32 }
    .next (s.withW (w.setCluster k { w.cluster k with power := .waking }))
  | _, _, _ => .next s

/-- A cluster in RUN again: its matrix engines start cold (R91), commits that waited for it are made (R347). -/
def State.runs (s : State) (k : Nat) : State :=
  let d := dieOfCluster k
  let v := s.w.die d
  let w := s.w.setDie d { v with poweringUp := v.poweringUp.filter (· != k), restarting := v.restarting.filter (· != k) }
  let w := w.setCluster k ({ w.cluster k with power := .run } : Cluster).toFloor
  let w := (List.range 16).foldl (fun w i => w.setCore (16 * k + i) { w.core (16 * k + i) with cold := true }) w
  (s.withW w).unparked

/-- CLUSTER_RUN: a waking cluster reaches RUN; a cluster in IDLE that is no longer quiet returns to it by itself (R433). -/
def execClusterRun (k : ClusterId) (s : State) : Out :=
  let v := s.w.cluster k
  let d := s.w.die (dieOfCluster k)
  if s.powered = false ∨ v.entering ≠ none then .next s
  else
    match v.power with
    | .waking => if k.val ∈ d.poweringUp ∨ k.val ∈ d.restarting then .next (s.runs k) else .next s
    | .idle => if s.quiet k then .next s else .next (s.runs k)
    | _ => .next s

/-- The effect of a write of 0x2100 + k:02 (R435). -/
def clusterFloorFx (s : State) (k : Nat) (v : List Byte) : Fx :=
  let c := s.w.cluster k
  match uintOf 1 v with
  | some 3 =>
    if s.res.any fun e => e.2.st.live && e.2.holds k then .refuse s stBusy
    else
      let d := dieOfCluster k
      let x := s.w.die d
      let w := s.w.setDie d { x with powerQ := x.powerQ.filter (· != k), restartQ := x.restartQ.filter (· != k) }
      .world s (w.setCluster k ({ c with floor := 3 } : Cluster).toFloor)
  | some f =>
    if 3 < f then .refuse s stState
    else
      let w := s.w.setCluster k { c with floor := f }
      .world s (if floorDepth f < depth c.settled then w.wake k else w)
  | none => .refuse s stState

/-- MGMT_CORE_SLEEP (R431): a management core without work for 1 ms. -/
def execMgmtCoreSleep (m : Fin 8) (s : State) : Out :=
  if s.ctl.mgmt = true then .next { s with w := { s.w with koc := { s.w.koc with asleep := insertNat m.val s.w.koc.asleep } } } else .next s

/-! ## The governor (R439, R440) -/

/-- The mean power of the last 10 ms (R439). -/
def Tele.mean (t : Tele) : Rat := (sumN t.samples : Rat) / (max 1 t.samples.length : Nat)

/-- One period of the governor for a die: the new duty and its cause (R439). Power in mW, temperature in m°C, time in µs. -/
def dutyStep (c : Ctl) (p : Nat) (a : Rat) (x : Nat) (tj : Int) (d : Nat) : Nat × Nat :=
  if (c.throttle * 1000 : Nat) ≤ tj then (max 1 (d - 2), 2)
  else if c.limit * 1000 < a then (max 1 (d - 1), 0)
  else if c.excursion * 1000 < p ∨ c.duration * 1000 ≤ x then (max 1 (d - 1), 1)
  else if a * 100 < 95 * (c.limit * 1000) ∧ tj < ((c.throttle * 1000 : Nat) : Int) - 2000 then (min 8 (d + 1), 4)
  else (d, 4)

/-- The power samples with one more: the last hundred, which are 10 ms, and 100 µs more above the limit L in milliwatts, or none (R439; DEDUCED, log entry
180). -/
def Tele.sample (t : Tele) (limit p : Nat) : Tele :=
  { t with power := p, samples := (p :: t.samples).take 100, overUs := if limit < p then t.overUs + 100 else 0 }

/-- GOVERNOR_PERIOD: the measured power and the hottest sensor of each die. The mean and the time above the limit follow from the power of this and
the earlier periods, whatever the command names for them (log entry 180). -/
def execGovernorPeriod (powerMw _meanMw _excursionUs : Nat) (tj0 tj1 : Int) (s : State) : Out :=
  if s.ctl.mgmt = true ∧ s.ctl.part ≠ .safe then
    let c := s.ctl
    let t := s.w.tele.sample (c.limit * 1000) powerMw
    let reached := decide (c.limit * 1000 < powerMw) && decide (c.duration * 1000 ≤ t.overUs)
    let w := { s.w with tele := { t with excursionSeen := reached } }
    let w := if reached && !s.w.tele.excursionSeen then w.event 0x0802 0x7800 1 dieNone none stOk (leBytes 2 (powerMw / 1000)) else w
    let w := (w.setDie 0 { w.die 0 with cap := none }).setDie 1 { w.die 1 with cap := none }
    let a := dutyStep c powerMw t.mean t.overUs tj0 (w.die 0).duty
    let b := dutyStep c powerMw t.mean t.overUs tj1 (w.die 1).duty
    let w := (w.setDuty 0 a.1 a.2).setDuty 1 b.1 b.2
    .next (s.withW { w with koc := { w.koc with asleep := [] } })
  else .next s

/-- Whether a core group on a compute die drains for a pre-emption or a snapshot (R439). -/
def State.dieDrains (s : State) (d : Nat) : Bool :=
  s.res.any fun e =>
    (e.2.st == .saving || (s.w.snap.draining && !s.w.snap.copied && s.w.snap.ctx == e.1)) && !s.w.drained e.2
      && (List.range e.2.count).any fun i => dieOfCluster (e.2.first + i) == d

/-- The duty that a die runs at: 4 at the least while a group on it drains, but no more than the current comparator has left it (R439, R440). -/
def State.dutyOf (s : State) (d : Nat) : Nat :=
  let v := s.w.die d
  let duty := if s.dieDrains d then max 4 v.duty else v.duty
  match v.cap with
  | some x => min x duty
  | none => duty

/-- CURRENT_LIMIT_TRIP: at 3,600 A the comparator halves the duty of both dies, rounding up. -/
def execCurrentLimitTrip (currentMa : Nat) (s : State) : Out :=
  if s.powered = true ∧ 3600000 ≤ currentMa then
    let halve (w : World) (d : Nat) : World :=
      w.setDuty d (((w.die d).duty + 1) / 2) 3
    let w := { s.w with tele := { s.w.tele with current := currentMa } }
    let w := (w.setDie 0 { w.die 0 with cap := some ((s.dutyOf 0 + 1) / 2) }).setDie 1 { w.die 1 with cap := some ((s.dutyOf 1 + 1) / 2) }
    .next (s.withW (halve (halve w 0) 1))
  else .next s

/-! ## Thermal and rail faults (R441, R442, R514, R517) -/

/-- The hottest of the readings and the lowest sensor that holds it. -/
def hottest : List Int → Nat → Int × Nat → Int × Nat
  | [], _, b => b
  | x :: xs, i, b => hottest xs (i + 1) (if b.1 < x then (x, i) else b)

/-- THERMAL_SAMPLE: the 256 junction sensors. The first one at 105 °C or above trips: THERM_TRIP_N low, its event, FATAL, SAFE; in
SAFE, its pin, event and record, once until a reset. -/
def execThermalSample (readings : List Int) (s : State) : Out :=
  if s.ctl.pins.pgAon = false ∨ readings.length ≠ 256 then .next s
  else
    let hot := hottest readings 0 (readings.headD 0, 0)
    let s := s.withW { s.w with tele := { s.w.tele with readings, hottest := hot.1, sensor := hot.2 } }
    match readings.findIdx? fun t => decide (105000 ≤ t) with
    | none => .next s
    | some i =>
      if s.ctl.part = .safe ∧ s.ctl.pins.thermTripLow = true then .next s
      else
        let deg := ((readings.getD i 0) / 1000).toNat
        let s := { s with ctl := { s.ctl with pins := { s.ctl.pins with thermTripLow := true } } }
        let s := s.withW (s.w.event 0x0803 0x7800 4 dieNone none stState (leBytes 1 i ++ leBytes 1 deg))
        .next (if s.ctl.part = .safe then s.raiseLogged clsFatal uPower stState i 0 (leBytes 1 deg) else s.fatal uPower stState i stState 0 (leBytes 1 deg))

/-- The place of a rail in the order in which the part switches the rails on (R515); 0 for the Always-On rail, which it does not switch. -/
def railGroup : Nat → Nat
  | 14 => 1
  | 10 | 11 => 2
  | 6 | 7 | 8 | 9 => 3
  | 4 | 5 => 4
  | 0 | 1 | 2 | 3 => 5
  | 12 | 13 => 6
  | _ => 0

/-- Typical voltage of a rail in millivolts (R513). -/
def railMv : Nat → Nat
  | 0 | 1 | 2 | 3 => 720
  | 4 | 5 | 8 => 800
  | 6 | 7 | 12 | 13 => 750
  | 9 => 1200
  | 10 | 11 => 1050
  | _ => 1800

/-- Whether a rail is on (R515). -/
def State.railOn (s : State) (rail : Nat) : Bool := decide (rail < 16) && decide (railGroup rail ≤ s.ctl.railGroups)

/-- Whether a voltage lies in a rail's window: the setpoint with its margin in steps of 0.5 %, −3 % to +3 % (R442, R514). -/
def inWindow (margin : Int) (rail mv : Nat) : Bool :=
  let setpoint : Int := railMv rail * (200 + margin)
  decide (97 * setpoint ≤ mv * 20000) && decide (mv * 20000 ≤ 103 * setpoint)

/-- Whether the last telemetry shows the fifteen main rails in their windows (R515). -/
def State.railsAgree (s : State) : Bool :=
  let regs := s.w.tele.regs
  regs.length == 16 && (List.range 15).all fun i => inWindow ((s.ctl.margins.getD i 0).toInt) i ((regs.map (·.mv)).getD i 0)

/-- A fault of a rail (R441, R444, R447): its event, FATAL, SAFE; in the third step of bring-up a regulator's fault is `ST_TIMEOUT`. In the millisecond
after RESET_N the reset stands, and SAFE is not entered (R517; log entry 182). -/
def State.railFault (s : State) (rail status st : Nat) : State :=
  if s.ctl.part = .safe ∨ (s.ctl.byPin = true ∧ s.ctl.clock < 100000) then s
  else
    let s := s.withW (s.w.event 0x0804 0x7800 8 dieNone none st (leBytes 1 rail ++ leBytes 4 status))
    s.fatal uPower st rail st 0 (leBytes 4 status)

/-- RAIL_OUT_OF_WINDOW: a rail that is on outside its window for more than 100 µs. -/
def execRailOutOfWindow (rail status : Nat) (s : State) : Out :=
  if s.ctl.pins.pgAon = true ∧ s.railOn rail = true then .next (s.railFault rail status stState) else .next s

/-- The effect of a write of 0x2000:06 (R442, R443): sixteen steps of 0.5 % from −10 to +10. -/
def railMarginFx (s : State) (v : List Byte) : Fx :=
  if v.length ≠ 16 ∨ (v.all fun b => decide (-10 ≤ b.toInt) && decide (b.toInt ≤ 10)) = false then .refuse s stState
  else if s.res.any fun e => e.2.st.live then .refuse s stBusy
  else { s := { s with ctl := { s.ctl with margins := v } } }

/-- The effect of a write of 0 to 0x2000:01 (R443, R448, R457): of one that is 0 already none, but that in SAFE it counts as the write that comes before
the one that leaves SAFE. -/
def mainOffFx (s : State) : Fx :=
  let s := { s with ctl := { s.ctl with safeOff := s.ctl.safeOff || s.ctl.part == .safe } }
  if s.ctl.mainPower = 0 then { s } else { s := s.railsOff }

/-- The effect of a write of 1 to 0x2000:01 (R443, R448, R457): bring-up from its third step, once its first step has ended, and in SAFE once 0 has been
written there; of one that is 1 already, none. -/
def mainOnFx (s : State) : Fx :=
  if s.ctl.mainPower = 1 then { s }
  else
    let s := { s with ctl := { s.ctl with mainPower := 1 } }
    if s.ctl.part = .safe ∧ s.ctl.safeOff = false then { s }
    else if s.ctl.part = .safe ∨ 2 ≤ s.ctl.step then { s := { s with ctl := { s.ctl with began := s.ctl.clock } }.startRails }
    else { s }

end Sys2Proof.Machine
end

