-- ==== Sys2Proof/Machine/Security.lean ====
section
/-! DEFINITION. Firmware, attestation, licences and life-cycle (R459–R476). -/
namespace Sys2Proof.Machine

/-! ## Firmware (R461–R464) -/

def fwType (v : List Byte) : Nat := le v 0 1
def fwSecurity (v : List Byte) : Nat := le v 1 1
def fwVersion (v : List Byte) : Nat := le v 4 4
/-- Largest body of a type (R461). -/
def fwLimit : Nat → Nat
  | 1 => 1048576
  | _ => 8388608

/-- Whether the header keeps R461. -/
def fwHeaderOk (v : List Byte) : Bool :=
  decide (64 + 2820 ≤ v.length) && (fwType v == 1 || fwType v == 2) && decide (fwSecurity v ≤ 64) && allZero (sl v 2 2)
    && decide (le v 8 4 ≤ fwLimit (fwType v)) && allZero (sl v 12 20) && v.length == 64 + 2820 + le v 8 4

/-- Whether the signature and the digest of the body verify. -/
def State.fwSigned (s : State) (v : List Byte) : Bool :=
  s.signedBy s.otp.fwKeys (sl v 0 64) (sl v 64 2820) && sl v 32 32 == Config.shake256 (v.drop 2884) 32

/-- Slot of a type: 1A, 1B, 2A, 2B. -/
def fwSlot (t ab : Nat) : Nat := 2 * (t - 1) + ab
/-- The image in a slot. -/
def State.fwImage (s : State) (t ab : Nat) : List Byte := s.flash.firmware.getD (fwSlot t ab) []
/-- Whether a slot's image may run (R462). -/
def State.eligible (s : State) (t ab : Nat) : Bool :=
  let v := s.fwImage t ab
  fwHeaderOk v && fwType v == t && s.fwSigned v && decide (s.otp.floor ≤ fwSecurity v)

/-- The slot of a type that runs (R462). -/
def State.chooseFw (s : State) (t : Nat) : Option Nat :=
  match s.eligible t 0, s.eligible t 1 with
  | true, true => some (if fwVersion (s.fwImage t 0) < fwVersion (s.fwImage t 1) then 1 else 0)
  | true, false => some 0
  | false, true => some 1
  | false, false => none

/-- The effect of 0x1880:01 (R463): into the slot of the image's type that is not active. -/
def firmwareFx (s : State) (v : List Byte) : Fx :=
  match firstRefusal [(!fwHeaderOk v, stState), (!s.fwSigned v, stDigestMismatch), (decide (fwSecurity v < s.otp.floor), stState)] with
  | some st => .refuse s st
  | none =>
    let active := if fwType v = 1 then s.ctl.sec.active1 else s.ctl.sec.active2
    { s := { s with flash := { s.flash with firmware := s.flash.firmware.set (fwSlot (fwType v) (1 - active)) v } } }

/-- The effect of 0x1880:03 (R464). -/
def securityFloorFx (s : State) (v : List Byte) : Fx :=
  match uintOf 1 v with
  | none => .refuse s stState
  | some x =>
    if s.otp.floor < x ∧ x ≤ 64 ∧ x ≤ fwSecurity (s.fwImage 1 s.ctl.sec.active1) ∧ x ≤ fwSecurity (s.fwImage 2 s.ctl.sec.active2) then
      { s := { s with otp := { s.otp with floor := x } } }
    else .refuse s stState

/-- The effect of a write of a public key to 0x1820:04 (R460). -/
def topologyKeyFx (s : State) (v : List Byte) : Fx :=
  let hash := Config.shake256 v 32
  if v.length ≠ 68 ∨ 4 ≤ s.otp.topoKeys.length ∨ hash ∈ s.otp.topoKeys ∨ s.otp.life = .returned ∨ s.otp.life = .scrapped then
    .refuse s stState
  else
    { s := { s with otp := { s.otp with topoKeys := s.otp.topoKeys ++ [hash] }, flash := { s.flash with keys := s.flash.keys ++ [v] } } }

/-! ## The attestation key (R465–R467) -/

/-- Signatures that the key allows (R465). -/
abbrev sigTotal : Nat := 1048576
/-- Signatures remaining. -/
def State.sigsLeft (s : State) : Nat := sigTotal - s.ctl.sec.nextSig

/-- The one warning about the attestation key (R466). -/
def State.warnSigs (s : State) (left : Nat) : State :=
  if s.flash.sigWarned then s
  else { s with flash := { s.flash with sigWarned := true } }.withW (s.w.raise clsCe uSec stOk 0 none dieNone 0 (leBytes 4 left))

/-- One signature (R465, R466): its index taken, the fuse of a new block programmed before, the mirror written, the one warning
raised when the remainder first reaches 65,536. -/
def State.sign (s : State) (msg : List Byte) : State × Nat × List Byte :=
  let i := s.ctl.sec.nextSig
  let left := sigTotal - (i + 1)
  let sig := Config.xmssSign (if s.otp.scrap then [] else s.otp.seed.getD []) i msg
  let s := { s with
    otp := { s.otp with blocks := max s.otp.blocks (i / 256 + 1) }
    flash := { s.flash with mirror := some i }
    ctl := { s.ctl with sec := { s.ctl.sec with nextSig := i + 1 } } }
  (if left = 65536 then s.warnSigs left else s, i, sig)

/-- Whether a quote or an opening may take a signature, and the status where it may not (R466). -/
def State.sigRefusal (s : State) (side : Bool) : Option Nat :=
  firstRefusal [(s.sigsLeft == 0 || (!side && decide (s.sigsLeft ≤ 4096)), stState), (s.ctl.sec.tokens == 0, stBusy)]

/-- A token taken from the bucket. -/
def State.takeToken (s : State) : State :=
  { s with ctl := { s.ctl with sec := { s.ctl.sec with tokens := s.ctl.sec.tokens - 1 } } }

/-- The effect of 0x1810:01 (R467): the answer waits for the quote. -/
def quoteFx (s : State) (v : List Byte) : Fx :=
  if v.length ≠ 32 then .refuse s stState
  else if s.ctl.sec.signing.isSome then .refuse s stBusy
  else
    match s.sigRefusal false with
    | some st => .refuse s st
    | none =>
      let s := s.takeToken
      { s := { s with ctl := { s.ctl with sec := { s.ctl.sec with signing := some v } } }, wait := some .quote }

/-- Serial of the record in force (R452). -/
def Sec.topoSerial (c : Sec) : Nat := le c.record 4 4

/-- The first 160 bytes of a quote (R467). -/
def State.quoteBody (s : State) (nonce : List Byte) : List Byte :=
  let c := s.ctl.sec
  leBytes 2 1 ++ leBytes 1 (lifeCode s.otp.life) ++ leBytes 1 c.variant ++ leBytes 4 c.fw1 ++ leBytes 4 c.fw2 ++ leBytes 4 c.nextSig
    ++ leBytes 8 s.otp.identity ++ leBytes 4 (if c.licence.isEmpty then 0 else le c.licence 4 4) ++ leBytes 4 c.topoSerial
    ++ leBytes 1 s.otp.floor ++ leBytes 1 s.otp.generation ++ leBytes 30 0 ++ sl nonce 0 32
    ++ (if c.licence.isEmpty then leBytes 32 0 else Config.shake256 c.licence 32)
    ++ (if c.record.isEmpty then leBytes 32 0 else Config.shake256 c.record 32)

/-- QUOTE_SIGNED: the quote in 0x1810:02, the nonce write answered. -/
def execQuoteSigned (s : State) : Out :=
  match s.ctl.sec.signing with
  | none => .next s
  | some nonce =>
    let body := s.quoteBody nonce
    let r := s.sign body
    let s := r.1
    let s := { s with ctl := { s.ctl with sec := { s.ctl.sec with signing := none, quote := body ++ r.2.2 } } }
    .next (s.withW (s.w.resolve .quote stOk []))

/-- ATTESTATION_TOKEN_REFILL: one token every 240 s, at most 32. -/
def execAttestationTokenRefill (s : State) : Out :=
  if s.ctl.pins.pgAon then
    .next { s with ctl := { s.ctl with sec := { s.ctl.sec with tokens := min 32 (s.ctl.sec.tokens + 1) } } }
  else .next s

/-! ## The test access port (R474) -/

/-- Whether the IEEE 1149.1 TAP works; where it does not, it is held in Test-Logic-Reset and TDO is high-impedance (log entry 187). -/
def State.tapWorks (s : State) : Bool := s.otp.life == .blank || s.otp.life == .provisioned
/-- Whether TDO is high-impedance whatever the test access port is driven with. -/
def State.tdoHighZ (s : State) : Bool := !s.tapWorks

/-! ## Licences (R468–R471) -/

/-- Link mask and units of a variant (R468). -/
def variantRow : Nat → Option (Nat × Nat)
  | 0 => some (0x000FFFFF, 3)
  | 1 => some (0x00000FFF, 2)
  | 2 => some (0x000000FF, 0)
  | _ => none

/-- Whether the fields of a licence keep R468. -/
def licFieldsOk (v : List Byte) : Bool :=
  v.length == 2884 && le v 0 2 == 1 && decide (1 ≤ le v 2 1) && decide (le v 2 1 ≤ 16) && variantRow (le v 3 1) == some (le v 16 4, le v 20 1)
    && allZero (sl v 21 43)

/-- Whether a licence of a generation verifies for this part (R469). -/
def State.licOk (s : State) (v : List Byte) (gen : Nat) : Bool :=
  licFieldsOk v && le v 8 8 == s.otp.identity && le v 2 1 == gen && s.signedBy s.otp.licKeys (v.take 64) (v.drop 64)

/-- The effect of 0x1400:01 (R469). -/
def licenceFx (s : State) (v : List Byte) : Fx :=
  if s.licOk v (s.otp.generation + 1) then { s := { s with flash := { s.flash with pendingLic := some v } } }
  else .refuse s stLicence

/-- Step 1's handling of licences (R470, R471): a pending licence of the next generation goes into force; the verifying licence of
the OTP generation is in force, or none, and the part runs as NFA3216-B. -/
def State.bootLicence (s : State) : State :=
  let s :=
    match s.flash.pendingLic with
    | none => s
    | some v =>
      if s.otp.generation < 16 ∧ s.licOk v (s.otp.generation + 1) = true then
        { s with otp := { s.otp with generation := s.otp.generation + 1 }
                 flash := { s.flash with licences := s.flash.licences ++ [v], pendingLic := none } }
      else if s.licOk v s.otp.generation then
        { s with flash := { s.flash with licences := s.flash.licences ++ [v], pendingLic := none } }
      else s
  let sec := s.ctl.sec
  let sec :=
    match s.flash.licences.find? fun v => s.licOk v s.otp.generation with
    | some v => { sec with licence := v, licStatus := stOk, variant := le v 3 1, linkMask := le v 16 4, units := le v 20 1 }
    | none => { sec with licence := [], licStatus := stLicence, variant := 2, linkMask := 0xFF, units := 0 }
  { s with ctl := { s.ctl with sec } }

/-! ## Life-cycle (R472–R475) -/

/-- The state that a code names (R428). -/
def lifeOf : Nat → Option LifeSt
  | 0 => some .blank
  | 1 => some .provisioned
  | 2 => some .field
  | 3 => some .returned
  | 4 => some .scrapped
  | _ => none

/-- Whether a token verifies for a target state (R472). -/
def State.tokenOk (s : State) (v : List Byte) (target : Nat) : Bool :=
  v.length == 2884 && le v 0 2 == 1 && le v 2 1 == 0 && le v 3 1 == 0xFF && le v 4 4 == 0 && le v 8 8 == s.otp.identity && le v 16 4 == 0
    && le v 20 1 == target && allZero (sl v 21 43) && s.signedBy s.otp.svcKeys (v.take 64) (v.drop 64)

/-- The status of a transition, asked for in a session opened with a key (R472): `ST_OK` where it is accepted. -/
def State.lifeStatus (s : State) (v keyHash : List Byte) : Nat :=
  let mgmt := !s.ctl.persist.mgmtKeys.isEmpty
  let token (t : Nat) : Nat :=
    if s.ctl.sec.token.isEmpty then stState else if s.tokenOk s.ctl.sec.token t then stOk else stDigestMismatch
  match uintOf 1 v with
  | none => stState
  | some x =>
    match s.otp.life, lifeOf x with
    | .blank, some .provisioned => if mgmt && !allZero keyHash && decide (keyHash ∈ s.otp.svcKeys) then stOk else stState
    | .provisioned, some .field => if mgmt && !s.otp.topoKeys.isEmpty then stOk else stState
    | .field, some .returned => token 3
    | .scrapped, _ => stState
    | _, some .scrapped => token 4
    | _, _ => stState

/-- What a change of the life-cycle state clears in flash and sets in OTP (R475). -/
def State.lifeClears (s : State) (l : LifeSt) : State :=
  let s := { s with otp := { s.otp with life := l } }
  match l with
  | .returned => { s with flash := { s.flash with repair := List.replicate 64 0xFF } }
  | .scrapped =>
    { s with otp := { s.otp with scrap := true }, flash := { log := s.flash.log }, ctl := { s.ctl with persist := {}, persistQ := [] } }
  | _ => s

/-- An accepted transition after its answer (R473): contexts destroyed, the lease ended, fuses, event, reset. -/
def State.lifeChange (s : State) (l : LifeSt) : State :=
  let s := s.destroyAll
  let s := (s.withW (s.w.endLease 5)).lifeClears l
  let s := s.withW (s.w.event 0x0A02 0x0100 2 dieNone none stOk (leBytes 1 (lifeCode l)))
  s.restart s.ctl.pins.straps s.ctl.resets

end Sys2Proof.Machine
end

