-- ==== Sys2Proof/Machine/Bringup.lean ====
section
/-! DEFINITION. Bring-up (R445–R457, R515–R518): power-on, the rail sequence, firmware, self-test and spare mapping, resets. -/
namespace Sys2Proof.Machine

/-- Free bytes number `f` on, as the entropy source delivers them. -/
def entropy (f n : Nat) : List Byte := (List.range n).map fun i => Config.freeByte (f + i)

/-- POWER_ON (R445, R465, R518): PG_AON rises, the straps are sampled, step 1 begins; a BLANK part without an attestation seed
makes one. -/
def execPowerOn (straps : BitVec 4) (s : State) : Out :=
  if s.ctl.pins.pgAon then .next s
  else
    let make := decide (s.otp.life = .blank) && s.otp.seed.isNone
    let otp := if make then { s.otp with seed := some (entropy s.w.free 96) } else s.otp
    .next { s with
      otp
      ctl := { s.ctl with
        part := .bringup, step := 1, mainPower := strapPower straps, pins := { pgAon := true, straps }, persist := s.flash.persist
        sec := { nextSig := 256 * otp.blocks } }
      w := { s.w with free := if make then s.w.free + 96 else s.w.free } }

/-- PG_AON_FALL (R517): everything but flash and OTP is lost; a persistent write not yet in flash keeps its old or its new value. -/
def execPgAonFall (s : State) : Out :=
  if s.ctl.pins.pgAon then
    .next { s with flash := { s.flash with persist := s.keepPersist }, ctl := {}, res := [], w := { free := s.w.free + 17 } }
  else .next s

/-- RESET_PIN (R448, R517, R518): a reset, the straps sampled again. -/
def execResetPin (straps : BitVec 4) (s : State) : Out :=
  if s.ctl.pins.pgAon then
    let s := s.restart straps s.ctl.resets
    .next { s with ctl := { s.ctl with byPin := true } }
  else .next s

/-- The signature indices that the last reset skipped, by the flash mirror (R465); the remainder may reach 65,536 by them (R466), of which the part
warns once. -/
def State.countSkipped (s : State) : State :=
  let s :=
    match s.flash.mirror with
    | some i =>
      if i + 1 ≤ 256 * s.otp.blocks then
        { s with ctl := { s.ctl with sec := { s.ctl.sec with skipped := add32 s.ctl.sec.skipped (256 * s.otp.blocks - (i + 1)) } } }
      else s
    | none => s
  if s.sigsLeft ≤ 65536 then s.warnSigs s.sigsLeft else s

/-- BOOT_VERIFY_DONE (R445, R447, R462, R470): licences, then first-stage firmware; without an eligible image the part stays at
step 1. -/
def execBootVerifyDone (s : State) : Out :=
  if s.ctl.pins.pgAon = true ∧ s.ctl.part = .bringup ∧ s.ctl.step = 1 ∧ s.ctl.booted = false then
    let s := s.bootLicence.countSkipped
    let s := { s with ctl := { s.ctl with booted := true } }
    match s.chooseFw 1 with
    | none =>
      let s := s.raiseLogged clsUe uBringup stDigestMismatch 1
      .next { s with ctl := { s.ctl with endStatus := stDigestMismatch } }
    | some ab =>
      let s := { s with ctl := { s.ctl with step := 2, sec := { s.ctl.sec with active1 := ab, fw1 := fwVersion (s.fwImage 1 ab) } } }
      .next (if s.ctl.mainPower = 1 then s.startRails else s)
  else .next s

/-- RAIL_SEQUENCE_STEP (R515): the group enabled last has been in its window for 1 ms; the next one is enabled. -/
def execRailSequenceStep (s : State) : Out :=
  if s.ctl.part = .bringup ∧ s.ctl.step = 3 ∧ s.ctl.mainPower = 1 ∧ 1 ≤ s.ctl.railGroups ∧ s.ctl.railGroups < 6 then
    .next { s with ctl := { s.ctl with railGroups := s.ctl.railGroups + 1 } }
  else .next s

/-- The links as the licence enables them when training begins (R335, R445). -/
def World.startLinks (w : World) (mask : Nat) : World :=
  (List.range 20).foldl (fun w l => w.setLink l { st := if bit mask l then .waitSignal else .disabled }) w

/-- The slot of second-stage firmware that runs: the one chosen when it first ran since the reset stays so until the next one (R462, R463). -/
def State.secondStage (s : State) : Option Nat := if s.ctl.sec.ran2 then some s.ctl.sec.active2 else s.chooseFw 2

/-- The main rails taken as up (R445, R447, R454, R462): the management cores run, second-stage firmware and the topology record are verified, and
training begins. Without eligible second-stage firmware bring-up ends in SAFE. -/
def State.railsUp (s : State) : State :=
  let s := { s with ctl := { s.ctl with pgMain := true } }
  match s.secondStage with
  | none => s.fatal uBringup stDigestMismatch 3 stDigestMismatch
  | some ab =>
    let record := if s.topoOk s.flash.topology then s.flash.topology else []
    let s := { s with ctl := { s.ctl with
      step := 4, mgmt := true
      sec := { s.ctl.sec with active2 := ab, ran2 := true, fw2 := fwVersion (s.fwImage 2 ab), record } } }
    let w := s.w.startLinks s.ctl.sec.linkMask
    let w := (w.setPort 0 { w.port 0 with st := 1 }).setPort 1 { w.port 1 with st := 1 }
    s.withW { w with hbm := {} }

/-- Step 3 as PG_MAIN and the telemetry stand: the rails are taken as up once both agree (R515). -/
def State.tryRails (s : State) : State :=
  if s.ctl.part = .bringup ∧ s.ctl.step = 3 ∧ s.ctl.railGroups = 6 ∧ s.ctl.pgMain = false ∧ s.ctl.pins.pgMain = true ∧ s.railsAgree = true then s.railsUp
  else s

/-- PG_MAIN_RISE (R515): all 15 rails report power-good to the board. -/
def execPgMainRise (s : State) : Out :=
  if s.ctl.part = .bringup ∧ s.ctl.step = 3 ∧ s.ctl.railGroups = 6 then
    .next { s with ctl := { s.ctl with pins := { s.ctl.pins with pgMain := true } } }.tryRails
  else .next s

/-- PMBUS_POLL (R441, R442, R515): what each regulator reports; the first one with an output fault ends in SAFE; the rails may be up by it. -/
def execPmbusPoll (rails : List RegReading) (s : State) : Out :=
  if s.ctl.pins.pgAon = false ∨ rails.length ≠ 16 then .next s
  else
    let s := s.withW { s.w with tele := { s.w.tele with regs := rails, current := sumN ((rails.take 4).map (·.ma)) } }
    match rails.findIdx? (·.fault) with
    | none => .next s.tryRails
    | some i => .next (s.railFault i ((rails.map (·.status)).getD i 0) (if s.ctl.part = .bringup ∧ s.ctl.step = 3 then stTimeout else stState))

/-- PG_MAIN_TIMEOUT (R447, R515): PG_MAIN not high, or at odds with telemetry, for 250 ms. -/
def execPgMainTimeout (s : State) : Out :=
  if s.ctl.part = .bringup ∧ s.ctl.step = 3 ∧ 1 ≤ s.ctl.railGroups ∧ s.ctl.pgMain = false then
    .next (s.fatal uBringup stTimeout 3 stTimeout)
  else .next s

/-- PLL_LOCK_TIMEOUT (R447, R516): a PLL does not lock once the rails are on. -/
def execPllLockTimeout (s : State) : Out :=
  if s.ctl.part = .bringup ∧ s.ctl.step = 3 ∧ s.ctl.railGroups = 6 then .next (s.fatal uBringup stTimeout 3 stTimeout)
  else .next s

/-! ## Self-test and spares (R449–R451) -/

/-- Physical cores of a cluster that cannot be used: those that failed, and the one that the repair map names (R450). -/
def badCores (repair : List Nat) (failed : List (ClusterId × Fin 17)) (k : Nat) : List Nat :=
  let new := distinct ((failed.filter fun f => f.1.val == k).map fun f => f.2.val)
  let old := repair.getD k 0xFF
  if old ≤ 16 ∧ old ∉ new then old :: new else new

/-- The repair map after self-test: a cluster with one bad core names it (R451). -/
def newRepair (repair : List Nat) (failed : List (ClusterId × Fin 17)) : List Nat :=
  (List.range 64).map fun k =>
    match badCores repair failed k with
    | [f] => f
    | _ => repair.getD k 0xFF

/-- The cores as self-test leaves them: zeroed, on their physical cores. -/
def World.mapCores (w : World) (repair : List Nat) : World :=
  { w with
    cores := (List.range 1024).filterMap fun c =>
      let f := repair.getD (c / 16) 0xFF
      if f = c % 16 then some (c, { Core.fresh c with phys := 16 }) else none
    dies := w.dies.map fun e => (e.1, { e.2 with sets := [], fills := [] }) }

/-- Records of new failures, those of cores that the repair map does not name yet, each logged (R451, R489; DEDUCED, log entry 47). -/
def State.logFailures (s : State) (failed : List (ClusterId × Fin 17)) : State :=
  (failed.filter fun f => s.flash.repair.getD f.1 0xFF != f.2).foldl (fun s f => s.raiseLogged clsCe uScan stDigestMismatch f.1 0 (leBytes 1 f.2.val ++ leBytes 1 3)) s

/-- SELF_TEST_DONE (R449–R451): once every cluster has been powered up. A cluster with two bad cores, or a failed shared unit or
slice, ends in SAFE; else the spares are mapped, the map written and the comparison begun. -/
def execSelfTestDone (failedCores : List (ClusterId × Fin 17)) (failedUnits : List SharedUnit) (s : State) : Out :=
  if s.ctl.part = .bringup ∧ s.ctl.step = 5 ∧ ((List.range 64).all fun k => (s.w.cluster k).power == .run) = true then
    let s := s.logFailures failedCores
    let two := (List.range 64).filter fun k => decide (2 ≤ (badCores s.flash.repair failedCores k).length)
    let repair := newRepair s.flash.repair failedCores
    let s := { s with flash := { s.flash with repair } }
    let clusters := failedUnits.filterMap fun u => match u with | .cluster k => some k.val | .slice _ => none
    let slices := failedUnits.filterMap fun u => match u with | .cluster _ => none | .slice i => some i
    let failed := (distinct (two ++ clusters)).map (fun k => (uScan, k)) ++ (distinct slices).map fun i => (uSac, i)
    if failed.isEmpty then
      let s := s.withW (s.w.mapCores repair)
      .next ({ s with ctl := { s.ctl with step := 6 } }.compare false)
    else .next (s.fatals failed stDigestMismatch)
  else .next s

/-- TOPOLOGY_DEADLINE (R455, R456): every link not decided is a mismatch. -/
def execTopologyDeadline (s : State) : Out :=
  if s.ctl.part = .bringup ∧ s.ctl.step = 6 then .next (s.compare true) else .next s

/-- PATTERN_CACHE_LOADED (R324, R331, R445, R496): the scan-test patterns of flash are in HBM, or failed to load. -/
def execPatternCacheLoaded (ok : Bool) (s : State) : Out :=
  if s.w.hbm.wipe = 2 ∧ s.ctl.mgmt = true ∧ s.w.scan.cache = 0 then
    let w := if ok then s.w.blit patternBase (alignUp s.flash.patterns.length 64) (cellsOf patternBase s.flash.patterns) [] else s.w
    .next (s.withW { w with scan := { w.scan with cache := if ok then 1 else 2 } })
  else .next s

end Sys2Proof.Machine
end

