-- ==== Sys2Proof/Machine/Hbm.lean ====
section
/-! DEFINITION. HBM upkeep and training (R320, R321, R326, R329, R331): patrol scrub, trained stacks, the wipe, refresh rate. -/
namespace Sys2Proof.Machine

/-- Blocks of HBM (R320, R329). -/
abbrev hbmBlocks : Nat := 2 ^ 34

/-- One read of the patrol scrub (R326, R329): the next block, corrected or marked. The pass reaches the block, so an error corrected in it raises its
record, and none again until the next pass; a read that fails on the bus is counted (R330); a pass ends after the last block. -/
def World.scrubHbm (w : World) : World :=
  let b := w.hbm.scrubPos
  let w := { w with hbm := { w.hbm with corrected := w.hbm.corrected.filter (· != b) } }
  let w := if b ∈ w.hbm.busBad then w.busFail none b false else w.touchBlock none b
  let h := w.hbm
  { w with hbm := { h with
    scrubPos := (b + 1) % hbmBlocks
    passes := if b + 1 = hbmBlocks then bump 64 h.passes 1 else h.passes } }

/-- What may befall HBM as time passes (R325, R330, R333), by a free choice: nothing, an error in a block, a block whose next access fails on the bus, an
error that a stack's on-die ECC corrects and reports (DESIGN CHOICE, log entry 151: the table has no row for it). -/
def World.strikeHbm (w : World) : World :=
  let f := w.free
  let kind := Config.freeNat f % 8
  let b := Config.freeNat (f + 1) % hbmBlocks
  let h := w.hbm
  let error : Option Upset :=
    if kind = 1 then some (.flips [Config.freeNat (f + 2) % 548]) else if kind = 2 then some .ue else if kind = 3 then some .onDie
    else if kind = 4 then some .astray else none
  let mem := match error with | some u => h.mem.befall b u | none => h.mem
  let t := stackOf (64 * b)
  { w with
    free := f + 3
    hbm := { h with
      mem
      busBad := if kind = 5 then insertNat b h.busBad else h.busBad
      stackTab := if kind = 6 then h.stackTab.set t { w.stack t with onDie := bump 64 (w.stack t).onDie 1 } else h.stackTab } }

/-- HBM_PATROL_SCRUB: while the wipe is done and the rails are up. -/
def execHbmPatrolScrub (s : State) : Out :=
  if s.w.hbm.wipe = 2 ∧ s.ctl.pgMain = true ∧ s.ctl.part ≠ .safe then .next (s.withW s.w.scrubHbm.strikeHbm) else .next s

/-- HBM_STACK_TRAINED (R321): a stack trained begins its share of the wipe; a stack that fails ends bring-up in SAFE. -/
def execHbmStackTrained (t : StackId) (ok : Bool) (s : State) : Out :=
  if s.ctl.part = .bringup ∧ s.ctl.step = 4 ∧ (s.w.stack t).train = 0 then
    if ok then
      let w := s.w.setStack t { s.w.stack t with train := 1 }
      .next (s.withW { w with hbm := { w.hbm with wipe := 1 } })
    else
      .next ((s.withW (s.w.setStack t { s.w.stack t with train := 2 })).fatal uHbm stTimeout t stTimeout)
  else .next s

/-- HBM after the wipe (R329, R331): zero, clean, the scrub at address 0, 64 GiB written to each stack (R333); the caches hold nothing of it. -/
def World.wiped (w : World) (us : Nat) : World :=
  let w := w.countEven (2 ^ 36)
  { w with
    hbm := { w.hbm with mem := {}, corrected := [], busBad := [], scrubPos := 0, wipe := 2, wipeUs := us % 2 ^ 32 }
    dies := w.dies.map fun e => (e.1, e.2.invalidateAll), snap := {}, ctxs := []
    buddy := { w.buddy with image := none, inbound := none, out := none }, scan := { w.scan with cache := 0 } }

/-- Every cluster's power-up asked for from OFF (R449). -/
def World.wakeAll (w : World) : World := (List.range 64).foldl (fun w k => w.wake k) w

/-- HBM_WIPE_DONE: step 4 ends and self-test begins; a stack whose share fails ends bring-up in SAFE. -/
def execHbmWipeDone (failed : Option StackId) (us : Nat) (s : State) : Out :=
  if s.ctl.part = .bringup ∧ s.ctl.step = 4 then
    match failed with
    | some t =>
      if (s.w.stack t).train = 1 then
        .next ((s.withW { s.w with hbm := { s.w.hbm with wipe := 3 } }).fatal uHbm stBusError t stBusError)
      else .next s
    | none =>
      if (List.range 16).all fun t => (s.w.stack t).train == 1 then
        .next { s with ctl := { s.ctl with step := 5 }, w := (s.w.wiped us).wakeAll }
      else .next s
  else .next s

/-- REFRESH_RATE_CHANGE (R320): a stack's temperature as it reports it; the refresh rate is 2× above 85 °C. -/
def execRefreshRateChange (t : StackId) (celsius : Int) (s : State) : Out :=
  if s.ctl.pgMain = true ∧ (s.w.stack t).train = 1 then
    .next (s.withW (s.w.setStack t { s.w.stack t with temp := celsius, refresh := if 85 < celsius then 2 else 1 }))
  else .next s

end Sys2Proof.Machine
end

