-- ==== Sys2Proof/Machine/HostPort.lean ====
section
/-! DEFINITION. Host ports (R371–R384, R398–R401): link, PFC, RoCEv2 responder, congestion, neighbour protocols, queue pairs and
regions. -/
namespace Sys2Proof.Machine

/-! ## Link and frames (R371, R372, R400) -/

/-- Whether the host ports run: the main rails are up, training has begun, and the part is not in SAFE. -/
def State.portsOn (s : State) : Bool := s.ctl.pgMain && decide (4 ≤ s.ctl.step) && s.ctl.part != .safe

/-- HOST_LINK_UP: the port takes its electrical mode, VLAN id and addresses as they stand now (R400). -/
def execHostLinkUp (p : PortId) (s : State) : Out :=
  let v := s.w.port p
  if s.portsOn = true ∧ v.st ≠ 2 then
    let c := s.ctl.persist
    let live := (nth c.elec p, nth c.vlan p, c.ip6.getD p [], c.ip4.getD p [])
    .next (s.withW (s.w.setPort p { v with st := 2, live }))
  else .next s

/-- HOST_LINK_DOWN. -/
def execHostLinkDown (p : PortId) (s : State) : Out :=
  let v := s.w.port p
  if v.st = 2 then .next (s.withW (s.w.portDown p)) else .next s

/-- A host port's name. -/
def portName (p : Nat) : KocPort := if p = 0 then .host0 else .host1

/-- A frame counted as received (R400). -/
def World.gotFrame (w : World) (p : Nat) : World := w.setPort p { w.port p with frames := bump 64 (w.port p).frames 1 }
/-- A frame discarded and counted (R372). -/
def World.discardFrame (w : World) (p : Nat) : World :=
  w.setPort p { w.port p with discarded := bump 64 (w.port p).discarded 1 }

/-- HOST_FRAME_DISCARD: a frame that R372 does not accept. -/
def execHostFrameDiscard (p : PortId) (s : State) : Out :=
  if (s.w.port p).st = 2 then .next (s.withW ((s.w.gotFrame p).discardFrame p)) else .next s

/-! ## Traffic classes, ingress buffer and PFC (R373–R375) -/

/-- Areas of a port's ingress buffer, in bytes (R374). -/
abbrev headroomSize : Nat := 327680
abbrev guaranteedSize : Nat := 65536
abbrev poolSize : Nat := 262144
/-- Bytes outside headroom at which a class sends XOFF: 64 KiB and 96 KiB of the shared pool (R374). -/
abbrev xoffAt : Nat := 163840

/-- Priority of a lossless class (R373). -/
def Persist.prio (c : Persist) : LossClass → Nat
  | .llA => c.prioA
  | .llB => c.prioB

/-- The class of a frame: by the priority of its tag, 0 without one; none for the class Other (R373). -/
def Persist.classOf (c : Persist) (net : NetHdr) : Option LossClass :=
  let q := (net.vlan.map (·.1)).getD 0
  if q = c.prioA then some .llA else if q = c.prioB then some .llB else none

/-- What a lossless class holds of the buffer, and whether its peer was last told to stop. -/
def HPort.held (v : HPort) : LossClass → Ingress
  | .llA => v.inA
  | .llB => v.inB
def HPort.setHeld (v : HPort) (k : LossClass) (x : Ingress) : HPort :=
  match k with
  | .llA => { v with inA := x }
  | .llB => { v with inB := x }
def HPort.above (v : HPort) : LossClass → Bool
  | .llA => v.xoffA
  | .llB => v.xoffB
def HPort.setAbove (v : HPort) (k : LossClass) (x : Bool) : HPort :=
  match k with
  | .llA => { v with xoffA := x }
  | .llB => { v with xoffB := x }

/-- Bytes of the shared pool in use: what each lossless class holds beyond its guaranteed area, and the class Other (R374). -/
def HPort.pool (v : HPort) : Nat := (v.inA.outside - guaranteedSize) + (v.inB.outside - guaranteedSize) + v.inOther

/-- PFC sent for a class: 0xFFFF quanta, counted, or 0 (R374, R400). -/
def World.sendXoff (w : World) (c : Persist) (p : Nat) (k : LossClass) : World :=
  let v := w.port p
  { w.setPort p { v.setAbove k true with xoffSent := bump 32 v.xoffSent 1 } with outbox := w.outbox ++ [.pfc p (c.prio k) 0xFFFF] }
def World.sendXon (w : World) (c : Persist) (p : Nat) (k : LossClass) : World :=
  { w.setPort p ((w.port p).setAbove k false) with outbox := w.outbox ++ [.pfc p (c.prio k) 0] }

/-- XON where a stopped class has fallen below 64 KiB outside its headroom (R374). -/
def World.xonIfLow (w : World) (c : Persist) (p : Nat) (k : LossClass) : World :=
  if (w.port p).above k = true ∧ ((w.port p).held k).outside < guaranteedSize then w.sendXon c p k else w

/-- What is left of a number of bytes once some have been taken out: a free number of them (DESIGN CHOICE, log entry 49). -/
def drainedTo (f n : Nat) : Nat := if n = 0 then 0 else n - Config.freeNat f % (n + 1)

/-- The ingress buffer of a port drains: by how much, the spec leaves to time (DESIGN CHOICE, log entry 49). -/
def World.drainPort (w : World) (c : Persist) (p : Nat) : World :=
  let v := w.port p
  if v.inA = {} ∧ v.inB = {} ∧ v.inOther = 0 then w
  else
    let out (f : Nat) (x : Ingress) : Ingress := { outside := drainedTo f x.outside, headroom := drainedTo (f + 1) x.headroom }
    let f := w.free
    let w := { w.setPort p { v with inA := out f v.inA, inB := out (f + 2) v.inB, inOther := drainedTo (f + 4) v.inOther } with free := f + 5 }
    (w.xonIfLow c p .llA).xonIfLow c p .llB

/-- A lossless frame dropped whole and counted, with at most one event per second (R375, R421). -/
def World.dropFrame (w : World) (p : Nat) : World :=
  let v := w.port p
  let now := w.tick.getD (dieOfPort p) 0
  let drops := (v.drops.filter fun t => decide (now < t + 100000000)) ++ [now]
  let v := { v with dropped := bump 64 v.dropped 1, drops }
  let due := match v.dropAt with | none => true | some t => decide (t + 100000000 ≤ now)
  if due then
    (w.setPort p { v with dropAt := some now }).event 0x0604 (0x6810 + p) 9 (dieOfPort p) none stOk (leBytes 1 p ++ leBytes 4 drops.length)
  else w.setPort p v

/-- Whether a frame of a lossless class finds room outside its headroom (R374). -/
def HPort.room (v : HPort) (k : LossClass) (len : Nat) : Bool :=
  let n := (v.held k).outside
  !v.above k && decide (v.pool + ((n + len - guaranteedSize) - (n - guaranteedSize)) ≤ poolSize)

/-- A frame enters the buffer of a port (R374, R375): Other while the shared pool has room; a lossless class in its guaranteed area and the pool,
XOFF following when it reaches its threshold, else in its headroom. The error is the world in which it was dropped. -/
def World.arrive (w : World) (c : Persist) (p : Nat) (net : NetHdr) : Except World World :=
  let w := w.drainPort c p
  let v := w.port p
  match c.classOf net with
  | none => if v.pool + net.len ≤ poolSize then .ok ((w.setPort p { v with inOther := v.inOther + net.len }).gotFrame p) else .error w
  | some k =>
    let x := v.held k
    if v.room k net.len then
      let w := (w.setPort p (v.setHeld k { x with outside := x.outside + net.len })).gotFrame p
      .ok (if xoffAt ≤ x.outside + net.len then w.sendXoff c p k else w)
    else if x.headroom + net.len ≤ headroomSize then
      .ok ((w.setPort p (v.setHeld k { x with headroom := x.headroom + net.len })).gotFrame p)
    else .error (w.dropFrame p)

/-- PFC received (R373): the part's transmission on LL-A or LL-B is paused or resumed; other priorities are ignored. -/
def execPfc (p : PortId) (priority quanta : Nat) (s : State) : Out :=
  if (s.w.port p).st ≠ 2 then .next s
  else
    let w := s.w.gotFrame p
    let v := w.port p
    let c := s.ctl.persist
    let told (k : LossClass) : Out :=
      let x := if quanta = 0 then none else some ((v.paused k).getD w.outbox.length)
      .next (s.withW (w.setPort p { v.setPaused k x with xoffRecv := if quanta = 0 then v.xoffRecv else bump 32 v.xoffRecv 1 }))
    if priority = c.prioA then told .llA else if priority = c.prioB then told .llB else .next (s.withW w)

/-- PFC_PAUSE_EXPIRY (R373). -/
def execPfcPauseExpiry (p : PortId) (k : LossClass) (s : State) : Out := .next (s.withW (s.w.setPort p ((s.w.port p).setPaused k none)))

/-- PFC_XOFF_REFRESH (R374): every 20 µs a lossless class that is still above its threshold repeats XOFF; one that has fallen below 64 KiB sends XON. -/
def execPfcXoffRefresh (p : PortId) (k : LossClass) (s : State) : Out :=
  if (s.w.port p).st = 2 then
    let w := s.w.drainPort s.ctl.persist p
    .next (s.withW (if (w.port p).above k then w.sendXoff s.ctl.persist p k else w))
  else .next s

/-! ## Neighbour protocols (R372, R398) -/

/-- Whether a port takes frames: a host port that is up; the side-band port once the AON controller has ended step 1. -/
def State.portUp (s : State) : KocPort → Bool
  | .side => s.ctl.pins.pgAon && s.ctl.booted
  | .host0 => (s.w.port 0).st == 2
  | .host1 => (s.w.port 1).st == 2

/-- MAC address of a port (R372, R459). -/
def State.mac (s : State) (p : KocPort) : List Byte := s.otp.macs.getD ((kocPortNo p).getD 2) []
/-- Configured IPv4 address of a port, as it is in force. -/
def State.ip4 (s : State) : KocPort → List Byte
  | .side => sl s.ctl.persist.sideIp4 0 4
  | .host0 => sl (s.w.port 0).live.2.2.2 0 4
  | .host1 => sl (s.w.port 1).live.2.2.2 0 4
/-- Configured IPv6 address of a port, as it is in force. -/
def State.ip6 (s : State) : KocPort → List Byte
  | .side => s.ctl.persist.sideIp6
  | .host0 => (s.w.port 0).live.2.2.1
  | .host1 => (s.w.port 1).live.2.2.1
/-- The link-local address that a MAC address gives (R372; PRESUMED, log entry 50). -/
def linkLocal (m : List Byte) : List Byte :=
  [0xFE, 0x80, 0, 0, 0, 0, 0, 0, m.getD 0 0 ^^^ 2, m.getD 1 0, m.getD 2 0, 0xFF, 0xFE, m.getD 3 0, m.getD 4 0, m.getD 5 0]

/-- Whether an address is one of the port's. -/
def State.owns4 (s : State) (p : KocPort) (t : List Byte) : Bool := !allZero (s.ip4 p) && t == s.ip4 p
def State.owns6 (s : State) (p : KocPort) (t : List Byte) : Bool := t == linkLocal (s.mac p) || (!allZero (s.ip6 p) && t == s.ip6 p)

/-- Whether a frame is for one of the port's addresses (R372). -/
def State.addressed (s : State) (p : KocPort) (net : NetHdr) : Bool := net.mac == s.mac p && (s.owns4 p net.ip || s.owns6 p net.ip)

/-- A frame that reaches a port on a UDP port (R371–R375, R398): discarded where it is for another address or UDP port or longer than a frame may
be, and counted by a host port; else it enters that port's buffer. The error is the state in which the part does not take it. -/
def State.frameIn (s : State) (p : KocPort) (net : NetHdr) (udp : Nat) : Except State State :=
  if s.portUp p = false then .error s
  else
    match kocPortNo p with
    | none => if s.addressed p net && net.udp == udp then .ok s else .error s
    | some n =>
      if s.addressed p net && net.udp == udp && decide (net.len ≤ 4200) then
        match s.w.arrive s.ctl.persist n net with
        | .ok w => .ok (s.withW w)
        | .error w => .error (s.withW w)
      else .error (s.withW ((s.w.gotFrame n).discardFrame n))

/-- The 802.1Q tag of a frame that the part sends from a host port with a VLAN id in force: that id, and its class's priority, 0 for Other
(R373, R400). A side-band frame has none (R398). -/
def State.tagOf (s : State) (m : OutMsg) : Option (Nat × Nat) :=
  let tag (p q : Nat) : Option (Nat × Nat) := if (s.w.port p).live.2.1 = 0 then none else some (q, (s.w.port p).live.2.1)
  match m.lossless, m with
  | some (p, k), _ => tag p (s.ctl.persist.prio k)
  | none, .arpReply port _ => (kocPortNo port).bind fun p => tag p 0
  | none, .neighbour port _ => (kocPortNo port).bind fun p => tag p 0
  | none, .echo port _ => (kocPortNo port).bind fun p => tag p 0
  | none, _ => none

/-- The ECN field of a RoCEv2 frame that the part sends: ECT(0), which is 2 (R376). -/
def OutMsg.ecn : OutMsg → Option Nat
  | .ack _ _ _ | .nak _ _ _ _ | .rnr _ _ _ _ | .readResp _ _ _ _ _ | .cnp _ _ => some 2
  | _ => none

/-- A frame that a port answers where it is for one of its addresses; else a host port discards and counts it. It carries no tag, so that a host
port takes it as class Other (R373; its length in bytes: DESIGN CHOICE, log entry 49). -/
def State.neighbour (s : State) (p : KocPort) (ours : Bool) (len : Nat) (m : OutMsg) : Out :=
  let say (s : State) : Out := .next (s.withW { s.w with outbox := s.w.outbox ++ [m] })
  if s.portUp p = false then .next s
  else
    match kocPortNo p with
    | none => if ours then say s else .next s
    | some n =>
      if ours then
        match s.w.arrive s.ctl.persist n { mac := [], ip := [], vlan := none, udp := 0, len } with
        | .ok w => say (s.withW w)
        | .error w => .next (s.withW w)
      else .next (s.withW ((s.w.gotFrame n).discardFrame n))

/-- ARP. -/
def execArp (p : KocPort) (target : List Byte) (s : State) : Out := s.neighbour p (s.owns4 p target) 64 (.arpReply p target)
/-- NEIGHBOUR_DISCOVERY. -/
def execNeighbourDiscovery (p : KocPort) (target : List Byte) (s : State) : Out := s.neighbour p (s.owns6 p target) 90 (.neighbour p target)
/-- ICMP_ECHO. -/
def execIcmpEcho (p : KocPort) (target : List Byte) (payload : List Byte) (s : State) : Out :=
  s.neighbour p (s.owns4 p target || s.owns6 p target) (66 + payload.length) (.echo p payload)

/-! ## Queue pairs (R376–R384) -/

/-- AETH syndromes of the InfiniBand specification that R376 names. -/
abbrev nakSequence : Nat := 0x60
abbrev nakInvalid : Nat := 0x61
abbrev nakAccess : Nat := 0x62
abbrev nakOperational : Nat := 0x63

/-- A NAK sent and counted. -/
def World.nakQp (w : World) (p q psn syn : Nat) : World :=
  { w.setQp q { w.qp q with naks := bump 32 (w.qp q).naks 1 } with outbox := w.outbox ++ [.nak p q psn syn] }

/-- A queue pair in ERROR by a NAK (R377, R381), with its event. -/
def World.failQp (w : World) (p q psn syn : Nat) : World :=
  let w := w.nakQp p q psn syn
  let w := w.setQp q { w.qp q with st := QpSt.error }
  w.event 0x0602 (0x6A00 + q) 1 (dieOfPort p) (some (w.qp q).ctx) stOk (leBytes 2 q ++ leBytes 1 syn)

/-- UDP destination port of RoCEv2 (R372). -/
abbrev roceUdp : Nat := 4791

/-- A RoCEv2 request at a port: taken by the port, RoCEv2 enabled, the queue pair READY on this port; otherwise dropped and counted. -/
def State.roce (s : State) (p q : Nat) (net : NetHdr) (f : World → World) : Out :=
  match s.frameIn (portName p) net roceUdp with
  | .error t => .next t
  | .ok s =>
    if s.ctl.persist.roceOn && decide (q < 512) && (s.w.qp q).st == QpSt.ready && (s.w.qp q).port == p then .next (s.withW (f s.w))
    else .next (s.withW (s.w.discardFrame p))

/-- What lies around a CNP, whose row gives no header: it is taken as sent to the port on LL-A, without a payload (DESIGN CHOICE, log entry 49). -/
def State.cnpNet (s : State) (p : KocPort) : NetHdr :=
  { mac := s.mac p, ip := linkLocal (s.mac p), vlan := some (s.ctl.persist.prioA, 0), udp := roceUdp, len := 98 }

/-- Where a packet sequence number stands to the expected one: equal, a repeat, or ahead (R376). -/
inductive PsnAt where
  | next | again | ahead
  deriving DecidableEq, Repr

def Qp.psnAt (v : Qp) (psn : Nat) : PsnAt :=
  if psn = v.psn then .next
  else if (v.psn + 2 ^ 24 - psn) % 2 ^ 24 < 2 ^ 23 then .again
  else .ahead

/-- A request with its sequence number judged: the next one runs; a repeat is answered by `again`; one ahead gets a NAK for the gap. -/
def World.inOrder (w : World) (p q psn : Nat) (again run : World → World) : World :=
  match (w.qp q).psnAt psn with
  | .next => run w
  | .again => again w
  | .ahead => w.nakQp p q (w.qp q).psn nakSequence

/-- The acknowledgement of a packet. -/
def World.ackQp (w : World) (p q psn : Nat) : World := { w with outbox := w.outbox ++ [.ack p q psn] }

/-- What an R_Key and an address give (R379, R381): the region's kind and context, or none where the access is refused; a byte at or above 2^48 is none that a
context's addresses name (log entry 84). -/
def World.target (w : World) (q rkey va n right : Nat) : Option (Nat × Nat) :=
  let m := w.region (rkey % 256)
  let base := m.base
  if rkey / 256 ≠ fld m.word 25 2 ∨ m.kind > 1 ∨ (m.kind = 0 ∧ m.ctx ≠ (w.qp q).ctx) then none
  else if va < base ∨ base + m.len < va + n ∨ bit m.word right = false ∨ (m.kind = 1 ∧ right = 1) then none
  else if m.kind = 1 ∧ 0x1000000000 < va + n ∨ 2 ^ 48 < va + n then none
  else some (m.kind, m.ctx)

/-- Pages of a RoCEv2 access of a context, through the port's own TLB (R379): translated, or the syndrome of the NAK, a fault reported with source 2. -/
def World.rocePages (w : World) (p q n root : Nat) (wr : Bool) (va len : Nat) : Except Nat (List (Nat × Nat)) × World :=
  let v := w.port p
  let r := Walker.pages { tlb := v.tlb, walks := v.walks, free := w.free } w.hbm.mem root n wr (pagesOf va len)
  let x := r.2
  let w := w.setPort p { v with tlb := x.tlb.take 1024, walks := x.walks.take 128 }
  let w0 := { w with free := x.free, ctxCtr := { w.ctxCtr with tlbMisses := bump 64 w.ctxCtr.tlbMisses x.misses } }
  let w := (w0.meetBus (some n) x.blocks).readBlocks (some n) x.blocks
  if World.busMet w0 w then (.error nakOperational, w) else
  match r.1 with
  | .ok l => (.ok l, w)
  | .error (a, f) => (.error nakAccess, w.reportFault n a f ⟨if wr then 1 else 0, 2, q, dieOfPort p⟩)

/-- Whether a CNP for a queue pair is due: none was sent in the last 50 µs (R384). -/
def World.cnpDue (w : World) (p q : Nat) : Bool :=
  match (w.qp q).cnpAt with
  | none => true
  | some t => decide (t + 5000 ≤ w.tick.getD (dieOfPort p) 0)

/-- A CNP for a CE-marked packet (R384): at most one per queue pair every 50 µs. -/
def World.congested (w : World) (p q : Nat) (ce : Bool) : World :=
  if ce && w.cnpDue p q then
    { w.setQp q { w.qp q with cnpAt := some (w.tick.getD (dieOfPort p) 0) } with outbox := w.outbox ++ [.cnp p q] }
  else w

end Sys2Proof.Machine

namespace Sys2Proof
open Machine

/-- Where the bytes of a WRITE packet go: its own target where it begins a message and none is in progress, else the message's (R376, R380). -/
def WritePkt.to (k : WritePkt) (v : Qp) : Option WriteTo :=
  match k.first, v.write with
  | some x, none => some x
  | none, some x => some x
  | _, _ => none

/-- Whether a WRITE packet is one that R376 supports: a message of at most 2^31 bytes, its last packet with all the bytes that are left, every other
one of 4,096 bytes with some left (PRESUMED, the InfiniBand specification; log entry 175). -/
def WritePkt.fits (k : WritePkt) (x : WriteTo) : Bool :=
  decide (x.len ≤ 2 ^ 31) && decide (k.data.length ≤ 4096)
    && (if k.last then k.data.length == x.len else k.data.length == 4096 && decide (4096 < x.len))

/-- The rest of a message after a packet. -/
def WriteTo.after (x : WriteTo) (k : WritePkt) : Option WriteTo :=
  if k.last then none else some { x with va := x.va + k.data.length, len := x.len - k.data.length }

end Sys2Proof

namespace Sys2Proof.Machine

/-- One WRITE packet in order (R380, R381): placed whole and acknowledged, or nothing written and ERROR; one outside R376 is invalid. -/
def World.placeWrite (w : World) (res : Tab Resid) (p : Nat) (k : WritePkt) : World :=
  match k.to (w.qp k.qp) with
  | none => w.failQp p k.qp k.psn nakInvalid
  | some to_ =>
  if k.fits to_ = false then w.failQp p k.qp k.psn nakInvalid else
  match w.target k.qp to_.rkey to_.va k.data.length 1 with
  | none => w.failQp p k.qp k.psn nakAccess
  | some (_, n) =>
    let r : Resid := Tab.get {} res n
    match w.rocePages p k.qp n r.root true to_.va k.data.length with
    | (.error x, w) => w.failQp p k.qp k.psn x
    | (.ok pages, w) =>
      let bs := k.data.zipIdx.map fun x => (bytesAt (to_.va + x.2) [x.1]).phys pages
      if w.busHits (touchedWords 64 bs) then (w.meetBus (some n) (touchedWords 64 bs)).failQp p k.qp k.psn nakOperational
      else
        let w := w.writeHbm (some n) bs
        let v := w.qp k.qp
        (w.setQp k.qp { v with psn := (v.psn + 1) % 2 ^ 24, write := to_.after k }).ackQp p k.qp k.psn

/-- RDMA_WRITE: one packet. A repeat is acknowledged again; its bytes were placed before. -/
def execRdmaWrite (p : PortId) (k : WritePkt) (s : State) : Out :=
  s.roce p k.qp k.net fun w =>
    (w.congested p k.qp k.ce).inOrder p k.qp k.psn (fun w => w.ackQp p k.qp k.psn) fun w => w.placeWrite s.res p k

/-- The first poisoned block of a physical range. -/
def World.firstPoison (w : World) (a n : Nat) : Option Nat := ((wordsOf 64 a n).find? w.hbm.mem.bad).map (64 * ·)

/-- The parts of a range that lie in one page each: address, length. -/
def pageCuts : Nat → Nat → Nat → List (Nat × Nat)
  | 0, _, _ => []
  | f + 1, va, n =>
    if n = 0 then [] else let m := min n (65536 - va % 65536); (va, m) :: pageCuts f (va + m) (n - m)

/-- The response packets of a READ (R381, R382): packet i of 4,096 bytes, until a fault, a bus error or
a poisoned block ends the queue pair. -/
def World.readPackets (res : Tab Resid) (p : Nat) (k : ReadPkt) (kind n : Nat) : Nat → World → Nat → World
  | 0, w, _ => w
  | f + 1, w, i =>
    let off := 4096 * i
    if k.len ≤ off ∧ i ≠ 0 then w
    else
      let len := min 4096 (k.len - off)
      let psn := (k.psn + i) % 2 ^ 24
      let va := k.va + off
      let r : Resid := Tab.get {} res n
      let x : Except Nat (List (Nat × Nat)) × World :=
        if kind = 1 then (.ok [], w) else w.rocePages p k.qp n r.root false va len
      match x with
      | (.error x, w) => w.failQp p k.qp psn x
      | (.ok pages, w) =>
        let cuts := (pageCuts 3 va len).map fun c => (if kind = 1 then 0xB000000000 + c.1 else physOf pages c.1, c.2)
        let ctx := if kind = 1 then none else some n
        let blks := distinct (cuts.flatMap fun c => wordsOf 64 c.1 c.2)
        if w.busHits blks then (w.meetBus ctx blks).failQp p k.qp psn nakOperational else
        let w := w.readBlocks ctx blks
        match (cuts.filterMap fun c => w.firstPoison c.1 c.2).head? with
        | some a =>
          let w := w.failQp p k.qp psn nakOperational
          w.event 0x0603 (0x6A00 + k.qp) 1 (dieOfPort p) (some (w.qp k.qp).ctx) stPoison (leBytes 2 k.qp ++ leBytes 8 a)
        | none =>
          let data := cuts.flatMap fun c => w.hbmRange c.1 c.2
          World.readPackets res p k kind n f { w with outbox := w.outbox ++ [.readResp p k.qp psn (decide (k.len ≤ off + 4096)) data] } (i + 1)

/-- Response packets of a READ. -/
def readCount (k : ReadPkt) : Nat := max 1 (cdiv k.len 4096)

/-- READs of a queue pair whose responses wait while the peer pauses LL-A (R373, R376). -/
def World.readsWaiting (w : World) (q : Nat) : Nat :=
  (w.outbox.zipIdx.filter fun x => w.holds x.2 x.1 && (match x.1 with | .readResp _ r _ last _ => r == q && last | _ => false)).length

/-- A READ run: refused where it is too long or the seventeenth outstanding one (R376), or answered packet by packet. -/
def World.runRead (w : World) (res : Tab Resid) (p : Nat) (k : ReadPkt) : World :=
  if 2 ^ 31 < k.len ∨ 16 ≤ w.readsWaiting k.qp then w.failQp p k.qp k.psn nakInvalid
  else
    match w.target k.qp k.rkey k.va k.len 0 with
    | none => w.failQp p k.qp k.psn nakAccess
    | some (kind, n) => World.readPackets res p k kind n (readCount k) w 0

/-- RDMA_READ (R382). A repeat is executed again and moves no sequence number; a new one within a WRITE message is invalid (PRESUMED, log entry 175). -/
def execRdmaRead (p : PortId) (k : ReadPkt) (s : State) : Out :=
  s.roce p k.qp k.net fun w =>
    (w.congested p k.qp k.ce).inOrder p k.qp k.psn (fun w => w.runRead s.res p k) fun w =>
      let v := w.qp k.qp
      if v.write ≠ none then w.failQp p k.qp k.psn nakInvalid
      else (w.setQp k.qp { v with psn := (v.psn + (readCount k)) % 2 ^ 24 }).runRead s.res p k

/-- Receive ring of a queue pair (R383, R401; PRESUMED, log entry 51): DVA, k, RNR timer. -/
def Qp.ringBase (v : Qp) : Nat := le v.ring 0 8
def Qp.ringLog (v : Qp) : Nat := le v.ring 8 1
def Qp.rnrTimer (v : Qp) : Nat := le v.ring 9 1

/-- A SEND in order (R383): into the next slot of the receive ring, or an RNR NAK when the ring is full. -/
def World.takeSend (w : World) (res : Tab Resid) (p : Nat) (k : SendPkt) : World :=
  let v := w.qp k.qp
  let held := sub32 v.prod v.cons
  if 4032 < k.data.length ∨ v.write ≠ none then w.failQp p k.qp k.psn nakInvalid
  else if 2 ^ v.ringLog ≤ held then
    { w.setQp k.qp { v with naks := bump 32 v.naks 1 } with outbox := w.outbox ++ [.rnr p k.qp k.psn v.rnrTimer] }
  else
    let r : Resid := Tab.get {} res v.ctx
    let va := v.ringBase + 4096 * (v.prod % 2 ^ v.ringLog)
    match w.rocePages p k.qp v.ctx r.root true va (64 + k.data.length) with
    | (.error x, w) => w.failQp p k.qp k.psn x
    | (.ok pages, w) =>
      let bs := leBytes 4 k.data.length ++ leBytes 4 v.msn ++ leBytes 56 0 ++ k.data
      let ws := bs.zipIdx.map fun x => (bytesAt (va + x.2) [x.1]).phys pages
      if w.busHits (touchedWords 64 ws) then (w.meetBus (some v.ctx) (touchedWords 64 ws)).failQp p k.qp k.psn nakOperational
      else
        let w := w.writeHbm (some v.ctx) ws
        let v := w.qp k.qp
        let w := w.setQp k.qp { v with prod := add32 v.prod 1, msn := add32 v.msn 1, psn := (v.psn + 1) % 2 ^ 24 }
        let w := if held = 0 then w.event 0x0601 (0x6A00 + k.qp) 6 (dieOfPort p) (some v.ctx) stOk (leBytes 2 k.qp) else w
        w.ackQp p k.qp k.psn

/-- SEND. A repeat is acknowledged again. -/
def execSend (p : PortId) (k : SendPkt) (s : State) : Out :=
  s.roce p k.qp k.net fun w =>
    (w.congested p k.qp k.ce).inOrder p k.qp k.psn (fun w => w.ackQp p k.qp k.psn) fun w => w.takeSend s.res p k

/-- ROCE_INVALID_REQUEST (R377): NAK Invalid Request and ERROR. -/
def execRoceInvalidRequest (p : PortId) (q : QpId) (k : InvalidPkt) (s : State) : Out :=
  s.roce p q k.net fun w => (w.congested p q k.ce).failQp p q k.psn nakInvalid

/-- The larger and the smaller of two rates. -/
def ratMax (a b : Rat) : Rat := if a < b then b else a
def ratMin (a b : Rat) : Rat := if b < a then b else a

/-- The reaction to a CNP (R384). -/
def Qp.onCnp (v : Qp) : Qp :=
  { v with target := v.rate, rate := ratMax (1 / 10) (v.rate * (1 - v.alpha / 2)), alpha := v.alpha * (15 / 16) + 1 / 16, n := 0 }

/-- What 55 µs without a CNP change (R384). -/
def Qp.onTimer (v : Qp) : Qp :=
  let n := v.n + 1
  let target := if 5 < n then ratMin 100 (v.target + 5) else v.target
  { v with alpha := v.alpha * (15 / 16), n, target, rate := ratMin 100 ((v.rate + target) / 2) }

/-- CNP received. -/
def execCnp (p : PortId) (q : QpId) (s : State) : Out :=
  s.roce p q (s.cnpNet (portName p)) fun w => w.setQp q (w.qp q).onCnp

/-- RATE_INCREASE_TIMER. -/
def execRateIncreaseTimer (q : QpId) (s : State) : Out :=
  if (s.w.qp q).st = .ready then .next (s.withW (s.w.setQp q (s.w.qp q).onTimer)) else .next s

/-! ## Configuration (R378, R401) -/

/-- Whether a queue pair's configuration is complete: its context exists, its port, its remote address, its ring size. -/
def qpComplete (s : State) (v : Qp) : Bool :=
  decide (v.ctx < 256) && (s.ent v.ctx).st != .absent && decide (v.port ≤ 1) && !allZero (sl v.remote 0 16)
    && decide (2 ≤ v.ringLog) && decide (v.ringLog ≤ 12)

/-- The effect of READY (R378): from RESET; the sequence numbers start where the configuration says, the rate at its top. -/
def qpReadyFx (s : State) (q : Nat) : Fx :=
  let v := s.w.qp q
  if v.st = .reset ∧ qpComplete s v = true then
    .world s (s.w.setQp q { v with st := QpSt.ready, psn := le v.remote 20 4 % 2 ^ 24, rate := 100, target := 100, alpha := 1, n := 0, cnpAt := none, write := none })
  else .refuse s stState

/-- The effect of RESET (R378): from any state; sequence numbers and ring indices cleared. -/
def qpResetFx (s : State) (q : Nat) : Fx :=
  .world s (s.w.setQp q { s.w.qp q with st := QpSt.reset, psn := 0, msn := 0, prod := 0, cons := 0, write := none })

/-- The effect of a write of 0x6A00 + q:02 to :06 (R378, R401). -/
def qpConfigFx (s : State) (q sub : Nat) (v : List Byte) : Fx :=
  let x := s.w.qp q
  let set (y : Qp) : Fx := .world s (s.w.setQp q y)
  match sub with
  | 6 =>
    match uintOf 8 v with
    | some n => set { x with cons := n / 2 ^ 32 }
    | none => .refuse s stState
  | _ =>
    if x.st ≠ .reset then .refuse s stBusy
    else
      match sub, uintOf 2 v, uintOf 1 v with
      | 2, some n, _ => set { x with ctx := n }
      | 3, _, some n => set { x with port := n }
      | 4, _, _ => if v.length = 32 then set { x with remote := v } else .refuse s stState
      | 5, _, _ => if v.length = 16 then set { x with ring := v } else .refuse s stState
      | _, _, _ => .refuse s stState

/-- The effect of a write of 0x6900 + m:01 to :05 (R401). -/
def regionFx (s : State) (m sub : Nat) (v : List Byte) : Fx :=
  let x := s.w.region m
  let busy (n : Nat) : Bool := s.w.qps.any fun e => e.2.ctx == n && e.2.st == QpSt.ready
  let set (y : Region) : Fx := .world s (s.w.setRegion m y)
  if busy x.ctx then .refuse s stBusy
  else
    match sub with
    | 1 =>
      match uintOf 1 v with
      | some k =>
        if k ≠ 0 ∧ k ≠ 1 ∧ k ≠ 0xFF then .refuse s stState
        else if k = 0 ∧ (256 ≤ x.ctx ∨ (s.ent x.ctx).st = .absent) then .refuse s stState
        else set { x with kind := k }
      | none => .refuse s stState
    | 2 => match uintOf 2 v with | some n => if busy n then .refuse s stBusy else set { x with ctx := n } | none => .refuse s stState
    | 3 => match uintOf 8 v with | some n => set { x with base := n } | none => .refuse s stState
    | 4 => match uintOf 8 v with | some n => set { x with len := n } | none => .refuse s stState
    | 5 => match uintOf 4 v with | some n => set { x with word := n % 2 ^ 26 } | none => .refuse s stState
    | _ => .refuse s stState

end Sys2Proof.Machine
end

