-- ==== Sys2Proof/Machine/Links.lean ====
section
/-! DEFINITION. Seam links (R335–R347, R366, R367): training, IDENT, heartbeats, replay, links down, lost ranks, forwarding, and the
window messages as they arrive. -/
namespace Sys2Proof.Machine

/-- Whether the links run (R445 step 4; R487 step 3). -/
def State.linksOn (s : State) : Bool := s.ctl.pgMain && decide (4 ≤ s.ctl.step) && s.ctl.part != .safe

/-! ## A link down, a rank lost (R335, R341, R347) -/

/-- Writes parked in receive buffers discarded: their window was reclaimed with its sender (R123, R347). Their units are freed, but on a link that has
gone down (R339). -/
def World.dropParked (w : World) (p : Parked → Bool) : World :=
  let out := w.seam.parked.filter p
  out.foldl (fun w x =>
      let k := w.link x.link
      (if k.st = .up then w.setLink x.link (k.free 1 x.units) else w).discardWrite x.link x.src x.write stWindowClosed)
    { w with seam := { w.seam with parked := w.seam.parked.filter fun x => !p x } }

/-- A rank held lost (R341): its event and its record, LOST on every UP link but the one it came on, the window, collective and
checkpoint rules, these for every rank that could be reached `before` (R343). The status of the record is open (DESIGN CHOICE, log entry 44). -/
def State.markLost (s : State) (before : World) (rank l reporter : Nat) (from_ : Option Nat) : State :=
  if rank ∈ s.w.seam.lost then s
  else
    let w := { s.w with seam := { s.w.seam with lost := insertNat rank s.w.seam.lost } }
    let w := w.event 0x0402 0x6000 5 (dieOfLink l) none stOk (leBytes 2 rank)
    let w := { w.raise clsUe uLink (Config.freeNat w.free % 18) l none (dieOfLink l) 0 (leBytes 2 rank) true with free := w.free + 1 }
    let w := (List.range 20).foldl (fun w i => if (w.link i).st = .up ∧ from_ ≠ some i then w.sendLink i 0xFFFF (.lost rank reporter) else w) w
    let w := ((w.dropWindows rank none).reclaimFrom rank none).dropParked fun x => x.src == rank
    (s.withW (w.collUpdate before s.res)).ckptLost rank

/-- Whether a link may carry a message of any type: its peer is not held lost (R342). -/
def World.carriesAll (w : World) (l : Nat) : Bool := !decide ((w.link l).peerRank ∈ w.seam.lost)

/-- Messages that waited on a link that went down: routed ones leave on another link, the rest are dropped (DEDUCED, log entry 45). -/
def World.reroute (w : World) (ms : List TxMsg) : World :=
  ms.foldl (fun w m =>
    if m.body.routed = false then w
    else
      match w.routeLink m.dst with
      | some i => if w.carriesAll i then w.setLink i ((w.link i).post m.dst m.src m.body) else w
      | none => w) w

/-- A link down (R335): nothing in flight stays, its event, the window rules for its peer's windows, the peer lost if this was the
last UP link to it; the topology comparison is repeated (R456). -/
def State.linkDown (s : State) (l : Nat) : State :=
  let before := s.w
  let k := s.w.link l
  let rank := k.peerRank
  let w := (s.w.setLink l { k.silent with downs := bump 32 k.downs 1 }).linkEvent l
  let w := ((w.dropWindows rank (some l)).reclaimFrom rank (some l)).dropParked fun x => x.link == l
  let last := rank != 0xFFFF && (w.directLinks rank).isEmpty && !decide (rank ∈ w.seam.lost)
  let s := if last then (s.withW w).markLost before rank l w.seam.rank none else (s.withW (w.collUpdate before s.res)).ckptLinkDown rank
  (s.withW (s.w.reroute k.waitq)).compare false

/-! ## Training (R335, R345) -/

/-- The IDENT that this part sends on a link (R345). -/
def State.sendIdent (s : State) (l : Nat) : World :=
  s.w.sendLink l 0xFFFF (.ident s.otp.identity s.topoRank l s.ctl.sec.variant)

/-- LINK_SIGNAL_DETECT. -/
def execLinkSignalDetect (l : LinkId) (s : State) : Out :=
  if s.linksOn = true ∧ (s.w.link l).st = .waitSignal then .next (s.withW (s.w.setLink l { s.w.link l with st := .train })) else .next s

/-- LINK_TRAINED: IDENTIFY, and the first IDENT goes out. -/
def execLinkTrained (l : LinkId) (s : State) : Out :=
  if s.linksOn = true ∧ (s.w.link l).st = .train then
    let s := s.withW (s.w.setLink l { s.w.link l with st := .identify })
    .next (s.withW (s.sendIdent l))
  else .next s

/-- LINK_TRAIN_TIMEOUT: the attempt counted; after the third the link is FAILED, with its event. -/
def execLinkTrainTimeout (l : LinkId) (s : State) : Out :=
  let k := s.w.link l
  if s.linksOn = true ∧ (k.st = .train ∨ k.st = .identify) then
    let tries := k.tries + 1
    let k' := { k.silent with attempts := bump 32 k.attempts 1, tries, st := if 3 ≤ tries then .failed else .train }
    let w := s.w.setLink l k'
    .next (s.withW (if 3 ≤ tries then w.linkEvent l else w))
  else .next s

/-- IDENT_SEND: every 10 µs in IDENTIFY. -/
def execIdentSend (l : LinkId) (s : State) : Out :=
  if s.linksOn = true ∧ (s.w.link l).st = .identify then .next (s.withW (s.sendIdent l)) else .next s

/-- LINK_FEC_LOSS: an UP link goes down at once. -/
def execLinkFecLoss (l : LinkId) (s : State) : Out :=
  if (s.w.link l).st = .up then .next (s.linkDown l) else .next s

/-- LINK_SILENCE_CHECK: an UP link whose last intact frame is 1,000 µs old goes down (R340). -/
def execLinkSilenceCheck (l : LinkId) (age : Nat) (s : State) : Out :=
  if (s.w.link l).st = .up ∧ 1000 ≤ age then .next (s.linkDown l) else .next s

/-- The effect of RETRAIN (R335, R367): an UP link goes down by it, a FAILED one waits for signal. -/
def linkRetrainFx (s : State) (l : Nat) (v : List Byte) : Fx :=
  if uintOf 1 v ≠ some 1 then .refuse s stState
  else
    match (s.w.link l).st with
    | .up => { s := s.linkDown l }
    | .failed => .world s (s.w.setLink l (s.w.link l).silent)
    | _ => .refuse s stState

/-! ## Upkeep of an UP link (R338, R340) -/

/-- HEARTBEAT_SEND. -/
def execHeartbeatSend (l : LinkId) (s : State) : Out :=
  if (s.w.link l).st = .up then
    .next (s.withW (s.w.sendLink l 0xFFFF (.heartbeat s.w.seam.rank (partCode s.ctl.part) l)))
  else .next s

/-- ACK_SEND: a LINK frame carries the acknowledgement. -/
def execAckSend (l : LinkId) (s : State) : Out :=
  if (s.w.link l).st = .up then .next (s.withW (s.w.sendLink l 0xFFFF .link)) else .next s

/-- A replay from a sequence number; the link goes down when a frame has been replayed 16 times (R338). -/
def State.replay (s : State) (l seq : Nat) : State :=
  let x := (s.w.link l).replayFrom seq
  let s := s.withW (s.w.setLink l x.1)
  if x.2 then s.linkDown l else s

/-- REPLAY_TIMEOUT: from the oldest frame not acknowledged. -/
def execReplayTimeout (l : LinkId) (s : State) : Out :=
  match (s.w.link l).st, (s.w.link l).replay with
  | .up, m :: _ => .next (s.replay l (m.seq + m.acked))
  | _, _ => .next s

/-- A destination that this part cannot route (R337, R343). -/
def World.unroutable (w : World) (h : SeamHdr) : Bool := !w.mine h && !(h.routed && (w.routeLink h.dst).isSome)

/-- Whether a rejected message is what its cause says (R337, R338). -/
def World.rejects (w : World) (l : Nat) (h : SeamHdr) : RejectCause → Bool
  | .crc => !h.crcOk
  | .order => h.crcOk && !(w.link l).inOrder h
  | .malformed => h.crcOk && (w.link l).inOrder h && (h.malformed || w.unroutable h)

/-- FRAME_REJECT: a message that fails its CRC or comes out of order is dropped, with a NAK for the sequence expected where one is due (R338); one
that breaks R337 is discarded and counted. -/
def execFrameReject (l : LinkId) (h : SeamHdr) (cause : RejectCause) (nakDue : Bool) (s : State) : Out :=
  let k := s.w.link l
  if (k.st = .up ∨ k.st = .identify) ∧ s.w.rejects l h cause = true then
    match cause with
    | .malformed => .next (s.withW (s.w.setLink l (k.discard l h)))
    | _ => .next (s.withW (if nakDue then s.w.sendLink l 0xFFFF (.nak k.rxSeq) else s.w))
  else .next s

/-! ## Messages for the link itself (R337, R345) -/

/-- What a message that is never routed does here, once it is accepted; one addressed to another rank, which the part cannot route, is discarded and
counted (R337, R343). -/
def State.linkIn (s : State) (l : Nat) (h : SeamHdr) (b : FrameBody) (f : World → State) : Out :=
  match s.w.receive l h b false with
  | .error w => .next (s.withW w)
  | .ok w =>
    if w.mine h then .next (f w)
    else .next (s.withW (w.setLink l { w.link l with discarded := bump 64 (w.link l).discarded h.frames }))

/-- LINK received. -/
def execLink (l : LinkId) (h : SeamHdr) (s : State) : Out := s.linkIn l h .link s.withW

/-- NAK received: a replay from the sequence asked for. -/
def execNak (l : LinkId) (h : SeamHdr) (seq : Nat) (s : State) : Out := s.linkIn l h (.nak seq) fun w => (s.withW w).replay l seq

/-- HEARTBEAT received: an intact frame, which proves the link alive; a buddy that it shows in bring-up or SAFE holds no image (R488). -/
def execHeartbeat (l : LinkId) (h : SeamHdr) (rank state peer : Nat) (s : State) : Out := s.linkIn l h (.heartbeat rank state peer) fun w => s.withW (w.buddyReset rank state)

/-- IDENT received: in IDENTIFY the peer is recorded and the link comes UP, with its event; the topology comparison follows (R455). -/
def execIdent (l : LinkId) (h : SeamHdr) (identity rank peer variant : Nat) (s : State) : Out :=
  s.linkIn l h (.ident identity rank peer variant) fun w =>
    if (w.link l).st = .identify then
      let w := w.setLink l { w.link l with st := .up, peerId := identity, peerRank := rank, peerLink := peer, tries := 0 }
      (s.withW (w.linkEvent l)).compare false
    else s.withW w

/-- LOST received (R341): a rank not yet held lost is marked and the message goes on; this part's own rank raises an event. -/
def execLost (l : LinkId) (h : SeamHdr) (rank reporter : Nat) (s : State) : Out :=
  s.linkIn l h (.lost rank reporter) fun w =>
    if rank = s.topoRank then
      let w := { w with seam := { w.seam with ownLost := true } }
      s.withW (w.event 0x0403 0x6000 5 (dieOfLink l) none stOk (leBytes 2 reporter))
    else (s.withW w).markLost w rank l reporter (some l)

/-- FRAME_FORWARD (R343): a routed message for another rank leaves on the first UP link of its route entry; one that cannot be routed, also for a
next part held lost, or is of a type that is never routed, is discarded and counted (R337; DEDUCED, log entry 45). -/
def execFrameForward (l : LinkId) (h : SeamHdr) (b : FrameBody) (s : State) : Out :=
  if s.w.mine h then .next s
  else
    match s.w.receive l h b false with
    | .error w => .next (s.withW w)
    | .ok w =>
      match (if b.routed then (w.routeLink h.dst).filter w.carriesAll else none) with
      | some i =>
        let w := { w with seam := { w.seam with forwarded := bump 64 w.seam.forwarded h.frames } }
        .next (s.withW (w.setLink i ((w.link i).post h.dst h.src b)))
      | none => .next (s.withW (w.setLink l { w.link l with discarded := bump 64 (w.link l).discarded h.frames }))

/-- The effect of a write of 0x6000:06 (R342, R366): the rank is no longer lost; this part's own rank clears its reported loss. -/
def lostRankFx (s : State) (v : List Byte) : Fx :=
  match uintOf 2 v with
  | none => .refuse s stState
  | some r =>
    let m := s.w.seam
    let own := m.ownLost && r == m.rank
    if r ∉ m.lost ∧ own = false then .refuse s stState
    else if s.w.collsOpen.any fun c => decide (r ∈ (s.w.group c.group).members) then .refuse s stBusy
    else .world s (World.wakeColls { s.w with seam := { m with lost := m.lost.filter (· != r), ownLost := m.ownLost && !own } })

/-! ## Window messages (R123, R127, R346) -/

/-- A window message for this part: none where it is not accepted; one addressed to another rank is discarded and counted (R343). -/
def State.winIn (s : State) (l : Nat) (h : SeamHdr) (b : FrameBody) (f : World → World) : Out := s.linkIn l h b fun w => s.withW (f w)

/-- Clusters with a STORE at the head of a store queue that waited for the credit that has come are asked to wake (R434). -/
def State.wakeStores (s : State) (before after : World) : World :=
  after.cores.foldl (fun w x =>
    match s.env x.1, x.2.store with
    | some e, t :: _ =>
      if t.cmd.op = 0x28 ∧ t.st = .waiting ∧ x.2.entryReady t = true ∧ storeWaits before e t = true ∧ storeWaits after e t = false
          ∧ w.asleep (x.1 / 16) = true then w.wake (x.1 / 16)
      else w
    | _, _ => w) after

/-- WCREDIT received (R127): a credit for the sender, which wakes the cluster of a STORE that waits for it. -/
def execWcredit (l : LinkId) (h : SeamHdr) (core win slot gen : Nat) (s : State) : Out :=
  s.winIn l h (.wcredit core win slot gen) fun w => s.wakeStores w (w.takeCredit l h.src core win slot gen)

/-- WWRITE received (R123, R125, R347). -/
def execWwrite (l : LinkId) (h : SeamHdr) (w : WinWrite) (s : State) : Out :=
  .next (s.withW (s.wwrite l h w fun x k => x.wake k))

/-- WANSWER received (R127): the STORE that sent the write completes with the owner's status, one of four (R346); another is dropped (DEDUCED, log
entry 134). -/
def execWanswer (l : LinkId) (h : SeamHdr) (id status : Nat) (s : State) : Out :=
  s.winIn l h (.wanswer id status) fun w =>
    match w.seam.writes.find? fun x => x.id == id && x.rank == h.src with
    | some x => if status ∈ [stOk, stWindowClosed, stNoCredit, stState] then w.answerStore x status else w
    | none => w

/-- WRETURN received (R123). -/
def execWreturn (l : LinkId) (h : SeamHdr) (core win slot gen : Nat) (s : State) : Out :=
  s.winIn l h (.wreturn core win slot gen) fun w =>
    if core < 1024 ∧ win < 8 ∧ (w.win core win).rank = h.src then w.returnCredit core win slot gen else w

/-- WCLOSE received (R127). -/
def execWclose (l : LinkId) (h : SeamHdr) (core win gen : Nat) (s : State) : Out :=
  s.winIn l h (.wclose core win gen) fun w => w.closeNotice l h.src core win gen

end Sys2Proof.Machine
end

