-- ==== Sys2Proof/Machine/Reliability.lean ====
section
/-! DEFINITION. The fault service, the error queue and log, scan test (R477–R496). -/
namespace Sys2Proof.Machine

/-! ## The fault service (R484–R487) -/

/-- UE-context records whose context is no longer on its cores are out of service (R484). -/
def State.servedContexts (s : State) : State :=
  let e := s.w.errs
  s.withW { s.w with errs := { e with inService := e.inService.filter fun r => r.cls != clsCtx || (s.ent r.ctx).st.live } }

/-- The action of one record's class (R477, R489). -/
def State.serve (s : State) (r : ErrRec) : State :=
  match r.cls with
  | 2 => ((s.logRec r).kill r.ctx).servedContexts
  | 3 => (s.logRec r).safe r.status
  | _ => s.withW { s.w with errs := { s.w.errs with inService := s.w.errs.inService.filter fun q => q.seq != r.seq } }

/-- FAULT_SERVICE_TAKE: the next record in sequence order; a FATAL record that found the queue full is logged and ends in SAFE. -/
def execFaultServiceTake (s : State) : Out :=
  if s.ctl.mgmt = false ∨ s.ctl.part = .safe then .next s
  else
    let s := (s.withW { s.w with koc := { s.w.koc with asleep := [] } }).servedContexts
    match s.w.errs.waiting, s.w.errs.unqueued with
    | r :: rest, _ => .next ((s.withW { s.w with errs := { s.w.errs with waiting := rest } }).serve r)
    | [], r :: rest => .next (((s.withW { s.w with errs := { s.w.errs with unqueued := rest } }).logRec r).safe r.status)
    | [], [] => .next s

/-- FAULT_SERVICE_WATCHDOG (R485): a record has waited 10 ms untaken. The status of the FATAL record is open (DESIGN CHOICE, log entry 48). -/
def execFaultServiceWatchdog (s : State) : Out :=
  if s.ctl.mgmt = false ∨ s.w.errs.waiting.isEmpty = true ∨ s.ctl.part = .safe then .next s
  else
    let st := Config.freeNat s.w.free % 18
    let s := s.withW { s.w with free := s.w.free + 1 }
    .next (s.fatal uMgmt st 0 st)

/-- The effect of a write of 0x7000:02 (R483): the oldest record only. -/
def errorAckFx (s : State) (v : List Byte) : Fx :=
  match s.w.errs.queue, uintOf 4 v with
  | r :: rest, some x => if r.seq = x then .world s { s.w with errs := { s.w.errs with queue := rest } } else .refuse s stState
  | _, _ => .refuse s stState

/-- The effect of a write of 0x7200:02 (R489). -/
def logClearFx (s : State) (v : List Byte) : Fx :=
  if uintOf 1 v = some 1 then { s := { s with flash := { s.flash with log := [] } } } else .refuse s stState

/-! ## Scan test (R494–R496) -/

/-- The first refusal of a scan (R494). -/
def scanRefusal (s : State) (k f : Nat) : Option Nat :=
  firstRefusal
    [ (s.w.scan.st == 1 || s.w.scan.cache != 1, stBusy), (s.res.any (fun e => e.2.st.live && e.2.holds k), stBusy),
      (decide (63 < k) || decide (16 < f), stState), ((s.w.cluster k).floor == 3, stState) ]

/-- The effect of a write of 0x7401:01: the scan begins, the cluster is woken for it. -/
def scanFx (s : State) (v : List Byte) : Fx :=
  let k := le v 0 1
  let f := le v 1 1
  if v.length ≠ 2 then .refuse s stState
  else
    match scanRefusal s k f with
    | some st => .refuse s st
    | none => .world s ({ s.w with scan := { s.w.scan with st := 1, cluster := k, phys := f, runs := bump 32 s.w.scan.runs 1 } }.wake k)

/-- The memories of the logical core that a physical core of a cluster carries, zeroed (R495); `to_` is the physical core that
carries it from now on. -/
def World.scanned (w : World) (k f to_ : Nat) : World :=
  (List.range 16).foldl (fun w i =>
    let c := w.core (16 * k + i)
    if c.phys = f then w.setCore (16 * k + i) { c with ws := {}, sp := {}, ps := {}, wbq := [], phys := to_ } else w) w

/-- SCAN_COMPLETE (R495, R496): PASS, or FAIL with the mapping-out written before the result is reported. -/
def execScanComplete (pass : Bool) (patterns : Nat) (s : State) : Out :=
  let x := s.w.scan
  if x.st ≠ 1 ∨ s.ctl.part ≠ .ready ∨ (s.w.cluster x.cluster).power ≠ .run then .next s
  else
    let k := x.cluster
    let f := x.phys
    let code := if pass then 2 else 3
    let detail := leBytes 1 f ++ leBytes 1 code ++ leBytes 4 patterns
    let result := leBytes 1 k ++ leBytes 1 f ++ leBytes 1 code ++ leBytes 1 0 ++ leBytes 4 patterns
    let old := s.flash.repair.getD k 0xFF
    let moves := !pass && old == 0xFF
    let w := (s.w.readRange none patternBase (alignUp s.flash.patterns.length 64)).scanned k f (if moves then 16 else f)
    let s := { s with flash := if moves then { s.flash with repair := s.flash.repair.set k f } else s.flash }
    let s := s.withW { w with scan := { x with st := code, result } }
    let s := s.raiseLogged clsCe uScan (if pass then stOk else stDigestMismatch) k 0 detail (again := !pass)
    .next (if !pass && !moves && old != f then s.fatal uScan stDigestMismatch k stDigestMismatch 0 detail else s)

end Sys2Proof.Machine
end

