-- ==== Sys2Proof/Machine/Dict.lean ====
section
/-! DEFINITION. The object dictionary (R403–R406, R411–R414, R425–R429): which objects there are, with their types, directions and
write classes; who may reach them when; and what each one reads as. -/
namespace Sys2Proof.Machine

/-! ## The table of objects -/

/-- Object types (R404). `domain` carries the stated size or the stated maximum. -/
inductive ObjTy where
  | bool | f32 | str
  | u (bytes : Nat)
  | i32
  | octets (n : Nat)
  | domain (exact : Bool) (size : Nat)
  deriving DecidableEq, Repr

/-- Directions. -/
inductive Access where
  | ro | wo | rw
  deriving DecidableEq, Repr

/-- Write classes (R411): run-time, management, session. -/
inductive WClass where
  | run | mgmt | session
  deriving DecidableEq, Repr

/-- An object: an index, or `count` of them from `base` on, a sub-index, type, direction, class. -/
structure ObjDef where
  base : Nat
  count : Nat
  sub : Nat
  ty : ObjTy
  acc : Access
  cls : WClass
  deriving DecidableEq, Repr

/-- Objects of one index or pattern. -/
def objs (base count : Nat) (cls : WClass) (l : List (Nat × ObjTy × Access)) : List ObjDef :=
  l.map fun x => { base, count, sub := x.1, ty := x.2.1, acc := x.2.2, cls }

/-- Read-only objects of consecutive sub-indices from 1 on. -/
def roObjs (base count : Nat) (l : List ObjTy) : List ObjDef := l.zipIdx.map fun x => { base, count, sub := x.2 + 1, ty := x.1, acc := .ro, cls := .run }

/-- A DOMAIN of a stated size, and one with a stated maximum (R404, R407). -/
abbrev dom (n : Nat) : ObjTy := .domain true n
abbrev domTo (n : Nat) : ObjTy := .domain false n

/-- Identity, status, configuration, lease, reset (R1, R415, R424, R427–R429). -/
def dictPart : List ObjDef :=
  roObjs 0x0000 1 [.str, .str, .u 8, .str, .u 1, .u 2, .octets 32, .u 4]
    ++ roObjs 0x0100 1 [.u 1, .u 1, .u 1, .u 2, .bool, .u 2, .u 1]
    ++ roObjs 0x1000 1 [.u 2, .u 1, .u 2, .u 1, .u 2]
    ++ roObjs 0x1010 1 [.u 1, .u 1, .bool, .bool, .u 1]
    ++ objs 0x1020 1 .session [(1, .u 4, .wo)]
    ++ objs 0x1020 1 .mgmt [(2, .u 4, .ro), (3, .u 4, .ro), (4, .u 1, .wo), (5, .bool, .rw), (6, .u 4, .ro), (7, .u 4, .ro)]
    ++ objs 0x1030 1 .mgmt [(1, .u 1, .wo), (2, .u 4, .ro)]
    ++ objs 0x1040 1 .mgmt [(1, .u 1, .ro)]

/-- Licences, life-cycle, attestation, keys, firmware (R476). -/
def dictSecurity : List ObjDef :=
  objs 0x1400 1 .mgmt [(1, dom 2884, .wo), (2, domTo 2884, .ro), (3, .u 2, .ro), (4, .u 1, .ro)]
    ++ objs 0x1800 1 .mgmt [(1, .u 1, .wo), (2, dom 2884, .wo), (3, .bool, .ro)]
    ++ objs 0x1810 1 .mgmt [(1, .octets 32, .wo), (2, domTo 2980, .ro), (3, .u 4, .ro), (4, .u 4, .ro), (5, .u 1, .ro), (6, .u 4, .ro), (7, .octets 68, .ro)]
    ++ objs 0x1820 1 .mgmt [(1, .octets 64, .ro), (2, .octets 64, .ro), (3, .octets 64, .ro), (4, dom 68, .rw), (5, .u 1, .ro), (6, .u 1, .ro)]
    ++ objs 0x1880 1 .mgmt [(1, domTo 8391492, .wo), (2, .octets 16, .ro), (3, .u 1, .wo), (4, .u 1, .ro)]

/-- Power, clocks, telemetry (R443). -/
def dictPower : List ObjDef :=
  objs 0x2000 1 .mgmt [(1, .u 1, .rw), (2, .u 2, .rw), (3, .u 2, .rw), (4, .u 1, .rw), (5, .u 1, .rw)]
    ++ objs 0x2000 1 .run [(6, .octets 16, .rw)]
    ++ objs 0x2010 1 .run [(1, .u 2, .rw), (2, .u 4, .rw), (3, .u 4, .rw)]
    ++ objs 0x2100 64 .mgmt [(1, .u 1, .ro), (2, .u 1, .rw), (3, .u 4, .ro), (4, .u 1, .ro)]
    ++ roObjs 0x7800 1 [.f32, .f32, .f32, .u 1, .f32, .u 8, dom 1024, dom 256]

/-- HBM, caches, contexts, snapshots, numerics, masks, conditional computation, random numbers (R56, R119, R217, R242, R254, R255,
R273, R274, R297, R298, R333). -/
def dictJob : List ObjDef :=
  objs 0x2800 1 .run [(1, .u 1, .ro), (2, .u 8, .ro), (3, .u 2, .ro), (4, .u 2, .rw), (5, .u 8, .ro), (6, .u 1, .ro), (7, .u 4, .ro), (8, .u 8, .ro)]
    ++ objs 0x2810 1 .run [(1, .u 8, .ro), (2, .u 8, .ro), (3, .u 8, .ro), (4, .u 8, .ro), (5, .u 1, .wo), (6, .u 8, .ro)]
    ++ roObjs 0x2820 16 [.u 1, .u 8, .u 8, .u 8, .u 4, .i32, .u 1, .u 8, .u 8]
    ++ roObjs 0x3000 1 [.u 1, .u 2, .u 8, .u 8, .u 8, .u 4, .u 8, .u 8]
    ++ objs 0x3100 256 .run [(1, .u 1, .wo), (2, .u 1, .ro), (3, .octets 64, .rw), (4, .u 4, .rw), (5, .u 4, .ro), (6, .u 4, .rw), (7, .u 4, .ro),
        (8, .octets 32, .ro), (9, .u 4, .ro), (10, .octets 16, .wo), (11, .u 4, .ro), (12, dom 536870912, .rw), (13, .u 4, .ro)]
    ++ objs 0x3200 1 .run [(1, .octets 16, .wo), (2, .u 1, .ro), (3, .u 1, .wo), (4, .u 2, .ro), (5, .u 8, .ro), (6, .u 8, .ro), (7, .u 8, .ro)]
    ++ objs 0x3300 256 .run [(1, .bool, .rw), (2, .u 4, .ro)]
    ++ objs 0x3400 1 .run [(1, .u 1, .rw), (2, .u 1, .rw), (3, .u 1, .rw), (4, .u 1, .rw), (5, .u 1, .rw), (6, .u 8, .ro), (7, .u 8, .ro), (8, .u 2, .ro)]
    ++ roObjs 0x3500 256 [dom 1310720]
    ++ roObjs 0x3A00 1 [.u 8, .u 8, .u 8, .u 8, .u 8, .u 8]
    ++ roObjs 0x3C00 1 [.u 8, .u 8, .u 8, .u 8, .u 8]
    ++ roObjs 0x3C01 1 [.u 8, .u 8]
    ++ roObjs 0x3C02 1 [.u 8, .u 8]
    ++ objs 0x3D00 256 .run [(1, dom 16384, .rw)]
    ++ roObjs 0x3E00 1 [.u 8, .u 8, .u 8, .u 2, .u 8]
    ++ objs 0x3F00 256 .run [(1, .u 8, .rw), (2, .bool, .rw), (3, .u 4, .ro), (4, .u 4, .wo), (5, domTo 4988928, .ro)]

/-- One window of a core (R121). -/
def dictWindow (w : Nat) : List ObjDef :=
  let s := 0x10 + 8 * w
  objs 0x4000 1024 .run [(s, .u 1, .wo), (s + 1, .u 1, .ro), (s + 2, .u 4, .rw), (s + 3, .u 4, .rw), (s + 4, .u 4, .rw), (s + 5, .u 2, .rw),
    (s + 6, .u 2, .ro), (s + 7, .u 8, .ro)]

/-- Cores and channels (R98, R121, R145, R214, R317). -/
def dictCore : List ObjDef :=
  objs 0x4000 1024 .run [(1, .u 1, .ro), (2, .u 1, .wo), (3, .u 4, .ro), (4, .u 4, .ro), (5, .u 2, .ro), (6, .u 1, .ro), (7, .u 4, .rw),
      (8, dom 128, .ro), (9, .u 1, .ro), (10, .u 4, .ro), (11, .u 4, .rw), (12, .u 8, .ro), (13, .u 8, .ro), (14, .u 4, .rw)]
    ++ (List.range 8).flatMap dictWindow
    ++ objs 0x5000 512 .run [(1, .u 1, .ro), (2, .u 1, .wo), (3, .u 8, .ro), (4, .u 8, .ro), (5, .u 8, .ro), (6, .u 8, .ro), (7, .octets 16, .ro),
      (8, .u 2, .ro), (9, .u 2, .ro), (10, .u 8, .ro), (11, .u 8, .ro)]

/-- Seam links and collectives (R366–R369, R458). -/
def dictSeam : List ObjDef :=
  objs 0x6000 1 .run [(1, .u 2, .ro), (2, .u 1, .ro), (3, .u 2, .ro), (4, .u 2, .ro), (5, domTo 8192, .ro), (6, .u 2, .wo), (7, domTo 16384, .ro), (8, .u 8, .ro)]
    ++ objs 0x6010 20 .run [(1, .u 1, .ro), (2, .u 1, .wo), (3, .u 8, .ro), (4, .u 2, .ro), (5, .u 1, .ro), (6, .u 4, .ro), (7, .u 8, .ro), (8, .u 8, .ro),
      (9, .u 8, .ro), (10, .u 8, .ro), (11, .u 8, .ro), (12, .u 8, .ro), (13, .u 4, .ro)]
    ++ roObjs 0x6030 1 [domTo 527172, .u 4, .u 2, .u 4, .u 4]
    ++ roObjs 0x6400 1 [.u 8, .u 8, .u 8, .u 8, .u 8, .u 8, .u 1]
    ++ objs 0x6410 64 .run [(1, domTo 8192, .rw), (2, .u 4, .rw), (3, .u 8, .rw), (4, .u 2, .rw), (5, .u 2, .ro), (6, .u 4, .ro), (7, .u 4, .ro), (8, .u 4, .ro)]

/-- Host ports, KOC, subscriptions (R400–R402, R422). -/
def dictHost : List ObjDef :=
  objs 0x6800 1 .mgmt [(1, .bool, .rw), (2, .u 1, .rw), (3, .u 1, .rw)]
    ++ objs 0x6810 2 .mgmt [(1, .u 1, .ro), (2, .u 1, .rw), (3, .u 2, .rw), (4, .octets 16, .rw), (5, .octets 5, .rw), (6, .octets 6, .ro), (7, .u 8, .ro),
      (8, .u 8, .ro), (9, .u 8, .ro), (10, .u 8, .ro)]
    ++ objs 0x6900 256 .run [(1, .u 1, .rw), (2, .u 2, .rw), (3, .u 8, .rw), (4, .u 8, .rw), (5, .u 4, .rw)]
    ++ objs 0x6A00 512 .run [(1, .u 1, .rw), (2, .u 2, .rw), (3, .u 1, .rw), (4, .octets 32, .rw), (5, .octets 16, .rw), (6, .u 8, .rw), (7, .u 4, .ro)]
    ++ objs 0x6C00 1 .mgmt [(1, .u 2, .rw), (2, .u 1, .ro), (3, .u 1, .ro), (4, domTo 512, .rw), (5, domTo 512, .rw), (6, .u 8, .ro), (7, .u 8, .ro), (8, .u 4, .ro)]
    ++ objs 0x6C08 1 .mgmt [(1, .octets 16, .rw), (2, .octets 5, .rw), (3, .octets 6, .ro)]
    ++ objs 0x7C00 1 .session [(1, .u 4, .rw), (2, .octets 32, .rw), (3, .u 2, .ro), (4, .u 4, .ro)]
    ++ roObjs 0x7C10 1 [.u 8]

/-- Errors, scan test, checkpoints (R483, R489, R496, R509, R510). -/
def dictReliability : List ObjDef :=
  objs 0x7000 1 .run [(1, .octets 64, .ro), (2, .u 4, .wo), (3, .u 2, .ro), (4, .u 8, .ro), (5, .u 8, .ro), (6, .u 8, .ro), (7, domTo 262144, .ro), (8, .octets 32, .ro)]
    ++ objs 0x7200 1 .mgmt [(1, domTo 262144, .ro), (2, .u 1, .wo), (3, .u 2, .ro)]
    ++ objs 0x7400 1 .run [(1, .u 2, .rw), (2, .u 2, .rw), (3, .octets 16, .ro), (4, .u 4, .ro), (5, .u 8, .ro)]
    ++ objs 0x7401 1 .run [(1, .octets 2, .wo), (2, .u 1, .ro), (3, .octets 8, .ro), (4, .u 1, .ro), (5, .octets 64, .ro), (6, .u 4, .ro)]
    ++ roObjs 0x7500 256 [.octets 16, domTo 262144, .octets 32, .u 1]
    ++ objs 0x7500 256 .run [(0x10, .octets 32, .rw), (0x11, domTo 32768, .rw), (0x12, .u 1, .ro), (0x13, .u 4, .ro), (0x14, .octets 16, .ro), (0x15, domTo 8192, .ro),
      (0x20, .octets 16, .wo), (0x21, .u 1, .ro), (0x22, .u 2, .ro), (0x23, .octets 64, .ro), (0x24, .bool, .ro)]

/-- Every object of the part (R425). -/
def dict : List ObjDef :=
  dictPart ++ dictSecurity ++ dictPower ++ dictJob ++ dictCore ++ dictSeam ++ dictHost ++ dictReliability

/-- Whether an object lies at an index. -/
def ObjDef.at_ (d : ObjDef) (idx : Nat) : Bool := decide (d.base ≤ idx) && decide (idx < d.base + d.count)
/-- Highest sub-index in use at an index; 0 where the index does not exist (R403). -/
def topSub (idx : Nat) : Nat := ((dict.filter fun d => d.at_ idx).map (·.sub)).foldl max 0
/-- An object by its index and sub-index (R403): sub-index 0 of every index that exists is a read-only U8. -/
def objAt (idx sub : Nat) : Option ObjDef :=
  if sub = 0 then (if topSub idx = 0 then none else some { base := idx, count := 1, sub := 0, ty := .u 1, acc := .ro, cls := .run })
  else dict.find? fun d => d.at_ idx && d.sub == sub

/-- Whether a value has the size and the form of an object's type (R405); DOMAIN values are checked by R407. -/
def ObjTy.valueOk (t : ObjTy) (v : List Byte) : Bool :=
  match t with
  | .bool => v.length == 1 && decide (leNat v ≤ 1)
  | .f32 => v.length == 4
  | .str => decide (v.length ≤ 1024)
  | .u n => v.length == n
  | .i32 => v.length == 4
  | .octets n => v.length == n
  | .domain _ _ => true

/-! ## Rights (R4, R411–R414) -/

/-- Whether an object belongs only to a unit that this part lacks (R4, R242, R367). -/
def State.unitAbsent (s : State) (idx : Nat) : Bool :=
  ((idx == 0x3C00 || (decide (0x3D00 ≤ idx) && decide (idx < 0x3E00))) && !bit s.ctl.sec.units 0)
    || (idx == 0x3C02 && !bit s.ctl.sec.units 1)
    || (decide (0x6010 ≤ idx) && decide (idx < 0x6024) && !bit s.ctl.sec.linkMask (idx - 0x6010))

/-- Identity, status and capability (R413). -/
def idxIdentity (idx : Nat) : Bool := decide (idx ≤ 0x01FF) || idx == 0x1010
/-- HBM training objects (R413). -/
def idxTraining (idx sub : Nat) : Bool := (idx == 0x2800 && sub == 6) || (decide (0x2820 ≤ idx) && decide (idx ≤ 0x282F) && sub == 1)
/-- Objects that the AON controller serves beside those two sets (R399, R413). -/
def idxAon (idx sub : Nat) : Bool :=
  idx == 0x1030 || (idx == 0x2000 && sub == 1) || (decide (0x1880 ≤ idx) && decide (idx ≤ 0x188F)) || (decide (0x7000 ≤ idx) && decide (idx ≤ 0x73FF))

/-- Whether the life-cycle state lets an object be read, or written when its class is S (R412). -/
def lifeAllows (l : LifeSt) (idx : Nat) (wr mgmt : Bool) : Bool :=
  let within (a b : Nat) : Bool := decide (a ≤ idx) && decide (idx ≤ b)
  match l, wr with
  | .provisioned, _ => true
  | .field, _ => true
  | .blank, false => idxIdentity idx || within 0x1400 0x18FF || within 0x7000 0x73FF
  | .blank, true => mgmt && (idx == 0x1030 || within 0x1400 0x18FF || idx == 0x6C00 || idx == 0x6C08)
  | .returned, false => idxIdentity idx || within 0x1800 0x18FF || within 0x7000 0x7BFF
  | .returned, true => mgmt && (idx == 0x1030 || within 0x1800 0x18FF)
  | .scrapped, false => idxIdentity idx
  | .scrapped, true => false

/-- Whether the part state lets an object answer on a port (R413). -/
def State.partAllows (s : State) (side : Bool) (idx sub : Nat) : Bool :=
  match s.ctl.part with
  | .ready => s.ctl.mgmt || idxIdentity idx || idxTraining idx sub || (side && idxAon idx sub)
  | .safe => side && (idxIdentity idx || idxTraining idx sub || idxAon idx sub)
  | _ => idxIdentity idx || idxTraining idx sub || (side && idxAon idx sub)

/-- The first refusal of an access by a session, in the order of R414, before the object's own rules. -/
def State.rights (s : State) (k : Session) (idx sub : Nat) (wr : Bool) : Option Nat :=
  match objAt idx sub with
  | none => some stState
  | some d =>
    let side := k.port == .side
    firstRefusal
      [ (s.unitAbsent idx, stUnitAbsent),
        (!lifeAllows s.otp.life idx wr (d.cls == .mgmt) || !s.partAllows side idx sub, stState),
        ((wr && d.acc == .ro) || (!wr && d.acc == .wo) || (wr && d.cls == .mgmt && !side) || (wr && idx == 0x1020 && sub == 1 && side), stFaultPerm),
        (wr && d.cls == .run && !side && s.w.lease.holder != k.sid, stState) ]

/-! ## Values -/

/-- A rational number as IEEE 754 binary32, to nearest even (R404). -/
def f32OfRat (x : Rat) : Nat :=
  let n := x.num.natAbs
  let d := x.den
  if n = 0 then 0
  else
    let e : Int := (Nat.log2 n : Int) - (Nat.log2 d : Int)
    let at_ (q : Int) : Nat × Nat := if q < 0 then (n * 2 ^ (-q).toNat, d) else (n, d * 2 ^ q.toNat)
    let q0 := e - 23
    let r0 := at_ q0
    let q := max (if r0.1 / r0.2 < 2 ^ 23 then q0 - 1 else q0) (-149)
    let r := at_ q
    let m := r.1 / r.2
    let rest := 2 * (r.1 % r.2)
    let m := if r.2 < rest ∨ (rest = r.2 ∧ m % 2 = 1) then m + 1 else m
    encElem 0 ⟨decide (x.num < 0), m, q⟩

/-- Thousandths as binary32. -/
def f32Milli (x : Int) : List Byte := leBytes 4 (f32OfRat ((x : Rat) / 1000))

/-- ASCII text. -/
def ascii (s : String) : List Byte := s.toList.map fun c => BitVec.ofNat 8 c.toNat

/-- A switch as one byte. -/
def boolByte (b : Bool) : List Byte := leBytes 1 (if b then 1 else 0)

/-- Number of ones among so many bits. -/
def ones (n x : Nat) : Nat := ((List.range n).filter fun i => bit x i).length

/-- What an object reads as: a status and, for `ST_OK`, the bytes; a DOMAIN by its length and a range of it. -/
inductive Val0 where
  | bytes (v : List Byte)
  | dom (len : Nat) (range : Nat → Nat → List Byte)
  | refuse (st : Nat)

/-- A DOMAIN held as bytes. -/
def Val0.ofList (v : List Byte) : Val0 := .dom v.length fun off n => (v.drop off).take n
/-- A number. -/
def Val0.num (n x : Nat) : Val0 := .bytes (leBytes n x)

/-- Identity (R427). -/
def State.readIdentity (s : State) : Nat → Val0
  | 1 => .bytes (ascii "Elskred")
  | 2 => .bytes (ascii "NFA3216")
  | 3 => .num 8 s.otp.identity
  | 4 => .bytes (s.otp.serial.takeWhile (· != 0))
  | 5 => .num 1 s.otp.revision
  | 6 => .num 2 1
  | 7 => .bytes (sl (Config.shake256 (Config.xmssPublic (s.otp.seed.getD [])) 32) 0 32)
  | 8 => .num 4 (if s.ctl.mgmt then s.ctl.sec.fw2 else s.ctl.sec.fw1)
  | _ => .refuse stState

/-- Status (R428). -/
def State.readStatus (s : State) : Nat → Val0
  | 1 => .num 1 (partCode s.ctl.part)
  | 2 => .num 1 (lifeCode s.otp.life)
  | 3 => .num 1 s.ctl.step
  | 4 => .num 2 s.ctl.endStatus
  | 5 => .bytes (boolByte s.ctl.mgmt)
  | 6 => .num 2 s.w.errs.queue.length
  | 7 => .num 1 s.ctl.mismatches
  | _ => .refuse stState

/-- Configuration (R429). -/
def readConfig : Nat → Val0
  | 1 => .num 2 1024
  | 2 => .num 1 64
  | 3 => .num 2 1250
  | 4 => .num 1 16
  | 5 => .num 2 256
  | _ => .refuse stState

/-- Capability (R1, R5). -/
def State.readCapability (s : State) : Nat → Val0
  | 1 => .num 1 s.ctl.sec.variant
  | 2 => .num 1 (ones 20 s.ctl.sec.linkMask)
  | 3 => .bytes (boolByte (bit s.ctl.sec.units 0))
  | 4 => .bytes (boolByte (bit s.ctl.sec.units 1))
  | 5 => .num 1 (match s.flash.pendingLic with | some v => le v 3 1 | none => s.ctl.sec.variant)
  | _ => .refuse stState

/-- Cycles of the reference in a millisecond. -/
abbrev msTicks : Nat := 100000
/-- Milliseconds of the lease's term that remain. -/
def State.leaseLeft (s : State) : Nat := s.w.lease.term - (s.ctl.clock - s.w.lease.start) / msTicks

/-- The lease (R415). -/
def State.readLease (s : State) : Nat → Val0
  | 2 => .num 4 s.w.lease.holder
  | 3 => .num 4 (if s.w.lease.holder = 0 then 0 else s.leaseLeft)
  | 5 => .bytes (boolByte s.ctl.persist.barred)
  | 6 => .num 4 s.w.lease.granted
  | 7 => .num 4 s.w.lease.ended
  | _ => .refuse stState

/-- Status of a firmware slot, as R463 and R464 would judge its image. -/
def State.slotStatus (s : State) (t ab : Nat) : Nat :=
  let v := s.fwImage t ab
  (firstRefusal [(!fwHeaderOk v || fwType v != t, stState), (!s.fwSigned v, stDigestMismatch), (decide (fwSecurity v < s.otp.floor), stState)]).getD stOk

/-- Status and security version of a slot. -/
def State.slotBytes (s : State) (t ab : Nat) : List Byte :=
  let v := s.fwImage t ab
  leBytes 2 (s.slotStatus t ab) ++ leBytes 2 (if fwHeaderOk v then fwSecurity v else 0)

/-- 0x1400, 0x1800, 0x1810, 0x1820, 0x1880 (R476). -/
def State.readSecurity (s : State) (idx sub : Nat) : Val0 :=
  let c := s.ctl.sec
  match idx, sub with
  | 0x1400, 2 => .ofList c.licence
  | 0x1400, 3 => .num 2 c.licStatus
  | 0x1400, 4 => .num 1 (match s.flash.pendingLic with | some v => le v 2 1 | none => 0)
  | 0x1800, 3 => .bytes (boolByte s.tapWorks)
  | 0x1810, 2 => .ofList c.quote
  | 0x1810, 3 => .num 4 c.nextSig
  | 0x1810, 4 => .num 4 s.sigsLeft
  | 0x1810, 5 => .num 1 c.tokens
  | 0x1810, 6 => .num 4 c.skipped
  | 0x1810, 7 => .bytes (sl (Config.xmssPublic (s.otp.seed.getD [])) 0 68)
  | 0x1820, 1 => .bytes (sl s.otp.fwKeys.flatten 0 64)
  | 0x1820, 2 => .bytes (sl s.otp.licKeys.flatten 0 64)
  | 0x1820, 3 => .bytes (sl s.otp.svcKeys.flatten 0 64)
  | 0x1820, 4 => .ofList (sl s.otp.topoKeys.flatten 0 128)
  | 0x1820, 5 => .num 1 s.otp.floor
  | 0x1820, 6 => .num 1 s.otp.generation
  | 0x1880, 2 => .bytes (s.slotBytes 1 0 ++ s.slotBytes 1 1 ++ s.slotBytes 2 0 ++ s.slotBytes 2 1)
  | 0x1880, 4 => .num 1 (c.active1 + 2 * c.active2)
  | _, _ => .refuse stState

/-- 0x2000, 0x2010 (R443). -/
def State.readPower (s : State) (idx sub : Nat) : Val0 :=
  let c := s.ctl
  match idx, sub with
  | 0x2000, 1 => .num 1 c.mainPower
  | 0x2000, 2 => .num 2 c.limit
  | 0x2000, 3 => .num 2 c.excursion
  | 0x2000, 4 => .num 1 c.duration
  | 0x2000, 5 => .num 1 c.throttle
  | 0x2000, 6 => .bytes c.margins
  | 0x2010, 1 => .num 2 c.idleDelay
  | 0x2010, 2 => .num 4 c.dozeDelay
  | 0x2010, 3 => .num 4 c.napDelay
  | _, _ => .refuse stState

/-- 0x2100 + k (R443). -/
def State.readCluster (s : State) (k sub : Nat) : Val0 :=
  let c := s.w.cluster k
  match sub with
  | 1 => .num 1 (powerCode c.power)
  | 2 => .num 1 c.floor
  | 3 => .num 4 c.powerUps
  | 4 => .num 1 (s.dutyOf (dieOfCluster k))
  | _ => .refuse stState

/-- 0x7800 (R443). -/
def World.readTelemetry (w : World) (sub : Nat) : Val0 :=
  let t := w.tele
  match sub with
  | 1 => .bytes (f32Milli t.power)
  | 2 => .bytes (leBytes 4 (f32OfRat (t.mean / 1000)))
  | 3 => .bytes (f32Milli t.hottest)
  | 4 => .num 1 t.sensor
  | 5 => .bytes (f32Milli t.current)
  | 6 => .num 8 t.reductions
  | 7 => .ofList (sl (t.readings.flatMap f32Milli) 0 1024)
  | 8 => .ofList (sl (t.regs.flatMap fun r => f32Milli r.mv ++ f32Milli r.ma ++ f32Milli r.mdeg ++ leBytes 4 r.status) 0 256)
  | _ => .refuse stState

/-- 0x2800, 0x2810 (R119, R333). -/
def World.readHbm (w : World) (idx sub : Nat) : Val0 :=
  let h := w.hbm
  match idx, sub with
  | 0x2800, 1 => .num 1 16
  | 0x2800, 2 => .num 8 1099511627776
  | 0x2800, 3 => .num 2 10000
  | 0x2800, 4 => .num 2 h.scrubHours
  | 0x2800, 5 => .num 8 h.passes
  | 0x2800, 6 => .num 1 h.wipe
  | 0x2800, 7 => .num 4 h.wipeUs
  | 0x2800, 8 => .num 8 h.merges
  | 0x2810, 1 => .num 8 (w.die 0).hits
  | 0x2810, 2 => .num 8 (w.die 0).misses
  | 0x2810, 3 => .num 8 (w.die 1).hits
  | 0x2810, 4 => .num 8 (w.die 1).misses
  | 0x2810, 6 => .num 8 w.nums.invalidated
  | _, _ => .refuse stState

/-- 0x2820 + t (R333). -/
def World.readStack (w : World) (t sub : Nat) : Val0 :=
  let k := w.stack t
  match sub with
  | 1 => .num 1 k.train
  | 2 => .num 8 k.corrected
  | 3 => .num 8 k.uncorrected
  | 4 => .num 8 k.onDie
  | 5 => .num 4 k.bus
  | 6 => .num 4 (ux 32 k.temp)
  | 7 => .num 1 k.refresh
  | 8 => .num 8 k.bytesR
  | 9 => .num 8 k.bytesW
  | _ => .refuse stState

/-- 0x3000 (R297). -/
def State.readContexts (s : State) (sub : Nat) : Val0 :=
  let c := s.w.ctxCtr
  match sub with
  | 1 => .num 1 (s.res.filter fun e => e.2.st == .resident).length
  | 2 => .num 2 (s.res.filter fun e => e.2.st != .absent).length
  | 3 => .num 8 c.preempts
  | 4 => .num 8 c.restores
  | 5 => .num 8 c.restFailed
  | 6 => .num 4 c.longest
  | 7 => .num 8 c.tlbMisses
  | 8 => .num 8 c.xlateFaults
  | _ => .refuse stState

/-- 0x3100 + n (R284, R298): reserved bytes read zero (R7); an ABSENT context answers in :02 and :03 only; the context record only from SAVED. -/
def State.readContext (s : State) (n sub : Nat) : Val0 :=
  let r := s.ent n
  let x := s.w.ctx n
  match sub with
  | 2 => .num 1 (ctxCode r.st)
  | 3 => .bytes (sl r.cfg 0 5 ++ leBytes 3 0 ++ sl r.cfg 8 40 ++ leBytes 16 0)
  | _ =>
    if r.st = .absent then .refuse stState
    else
      match sub with
      | 4 => .num 4 x.tail
      | 5 => .num 4 x.prod
      | 6 => .num 4 x.cons
      | 7 => .num 4 x.lost
      | 8 => .bytes x.lastFault
      | 9 => .num 4 x.faults
      | 11 => .num 4 x.invDone
      | 12 =>
        if r.st = .saved then .dom 536870912 fun off len => (List.range len).map fun i => s.exportByte n (off + i)
        else .refuse stBusy
      | 13 => .num 4 x.step
      | _ => .refuse stState

/-- 0x3200 (R273). -/
def World.readSnapshot (w : World) (sub : Nat) : Val0 :=
  let x := w.snap
  match sub with
  | 2 => .num 1 (match x.st with | .idle => 0 | .armed => 1 | .copying => 2 | .ready => 3)
  | 4 => .num 2 x.ctx
  | 5 => .num 8 68719476736
  | 6 => .num 8 x.bytes
  | 7 => .num 8 x.taken
  | _ => .refuse stState

/-- 0x3300 + n, 0x3500 + n, 0x3D00 + n, 0x3F00 + n (R56, R242, R255, R274): of an ABSENT context only the first two images, at their defaults
(DEDUCED, log entry 69). -/
def State.readJob (s : State) (kind n sub : Nat) : Val0 :=
  let r := s.ent n
  let x := s.w.ctx n
  if r.st = .absent then
    match kind, sub with
    | 0x3500, 1 => .dom 1310720 fun _ len => List.replicate len 0
    | 0x3D00, 1 => .dom 16384 fun off len => (((List.range 256).flatMap fun _ => defaultSlot).drop off).take len
    | _, _ => .refuse stState
  else
    match kind, sub with
    | 0x3300, 1 => .bytes (boolByte x.wsRo)
    | 0x3300, 2 => .num 4 x.wsRefused
    | 0x3500, 1 => .dom 1310720 fun off len => s.w.hbmBytes (statBase n 0 + off) len
    | 0x3D00, 1 => .dom 16384 fun off len => s.w.hbmBytes (predBase n 0 + off) len
    | 0x3F00, 1 => .num 8 x.seed.toNat
    | 0x3F00, 2 => .bytes (boolByte x.reseedable)
    | 0x3F00, 3 => .num 4 x.epoch
    | 0x3F00, 5 =>
      if s.ctxRuns n then .refuse stBusy
      else if r.onCores then .ofList (r.coreList.flatMap fun c => (s.w.core c).stream.image)
      else .ofList ((List.range r.cores).flatMap fun j => s.w.hbmBytes (coreImageBase n j + 8192) 4872)
    | _, _ => .refuse stState

/-- 0x3400, 0x3A00, 0x3C00–0x3C02, 0x3E00 (R56, R217, R242, R254). -/
def World.readNums (w : World) (idx sub : Nat) : Val0 :=
  let x := w.nums
  match idx, sub with
  | 0x3400, 1 => .num 1 x.accMode
  | 0x3400, 2 => .num 1 x.outMode
  | 0x3400, 3 => .num 1 x.rsrc
  | 0x3400, 4 => .num 1 x.hist
  | 0x3400, 5 => .num 1 x.margin
  | 0x3400, 6 => .num 8 x.retries
  | 0x3400, 7 => .num 8 x.satTiles
  | 0x3400, 8 => .num 2 4096
  | 0x3A00, 1 => .num 8 x.pruned
  | 0x3A00, 2 => .num 8 x.regrown
  | 0x3A00, 3 => .num 8 x.rewritten
  | 0x3A00, 4 => .num 8 x.refused
  | 0x3A00, 5 => .num 8 x.unchanged
  | 0x3A00, 6 => .num 8 x.probed
  | 0x3C00, 1 => .num 8 x.predicts
  | 0x3C00, 2 => .num 8 x.predActive
  | 0x3C00, 3 => .num 8 x.samples
  | 0x3C00, 4 => .num 8 x.misses
  | 0x3C00, 5 => .num 8 x.thrChanges
  | 0x3C01, 1 => .num 8 x.fallbacks
  | 0x3C01, 2 => .num 8 x.listReads
  | 0x3C02, 1 => .num 8 x.screens
  | 0x3C02, 2 => .num 8 x.selected
  | 0x3E00, 1 => .num 8 x.words
  | 0x3E00, 2 => .num 8 x.seedings
  | 0x3E00, 3 => .num 8 x.reseeds
  | 0x3E00, 4 => .num 2 laneCount
  | 0x3E00, 5 => .num 8 (pmx 0 0 0 0).toNat
  | _, _ => .refuse stState

/-- Core states by code (R98). -/
def coreCode : CoreSt → Nat
  | .idle => 0
  | .running => 1
  | .stopped => 2
  | .done => 3

/-- A window of a core (R121). -/
def World.readWindow (w : World) (c i k : Nat) : Val0 :=
  let v := w.win c i
  match k with
  | 1 => .num 1 (match v.st with | .closed => 0 | .open_ => 1 | .draining => 2)
  | 2 => .num 4 v.base
  | 3 => .num 4 v.geom
  | 4 => .num 4 v.sender
  | 5 => .num 2 v.ctrs
  | 6 => .num 2 v.gen
  | 7 => .num 8 (v.ignored * 2 ^ 32 + v.discarded)
  | _ => .refuse stState

/-- 0x4000 + c (R98, R121, R145, R214). -/
def World.readCore (w : World) (c sub : Nat) : Val0 :=
  let k := w.core c
  match sub with
  | 1 => .num 1 (coreCode k.state)
  | 3 => .num 4 k.failIdx
  | 4 => .num 4 k.nextIdx
  | 5 => .num 2 k.failStatus
  | 6 => .num 1 k.inFlight
  | 7 => .num 4 k.waitLimit
  | 8 => .ofList ((List.range 64).flatMap fun i => leBytes 2 (k.ctrs.getD i 0).toNat)
  | 9 => .num 1 k.phys
  | 10 => .num 4 k.softStarts
  | 11 => .num 4 k.drainLimit
  | 12 => .num 8 k.oobFill
  | 13 => .num 8 k.oobDrop
  | 14 => .num 4 k.dirty.toNat
  | _ => if 0x10 ≤ sub ∧ sub < 0x50 then w.readWindow c ((sub - 0x10) / 8) (sub % 8) else .refuse stState

/-- 0x5000 + d (R317): only while the channel's cluster has a resident context. -/
def State.readChan (s : State) (d sub : Nat) : Val0 :=
  let c := s.w.chan d
  if (s.chanCtx d).isNone then .refuse stState
  else
    match sub with
    | 1 => .num 1 (match c.st with | .idle => 0 | .running => 1 | .pausing => 2 | .paused => 3 | .halted => 4)
    | 3 => .num 8 c.cur.toNat
    | 4 => .num 8 c.src.toNat
    | 5 => .num 8 c.dst.toNat
    | 6 => .num 8 (c.rowsLeft % 2 ^ 32 * 2 ^ 32 + c.rowLeft)
    | 7 => .bytes (leBytes 8 c.latAddr.toNat ++ leBytes 1 c.latDir ++ leBytes 1 c.latKind ++ leBytes 2 c.latStatus ++ leBytes 4 0)
    | 8 => .num 2 c.core
    | 9 => .num 2 c.lastStatus
    | 10 => .num 8 c.done
    | 11 => .num 8 c.bytes
    | _ => .refuse stState

/-- 0x6000, 0x6030, 0x6400 (R366, R368, R458). -/
def State.readSeam (s : State) (idx sub : Nat) : Val0 :=
  let m := s.w.seam
  let c := s.w.collCtr
  let r := s.ctl.sec.record
  match idx, sub with
  | 0x6000, 1 => .num 2 m.rank
  | 0x6000, 2 => .num 1 ((List.range 20).filter fun l => (s.w.link l).st == .up).length
  | 0x6000, 3 => .num 2 50
  | 0x6000, 4 => .num 2 1000
  | 0x6000, 5 => .ofList (m.lost.flatMap (leBytes 2))
  | 0x6000, 7 => .ofList (m.routes.flatMap fun l => (List.range 4).flatMap fun i => leBytes 1 (l.getD i 0xFF))
  | 0x6000, 8 => .num 8 m.forwarded
  | 0x6030, 1 => .ofList r
  | 0x6030, 2 => .num 4 (le r 4 4)
  | 0x6030, 3 => .num 2 (topoParts r)
  | 0x6030, 4 => .num 4 s.ctl.readyMs
  | 0x6030, 5 => .num 4 s.ctl.compares
  | 0x6400, 1 => .num 8 c.completed
  | 0x6400, 2 => .num 8 c.withMissing
  | 0x6400, 3 => .num 8 c.crcFails
  | 0x6400, 4 => .num 8 c.unequal
  | 0x6400, 5 => .num 8 c.late
  | 0x6400, 6 => .num 8 c.takeovers
  | 0x6400, 7 => .num 1 s.w.collsOpen.length
  | _, _ => .refuse stState

/-- 0x6010 + l (R367). -/
def World.readLink (w : World) (l sub : Nat) : Val0 :=
  let k := w.link l
  match sub with
  | 1 => .num 1 (linkCode k.st)
  | 3 => .num 8 k.peerId
  | 4 => .num 2 k.peerRank
  | 5 => .num 1 k.peerLink
  | 6 => .num 4 k.attempts
  | 7 => .num 8 k.fecFixed
  | 8 => .num 8 k.fecBad
  | 9 => .num 8 k.replayed
  | 10 => .num 8 k.discarded
  | 11 => .num 8 k.sent
  | 12 => .num 8 k.received
  | 13 => .num 4 k.downs
  | _ => .refuse stState

/-- 0x6410 + g (R369). -/
def World.readGroup (w : World) (g sub : Nat) : Val0 :=
  let v := w.group g
  match sub with
  | 1 => .ofList (v.members.flatMap (leBytes 2))
  | 2 => .num 4 v.tau
  | 3 => .num 8 v.seed.toNat
  | 4 => .num 2 v.owner
  | 5 => .num 2 ((w.ownPos g).getD 0xFFFF)
  | 6 => .num 4 (if v.members.isEmpty then 0 else v.print)
  | 7 => .num 4 v.next
  | 8 => .num 4 v.last
  | _ => .refuse stState

/-- 0x6800, 0x6810 + p (R400). -/
def State.readPort (s : State) (idx sub : Nat) : Val0 :=
  let c := s.ctl.persist
  if idx = 0x6800 then
    match sub with
    | 1 => .bytes (boolByte c.roceOn)
    | 2 => .num 1 c.prioA
    | 3 => .num 1 c.prioB
    | _ => .refuse stState
  else
    let p := idx - 0x6810
    let v := s.w.port p
    match sub with
    | 1 => .num 1 v.st
    | 2 => .num 1 (nth c.elec p)
    | 3 => .num 2 (nth c.vlan p)
    | 4 => .bytes (c.ip6.getD p [])
    | 5 => .bytes (c.ip4.getD p [])
    | 6 => .bytes (s.otp.macs.getD p [])
    | 7 => .num 8 v.frames
    | 8 => .num 8 v.discarded
    | 9 => .num 8 v.dropped
    | 10 => .num 8 (v.xoffSent * 2 ^ 32 + v.xoffRecv)
    | _ => .refuse stState

/-- 0x6900 + m (R401). -/
def World.readRegion (w : World) (m sub : Nat) : Val0 :=
  let v := w.region m
  match sub with
  | 1 => .num 1 v.kind
  | 2 => .num 2 v.ctx
  | 3 => .num 8 v.base
  | 4 => .num 8 v.len
  | 5 => .num 4 v.word
  | _ => .refuse stState

/-- 0x6A00 + q (R401). -/
def World.readQp (w : World) (q sub : Nat) : Val0 :=
  let v := w.qp q
  match sub with
  | 1 => .num 1 (match v.st with | .reset => 0 | .ready => 1 | .error => 2)
  | 2 => .num 2 v.ctx
  | 3 => .num 1 v.port
  | 4 => .bytes v.remote
  | 5 => .bytes v.ring
  | 6 => .num 8 (v.cons * 2 ^ 32 + v.prod)
  | 7 => .num 4 v.naks
  | _ => .refuse stState

/-- 0x6C00, 0x6C08 (R402). -/
def State.readKoc (s : State) (idx sub : Nat) : Val0 :=
  let k := s.w.koc
  let c := s.ctl.persist
  match idx, sub with
  | 0x6C00, 1 => .num 2 c.udp
  | 0x6C00, 2 => .num 1 (k.sessions.filter fun x => x.port != .side).length
  | 0x6C00, 3 => .num 1 (k.sessions.filter fun x => x.port == .side).length
  | 0x6C00, 4 => .ofList c.hostKeys
  | 0x6C00, 5 => .ofList c.mgmtKeys
  | 0x6C00, 6 => .num 8 k.discarded
  | 0x6C00, 7 => .num 8 k.evDropped
  | 0x6C00, 8 => .num 4 k.refused
  | 0x6C08, 1 => .bytes c.sideIp6
  | 0x6C08, 2 => .bytes c.sideIp4
  | 0x6C08, 3 => .bytes (s.otp.macs.getD 2 [])
  | _, _ => .refuse stState

/-- 0x7000, 0x7200 (R483, R489). -/
def State.readErrors (s : State) (idx sub : Nat) : Val0 :=
  let e := s.w.errs
  match idx, sub with
  | 0x7000, 1 => .bytes (match e.queue with | r :: _ => r.bytes | [] => leBytes 64 0)
  | 0x7000, 3 => .num 2 e.queue.length
  | 0x7000, 4 => .num 8 e.dropped
  | 0x7000, 5 => .num 8 e.notQueued
  | 0x7000, 6 => .num 8 e.escalations
  | 0x7000, 7 => .ofList (e.queue.flatMap ErrRec.bytes)
  | 0x7000, 8 => .bytes ((List.range 4).flatMap fun i => leBytes 8 (nth e.raised i))
  | 0x7200, 1 => .ofList (s.flash.log.flatMap ErrRec.bytes)
  | 0x7200, 3 => .num 2 s.flash.log.length
  | _, _ => .refuse stState

/-- Bytes of an image: its state block and its granules. -/
def CkImage.size (i : CkImage) : Nat := sumN (i.held.map (·.len))

/-- 0x7400, 0x7401 (R496, R509). -/
def State.readReliability (s : State) (idx sub : Nat) : Val0 :=
  let b := s.w.buddy
  let x := s.w.scan
  match idx, sub with
  | 0x7400, 1 => .num 2 b.buddy
  | 0x7400, 2 => .num 2 b.ward
  | 0x7400, 3 => .bytes (match b.image with | some i => leBytes 2 i.ctx ++ leBytes 2 0 ++ leBytes 4 i.step ++ leBytes 8 i.size | none => leBytes 16 0)
  | 0x7400, 4 => .num 4 b.suspects
  | 0x7400, 5 => .num 8 b.discarded
  | 0x7401, 2 => .num 1 x.st
  | 0x7401, 3 => .bytes x.result
  | 0x7401, 4 => .num 1 x.cache
  | 0x7401, 5 => .bytes (s.flash.repair.flatMap (leBytes 1))
  | 0x7401, 6 => .num 4 x.runs
  | _, _ => .refuse stState

/-- 0x7500 + n (R510). -/
def State.readCkpt (s : State) (n sub : Nat) : Val0 :=
  let x := s.w.ctx n
  let k := x.ck
  if (s.ent n).st = .absent then .refuse stState
  else
    match sub with
    | 1 => .bytes x.digest
    | 2 => .ofList x.regionCrcs
    | 3 => .bytes x.verdict
    | 4 => .num 1 x.hold
    | 0x10 => .bytes k.cfg
    | 0x11 => .ofList k.table
    | 0x12 => .num 1 (match k.st with | .off => 0 | .idle => 1 | .reading => 2 | .sending => 3 | .committing => 4)
    | 0x13 => .num 4 k.lastStep
    | 0x14 => .bytes (leBytes 4 k.committed ++ leBytes 4 k.skipped ++ leBytes 4 k.abandoned ++ leBytes 4 k.granules)
    | 0x15 => .ofList (k.methods.flatMap fun m => leBytes 1 m.1 ++ leBytes 3 0 ++ leBytes 4 (f32OfRat m.2))
    | 0x21 => .num 1 (match x.rst.st with | .idle => 0 | .checking => 1 | .transferring => 2 | .done => 3 | .failed => 4)
    | 0x22 => .num 2 x.rst.status
    | 0x23 => .bytes x.rst.replay
    | 0x24 => .bytes (boolByte x.rst.present)
    | _ => .refuse stState

/-- The subscription of the session that asks (R422); outside a session it does not answer. -/
def State.readEvents (s : State) (k : Option Session) (idx sub : Nat) : Val0 :=
  match idx, k, sub with
  | 0x7C10, _, 1 => .num 8 s.w.koc.raised
  | 0x7C00, some k, 1 => .num 4 k.mask
  | 0x7C00, some k, 2 => .bytes k.filter
  | 0x7C00, some k, 3 => .num 2 k.events.length
  | 0x7C00, some k, 4 => .num 4 k.evDropped
  | _, _, _ => .refuse stState

/-- What an object of the dictionary reads as, in a session or outside one. -/
def State.readObj (s : State) (k : Option Session) (idx sub : Nat) : Val0 :=
  if sub = 0 then .num 1 (topSub idx)
  else if idx = 0x0000 then s.readIdentity sub
  else if idx = 0x0100 then s.readStatus sub
  else if idx = 0x1000 then readConfig sub
  else if idx = 0x1010 then s.readCapability sub
  else if idx = 0x1020 then s.readLease sub
  else if idx = 0x1030 then .num 4 s.ctl.resets
  else if idx = 0x1040 then .num 1 (min 255 s.ctl.persistQ.length)
  else if idx < 0x2000 then s.readSecurity idx sub
  else if idx < 0x2100 then s.readPower idx sub
  else if idx < 0x2800 then s.readCluster (idx - 0x2100) sub
  else if idx < 0x2820 then s.w.readHbm idx sub
  else if idx < 0x3000 then s.w.readStack (idx - 0x2820) sub
  else if idx < 0x3100 then s.readContexts sub
  else if idx < 0x3200 then s.readContext (idx - 0x3100) sub
  else if idx < 0x3300 then s.w.readSnapshot sub
  else if idx < 0x3400 then s.readJob 0x3300 (idx - 0x3300) sub
  else if idx < 0x3500 then s.w.readNums idx sub
  else if idx < 0x3600 then s.readJob 0x3500 (idx - 0x3500) sub
  else if idx < 0x3D00 then s.w.readNums idx sub
  else if idx < 0x3E00 then s.readJob 0x3D00 (idx - 0x3D00) sub
  else if idx < 0x3F00 then s.w.readNums idx sub
  else if idx < 0x4000 then s.readJob 0x3F00 (idx - 0x3F00) sub
  else if idx < 0x4400 then s.w.readCore (idx - 0x4000) sub
  else if idx < 0x6000 then s.readChan (idx - 0x5000) sub
  else if 0x6010 ≤ idx ∧ idx < 0x6030 then s.w.readLink (idx - 0x6010) sub
  else if 0x6410 ≤ idx ∧ idx < 0x6800 then s.w.readGroup (idx - 0x6410) sub
  else if idx < 0x6800 then s.readSeam idx sub
  else if idx < 0x6900 then s.readPort idx sub
  else if idx < 0x6A00 then s.w.readRegion (idx - 0x6900) sub
  else if idx < 0x6C00 then s.w.readQp (idx - 0x6A00) sub
  else if idx < 0x7000 then s.readKoc idx sub
  else if idx < 0x7400 then s.readErrors idx sub
  else if idx < 0x7500 then s.readReliability idx sub
  else if idx < 0x7800 then s.readCkpt (idx - 0x7500) sub
  else if idx < 0x7C00 then s.w.readTelemetry sub
  else s.readEvents k idx sub

/-- A read of 0x3E00:05 evaluates the generator; another value than the right one raises a FATAL record of unit 19 (R254, R480), whose
status is open (DESIGN CHOICE, log entry 48). -/
def State.knownAnswer (s : State) (idx sub : Nat) : State :=
  let v := pmx 0 0 0 0
  if idx = 0x3E00 ∧ sub = 5 ∧ v ≠ 0x348372C1FAC61AEF then
    s.withW ({ s.w with free := s.w.free + 1 }.raise clsFatal 19 (Config.freeNat s.w.free % 18) 0 none 0 0 (leBytes 8 v.toNat))
  else s

/-- A READ of an object (R406, R410): its value, or its length for a DOMAIN. -/
def readFx (s : State) (k : Option Session) (idx sub : Nat) : Fx :=
  match s.readObj k idx sub with
  | .bytes v => { s := s.knownAnswer idx sub, value := v }
  | .dom len _ => { s, value := leBytes 8 len }
  | .refuse st => .refuse s st

end Sys2Proof.Machine
end

