-- ==== Sys2Proof/Machine/Object.lean ====
section
/-! DEFINITION. What a write of each object of the dictionary does, once the session has the right to it (R405, R411, R414 step 6). -/
namespace Sys2Proof.Machine

/-! ## Ranges -/

/-- A write of an unsigned object of n bytes within a range; outside it `ST_STATE` and no change. -/
def rangeFx (s : State) (n lo hi : Nat) (v : List Byte) (f : Nat → State) : Fx :=
  match uintOf n v with
  | some x => if lo ≤ x ∧ x ≤ hi then { s := f x } else .refuse s stState
  | none => .refuse s stState

/-- A write of the world by a number within a range. -/
def rangeW (s : State) (n lo hi : Nat) (v : List Byte) (f : Nat → World) : Fx := rangeFx s n lo hi v fun x => s.withW (f x)

/-- A write that a value byte string of a stated length makes. -/
def octetsFx (s : State) (n : Nat) (v : List Byte) (t : State) : Fx := if v.length = n then { s := t } else .refuse s stState

/-! ## Persistent objects (R424) -/

/-- A persistent object written: in force at once, in flash later. -/
def State.putPersist (s : State) (p : Persist) : State :=
  { s with ctl := { s.ctl with persist := p, persistQ := s.ctl.persistQ ++ [p] } }

/-- Host-port settings (R400), the KOC port and the side-band addresses (R402), the lease bar (R415). -/
def persistFx (s : State) (idx sub : Nat) (v : List Byte) : Fx :=
  let c := s.ctl.persist
  let p := idx - 0x6810
  match idx, sub with
  | 0x1020, 5 => rangeFx s 1 0 1 v fun x => s.putPersist { c with barred := x == 1 }
  | 0x6800, 1 => rangeFx s 1 0 1 v fun x => s.putPersist { c with roceOn := x == 1 }
  | 0x6800, 2 => if uintOf 1 v = some c.prioB then .refuse s stState else rangeFx s 1 0 7 v fun x => s.putPersist { c with prioA := x }
  | 0x6800, 3 => if uintOf 1 v = some c.prioA then .refuse s stState else rangeFx s 1 0 7 v fun x => s.putPersist { c with prioB := x }
  | 0x6C00, 1 => rangeFx s 2 0 0xFFFF v fun x => s.putPersist { c with udp := x }
  | 0x6C08, 1 => octetsFx s 16 v (s.putPersist { c with sideIp6 := v })
  | 0x6C08, 2 => octetsFx s 5 v (s.putPersist { c with sideIp4 := v })
  | _, 2 => rangeFx s 1 0 1 v fun x => s.putPersist { c with elec := c.elec.set p x }
  | _, 3 => rangeFx s 2 0 0xFFFF v fun x => s.putPersist { c with vlan := c.vlan.set p x }
  | _, 4 => octetsFx s 16 v (s.putPersist { c with ip6 := c.ip6.set p v })
  | _, 5 => octetsFx s 5 v (s.putPersist { c with ip4 := c.ip4.set p v })
  | _, _ => .refuse s stState

/-- A list of key hashes cut into its entries. -/
def keysOf (v : List Byte) : List (List Byte) := (List.range (v.length / 32)).map fun i => sl v (32 * i) 32

/-- Whether a key hash opens sessions on a port (R389): in the port's list; in BLANK, on the side-band, also a vendor key hash of OTP. -/
def State.authorised (s : State) (p : KocPort) (hash : List Byte) : Bool :=
  match p with
  | .side =>
    decide (hash ∈ keysOf s.ctl.persist.mgmtKeys)
      || (s.otp.life == .blank && !allZero hash && decide (hash ∈ s.otp.fwKeys ++ s.otp.licKeys ++ s.otp.svcKeys))
  | _ => decide (hash ∈ keysOf s.ctl.persist.hostKeys)

/-- The effect of a write of 0x6C00:04 or :05 (R396, R402): the list replaced, the sessions that it no longer lets in closed. -/
def keyListFx (s : State) (sub : Nat) (v : List Byte) : Fx :=
  if v.length % 32 ≠ 0 ∨ 512 < v.length then .refuse s stState
  else
    let c := s.ctl.persist
    let s := s.putPersist (if sub = 4 then { c with hostKeys := v } else { c with mgmtKeys := v })
    .world s (s.w.closeSessions (fun k => !s.authorised k.port k.keyHash) (some stState))

/-! ## The lease (R416, R417) -/

/-- The effect of a lease request by a session of a host port, in the order of R416. -/
def leaseFx (s : State) (k : Session) (v : List Byte) : Fx :=
  let l := s.w.lease
  match uintOf 4 v with
  | none => .refuse s stState
  | some t =>
    if t ≠ 0 ∧ (t < 100 ∨ 60000 < t) then .refuse s stState
    else if s.ctl.persist.barred then .refuse s stState
    else if l.holder = 0 then
      if t = 0 then .refuse s stState
      else
        let w := { s.w with lease := { l with holder := k.sid, term := t, start := s.ctl.clock, granted := bump 32 l.granted 1 } }
        .world s (w.event 0x0901 0x1020 2 dieNone none stOk (leBytes 4 k.sid))
    else if l.holder = k.sid then
      .world s (if t = 0 then s.w.endLease 0 else { s.w with lease := { l with term := t, start := s.ctl.clock } })
    else .refuse s (if t = 0 then stState else stBusy)

/-- The effect of a revoke (R417). -/
def revokeFx (s : State) (v : List Byte) : Fx :=
  if uintOf 1 v = some 1 ∧ s.w.lease.holder ≠ 0 then .world s (s.w.endLease 3) else .refuse s stState

/-! ## Reset and life-cycle (R429, R472, R473) -/

/-- The effect of 0x1030:01: the reset follows the answer. -/
def resetFx (s : State) (v : List Byte) : Fx :=
  if uintOf 1 v = some 1 then { s, post := fun t => t.restart t.ctl.pins.straps (bump 32 t.ctl.resets 1) } else .refuse s stState

/-- The effect of 0x1800:01: an accepted transition follows its answer. -/
def lifecycleFx (s : State) (k : Session) (v : List Byte) : Fx :=
  let st := s.lifeStatus v k.keyHash
  match lifeOf (leNat v) with
  | some l => if st = stOk then { s, post := fun t => t.lifeChange l } else .refuse s st
  | none => .refuse s st

/-! ## Part-wide settings -/

/-- Power and clocks (R443). -/
def powerFx (s : State) (idx sub : Nat) (v : List Byte) : Fx :=
  let c := s.ctl
  match idx, sub with
  | 0x2000, 1 => if uintOf 1 v = some 0 then mainOffFx s else if uintOf 1 v = some 1 then mainOnFx s else .refuse s stState
  | 0x2000, 2 => rangeFx s 2 500 2600 v fun x => { s with ctl := { c with limit := x } }
  | 0x2000, 3 => rangeFx s 2 c.limit 3100 v fun x => { s with ctl := { c with excursion := x } }
  | 0x2000, 4 => rangeFx s 1 0 10 v fun x => { s with ctl := { c with duration := x } }
  | 0x2000, 5 => rangeFx s 1 85 100 v fun x => { s with ctl := { c with throttle := x } }
  | 0x2000, 6 => railMarginFx s v
  | 0x2010, 1 => rangeFx s 2 64 65535 v fun x => { s with ctl := { c with idleDelay := x } }
  | 0x2010, 2 => rangeFx s 4 1 1000000 v fun x => { s with ctl := { c with dozeDelay := x } }
  | 0x2010, 3 => rangeFx s 4 100 10000000 v fun x => { s with ctl := { c with napDelay := x } }
  | _, _ => .refuse s stState

/-- Numeric defaults (R56). -/
def numsFx (s : State) (sub : Nat) (v : List Byte) : Fx :=
  let x := s.w.nums
  match sub with
  | 1 => rangeW s 1 0 3 v fun n => { s.w with nums := { x with accMode := n } }
  | 2 => rangeW s 1 0 3 v fun n => { s.w with nums := { x with outMode := n } }
  | 3 => rangeW s 1 0 1 v fun n => { s.w with nums := { x with rsrc := n } }
  | 4 => rangeW s 1 1 64 v fun n => { s.w with nums := { x with hist := n } }
  | 5 => rangeW s 1 0 7 v fun n => { s.w with nums := { x with margin := n } }
  | _ => .refuse s stState

/-- The effect of 0x2800:04 (R333). -/
def scrubFx (s : State) (v : List Byte) : Fx := rangeW s 2 1 168 v fun x => { s.w with hbm := { s.w.hbm with scrubHours := x } }

/-- Subscriptions (R422), of the session that writes. -/
def eventsFx (s : State) (k : Session) (sub : Nat) (v : List Byte) : Fx :=
  let set (f : Session → Session) : World :=
    { s.w with koc := { s.w.koc with sessions := s.w.koc.sessions.map fun x => if x.sid = k.sid then f x else x } }
  match sub with
  | 1 => rangeW s 4 0 0x7FF v fun m => set fun x => { x with mask := m }
  | 2 => octetsFx s 32 v (s.withW (set fun x => { x with filter := v }))
  | _ => .refuse s stState

/-- The effect of 0x1800:02: the token that a transition needs (R472). -/
def tokenFx (s : State) (v : List Byte) : Fx := octetsFx s 2884 v { s with ctl := { s.ctl with sec := { s.ctl.sec with token := v } } }

/-! ## Cores, windows, contexts -/

/-- The registers of a window that is CLOSED (R121, R122); reserved bits read 0. -/
def windowFx (s : State) (c i k : Nat) (v : List Byte) : Fx :=
  let x := s.w.win c i
  match k with
  | 0 => if uintOf 1 v = some 1 then windowOpenFx s c i else if uintOf 1 v = some 2 then windowCloseFx s c i else .refuse s stState
  | _ =>
    if x.st ≠ .closed then .refuse s stBusy
    else
      match k with
      | 2 => rangeW s 4 0 (2 ^ 32 - 1) v fun n => s.w.setWin c i { x with base := n }
      | 3 => rangeW s 4 0 (2 ^ 32 - 1) v fun n => s.w.setWin c i { x with geom := fld n 22 16 * 2 ^ 16 + fld n 2 0 }
      | 4 => rangeW s 4 0 (2 ^ 32 - 1) v fun n => s.w.setWin c i { x with sender := fld n 31 16 * 2 ^ 16 + fld n 4 0 }
      | 5 => rangeW s 2 0 0xFFFF v fun n => s.w.setWin c i { x with ctrs := fld n 13 8 * 2 ^ 8 + fld n 5 0 }
      | _ => .refuse s stState

/-- 0x4000 + c (R97, R98, R120, R121, R214). -/
def coreFx (s : State) (c sub : Nat) (v : List Byte) : Fx :=
  let k := s.w.core c
  match sub with
  | 2 => coreResumeFx s c v
  | 7 => rangeW s 4 1000 10000000 v fun x => s.w.setCore c { k with waitLimit := x }
  | 11 => rangeW s 4 10 100000 v fun x => s.w.setCore c { k with drainLimit := x }
  | 14 => dirtyClearFx s c v
  | _ => if 0x10 ≤ sub ∧ sub < 0x50 then windowFx s c ((sub - 0x10) / 8) (sub % 8) v else .refuse s stState

/-- The effect of 0x3100 + n:06 (R287, R298). -/
def consumerFx (s : State) (n : Nat) (v : List Byte) : Fx :=
  if (s.ent n).st = .absent then .refuse s stState
  else rangeFx s 4 0 (2 ^ 32 - 1) v fun x => s.ctxField n { s.w.ctx n with cons := x }

/-- 0x3100 + n (R285, R298). -/
def contextFx (s : State) (n sub : Nat) (v : List Byte) : Fx :=
  match sub with
  | 1 =>
    match uintOf 1 v with
    | some 1 => createFx s n
    | some 2 => resumeFx s n
    | some 3 => preemptFx s n
    | some 4 => destroyFx s n ckptDestroy
    | _ => .refuse s stState
  | 3 => configFx s n v
  | 4 => doorbellFx s n v
  | 6 => consumerFx s n v
  | 10 => invalidateFx s n v
  | 12 => importFx s n (v.zipIdx.map fun x => (x.2, x.1))
  | _ => .refuse s stState

/-- 0x3300 + n (R274). -/
def protectFx (s : State) (n : Nat) (v : List Byte) : Fx :=
  if (s.ent n).st = .absent then .refuse s stState
  else if s.ctxRuns n then .refuse s stBusy
  else rangeW s 1 0 1 v fun x => s.w.setCtx n { s.w.ctx n with wsRo := x == 1 }

/-- 0x3F00 + n (R248, R255). -/
def randomFx (s : State) (n sub : Nat) (v : List Byte) : Fx :=
  match sub with
  | 1 => seedFx s n v
  | 2 =>
    if (s.ent n).st = .absent then .refuse s stState
    else rangeFx s 1 0 1 v fun x => s.ctxField n { s.w.ctx n with reseedable := x == 1 }
  | 4 => reseedFx s n v
  | _ => .refuse s stState

/-- The control object of a channel (R317). -/
def channelFx (s : State) (d : Nat) (v : List Byte) : Fx :=
  match uintOf 1 v with
  | some 1 => chanFx s d fun w _ => w.chanResume
  | some 2 => chanFx s d fun w _ => w.chanPause
  | some 3 => chanFx s d World.chanSkip
  | some 4 => chanFx s d World.chanAbort
  | _ => .refuse s stState

/-- A collective group's objects (R369). -/
def groupFx (s : State) (g sub : Nat) (v : List Byte) : Fx :=
  let r := groupConfigFx s g sub v
  { s := r.1, st := r.2 }

/-- The objects of a queue pair (R378, R401). -/
def queuePairFx (s : State) (q sub : Nat) (v : List Byte) : Fx :=
  match sub with
  | 1 => if uintOf 1 v = some 1 then qpReadyFx s q else if uintOf 1 v = some 0 then qpResetFx s q else .refuse s stState
  | _ => qpConfigFx s q sub v

/-- 0x7500 + n (R499, R505, R510). -/
def checkpointFx (s : State) (n sub : Nat) (v : List Byte) : Fx :=
  match sub with
  | 0x10 => ckptConfigFx s n v
  | 0x11 => ckptTableFx s n v
  | 0x20 => restoreRequestFx s n v
  | _ => .refuse s stState

/-- Licences, tokens, keys, firmware, quotes, life-cycle (R460, R463, R464, R467, R469, R472). -/
def securityFx (s : State) (k : Session) (idx sub : Nat) (v : List Byte) : Fx :=
  match idx, sub with
  | 0x1400, 1 => licenceFx s v
  | 0x1800, 1 => lifecycleFx s k v
  | 0x1800, 2 => tokenFx s v
  | 0x1810, 1 => quoteFx s v
  | 0x1820, 4 => topologyKeyFx s v
  | 0x1880, 1 => firmwareFx s v
  | 0x1880, 3 => securityFloorFx s v
  | _, _ => .refuse s stState

/-- What a write of an object does, or the application of a staged write (R409). -/
def writeFx (s : State) (k : Session) (idx sub : Nat) (v : List Byte) : Fx :=
  if idx = 0x1020 ∧ sub = 1 then leaseFx s k v
  else if idx = 0x1020 ∧ sub = 4 then revokeFx s v
  else if idx = 0x1030 then resetFx s v
  else if idx = 0x1020 ∨ (0x6800 ≤ idx ∧ idx < 0x6900) then persistFx s idx sub v
  else if idx < 0x2000 then securityFx s k idx sub v
  else if idx < 0x2100 then powerFx s idx sub v
  else if idx < 0x2800 then clusterFloorFx s (idx - 0x2100) v
  else if idx = 0x2800 then scrubFx s v
  else if idx < 0x3000 then cacheInvalidateFx s v
  else if idx < 0x3200 then contextFx s (idx - 0x3100) sub v
  else if idx < 0x3300 then (if sub = 1 then snapshotRequestFx s v else snapshotReleaseFx s v)
  else if idx < 0x3400 then protectFx s (idx - 0x3300) v
  else if idx < 0x3500 then numsFx s sub v
  else if idx < 0x3E00 then predictorSlotsFx s (idx - 0x3D00) v
  else if idx < 0x4000 then randomFx s (idx - 0x3F00) sub v
  else if idx < 0x4400 then coreFx s (idx - 0x4000) sub v
  else if idx < 0x6000 then channelFx s (idx - 0x5000) v
  else if idx = 0x6000 then lostRankFx s v
  else if idx < 0x6400 then linkRetrainFx s (idx - 0x6010) v
  else if idx < 0x6800 then groupFx s (idx - 0x6410) sub v
  else if idx < 0x6A00 then regionFx s (idx - 0x6900) sub v
  else if idx < 0x6C00 then queuePairFx s (idx - 0x6A00) sub v
  else if idx = 0x6C00 ∧ (sub = 4 ∨ sub = 5) then keyListFx s sub v
  else if idx < 0x7000 then persistFx s idx sub v
  else if idx < 0x7200 then errorAckFx s v
  else if idx < 0x7400 then logClearFx s v
  else if idx = 0x7400 then (if sub = 1 then buddyFx s v else wardFx s v)
  else if idx = 0x7401 then scanFx s v
  else if idx < 0x7800 then checkpointFx s (idx - 0x7500) sub v
  else eventsFx s k sub v

end Sys2Proof.Machine
end

