-- ==== Sys2Proof/Machine/Koc.lean ====
section
/-! DEFINITION. KOC (R385–R396, R407–R410, R418, R422–R424): frames, sessions, requests and their answers, staged writes and segments,
events, the lease's and the persistent objects' own events. -/
namespace Sys2Proof.Machine

/-! ## Frames (R386, R387, R390, R392) -/

/-- Frame types (R387). -/
abbrev ftOpenReq : Nat := 0x01
abbrev ftOpenFinish : Nat := 0x03
abbrev ftClose : Nat := 0x05
abbrev ftRead : Nat := 0x10
abbrev ftWrite : Nat := 0x11
abbrev ftSegRead : Nat := 0x13
abbrev ftSegWrite : Nat := 0x14
abbrev ftSegData : Nat := 0x15
abbrev ftSegAck : Nat := 0x16
abbrev ftEventAck : Nat := 0x21
abbrev ftPing : Nat := 0x30

/-- The tag of a frame under a direction key (R390). -/
def kocTag (key : List Byte) (h : KocHdr) (type : Nat) (payload : List Byte) : List Byte := kocMac key type h.sid h.seq h.rid payload

end Sys2Proof.Machine

namespace Sys2Proof
open Machine

/-- Whether the header and the reserved fields of a frame are those of its type, with every fragment within R386's bounds. -/
def KocHdr.headed (h : KocHdr) (type : Nat) : Bool :=
  h.version == 1 && h.typ == type && h.reserved == 0 && h.pad == 0
    && h.frags.all fun f => decide (1 ≤ f.2.1) && decide (f.2.1 ≤ 8) && decide (f.1 < f.2.1) && decide (f.2.2 ≤ 1192)

/-- Whether a frame is one fragment with a payload of so many bytes (R386): every type but OPEN_OFFER and OPEN_FINISH fits one, and comes in one
(DEDUCED, log entry 176). -/
def KocHdr.single (h : KocHdr) (type len : Nat) : Bool := h.headed type && h.frags == [(0, 1, len)]

/-- Whether the fragments of a frame are a set: each index once under one count, with so many bytes in all (R391). -/
def KocHdr.fragSet (h : KocHdr) (len : Nat) : Bool :=
  h.frags.map (·.1) == List.range h.frags.length && h.frags.all (fun f => f.2.1 == h.frags.length) && sumN (h.frags.map (·.2.2)) == len

end Sys2Proof

namespace Sys2Proof.Machine

/-- Index, sub-index and a reserved byte, as requests begin (R387). -/
def objBytes (idx sub : Nat) : List Byte := leBytes 2 idx ++ leBytes 1 sub ++ leBytes 1 0

/-- A frame discarded and counted (R386, R392). -/
def World.kocDiscard (w : World) : World := { w with koc := { w.koc with discarded := bump 64 w.koc.discarded 1 } }

/-- A frame that reaches KOC (R372, R375, R385): its port takes it on KOC's UDP port, else the state without it. -/
def State.kocArrive (s : State) (h : KocHdr) : Except State State := s.frameIn h.port h.net s.ctl.persist.udp

/-- A frame outside a session that reaches KOC (R386): discarded and counted where it carries a session id, a sequence number or a tag, or its
header is not that of its type. It starts a sleeping management core (R431). -/
def State.kocOutside (s : State) (h : KocHdr) (sound : Bool) : Except State State :=
  match s.kocArrive h with
  | .error t => .error t
  | .ok s =>
    if h.sid ≠ 0 ∨ h.seq ≠ 0 ∨ h.tag ≠ [] ∨ sound = false then .error (s.withW s.w.kocDiscard)
    else .ok (s.withW { s.w with koc := { s.w.koc with asleep := [] } })

/-- The session of a frame: by its id, on the side-band or on either host port as the session was opened (DEDUCED, log entry 52). -/
def State.sessionOf (s : State) (h : KocHdr) : Option Session :=
  s.w.koc.sessions.find? fun k => k.sid == h.sid && (k.port == .side) == (h.port == .side)

/-- Whether a sequence number is accepted (R392): from 1 on, above the highest, or within 1,024 below it and new. -/
def Session.accepts (k : Session) (seq : Nat) : Bool :=
  seq != 0 && (decide (k.rxHigh < seq) || (decide (k.rxHigh ≤ seq + 1024) && !decide (seq ∈ k.rxSeen)))

/-- A session after an accepted frame; on the session's own port, its address is where the part's own frames go from then on (DEDUCED, log entry 52). -/
def Session.heard (k : Session) (h : KocHdr) : Session :=
  let high := max k.rxHigh h.seq
  { k with
    rxHigh := high, rxSeen := (h.seq :: k.rxSeen).filter (fun x => decide (high ≤ x + 1024)), rx := k.rx + 1
    addr := if h.port = k.port then h.src else k.addr }

/-- Whether a session has used up its frames (R396). -/
def Session.spent (k : Session) : Bool := decide (2 ^ 32 ≤ k.rx) || decide (2 ^ 32 ≤ k.tx)

/-- A frame of a session as it arrives: the state and the session after an intact one, or the state that a lost, unknown, repeated or
damaged frame leaves. An intact frame starts a sleeping management core (R431). -/
def State.kocFrame (s : State) (h : KocHdr) (type : Nat) (payload : List Byte) : Except State (State × Session) :=
  match s.kocArrive h with
  | .error t => .error t
  | .ok s =>
    match s.sessionOf h with
    | none => .error (s.withW s.w.kocDiscard)
    | some k =>
      if h.sid = 0 ∨ 1028 < payload.length ∨ h.single type payload.length = false ∨ h.tag ≠ kocTag k.keyIn h type payload ∨ k.accepts h.seq = false then
        .error (s.withW s.w.kocDiscard)
      else if k.spent then .error (s.withW (s.w.closeSession k.sid (some stState)))
      else
        let w := s.w.setSession k.sid fun x => x.heard h
        .ok (s.withW { w with koc := { w.koc with asleep := [] } }, k.heard h)

/-! ## Rates (R388, R397) -/

/-- Cycles of the reference in a second. -/
abbrev secTicks : Nat := 100000000
/-- The times of a table's list that lie within the last second. -/
def recent (t : Tab (List Nat)) (key now : Nat) : List Nat := (Tab.get [] t key).filter fun x => decide (now < x + secTicks)

/-- Number of a port. -/
def portNo (p : KocPort) : Nat := (kocPortNo p).getD 2

/-- A request counted at its port: the state, and whether it is within 20,000 a second (R397). -/
def State.countRequest (s : State) (p : KocPort) : State × Bool :=
  let l := recent s.w.koc.reqs (portNo p) s.ctl.clock
  if l.length < 20000 then (s.withW { s.w with koc := { s.w.koc with reqs := s.w.koc.reqs.set (portNo p) (l ++ [s.ctl.clock]) } }, true)
  else (s, false)

/-- A READ outside a session counted at its source: at most 100 a second (R388). -/
def State.countRead (s : State) (src : Nat) : State × Bool :=
  let l := recent s.w.koc.reads src s.ctl.clock
  if l.length < 100 then (s.withW { s.w with koc := { s.w.koc with reads := s.w.koc.reads.set src (l ++ [s.ctl.clock]) } }, true)
  else (s, false)

/-! ## Requests (R393, R418) -/

/-- An answer to a request, sent and kept. -/
def State.answer (s : State) (h : KocHdr) (a : Answer) : State := s.withW (s.w.reply h.port h.src h.sid a)

/-- Frames sent in a session to where a frame came from, each with its request id. -/
def State.transmit (s : State) (h : KocHdr) (l : List (Nat × KocBody)) : State := s.withW (s.w.send h.port h.src h.sid l)

/-- How a refusal of a request travels: as a SEG_ACK for a segment, else as a REPLY (R394). -/
def refusalKind (type : Nat) : AnsKind := if type = ftSegRead ∨ type = ftSegWrite then .segAck 0 else .reply

/-- A request of a session (R393): a repeat gets the answer that is kept, or nothing while it is in progress, when it was answered longer ago, or when it
is too old; a new one runs, unless the port has too many (R397). -/
def State.request (s : State) (h : KocHdr) (type : Nat) (payload : List Byte) (run : State → Session → State) : Out :=
  match s.kocFrame h type payload with
  | .error t => .next t
  | .ok (s, k) =>
    match k.answers.find? fun a => a.rid == h.rid with
    | some a => .next (s.transmit h a.bodies)
    | none =>
      if h.rid ∈ k.busy ∨ h.rid ∈ k.given ∨ h.rid + 64 < k.highRid then .next s
      else
        let x := (s.withW (s.w.setSession h.sid fun k => { k with highRid := max k.highRid h.rid })).countRequest h.port
        if x.2 then .next (run x.1 { k with highRid := max k.highRid h.rid })
        else .next (x.1.answer h { rid := h.rid, status := stBusy, value := [], kind := refusalKind type })

/-- An access run: answered at once, or when the action that it started has ended (R285, R317, R467). -/
def Fx.finish (f : Fx) (h : KocHdr) : State :=
  match f.wait with
  | some what =>
    let w := f.s.w.setSession h.sid fun k => { k with busy := k.busy ++ [h.rid] }
    f.s.withW { w with waiters := w.waiters ++ [{ port := h.port, src := h.src, sid := h.sid, rid := h.rid, what }] }
  | none => f.post (f.s.answer h { rid := h.rid, status := f.st, value := f.value })

/-- A WRITE of a value to an object (R405, R414): rights, then the size, then the object's own rules. -/
def State.writeValue (s : State) (k : Session) (idx sub : Nat) (v : List Byte) (eff : State → Session → Fx) : Fx :=
  match s.rights k idx sub true, objAt idx sub with
  | some st, _ => .refuse s st
  | none, some d => if d.ty.valueOk v then eff s k else .refuse s stState
  | none, none => .refuse s stState

/-- A WRITE request. -/
def State.writeRequest (s : State) (h : KocHdr) (idx sub : Nat) (v : List Byte) (eff : State → Session → Fx) : Out :=
  s.request h ftWrite (objBytes idx sub ++ v) fun s k => (s.writeValue k idx sub v eff).finish h

/-! ## Staged writes (R407, R409) -/

/-- What a context record answers in a state of its context other than SAVED (R298). -/
def State.recordRefusal (s : State) (idx sub : Nat) : Option Nat :=
  if 0x3100 ≤ idx ∧ idx < 0x3200 ∧ sub = 12 then
    match (s.ent (idx - 0x3100)).st with
    | .absent => some stState
    | .saved => none
    | _ => some stBusy
  else none

/-- The first refusal of the opening of a staged write of so many bytes. -/
def State.openRefusal (s : State) (k : Session) (idx sub len : Nat) : Option Nat :=
  match s.rights k idx sub true, objAt idx sub with
  | some st, _ => some st
  | none, none => some stState
  | none, some d =>
    match d.ty with
    | .domain exact size =>
      if (s.recordRefusal idx sub).isSome then s.recordRefusal idx sub else
      firstRefusal
        [ ((exact && len != size) || decide (size < len), stState),
          (s.w.koc.sessions.any fun x => x.staged.any fun y => y.idx == idx && y.sub == sub, stBusy),
          (decide (4 ≤ k.staged.length), stBusy) ]
    | _ => some stState

/-- A DOMAIN value that arrives whole: opening, segments and application as one (DESIGN CHOICE, log entry 53). -/
def State.domainRequest (s : State) (h : KocHdr) (idx sub len : Nat) (eff : State → Session → Fx) : Out :=
  s.request h ftWrite (objBytes idx sub ++ leBytes 8 len) fun s k =>
    match s.openRefusal k idx sub len with
    | some st => (Fx.refuse s st).finish h
    | none => (eff s k).finish h

/-- The opening of a staged write; with length 0 the empty value is applied at once. -/
def State.openStaged (s : State) (k : Session) (idx sub : Nat) (v : List Byte) : Fx :=
  let len := leNat v
  if v.length ≠ 8 then .refuse s ((s.rights k idx sub true).getD stState)
  else
    match s.openRefusal k idx sub len with
    | some st => .refuse s st
    | none =>
      if len = 0 then writeFx s k idx sub []
      else .world s (s.w.setSession k.sid fun x => { x with staged := x.staged ++ [{ idx, sub, len }] })

/-- Whether an object is a DOMAIN. -/
def isDomain (idx sub : Nat) : Bool :=
  match objAt idx sub with
  | some d => (match d.ty with | .domain _ _ => true | _ => false)
  | none => false

/-- A WRITE frame to any object: a value, or for a DOMAIN the opening of a staged write (R405). -/
def State.writeAny (s : State) (h : KocHdr) (idx sub : Nat) (v : List Byte) : Out :=
  s.request h ftWrite (objBytes idx sub ++ v) fun s k =>
    if isDomain idx sub then (s.openStaged k idx sub v).finish h else (s.writeValue k idx sub v fun s k => writeFx s k idx sub v).finish h

/-- WRITE. -/
def execWrite (h : KocHdr) (idx sub : Nat) (v : List Byte) (s : State) : Out := s.writeAny h idx sub v
/-- DOMAIN_WRITE_OPEN. -/
def execDomainWriteOpen (h : KocHdr) (idx sub : Nat) (v : List Byte) (s : State) : Out := s.writeAny h idx sub v

/-! ## READ (R388, R406, R410) -/

/-- A READ in a session. -/
def State.readValue (s : State) (k : Session) (idx sub : Nat) : Fx :=
  match s.rights k idx sub false with
  | some st => .refuse s st
  | none => readFx s (some k) idx sub

/-- A frame without a tag that answers one outside a session: it echoes the request id (R386). -/
def World.say (w : World) (h : KocHdr) (sid : Nat) (b : KocBody) : World := { w with outbox := w.outbox ++ [.koc h.port h.src sid 0 h.rid [] b] }

/-- A READ outside a session (R388): identity, status and capability, without a tag; beyond its port's rate `ST_BUSY` (R397). -/
def State.readOutside (s : State) (h : KocHdr) (idx sub : Nat) : Out :=
  match s.kocOutside h (h.single ftRead 4) with
  | .error t => .next t
  | .ok s =>
    let x := s.countRead h.src
    if x.2 = false then .next x.1
    else
      let y := x.1.countRequest h.port
      let f := if y.2 = false then .refuse y.1 stBusy
        else if idxIdentity idx && (objAt idx sub).isSome then readFx y.1 none idx sub else .refuse y.1 stState
      .next (f.s.withW (f.s.w.say h 0 (.reply f.st f.value)))

/-- READ. -/
def execRead (h : KocHdr) (idx sub : Nat) (s : State) : Out :=
  if h.sid = 0 then s.readOutside h idx sub
  else s.request h ftRead (objBytes idx sub) fun s k => (s.readValue k idx sub).finish h

/-- PMX_KNOWN_ANSWER (R254): a READ of 0x3E00:05. -/
def execPmxKnownAnswer (h : KocHdr) (s : State) : Out :=
  s.request h ftRead (objBytes 0x3E00 5) fun s k => (s.readValue k 0x3E00 5).finish h

/-! ## Segments (R394, R408, R410) -/

/-- The frames that a segment of so many bytes takes, as a bitmap with every bit set. -/
def fullMap (len : Nat) : Nat := 2 ^ cdiv len 1024 - 1

/-- Transfers a session may have in progress (R408). -/
abbrev segLimit : Nat := 8

/-- A segment read at one instant: its bytes, or the status of the refusal. -/
def State.segment (s : State) (k : Session) (idx sub seg : Nat) : Except Nat (List Byte) :=
  match s.rights k idx sub false with
  | some st => .error st
  | none =>
    match s.readObj (some k) idx sub with
    | .dom len range => if 65536 * seg < len then .ok (range (65536 * seg) (min 65536 (len - 65536 * seg))) else .error stState
    | .refuse st => .error st
    | .bytes _ => .error stState

/-- Where in HBM bytes of a DOMAIN stand (R56, R242, R255, R298): byte ranges. -/
def State.domainSpans (s : State) (idx sub off len : Nat) : List (Nat × Nat) :=
  let n := idx % 256
  if 0x3100 ≤ idx ∧ idx < 0x3200 ∧ sub = 12 then [(slotBase n + off, len)]
  else if 0x3500 ≤ idx ∧ idx < 0x3600 then [(statBase n 0 + off, len)]
  else if 0x3D00 ≤ idx ∧ idx < 0x3E00 then [(predBase n 0 + off, len)]
  else if 0x3F00 ≤ idx ∧ idx < 0x4000 ∧ sub = 5 ∧ (s.ent n).onCores = false then
    (List.range (s.ent n).cores).filterMap fun j =>
      let lo := max off (4872 * j)
      let hi := min (off + len) (4872 * j + 4872)
      if lo < hi then some (coreImageBase n j + 8192 + (lo - 4872 * j), hi - lo) else none
  else []

/-- The 64-byte blocks of byte ranges, as one range each: first byte, bytes. -/
def blockSpan (x : Nat × Nat) : Nat × Nat := (x.1 / 64 * 64, alignUp (x.1 % 64 + x.2) 64)

/-- What reading bytes of a DOMAIN does to HBM (R326, R333); poisoned bytes are answered as they stand, KOC having no tag for them (DESIGN CHOICE, log
entry 150). -/
def State.domainRead (s : State) (idx sub off len : Nat) : State :=
  s.withW ((s.domainSpans idx sub off len).foldl (fun w x => w.readRange none (blockSpan x).1 (blockSpan x).2) s.w)

/-- Blocks of HBM under bytes of a DOMAIN whose read fails on the bus (R330). -/
def State.domainBus (s : State) (idx sub off len : Nat) : List Nat :=
  (s.domainSpans idx sub off len).flatMap fun x => s.w.busRange (blockSpan x).1 (blockSpan x).2

/-- SEG_READ: the segment's frames go out, or a SEG_ACK with the status. A ninth transfer answers `ST_BUSY` (DESIGN CHOICE, log entry 54). -/
def execSegRead (h : KocHdr) (idx sub seg : Nat) (s : State) : Out :=
  s.request h ftSegRead (objBytes idx sub ++ leBytes 4 seg) fun s k =>
    let fail (s : State) (st : Nat) : State := s.answer h { rid := h.rid, status := st, value := [], kind := .segAck 0 }
    match s.segment k idx sub seg with
    | .error st => fail s st
    | .ok v =>
      let bus := s.domainBus idx sub (65536 * seg) v.length
      if segLimit ≤ k.segs.length then fail s stBusy
      else if bus.isEmpty = false then fail (s.withW (s.w.meetBus none bus)) stBusError
      else
        let s := s.domainRead idx sub (65536 * seg) v.length
        let x : SegXfer := { rid := h.rid, idx, sub, seg, len := v.length, out := true, frames := segFrames v }
        (s.withW (s.w.setSession h.sid fun k => { k with segs := k.segs ++ [x] })).answer h
          { rid := h.rid, status := stOk, value := v, kind := .segData }

/-- SEG_WRITE: a segment of an open staged write announced, by R408's numbers and lengths. Without one, the refusal of the object comes first (R4, R414). -/
def execSegWrite (h : KocHdr) (idx sub seg len : Nat) (s : State) : Out :=
  s.request h ftSegWrite (objBytes idx sub ++ leBytes 4 seg ++ leBytes 4 len) fun s k =>
    let fail (st : Nat) : State := s.answer h { rid := h.rid, status := st, value := [], kind := .segAck 0 }
    match k.staged.find? fun x => x.idx == idx && x.sub == sub with
    | none => fail ((s.rights k idx sub true).getD stState)
    | some x =>
      if x.len ≤ 65536 * seg ∨ len ≠ min 65536 (x.len - 65536 * seg) then fail stState
      else if segLimit ≤ k.segs.length then fail stBusy
      else
        let t : SegXfer := { rid := h.rid, idx, sub, seg, len, out := false }
        s.withW (s.w.setSession h.sid fun k => { k with segs := k.segs ++ [t], busy := k.busy ++ [h.rid] })

/-- Bitmap of the frames held. -/
def SegXfer.bitmap (x : SegXfer) : Nat := sumN (x.frames.map fun f => 2 ^ f.1)
/-- The bytes of a complete segment. -/
def SegXfer.bytes (x : SegXfer) : List Byte := x.frames.flatMap (·.2)
/-- Whether a frame has the number and the length that its place in the segment gives. -/
def SegXfer.fits (x : SegXfer) (frame : Nat) (data : List Byte) : Bool :=
  decide (1024 * frame < x.len) && data.length == min 1024 (x.len - 1024 * frame)

/-- Whether every byte of a staged write has arrived (R409). -/
def Staged.complete (x : Staged) : Bool := x.segs.length == cdiv x.len 65536

/-- A complete segment put into its staged write; with the last byte the whole value is applied under rights checked again. -/
def State.landSegment (s : State) (h : KocHdr) (k : Session) (t : SegXfer) : State :=
  let ack (s : State) (st : Nat) : State := s.answer h { rid := h.rid, status := st, value := [], kind := .segAck (fullMap t.len) }
  match k.staged.find? fun x => x.idx == t.idx && x.sub == t.sub with
  | none => ack s stState
  | some x =>
    let x := { x with segs := x.segs.set t.seg t.bytes }
    let rest := k.staged.filter fun y => !(y.idx == t.idx && y.sub == t.sub)
    if x.complete then
      let s := s.withW (s.w.setSession k.sid fun k => { k with staged := rest })
      match s.rights k t.idx t.sub true with
      | some st => ack s st
      | none => let f := writeFx s k t.idx t.sub (x.segs.flatMap (·.2)); f.post (ack f.s f.st)
    else ack (s.withW (s.w.setSession k.sid fun k => { k with staged := rest ++ [x] })) stOk

/-- SEG_DATA. The part answers a complete segment, and the last frame of an incomplete one with the bitmap of what it holds (log
entry 54). -/
def execSegData (h : KocHdr) (frame : Nat) (data : List Byte) (s : State) : Out :=
  match s.kocFrame h ftSegData (leBytes 2 frame ++ leBytes 2 data.length ++ data) with
  | .error t => .next t
  | .ok (s, k) =>
    match k.segs.find? fun x => x.rid == h.rid && !x.out with
    | none => .next s
    | some t =>
      if t.fits frame data = false then .next (s.withW s.w.kocDiscard)
      else
        let t := { t with frames := Tab.set t.frames frame data }
        let others := k.segs.filter fun x => !(x.rid == h.rid && !x.out)
        if t.bitmap = fullMap t.len then
          .next ((s.withW (s.w.setSession h.sid fun k => { k with segs := others })).landSegment h k t)
        else
          let s := s.withW (s.w.setSession h.sid fun k => { k with segs := others ++ [t] })
          .next (if frame + 1 = cdiv t.len 1024 then s.transmit h [(h.rid, .segAck t.bitmap stOk)] else s)

/-- SEG_ACK: the frames that the master lacks go out again; with all of them held the transfer ends. -/
def execSegAck (h : KocHdr) (bitmap status : Nat) (s : State) : Out :=
  match s.kocFrame h ftSegAck (leBytes 8 bitmap ++ leBytes 2 status) with
  | .error t => .next t
  | .ok (s, k) =>
    match k.segs.find? fun x => x.rid == h.rid && x.out with
    | none => .next s
    | some t =>
      match t.frames.filter fun f => !bit bitmap f.1 with
      | [] => .next (s.withW (s.w.setSession h.sid fun k => { k with segs := k.segs.filter fun x => !(x.rid == h.rid && x.out) }))
      | lacking => .next (s.transmit h (lacking.map fun f => (h.rid, .segData f.1 f.2)))

/-- SEGMENT_TIMEOUT: a transfer left incomplete for 100 ms is discarded. -/
def execSegmentTimeout (sid rid : Nat) (s : State) : Out :=
  .next (s.withW (s.w.setSession sid fun k =>
    if k.segs.any fun x => x.rid == rid then { k with segs := k.segs.filter (fun x => x.rid != rid), busy := k.busy.filter (· != rid) } else k))

/-- STAGED_WRITE_TIMEOUT: a staged write without a segment for 1 s is discarded, its transfers with it. -/
def execStagedWriteTimeout (sid idx sub : Nat) (s : State) : Out :=
  .next (s.withW (s.w.setSession sid fun k =>
    let gone := (k.segs.filter fun x => !x.out && x.idx == idx && x.sub == sub).map (·.rid)
    { k with
      staged := k.staged.filter fun x => !(x.idx == idx && x.sub == sub)
      segs := k.segs.filter fun x => x.out || x.idx != idx || x.sub != sub
      busy := k.busy.filter fun r => !decide (r ∈ gone) }))

/-! ## Openings (R389–R391) -/

/-- A session id that no session or opening has, from a free number on. -/
def State.newSid (s : State) (f : Nat) : Nat :=
  let used := s.w.koc.sessions.map (·.sid) ++ s.w.koc.openings.map (·.sid)
  let base := Config.freeNat f
  (((List.range (used.length + 1)).map fun i => 1 + (base + i) % (2 ^ 32 - 1)).find? fun x => !decide (x ∈ used)).getD 1

/-- The first refusal of an opening, in the order of R412 and R391: life-cycle state, key hash, sessions open. -/
def State.sessionRefusal (s : State) (p : KocPort) (hash : List Byte) : Option Nat :=
  let side := p == .side
  let n := (s.w.koc.sessions.filter fun k => (k.port == .side) == side).length
  firstRefusal
    [ (s.otp.life == .scrapped || (!side && (s.otp.life == .blank || s.otp.life == .returned)), stState),
      (!s.authorised p hash, stFaultPerm), (decide ((if side then 4 else 32) ≤ n), stBusy) ]

/-- An opening refused and counted (R391). Without keys its OPEN_DONE has no tag, so it carries session id 0 (R386; DESIGN CHOICE, log entry 177). -/
def World.refuseOpening (w : World) (h : KocHdr) (st : Nat) : World :=
  { w with koc := { w.koc with refused := bump 32 w.koc.refused 1 } }.say h 0 (.openDone st)

/-- The first refusal of an OPEN_REQ. -/
def State.offerRefusal (s : State) (p : KocPort) (hash : List Byte) : Option Nat :=
  match s.sessionRefusal p hash with
  | some st => some st
  | none =>
    if 4 ≤ (s.w.koc.openings.filter fun o => o.port == p).length then some stBusy else s.sigRefusal (p == .side)

/-- The offer to a master (R387, R389): an ephemeral key, the session id, the part's identity, a signature of the attestation key. -/
def State.makeOffer (s : State) (h : KocHdr) (nonce hash : List Byte) : State :=
  let f := s.w.free
  let partNonce := (List.range 32).map fun i => Config.freeByte (f + i)
  let seed := (List.range 64).map fun i => Config.freeByte (f + 32 + i)
  let sid := s.newSid (f + 96)
  let encap := Config.mlkemEncapKey seed
  let req := nonce ++ hash
  let body := partNonce ++ leBytes 4 sid ++ leBytes 8 s.otp.identity ++ encap
  let s := (s.withW { s.w with free := f + 97 }).takeToken
  let x := s.sign (Config.shake256 (req ++ body) 64)
  let o : Opening := { sid, port := h.port, keyHash := hash, decapKey := Config.mlkemDecapKey seed, transcript := req ++ body ++ x.2.2 }
  x.1.withW ({ x.1.w with koc := { x.1.w.koc with openings := x.1.w.koc.openings ++ [o] } }.say h 0 (.offer partNonce sid s.otp.identity encap x.2.2))

/-- OPEN_REQ. Before the firmware's verification has ended, the side-band port refuses an opening and takes no other frame (R391, R445; DESIGN
CHOICE, log entry 174). -/
def execOpenReq (h : KocHdr) (nonce keyHash : List Byte) (s : State) : Out :=
  let sound := h.single ftOpenReq 64 && nonce.length == 32 && keyHash.length == 32
  if h.port = .side ∧ s.ctl.pins.pgAon = true ∧ s.ctl.booted = false then
    if s.addressed .side h.net && h.net.udp == s.ctl.persist.udp && sound && h.sid == 0 && h.seq == 0 && h.tag == [] then
      .next (s.withW (s.w.refuseOpening h stState))
    else .next s
  else
    match s.kocOutside h sound with
    | .error t => .next t
    | .ok s =>
      match s.offerRefusal h.port keyHash with
      | some st => .next (s.withW (s.w.refuseOpening h st))
      | none => .next (s.makeOffer h nonce keyHash)

/-- The session of a finished opening (R389, R390), with the keys of both directions. -/
def Opening.session (o : Opening) (src : Nat) (secret finish : List Byte) : Session :=
  let key := Config.kmac256 secret (Config.shake256 (o.transcript ++ finish) 64) 64 "KOC session keys"
  { sid := o.sid, port := o.port, addr := src, keyHash := o.keyHash, keyIn := sl key 0 32, keyOut := sl key 32 32 }

/-- What an OPEN_FINISH gives: a session, or the status that ends the opening. -/
def State.finishOpening (s : State) (o : Opening) (h : KocHdr) (cipher sig : List Byte) : Except Nat Session :=
  match s.sessionRefusal o.port o.keyHash with
  | some st => .error st
  | none =>
    if h.fragSet (4 + cipher.length + sig.length) = false ∨ cipher.length ≠ 1568 ∨ sig.length ≠ 2820
        ∨ Config.masterVerify o.keyHash (Config.shake256 (o.transcript ++ cipher) 64) sig = false then .error stDigestMismatch
    else
      match Config.mlkemDecap o.decapKey cipher with
      | none => .error stDigestMismatch
      | some secret => .ok (o.session h.src secret (leBytes 4 o.sid ++ cipher ++ sig))

/-- OPEN_FINISH: signature verified, secret decapsulated, the session open and OPEN_DONE sent with its tag and sequence number 0 (R389). One for no
opening in progress is not answered. -/
def execOpenFinish (h : KocHdr) (sid : Nat) (cipher sig : List Byte) (s : State) : Out :=
  match s.kocOutside h (h.headed ftOpenFinish) with
  | .error t => .next t
  | .ok s =>
    match s.w.koc.openings.find? fun o => o.sid == sid && o.port == h.port with
    | none => .next s
    | some o =>
      let w := { s.w with koc := { s.w.koc with openings := s.w.koc.openings.filter fun x => x.sid != sid } }
      match s.finishOpening o h cipher sig with
      | .error st => .next (s.withW (w.refuseOpening h st))
      | .ok k =>
        .next (s.withW { w with koc := { w.koc with sessions := w.koc.sessions ++ [k] }, outbox := w.outbox ++ [k.frame h.port h.src 0 h.rid (.openDone stOk)] })

/-- OPEN_TIMEOUT: the part forgets the opening; nothing is sent. -/
def execOpenTimeout (p : KocPort) (sid : Nat) (s : State) : Out :=
  .next (s.withW { s.w with koc := { s.w.koc with openings := s.w.koc.openings.filter fun o => !(o.sid == sid && o.port == p) } })

/-! ## The end of a session (R396) -/

/-- CLOSE. -/
def execClose (h : KocHdr) (reason : Nat) (s : State) : Out :=
  match s.kocFrame h ftClose (leBytes 2 reason) with
  | .error t => .next t
  | .ok (s, k) => .next (s.withW (s.w.closeSession k.sid none))

/-- SESSION_IDLE_TIMEOUT: 60 s without an intact frame. -/
def execSessionIdleTimeout (sid : Nat) (s : State) : Out := .next (s.withW (s.w.closeSession sid none))
/-- SESSION_LIFETIME_EXPIRY: 24 hours or 2^32 frames. -/
def execSessionLifetimeExpiry (sid : Nat) (s : State) : Out := .next (s.withW (s.w.closeSession sid (some stState)))

/-- PING. -/
def execPing (h : KocHdr) (s : State) : Out :=
  match s.kocFrame h ftPing [] with
  | .error t => .next t
  | .ok (s, _) => .next (s.transmit h [(h.rid, .pong)])

/-! ## Events of a session (R395, R423) -/

/-- The frame of a queued event: its request id is 0 (R386). -/
def QueuedEvent.body (q : QueuedEvent) : Nat × KocBody := (0, .event q.seq q.ev)

/-- The events of a queue that may go out for the first time while fewer than 16 are unacknowledged: marked as sent, with them. -/
def sendEvents : Nat → List QueuedEvent → List QueuedEvent × List QueuedEvent
  | _, [] => ([], [])
  | 0, l => (l, [])
  | n + 1, q :: l =>
    if q.tries = 0 then let x := sendEvents n l; ({ q with tries := 1 } :: x.1, { q with tries := 1 } :: x.2)
    else let x := sendEvents (n + 1) l; (q :: x.1, x.2)

/-- A session that sends the queued events that it may, after those that go out again: the session, the frames. -/
def Session.pump (k : Session) (again : List QueuedEvent) : Session × List OutMsg :=
  let x := sendEvents (16 - k.unacked) k.events
  let l := (again ++ x.2).map QueuedEvent.body
  ({ k with events := x.1, tx := k.tx + l.length }, k.frames k.port k.addr l)

/-- A session changed, and what it then sends. -/
def World.pumped (w : World) (sid : Nat) (f : Session → Session × List OutMsg) : World :=
  match w.session sid with
  | none => w
  | some k => let x := f k; { w.setSession sid fun _ => x.1 with outbox := w.outbox ++ x.2 }

/-- EVENT_ACK: the event leaves the queue, and others may go. -/
def execEventAck (h : KocHdr) (seq : Nat) (s : State) : Out :=
  match s.kocFrame h ftEventAck (leBytes 4 seq) with
  | .error t => .next t
  | .ok (s, k) => .next (s.withW (s.w.pumped k.sid fun k => ({ k with events := k.events.filter fun q => q.seq != seq } : Session).pump []))

/-- How often an event is sent at most: once, and again 8 times (R395). -/
abbrev eventTries : Nat := 9

/-- EVENT_RESEND_TIMER: every 2 ms each unacknowledged event goes out again; after its last attempt it is dropped and counted. -/
def execEventResendTimer (sid : Nat) (s : State) : Out :=
  match s.w.session sid with
  | none => .next s
  | some k =>
    let lost := (k.events.filter fun q => decide (eventTries ≤ q.tries)).length
    let again := k.events.filter fun q => decide (1 ≤ q.tries) && decide (q.tries < eventTries)
    let w := s.w.pumped sid fun k =>
      let kept := (k.events.filter fun q => decide (q.tries < eventTries)).map fun q => if q.tries = 0 then q else { q with tries := q.tries + 1 }
      ({ k with events := kept } : Session).pump again
    .next (s.withW { w with koc := { w.koc with evDropped := bump 64 w.koc.evDropped lost } })

/-! ## Lease, reset, persistent objects -/

/-- LEASE_REQUEST (R416). -/
def execLeaseRequest (h : KocHdr) (v : List Byte) (s : State) : Out := s.writeRequest h 0x1020 1 v fun s k => leaseFx s k v
/-- LEASE_REVOKE (R417). -/
def execLeaseRevoke (h : KocHdr) (v : List Byte) (s : State) : Out := s.writeRequest h 0x1020 4 v fun s _ => revokeFx s v
/-- LEASE_EXPIRY (R417): once the term has run out. -/
def execLeaseExpiry (s : State) : Out := if s.w.lease.holder ≠ 0 ∧ s.leaseLeft = 0 then .next (s.withW (s.w.endLease 1)) else .next s
/-- RESET_WRITE (R429). -/
def execResetWrite (h : KocHdr) (v : List Byte) (s : State) : Out := s.writeRequest h 0x1030 1 v fun s _ => resetFx s v
/-- KOC_KEY_LIST_WRITE (R402): 0x6C00:04 or :05. -/
def execKocKeyListWrite (h : KocHdr) (sub : Nat) (v : List Byte) (s : State) : Out :=
  s.domainRequest h 0x6C00 sub v.length fun s _ => keyListFx s sub v

/-- PERSISTENT_FLUSH (R424): the oldest write not yet in flash reaches it. -/
def execPersistentFlush (s : State) : Out :=
  match s.ctl.persistQ with
  | [] => .next s
  | p :: rest => .next { s with flash := { s.flash with persist := p }, ctl := { s.ctl with persistQ := rest } }

end Sys2Proof.Machine
end

