-- ==== Sys2Proof/Machine/Objects.lean ====
section
/-! DEFINITION. The object writes that have a row of their own: each is a WRITE of its object, or for a DOMAIN its whole staged write
(DESIGN CHOICE, log entry 53). -/
namespace Sys2Proof.Machine

/-- CACHE_INVALIDATE_ALL (R119). -/
def execCacheInvalidateAll (h : KocHdr) (v : List Byte) (s : State) : Out := s.writeRequest h 0x2810 5 v fun s _ => cacheInvalidateFx s v
/-- CORE_RESUME (R88, R98). -/
def execCoreResume (h : KocHdr) (c : CoreId) (v : List Byte) (s : State) : Out := s.writeRequest h (0x4000 + c) 2 v fun s _ => coreResumeFx s c v
/-- WINDOW_OPEN (R121–R123). -/
def execWindowOpen (h : KocHdr) (c : CoreId) (w : WinId) (s : State) : Out :=
  s.writeRequest h (0x4000 + c) (0x10 + 8 * w) (leBytes 1 1) fun s _ => windowOpenFx s c w
/-- WINDOW_CLOSE (R121–R123). -/
def execWindowClose (h : KocHdr) (c : CoreId) (w : WinId) (s : State) : Out :=
  s.writeRequest h (0x4000 + c) (0x10 + 8 * w) (leBytes 1 2) fun s _ => windowCloseFx s c w
/-- DIRTY_MAP_CLEAR (R214, R419). -/
def execDirtyMapClear (h : KocHdr) (c : CoreId) (v : List Byte) (s : State) : Out := s.writeRequest h (0x4000 + c) 14 v fun s _ => dirtyClearFx s c v
/-- PREDICTOR_SLOTS_WRITE (R242). -/
def execPredictorSlotsWrite (h : KocHdr) (n : CtxId) (v : List Byte) (s : State) : Out :=
  s.domainRequest h (0x3D00 + n) 1 v.length fun s _ => predictorSlotsFx s n v
/-- SEED_WRITE (R248, R255). -/
def execSeedWrite (h : KocHdr) (n : CtxId) (v : List Byte) (s : State) : Out := s.writeRequest h (0x3F00 + n) 1 v fun s _ => seedFx s n v
/-- RESEED (R248, R255). -/
def execReseed (h : KocHdr) (n : CtxId) (v : List Byte) (s : State) : Out := s.writeRequest h (0x3F00 + n) 4 v fun s _ => reseedFx s n v
/-- SNAPSHOT_REQUEST (R267). -/
def execSnapshotRequest (h : KocHdr) (v : List Byte) (s : State) : Out := s.writeRequest h 0x3200 1 v fun s _ => snapshotRequestFx s v
/-- SNAPSHOT_RELEASE (R272). -/
def execSnapshotRelease (h : KocHdr) (v : List Byte) (s : State) : Out := s.writeRequest h 0x3200 3 v fun s _ => snapshotReleaseFx s v
/-- CONTEXT_CREATE (R285). -/
def execContextCreate (h : KocHdr) (n : CtxId) (s : State) : Out := s.writeRequest h (0x3100 + n) 1 (leBytes 1 1) fun s _ => createFx s n
/-- CONTEXT_RESUME (R285, R295). -/
def execContextResume (h : KocHdr) (n : CtxId) (s : State) : Out := s.writeRequest h (0x3100 + n) 1 (leBytes 1 2) fun s _ => resumeFx s n
/-- CONTEXT_PREEMPT (R285, R291). -/
def execContextPreempt (h : KocHdr) (n : CtxId) (s : State) : Out := s.writeRequest h (0x3100 + n) 1 (leBytes 1 3) fun s _ => preemptFx s n
/-- CONTEXT_DESTROY (R285). -/
def execContextDestroy (h : KocHdr) (n : CtxId) (s : State) : Out :=
  s.writeRequest h (0x3100 + n) 1 (leBytes 1 4) fun s _ => destroyFx s n ckptDestroy
/-- DOORBELL (R286). -/
def execDoorbell (h : KocHdr) (n : CtxId) (v : List Byte) (s : State) : Out := s.writeRequest h (0x3100 + n) 4 v fun s _ => doorbellFx s n v
/-- TLB_INVALIDATE_REQUEST (R281). -/
def execTlbInvalidateRequest (h : KocHdr) (n : CtxId) (v : List Byte) (s : State) : Out :=
  s.writeRequest h (0x3100 + n) 10 v fun s _ => invalidateFx s n v
/-- CONTEXT_IMPORT (R298). -/
def execContextImport (h : KocHdr) (n : CtxId) (image : List (Nat × Byte)) (s : State) : Out :=
  s.domainRequest h (0x3100 + n) 12 536870912 fun s _ => importFx s n image
/-- DMA_CTRL_RESUME (R301, R317). -/
def execDmaCtrlResume (h : KocHdr) (d : ChanId) (s : State) : Out :=
  s.writeRequest h (0x5000 + d) 2 (leBytes 1 1) fun s _ => chanFx s d fun w _ => w.chanResume
/-- DMA_CTRL_PAUSE (R301, R317). -/
def execDmaCtrlPause (h : KocHdr) (d : ChanId) (s : State) : Out :=
  s.writeRequest h (0x5000 + d) 2 (leBytes 1 2) fun s _ => chanFx s d fun w _ => w.chanPause
/-- DMA_CTRL_SKIP (R301, R317). -/
def execDmaCtrlSkip (h : KocHdr) (d : ChanId) (s : State) : Out :=
  s.writeRequest h (0x5000 + d) 2 (leBytes 1 3) fun s _ => chanFx s d World.chanSkip
/-- DMA_CTRL_ABORT (R301, R317). -/
def execDmaCtrlAbort (h : KocHdr) (d : ChanId) (s : State) : Out :=
  s.writeRequest h (0x5000 + d) 2 (leBytes 1 4) fun s _ => chanFx s d World.chanAbort
/-- LINK_RETRAIN (R335, R367). -/
def execLinkRetrain (h : KocHdr) (l : LinkId) (v : List Byte) (s : State) : Out := s.writeRequest h (0x6010 + l) 2 v fun s _ => linkRetrainFx s l v
/-- LOST_RANK_CLEAR (R342, R366). -/
def execLostRankClear (h : KocHdr) (v : List Byte) (s : State) : Out := s.writeRequest h 0x6000 6 v fun s _ => lostRankFx s v
/-- GROUP_CONFIG_WRITE (R369): the member list is a DOMAIN. -/
def execGroupConfigWrite (h : KocHdr) (g : GroupId) (sub : Nat) (v : List Byte) (s : State) : Out :=
  if sub = 1 then s.domainRequest h (0x6410 + g) 1 v.length fun s _ => groupFx s g 1 v
  else s.writeRequest h (0x6410 + g) sub v fun s _ => groupFx s g sub v
/-- QP_READY (R378). -/
def execQpReady (h : KocHdr) (q : QpId) (s : State) : Out := s.writeRequest h (0x6A00 + q) 1 (leBytes 1 1) fun s _ => qpReadyFx s q
/-- QP_RESET (R378). -/
def execQpReset (h : KocHdr) (q : QpId) (s : State) : Out := s.writeRequest h (0x6A00 + q) 1 (leBytes 1 0) fun s _ => qpResetFx s q
/-- CLUSTER_FLOOR_WRITE (R435). -/
def execClusterFloorWrite (h : KocHdr) (k : ClusterId) (v : List Byte) (s : State) : Out :=
  s.writeRequest h (0x2100 + k) 2 v fun s _ => clusterFloorFx s k v
/-- RAIL_MARGIN_WRITE (R442, R443). -/
def execRailMarginWrite (h : KocHdr) (v : List Byte) (s : State) : Out := s.writeRequest h 0x2000 6 v fun s _ => railMarginFx s v
/-- MAIN_POWER_OFF (R443, R448, R457). -/
def execMainPowerOff (h : KocHdr) (s : State) : Out := s.writeRequest h 0x2000 1 (leBytes 1 0) fun s _ => mainOffFx s
/-- MAIN_POWER_ON (R443, R448, R457). -/
def execMainPowerOn (h : KocHdr) (s : State) : Out := s.writeRequest h 0x2000 1 (leBytes 1 1) fun s _ => mainOnFx s
/-- LICENCE_INSTALL (R469). -/
def execLicenceInstall (h : KocHdr) (v : List Byte) (s : State) : Out := s.domainRequest h 0x1400 1 v.length fun s _ => licenceFx s v
/-- TOPOLOGY_KEY_ADD (R460). -/
def execTopologyKeyAdd (h : KocHdr) (v : List Byte) (s : State) : Out := s.domainRequest h 0x1820 4 v.length fun s _ => topologyKeyFx s v
/-- FIRMWARE_IMAGE_WRITE (R463). -/
def execFirmwareImageWrite (h : KocHdr) (v : List Byte) (s : State) : Out := s.domainRequest h 0x1880 1 v.length fun s _ => firmwareFx s v
/-- SECURITY_FLOOR_RAISE (R464). -/
def execSecurityFloorRaise (h : KocHdr) (v : List Byte) (s : State) : Out := s.writeRequest h 0x1880 3 v fun s _ => securityFloorFx s v
/-- QUOTE_REQUEST (R467). -/
def execQuoteRequest (h : KocHdr) (v : List Byte) (s : State) : Out := s.writeRequest h 0x1810 1 v fun s _ => quoteFx s v
/-- LIFECYCLE_TRANSITION (R472, R473). -/
def execLifecycleTransition (h : KocHdr) (v : List Byte) (s : State) : Out := s.writeRequest h 0x1800 1 v fun s k => lifecycleFx s k v
/-- ERROR_RECORD_ACK (R483). -/
def execErrorRecordAck (h : KocHdr) (v : List Byte) (s : State) : Out := s.writeRequest h 0x7000 2 v fun s _ => errorAckFx s v
/-- ERROR_LOG_CLEAR (R489). -/
def execErrorLogClear (h : KocHdr) (v : List Byte) (s : State) : Out := s.writeRequest h 0x7200 2 v fun s _ => logClearFx s v
/-- SCAN_REQUEST (R494). -/
def execScanRequest (h : KocHdr) (v : List Byte) (s : State) : Out := s.writeRequest h 0x7401 1 v fun s _ => scanFx s v
/-- BUDDY_SET (R497). -/
def execBuddySet (h : KocHdr) (v : List Byte) (s : State) : Out := s.writeRequest h 0x7400 1 v fun s _ => buddyFx s v
/-- WARD_SET (R497). -/
def execWardSet (h : KocHdr) (v : List Byte) (s : State) : Out := s.writeRequest h 0x7400 2 v fun s _ => wardFx s v
/-- CHECKPOINT_RESTORE_REQUEST (R505). -/
def execCheckpointRestoreRequest (h : KocHdr) (n : CtxId) (v : List Byte) (s : State) : Out :=
  s.writeRequest h (0x7500 + n) 0x20 v fun s _ => restoreRequestFx s n v

end Sys2Proof.Machine
end

