-- ==== Sys2Proof/Machine/Dispatch.lean ====
section
/-! DEFINITION. The dispatch: one arm per command. -/
namespace Sys2Proof.Machine

/-- The effect of a command on everything but the queue. -/
def exec (i : Instr) (s : State) : Host.Outcome State Fault Refusal :=
  match i with
  | .commandFetch c => Sys2Proof.Machine.execCommandFetch c s
  | .engineRecordDispatch c => Sys2Proof.Machine.execEngineRecordDispatch c s
  | .recordComplete c q => Sys2Proof.Machine.execRecordComplete c q s
  | .syncSignalDelivery n => Sys2Proof.Machine.execSyncSignalDelivery n s
  | .waitTimeout c at_ => Sys2Proof.Machine.execWaitTimeout c at_ s
  | .nop c => Sys2Proof.Machine.execNop c s
  | .seti c => Sys2Proof.Machine.execSeti c s
  | .addi c => Sys2Proof.Machine.execAddi c s
  | .aluAdd c => Sys2Proof.Machine.execAluAdd c s
  | .aluSub c => Sys2Proof.Machine.execAluSub c s
  | .aluAnd c => Sys2Proof.Machine.execAluAnd c s
  | .aluOr c => Sys2Proof.Machine.execAluOr c s
  | .aluXor c => Sys2Proof.Machine.execAluXor c s
  | .aluShl c => Sys2Proof.Machine.execAluShl c s
  | .aluShr c => Sys2Proof.Machine.execAluShr c s
  | .aluSar c => Sys2Proof.Machine.execAluSar c s
  | .aluMul c => Sys2Proof.Machine.execAluMul c s
  | .aluMin c => Sys2Proof.Machine.execAluMin c s
  | .aluMax c => Sys2Proof.Machine.execAluMax c s
  | .aluSlt c => Sys2Proof.Machine.execAluSlt c s
  | .aluSltu c => Sys2Proof.Machine.execAluSltu c s
  | .lds c => Sys2Proof.Machine.execLds c s
  | .sts c => Sys2Proof.Machine.execSts c s
  | .br c => Sys2Proof.Machine.execBr c s
  | .loop c => Sys2Proof.Machine.execLoop c s
  | .wait c => Sys2Proof.Machine.execWait c s
  | .signal c => Sys2Proof.Machine.execSignal c s
  | .fence c => Sys2Proof.Machine.execFence c s
  | .dmagoStart c => Sys2Proof.Machine.execDmagoStart c s
  | .dmagoResume c => Sys2Proof.Machine.execDmagoResume c s
  | .dmagoPause c => Sys2Proof.Machine.execDmagoPause c s
  | .dmagoSkip c => Sys2Proof.Machine.execDmagoSkip c s
  | .dmagoAbort c => Sys2Proof.Machine.execDmagoAbort c s
  | .stepRec c => Sys2Proof.Machine.execStepRec c s
  | .eventRec c => Sys2Proof.Machine.execEventRec c s
  | .endRec c => Sys2Proof.Machine.execEndRec c s
  | .load c => Sys2Proof.Machine.execLoad c s
  | .loadwTiles c => Sys2Proof.Machine.execLoadwTiles c s
  | .loadwPool c => Sys2Proof.Machine.execLoadwPool c s
  | .loadwValues c => Sys2Proof.Machine.execLoadwValues c s
  | .store c => Sys2Proof.Machine.execStore c s
  | .atomicCas c => Sys2Proof.Machine.execAtomicCas c s
  | .atomicFac c => Sys2Proof.Machine.execAtomicFac c s
  | .atomicCac c => Sys2Proof.Machine.execAtomicCac c s
  | .collAllreduce c => Sys2Proof.Machine.execCollAllreduce c s
  | .collReduceScatter c => Sys2Proof.Machine.execCollReduceScatter c s
  | .collAllgather c => Sys2Proof.Machine.execCollAllgather c s
  | .collBroadcast c => Sys2Proof.Machine.execCollBroadcast c s
  | .collGnorm c => Sys2Proof.Machine.execCollGnorm c s
  | .collDigest c => Sys2Proof.Machine.execCollDigest c s
  | .matmul c => Sys2Proof.Machine.execMatmul c s
  | .spmm c => Sys2Proof.Machine.execSpmm c s
  | .spmmt c => Sys2Proof.Machine.execSpmmt c s
  | .sddmm c => Sys2Proof.Machine.execSddmm c s
  | .full c => Sys2Proof.Machine.execFull c s
  | .pruneThresh c => Sys2Proof.Machine.execPruneThresh c s
  | .pruneTilek c => Sys2Proof.Machine.execPruneTilek c s
  | .pruneRowk c => Sys2Proof.Machine.execPruneRowk c s
  | .regrowGrad c => Sys2Proof.Machine.execRegrowGrad c s
  | .regrowRandt c => Sys2Proof.Machine.execRegrowRandt c s
  | .regrowRandr c => Sys2Proof.Machine.execRegrowRandr c s
  | .probeTile c => Sys2Proof.Machine.execProbeTile c s
  | .probeRow c => Sys2Proof.Machine.execProbeRow c s
  | .predictPredicted c => Sys2Proof.Machine.execPredictPredicted c s
  | .predictExact c => Sys2Proof.Machine.execPredictExact c s
  | .screen c => Sys2Proof.Machine.execScreen c s
  | .crownSum c => Sys2Proof.Machine.execCrownSum c s
  | .crownMeanvar c => Sys2Proof.Machine.execCrownMeanvar c s
  | .crownMax c => Sys2Proof.Machine.execCrownMax c s
  | .crownPhaseStart c => Sys2Proof.Machine.execCrownPhaseStart c s
  | .crownPhaseEnd c => Sys2Proof.Machine.execCrownPhaseEnd c s
  | .vewAdd c => Sys2Proof.Machine.execVewAdd c s
  | .vewSub c => Sys2Proof.Machine.execVewSub c s
  | .vewMul c => Sys2Proof.Machine.execVewMul c s
  | .vewFma c => Sys2Proof.Machine.execVewFma c s
  | .vewMax c => Sys2Proof.Machine.execVewMax c s
  | .vewMin c => Sys2Proof.Machine.execVewMin c s
  | .vewAbs c => Sys2Proof.Machine.execVewAbs c s
  | .vewNeg c => Sys2Proof.Machine.execVewNeg c s
  | .vewScale c => Sys2Proof.Machine.execVewScale c s
  | .vewRecip c => Sys2Proof.Machine.execVewRecip c s
  | .vewSqrt c => Sys2Proof.Machine.execVewSqrt c s
  | .vewRsqrt c => Sys2Proof.Machine.execVewRsqrt c s
  | .vewExp c => Sys2Proof.Machine.execVewExp c s
  | .vewLog c => Sys2Proof.Machine.execVewLog c s
  | .vewTanh c => Sys2Proof.Machine.execVewTanh c s
  | .vewSigmoid c => Sys2Proof.Machine.execVewSigmoid c s
  | .vewErf c => Sys2Proof.Machine.execVewErf c s
  | .vewSelect c => Sys2Proof.Machine.execVewSelect c s
  | .vewCmpgt c => Sys2Proof.Machine.execVewCmpgt c s
  | .vewClip c => Sys2Proof.Machine.execVewClip c s
  | .vredSum c => Sys2Proof.Machine.execVredSum c s
  | .vredMax c => Sys2Proof.Machine.execVredMax c s
  | .vredMin c => Sys2Proof.Machine.execVredMin c s
  | .vredSumsq c => Sys2Proof.Machine.execVredSumsq c s
  | .vredMeanvar c => Sys2Proof.Machine.execVredMeanvar c s
  | .vredAmax c => Sys2Proof.Machine.execVredAmax c s
  | .vconv c => Sys2Proof.Machine.execVconv c s
  | .vrandBits c => Sys2Proof.Machine.execVrandBits c s
  | .vrandUniform c => Sys2Proof.Machine.execVrandUniform c s
  | .vrandBernoulli c => Sys2Proof.Machine.execVrandBernoulli c s
  | .correctedWriteback c => Sys2Proof.Machine.execCorrectedWriteback c s
  | .corePatrolScrub k => Sys2Proof.Machine.execCorePatrolScrub k s
  | .sacLineFill d line => Sys2Proof.Machine.execSacLineFill d line s
  | .cacheInvalidateAll h v => Sys2Proof.Machine.execCacheInvalidateAll h v s
  | .coreResume h c v => Sys2Proof.Machine.execCoreResume h c v s
  | .windowOpen h c w => Sys2Proof.Machine.execWindowOpen h c w s
  | .windowClose h c w => Sys2Proof.Machine.execWindowClose h c w s
  | .windowDrainTimeout c w => Sys2Proof.Machine.execWindowDrainTimeout c w s
  | .dirtyMapClear h c v => Sys2Proof.Machine.execDirtyMapClear h c v s
  | .predictorSlotsWrite h n v => Sys2Proof.Machine.execPredictorSlotsWrite h n v s
  | .seedWrite h n v => Sys2Proof.Machine.execSeedWrite h n v s
  | .reseed h n v => Sys2Proof.Machine.execReseed h n v s
  | .pmxKnownAnswer h => Sys2Proof.Machine.execPmxKnownAnswer h s
  | .snapshotRequest h v => Sys2Proof.Machine.execSnapshotRequest h v s
  | .snapshotCopy => Sys2Proof.Machine.execSnapshotCopy s
  | .snapshotReady => Sys2Proof.Machine.execSnapshotReady s
  | .snapshotRelease h v => Sys2Proof.Machine.execSnapshotRelease h v s
  | .contextCreate h n => Sys2Proof.Machine.execContextCreate h n s
  | .contextResume h n => Sys2Proof.Machine.execContextResume h n s
  | .contextPreempt h n => Sys2Proof.Machine.execContextPreempt h n s
  | .contextDestroy h n => Sys2Proof.Machine.execContextDestroy h n s
  | .preemptSave n => Sys2Proof.Machine.execPreemptSave n s
  | .contextRestore n => Sys2Proof.Machine.execContextRestore n s
  | .doorbell h n v => Sys2Proof.Machine.execDoorbell h n v s
  | .tlbInvalidateRequest h n v => Sys2Proof.Machine.execTlbInvalidateRequest h n v s
  | .tlbInvalidateComplete n => Sys2Proof.Machine.execTlbInvalidateComplete n s
  | .contextImport h n image => Sys2Proof.Machine.execContextImport h n image s
  | .dmaDescriptorFetch d => Sys2Proof.Machine.execDmaDescriptorFetch d s
  | .dmaDescriptorComplete d => Sys2Proof.Machine.execDmaDescriptorComplete d s
  | .dmaPauseDrained d moved => Sys2Proof.Machine.execDmaPauseDrained d moved s
  | .dmaHalt d cause => Sys2Proof.Machine.execDmaHalt d cause s
  | .dmaWaitTimeout d => Sys2Proof.Machine.execDmaWaitTimeout d s
  | .dmaCtrlResume h d => Sys2Proof.Machine.execDmaCtrlResume h d s
  | .dmaCtrlPause h d => Sys2Proof.Machine.execDmaCtrlPause h d s
  | .dmaCtrlSkip h d => Sys2Proof.Machine.execDmaCtrlSkip h d s
  | .dmaCtrlAbort h d => Sys2Proof.Machine.execDmaCtrlAbort h d s
  | .hbmPatrolScrub => Sys2Proof.Machine.execHbmPatrolScrub s
  | .hbmStackTrained t ok => Sys2Proof.Machine.execHbmStackTrained t ok s
  | .hbmWipeDone failed us => Sys2Proof.Machine.execHbmWipeDone failed us s
  | .linkSignalDetect l => Sys2Proof.Machine.execLinkSignalDetect l s
  | .linkTrained l => Sys2Proof.Machine.execLinkTrained l s
  | .linkTrainTimeout l => Sys2Proof.Machine.execLinkTrainTimeout l s
  | .identSend l => Sys2Proof.Machine.execIdentSend l s
  | .linkFecLoss l => Sys2Proof.Machine.execLinkFecLoss l s
  | .linkSilenceCheck l age => Sys2Proof.Machine.execLinkSilenceCheck l age s
  | .linkRetrain h l v => Sys2Proof.Machine.execLinkRetrain h l v s
  | .heartbeatSend l => Sys2Proof.Machine.execHeartbeatSend l s
  | .ackSend l => Sys2Proof.Machine.execAckSend l s
  | .replayTimeout l => Sys2Proof.Machine.execReplayTimeout l s
  | .frameReject l h cause nakDue => Sys2Proof.Machine.execFrameReject l h cause nakDue s
  | .link l h => Sys2Proof.Machine.execLink l h s
  | .nak l h seq => Sys2Proof.Machine.execNak l h seq s
  | .heartbeat l h rank state peer => Sys2Proof.Machine.execHeartbeat l h rank state peer s
  | .ident l h identity rank peer variant => Sys2Proof.Machine.execIdent l h identity rank peer variant s
  | .lost l h rank reporter => Sys2Proof.Machine.execLost l h rank reporter s
  | .frameForward l h b => Sys2Proof.Machine.execFrameForward l h b s
  | .lostRankClear h v => Sys2Proof.Machine.execLostRankClear h v s
  | .wcredit l h core win slot gen => Sys2Proof.Machine.execWcredit l h core win slot gen s
  | .wwrite l h w => Sys2Proof.Machine.execWwrite l h w s
  | .wanswer l h id status => Sys2Proof.Machine.execWanswer l h id status s
  | .wreturn l h core win slot gen => Sys2Proof.Machine.execWreturn l h core win slot gen s
  | .wclose l h core win gen => Sys2Proof.Machine.execWclose l h core win gen s
  | .contrib l h m => Sys2Proof.Machine.execContrib l h m s
  | .result l h m => Sys2Proof.Machine.execResult l h m s
  | .canswer l h seq group answer level node first => Sys2Proof.Machine.execCanswer l h seq group answer level node first s
  | .keepalive l h group seq level node => Sys2Proof.Machine.execKeepalive l h group seq level node s
  | .keepaliveSend g seq level node => Sys2Proof.Machine.execKeepaliveSend g seq level node s
  | .collInputTimeout g seq level node => Sys2Proof.Machine.execCollInputTimeout g seq level node s
  | .groupConfigWrite h g sub v => Sys2Proof.Machine.execGroupConfigWrite h g sub v s
  | .hostLinkUp p => Sys2Proof.Machine.execHostLinkUp p s
  | .rdmaWrite p k => Sys2Proof.Machine.execRdmaWrite p k s
  | .rdmaRead p k => Sys2Proof.Machine.execRdmaRead p k s
  | .send p k => Sys2Proof.Machine.execSend p k s
  | .roceInvalidRequest p q k => Sys2Proof.Machine.execRoceInvalidRequest p q k s
  | .cnp p q => Sys2Proof.Machine.execCnp p q s
  | .rateIncreaseTimer q => Sys2Proof.Machine.execRateIncreaseTimer q s
  | .pfc p priority quanta => Sys2Proof.Machine.execPfc p priority quanta s
  | .pfcXoffRefresh p k => Sys2Proof.Machine.execPfcXoffRefresh p k s
  | .arp p target => Sys2Proof.Machine.execArp p target s
  | .neighbourDiscovery p target => Sys2Proof.Machine.execNeighbourDiscovery p target s
  | .icmpEcho p target payload => Sys2Proof.Machine.execIcmpEcho p target payload s
  | .hostFrameDiscard p => Sys2Proof.Machine.execHostFrameDiscard p s
  | .qpReady h q => Sys2Proof.Machine.execQpReady h q s
  | .qpReset h q => Sys2Proof.Machine.execQpReset h q s
  | .openReq h nonce keyHash => Sys2Proof.Machine.execOpenReq h nonce keyHash s
  | .openFinish h sid cipher sig => Sys2Proof.Machine.execOpenFinish h sid cipher sig s
  | .openTimeout p sid => Sys2Proof.Machine.execOpenTimeout p sid s
  | .close h reason => Sys2Proof.Machine.execClose h reason s
  | .read h idx sub => Sys2Proof.Machine.execRead h idx sub s
  | .write h idx sub v => Sys2Proof.Machine.execWrite h idx sub v s
  | .domainWriteOpen h idx sub v => Sys2Proof.Machine.execDomainWriteOpen h idx sub v s
  | .segRead h idx sub seg => Sys2Proof.Machine.execSegRead h idx sub seg s
  | .segWrite h idx sub seg len => Sys2Proof.Machine.execSegWrite h idx sub seg len s
  | .segData h frame data => Sys2Proof.Machine.execSegData h frame data s
  | .segAck h bitmap status => Sys2Proof.Machine.execSegAck h bitmap status s
  | .segmentTimeout sid rid => Sys2Proof.Machine.execSegmentTimeout sid rid s
  | .stagedWriteTimeout sid idx sub => Sys2Proof.Machine.execStagedWriteTimeout sid idx sub s
  | .eventAck h seq => Sys2Proof.Machine.execEventAck h seq s
  | .eventResendTimer sid => Sys2Proof.Machine.execEventResendTimer sid s
  | .ping h => Sys2Proof.Machine.execPing h s
  | .sessionIdleTimeout sid => Sys2Proof.Machine.execSessionIdleTimeout sid s
  | .sessionLifetimeExpiry sid => Sys2Proof.Machine.execSessionLifetimeExpiry sid s
  | .kocKeyListWrite h sub v => Sys2Proof.Machine.execKocKeyListWrite h sub v s
  | .leaseRequest h v => Sys2Proof.Machine.execLeaseRequest h v s
  | .leaseRevoke h v => Sys2Proof.Machine.execLeaseRevoke h v s
  | .leaseExpiry => Sys2Proof.Machine.execLeaseExpiry s
  | .resetWrite h v => Sys2Proof.Machine.execResetWrite h v s
  | .persistentFlush => Sys2Proof.Machine.execPersistentFlush s
  | .clusterIdleEntry k => Sys2Proof.Machine.execClusterIdleEntry k s
  | .clusterDozeEntry k => Sys2Proof.Machine.execClusterDozeEntry k s
  | .clusterNapEntry k => Sys2Proof.Machine.execClusterNapEntry k s
  | .clusterEntryDone k => Sys2Proof.Machine.execClusterEntryDone k s
  | .powerUpStart d => Sys2Proof.Machine.execPowerUpStart d s
  | .dozeRestartStart d => Sys2Proof.Machine.execDozeRestartStart d s
  | .clusterRun k => Sys2Proof.Machine.execClusterRun k s
  | .clusterFloorWrite h k v => Sys2Proof.Machine.execClusterFloorWrite h k v s
  | .mgmtCoreSleep m => Sys2Proof.Machine.execMgmtCoreSleep m s
  | .governorPeriod powerMw meanMw excursionUs tj0 tj1 => Sys2Proof.Machine.execGovernorPeriod powerMw meanMw excursionUs tj0 tj1 s
  | .currentLimitTrip currentMa => Sys2Proof.Machine.execCurrentLimitTrip currentMa s
  | .thermalSample readings => Sys2Proof.Machine.execThermalSample readings s
  | .pmbusPoll rails => Sys2Proof.Machine.execPmbusPoll rails s
  | .railOutOfWindow rail status => Sys2Proof.Machine.execRailOutOfWindow rail status s
  | .railMarginWrite h v => Sys2Proof.Machine.execRailMarginWrite h v s
  | .mainPowerOff h => Sys2Proof.Machine.execMainPowerOff h s
  | .mainPowerOn h => Sys2Proof.Machine.execMainPowerOn h s
  | .powerOn straps => Sys2Proof.Machine.execPowerOn straps s
  | .pgAonFall => Sys2Proof.Machine.execPgAonFall s
  | .resetPin straps => Sys2Proof.Machine.execResetPin straps s
  | .bootVerifyDone => Sys2Proof.Machine.execBootVerifyDone s
  | .railSequenceStep => Sys2Proof.Machine.execRailSequenceStep s
  | .pgMainRise => Sys2Proof.Machine.execPgMainRise s
  | .pgMainTimeout => Sys2Proof.Machine.execPgMainTimeout s
  | .pllLockTimeout => Sys2Proof.Machine.execPllLockTimeout s
  | .selfTestDone failedCores failedUnits => Sys2Proof.Machine.execSelfTestDone failedCores failedUnits s
  | .topologyDeadline => Sys2Proof.Machine.execTopologyDeadline s
  | .patternCacheLoaded ok => Sys2Proof.Machine.execPatternCacheLoaded ok s
  | .licenceInstall h v => Sys2Proof.Machine.execLicenceInstall h v s
  | .topologyKeyAdd h v => Sys2Proof.Machine.execTopologyKeyAdd h v s
  | .firmwareImageWrite h v => Sys2Proof.Machine.execFirmwareImageWrite h v s
  | .securityFloorRaise h v => Sys2Proof.Machine.execSecurityFloorRaise h v s
  | .quoteRequest h v => Sys2Proof.Machine.execQuoteRequest h v s
  | .attestationTokenRefill => Sys2Proof.Machine.execAttestationTokenRefill s
  | .lifecycleTransition h v => Sys2Proof.Machine.execLifecycleTransition h v s
  | .faultServiceTake => Sys2Proof.Machine.execFaultServiceTake s
  | .faultServiceWatchdog => Sys2Proof.Machine.execFaultServiceWatchdog s
  | .errorRecordAck h v => Sys2Proof.Machine.execErrorRecordAck h v s
  | .errorLogClear h v => Sys2Proof.Machine.execErrorLogClear h v s
  | .scanRequest h v => Sys2Proof.Machine.execScanRequest h v s
  | .scanComplete pass patterns => Sys2Proof.Machine.execScanComplete pass patterns s
  | .buddySet h v => Sys2Proof.Machine.execBuddySet h v s
  | .wardSet h v => Sys2Proof.Machine.execWardSet h v s
  | .checkpointReadDone n => Sys2Proof.Machine.execCheckpointReadDone n s
  | .ckptBegin l h k table => Sys2Proof.Machine.execCkptBegin l h k table s
  | .ckptState l h k data => Sys2Proof.Machine.execCkptState l h k data s
  | .ckptGranule l h k data => Sys2Proof.Machine.execCkptGranule l h k data s
  | .ckptEnd l h k => Sys2Proof.Machine.execCkptEnd l h k s
  | .ckptReplay l h k data => Sys2Proof.Machine.execCkptReplay l h k data s
  | .ckptAnswer l h k => Sys2Proof.Machine.execCkptAnswer l h k s
  | .ckptPull l h k => Sys2Proof.Machine.execCkptPull l h k s
  | .checkpointRestoreRequest h n v => Sys2Proof.Machine.execCheckpointRestoreRequest h n v s
  | .hostLinkDown p => Sys2Proof.Machine.execHostLinkDown p s
  | .refreshRateChange t celsius => Sys2Proof.Machine.execRefreshRateChange t celsius s
  | .predictorUpdateDone n => Sys2Proof.Machine.execPredictorUpdateDone n s
  | .quoteSigned => Sys2Proof.Machine.execQuoteSigned s
  | .pfcPauseExpiry p k => Sys2Proof.Machine.execPfcPauseExpiry p k s

end Sys2Proof.Machine
end

