-- ==== Sys2Proof/Machine/Step.lean ====
section
/-! DEFINITION. A step: the command at the front of the queue, or one tick of the idle part. -/
namespace Sys2Proof.Machine

/-- A step takes the command at the front of the queue and runs it with the rest of the queue. On an empty queue the part idles
for one cycle of its 100 MHz reference: the die-local counters advance (R420; DESIGN CHOICE, log entry 2). -/
def step (s : State) : Host.Outcome State Fault Refusal :=
  match s.pending with
  | [] => .next s.idleTick
  | c :: rest => exec c { s with pending := rest }

/-- The command that a table word spells put at the front of the queue; the table gives no bits, so no word spells one (log
entry 13). -/
def State.withFetchWord (s : State) (nbits w : Nat) : State :=
  match decodeTableWord nbits w with
  | some c => { s with pending := c :: s.pending }
  | none => s

end Sys2Proof.Machine
end

