-- ==== Sys2Proof/Safety.lean ====
section
/-! DEFINITION. The words in which statements about the part are made: a step that goes on, a request that KOC admits, fuses that only
advance, core groups that stay apart. -/
namespace Sys2Proof.Machine

/-- A step that goes on: the spec gives every failure of this part a status, an error record or SAFE, so no step stops. -/
def Goes (s : State) : Prop := ∃ t, step s = .next t

/-! ## Requests (R392, R393, R397, R405, R407) -/

/-- A request is intact, new, neither in progress, answered before nor too old, and within its port's rate: its run begins in state `s1` for
session `k`. -/
def State.Admits (s : State) (h : KocHdr) (type : Nat) (payload : List Byte) (s1 : State) (k : Session) : Prop :=
  ∃ s0 k0, s.kocFrame h type payload = .ok (s0, k0) ∧ (∀ a ∈ k0.answers, a.rid ≠ h.rid) ∧ h.rid ∉ k0.busy ∧ h.rid ∉ k0.given ∧
    k0.highRid ≤ h.rid + 64 ∧
    (s0.withW (s0.w.setSession h.sid fun x => { x with highRid := max x.highRid h.rid })).countRequest h.port = (s1, true) ∧
    k = { k0 with highRid := max k0.highRid h.rid }

/-- A WRITE of a value that the session has the right to make and that has the object's size (R405, R414). -/
def State.Writes (s : State) (h : KocHdr) (idx sub : Nat) (v : List Byte) (s1 : State) (k : Session) : Prop :=
  s.Admits h ftWrite (objBytes idx sub ++ v) s1 k ∧ s1.rights k idx sub true = none ∧ ∃ d, objAt idx sub = some d ∧ d.ty.valueOk v = true

/-- A whole DOMAIN value of a length that the object takes, while its session may stage it (R405, R407; DESIGN CHOICE, log entry 53). -/
def State.Stages (s : State) (h : KocHdr) (idx sub len : Nat) (s1 : State) (k : Session) : Prop :=
  s.Admits h ftWrite (objBytes idx sub ++ leBytes 8 len) s1 k ∧ s1.openRefusal k idx sub len = none

/-- A READ that the session has the right to make (R405, R406). -/
def State.Reads (s : State) (h : KocHdr) (idx sub : Nat) (s1 : State) (k : Session) : Prop :=
  s.Admits h ftRead (objBytes idx sub) s1 k ∧ s1.rights k idx sub false = none

/-- The state once a request has been answered with a status and a value. -/
def State.replied (s : State) (h : KocHdr) (st : Nat) (v : List Byte := []) : State := s.answer h { rid := h.rid, status := st, value := v }

/-- The state in which a request's answer waits for what it started. -/
def State.held (s : State) (h : KocHdr) (what : WaitFor) : State :=
  let w := s.w.setSession h.sid fun k => { k with busy := k.busy ++ [h.rid] }
  s.withW { w with waiters := w.waiters ++ [{ port := h.port, src := h.src, sid := h.sid, rid := h.rid, what }] }

/-! ## Records -/

/-- What a scalar record of core c leaves (R62, R71, R83): the registers and the next index given, every other core, every core memory,
counter, channel, fuse and object as it was, and HBM too unless the record asks for a completion entry. -/
structure ScalarRan (s t : State) (c : Nat) (r : Record) (regs : List Word) (next : Nat) : Prop where
  outside : t = { s with w := t.w }
  regs : (t.w.core c).regs = regs
  next : (t.w.core c).nextIdx = next
  ctrs : (t.w.core c).ctrs = (s.w.core c).ctrs
  queues : (t.w.core c).load = (s.w.core c).load ∧ (t.w.core c).matrix = (s.w.core c).matrix ∧ (t.w.core c).vector = (s.w.core c).vector
    ∧ (t.w.core c).store = (s.w.core c).store
  mems : ∀ m, (t.w.core c).mem m = (s.w.core c).mem m
  others : ∀ d, d ≠ c → t.w.core d = s.w.core d
  chans : t.w.dma = s.w.dma
  hbm : r.cr = false → t.w.hbm = s.w.hbm

/-- A register file after a write of register d: s0 discards it (R62). -/
def setReg (regs : List Word) (d : Nat) (v : Word) : List Word := if d = 0 then regs else regs.set d v

/-- An engine record that has run: its entry stands done with a status, a count and completion flags, which RECORD_COMPLETE takes up
(R83, R89); `w` is the world that the run left. -/
def Finished (s : State) (w : World) (c : Nat) (q : Queue) (id st count flags : Nat) : State :=
  s.withW (w.setCore c ((w.core c).mark q id (.done st count flags)))

/-- A row of an engine queue completes (R80, R81, R83): whenever a record of the row starts and its run ends with a continuing status
(R87), the command goes on with that run's world, the entry stands done with the run's status, count and flags, every other entry of the
queue stands as the run left it, and nothing outside the running part's world changes. -/
def RowCompletes (i : CoreId → Instr) (q : Queue) (row : Record → Prop) (run : State → World → Env → Entry → Run) : Prop :=
  ∀ (s : State) (c : CoreId) (e : Env) (t : Entry), s.starting c q = some (e, t) → row t.cmd →
    let R := (run s s.w e t).overBus s.w c
    continuing R.st = true →
      exec (i c) s = .next (Finished s R.w c q t.id R.st R.count R.flags) ∧
      ∀ u, exec (i c) s = .next u → u = { s with w := u.w } ∧
        (∀ x ∈ (u.w.core c).queue q, x.id = t.id → x.st = .done R.st R.count R.flags) ∧
        (∀ p, p ≠ q → (u.w.core c).queue p = (R.w.core c).queue p) ∧
        (∀ m, (u.w.core c).mem m = (R.w.core c).mem m) ∧ (∀ d, d ≠ (c : Nat) → u.w.core d = R.w.core d) ∧ u.w.hbm = R.w.hbm

/-! ## Host ports (R372–R380) -/

/-- A host port takes a frame and serves a queue pair: the port is up, the frame is for one of its addresses and for RoCEv2, no longer than a frame may
be and finds room in its buffer, which is then as in world `w`; RoCEv2 is enabled, and the queue pair is READY on the port. -/
def State.Serves (s : State) (p : PortId) (q : Nat) (net : NetHdr) (w : World) : Prop :=
  (s.w.port p).st = 2 ∧ s.addressed (portName p) net = true ∧ net.udp = roceUdp ∧ net.len ≤ 4200 ∧ s.w.arrive s.ctl.persist p net = .ok w ∧
    s.ctl.persist.roceOn = true ∧ q < 512 ∧ (s.w.qp q).st = .ready ∧ (s.w.qp q).port = p

/-- What taking a frame into a port's buffer can change: the port, what it tells its peer by PFC, and how many free values were used. -/
def World.PortOnly (v w : World) : Prop := w = { v with ports := w.ports, outbox := w.outbox, free := w.free }

/-! ## Fuses (R459, R472) -/

/-- What two states of the fuses may differ in over time: a fuse once programmed stays so. -/
structure Otp.Advances (a b : Otp) : Prop where
  fixed : b.identity = a.identity ∧ b.serial = a.serial ∧ b.revision = a.revision ∧ b.macs = a.macs ∧ b.fwKeys = a.fwKeys
    ∧ b.licKeys = a.licKeys ∧ b.svcKeys = a.svcKeys
  topo : a.topoKeys <+: b.topoKeys
  seed : b.seed = a.seed ∨ (a.seed = none ∧ a.life = .blank)
  blocks : a.blocks ≤ b.blocks
  floor : a.floor ≤ b.floor
  generation : a.generation ≤ b.generation
  life : lifeCode a.life ≤ lifeCode b.life
  scrap : a.scrap = true → b.scrap = true

/-! ## The context table (R283, R284) -/

/-- The table lists each context once; the groups of two contexts that occupy clusters do not meet; at most 16 contexts occupy any. -/
structure GroupsApart (res : Tab Resid) : Prop where
  sorted : (res.map (·.1)).Pairwise (· < ·)
  apart : ∀ e ∈ res, ∀ f ∈ res, e.1 ≠ f.1 → e.2.st.live = true → f.2.st.live = true → e.2.meets f.2 = false
  few : (res.filter fun e => e.2.st.live).length ≤ 16

end Sys2Proof.Machine
end

