-- ==== Sys2Proof/Certificates/Slice0/Obligations.lean ====
section
/-! DEFINITION. What is claimed of the part: one definition per statement, for the provers. -/
open Sys2Proof Sys2Proof.Machine

/-! ## The block and its queue -/

/-- A step takes the command at the front of the queue and runs it on the state with the queue's rest. -/
def Obligations.StepRunsTheFrontCommand : Prop :=
  ∀ (s : State) (c : Instr) (rest : List Instr), s.pending = c :: rest → step s = exec c { s with pending := rest }

/-- On an empty queue the part idles for a cycle of its reference (the model's choice, DESIGN CHOICE, log entry 2): the counters of powered dies and
the clock of the rates advance, and nothing else changes. R420: a die's counter counts the 100 MHz reference. -/
def Obligations.IdleStepOnlyCounts : Prop :=
  ∀ s : State, s.pending = [] → ∃ t, step s = .next t ∧
    t = { s with ctl := { s.ctl with clock := t.ctl.clock }, w := { s.w with tick := t.w.tick } } ∧
    (s.ctl.pins.pgAon = true → t.ctl.clock = s.ctl.clock + 1) ∧ (s.ctl.pins.pgAon = false → s.ctl.pgMain = false → t = s) ∧
    (s.ctl.pins.pgAon = true → s.ctl.pgMain = true → s.w.tick.length = 4 →
      ∀ d, d < 4 → t.w.tick.getD d 0 = (s.w.tick.getD d 0 + 1) % 2 ^ 64)

/-- No command stops the block, and only a step takes a command from the queue: every failure that the spec describes has a status, an
error record or SAFE (R10, R477), and every command answers a next state with the queue as it was. -/
def Obligations.EveryCommandGoesOn : Prop :=
  (∀ (i : Instr) (s : State), ∃ t, exec i s = .next t ∧ t.pending = s.pending) ∧ ∀ s : State, Goes s

/-- Fuses only advance, whatever the part is told to do (R459, R465, R472): a programmed value never changes back, topology keys are
only appended, the floor, the licence generation and the signature blocks only rise, the seed is drawn once and in BLANK, and the
life-cycle state moves only toward SCRAPPED. -/
def Obligations.FusesOnlyAdvance : Prop :=
  ∀ s t : State, step s = .next t → s.otp.Advances t.otp

/-- Contexts that occupy clusters keep their core groups apart, and are at most 16 (R283, R285), through every command. -/
def Obligations.CoreGroupsStayApart : Prop :=
  ∀ s t : State, GroupsApart s.res → step s = .next t → GroupsApart t.res

/-! ## KOC: frames, requests, sessions -/

/-- An intact, new request of an open session is admitted (R386, R392, R393, R397, R431): its port takes the frame, its header is that of its type, its
tag is the session's, its sequence number is accepted, its id is neither kept, in progress, answered before nor too old, and its port has had fewer
than 20,000 requests in the last second. The state in which it then runs differs only in the bookkeeping of the port, the session and the rate,
and the management cores are awake. That the frame comes in one fragment is the model's reading (log entry 176). -/
def Obligations.IntactRequestIsAdmitted : Prop :=
  ∀ (s s0 : State) (h : KocHdr) (type : Nat) (payload : List Byte) (k : Session),
    s.kocArrive h = .ok s0 → s0.sessionOf h = some k → h.sid ≠ 0 → payload.length ≤ 1028 → h.single type payload.length = true →
    h.tag = kocTag k.keyIn h type payload → k.accepts h.seq = true → k.spent = false →
    (∀ a ∈ k.answers, a.rid ≠ h.rid) → h.rid ∉ k.busy → h.rid ∉ k.given → k.highRid ≤ h.rid + 64 →
    (recent s.w.koc.reqs (portNo h.port) s.ctl.clock).length < 20000 →
    ∃ s1, s.Admits h type payload s1 { k.heard h with highRid := max k.highRid h.rid } ∧
      s1 = { s with w := { s.w with ports := s0.w.ports, outbox := s0.w.outbox, free := s0.w.free,
                                    koc := { s.w.koc with asleep := [], sessions := s1.w.koc.sessions, reqs := s1.w.koc.reqs } } }

/-- A frame of a session that no session has, whose header is not that of its type, whose tag is wrong, or whose sequence number was seen or lies too far
back is discarded and counted, and changes nothing else (R386, R392); stated for the requests and the other frames of a session that a port
takes. That these come in one fragment is the model's reading (log entry 176). -/
def Obligations.BrokenFrameIsDiscarded : Prop :=
  ∀ (s s0 : State) (h : KocHdr) (idx sub : Nat) (v : List Byte) (seq : Nat),
    s.kocArrive h = .ok s0 → h.sid ≠ 0 →
    let bad (type : Nat) (payload : List Byte) : Prop :=
      ∀ k, s0.sessionOf h = some k → h.single type payload.length = false ∨ h.tag ≠ kocTag k.keyIn h type payload ∨ k.accepts h.seq = false
    let t : State := s0.withW { s0.w with koc := { s0.w.koc with discarded := bump 64 s0.w.koc.discarded 1 } }
    (bad ftWrite (objBytes idx sub ++ v) → exec (.write h idx sub v) s = .next t) ∧
    (bad ftRead (objBytes idx sub) → exec (.read h idx sub) s = .next t) ∧
    (bad ftEventAck (leBytes 4 seq) → exec (.eventAck h seq) s = .next t) ∧
    (bad ftClose (leBytes 2 seq) → exec (.close h seq) s = .next t) ∧
    (bad ftPing [] → exec (.ping h) s = .next t)

/-- A repeat of an answered request gets the answer that is kept again and runs nothing (R393): beside the frames counted in the
session and at its port, only the outbox grows, by that answer under the next sequence number and the tag of the part's direction (R390, R392). -/
def Obligations.RepeatedWriteIsAnsweredAgain : Prop :=
  ∀ (s s0 : State) (h : KocHdr) (k x : Session) (a : Answer) (idx sub : Nat) (v : List Byte),
    s.kocFrame h ftWrite (objBytes idx sub ++ v) = .ok (s0, k) → k.answers.find? (fun b => b.rid == h.rid) = some a → a.kind = .reply →
    s0.w.session h.sid = some x →
    ∃ t, exec (.write h idx sub v) s = .next t ∧
      t.w.outbox = s0.w.outbox ++ [x.frame h.port h.src (x.tx + 1) a.rid (.reply a.status a.value)] ∧
      t = { s0 with w := { s0.w with outbox := t.w.outbox, koc := { s0.w.koc with sessions := t.w.koc.sessions } } }

/-- Refusals (R405, R406, R414): a WRITE or a READ that the session has no right to make is answered with the refusal and changes no object:
beside the request's own bookkeeping only the answer is sent. The refusals come in the order of R414, before an object's own rules: an
object that does not exist, an absent unit, a life-cycle or part state that does not allow the access, a right that the object or its
class does not give, and a class R object without the lease. -/
def Obligations.RefusalsComeInOrderAndChangeNothing : Prop :=
  (∀ (s s1 : State) (h : KocHdr) (k : Session) (idx sub : Nat) (v : List Byte) (st : Nat), h.sid ≠ 0 →
    (s.Admits h ftWrite (objBytes idx sub ++ v) s1 k → s1.rights k idx sub true = some st → exec (.write h idx sub v) s = .next (s1.replied h st)) ∧
    (s.Admits h ftRead (objBytes idx sub) s1 k → s1.rights k idx sub false = some st → exec (.read h idx sub) s = .next (s1.replied h st))) ∧
  ∀ (s : State) (k : Session) (idx sub : Nat) (wr : Bool),
    (objAt idx sub = none → s.rights k idx sub wr = some stState) ∧
    ∀ d, objAt idx sub = some d →
      (s.unitAbsent idx = true → s.rights k idx sub wr = some stUnitAbsent) ∧
      (s.unitAbsent idx = false →
        (lifeAllows s.otp.life idx wr (d.cls == .mgmt) = false ∨ s.partAllows (k.port == .side) idx sub = false →
          s.rights k idx sub wr = some stState) ∧
        (lifeAllows s.otp.life idx wr (d.cls == .mgmt) = true → s.partAllows (k.port == .side) idx sub = true →
          ((wr = true ∧ d.acc = .ro) ∨ (wr = false ∧ d.acc = .wo) ∨ (wr = true ∧ d.cls = .mgmt ∧ k.port ≠ .side) →
            s.rights k idx sub wr = some stFaultPerm) ∧
          (wr = true → d.acc ≠ .ro → d.cls = .run → k.port ≠ .side → s.w.lease.holder ≠ k.sid → s.rights k idx sub wr = some stState) ∧
          (wr = true → d.acc ≠ .ro → d.cls = .run → k.port ≠ .side → s.w.lease.holder = k.sid → s.rights k idx sub wr = none) ∧
          (wr = false → d.acc ≠ .wo → s.rights k idx sub wr = none)))

/-- Requests of a session that KOC admits run and are answered (R405–R410): READ with the value, or with the length of a DOMAIN; WRITE of a value
with what the object's rule answers; DOMAIN_WRITE_OPEN opens a staged write; SEG_READ sends the segment's frames, where no read of HBM fails on
the bus, and changes no byte of HBM; SEG_WRITE announces a segment of an open staged write; PMX_KNOWN_ANSWER reads 0x3E00:05. Forms:
pmxKnownAnswer, read, write, domainWriteOpen, segRead, segWrite, segData. -/
def Obligations.SessionRequestsComplete : Prop :=
  ∀ (s s1 : State) (h : KocHdr) (k : Session) (idx sub : Nat), h.sid ≠ 0 →
    (∀ v, s.Reads h idx sub s1 k → s1.readObj (some k) idx sub = .bytes v → ¬ (idx = 0x3E00 ∧ sub = 5) →
      exec (.read h idx sub) s = .next (s1.replied h stOk v)) ∧
    (∀ len range, s.Reads h idx sub s1 k → s1.readObj (some k) idx sub = .dom len range →
      exec (.read h idx sub) s = .next (s1.replied h stOk (leBytes 8 len))) ∧
    (s.Reads h 0x3E00 5 s1 k →
      exec (.pmxKnownAnswer h) s = .next (s1.replied h stOk (leBytes 8 0x348372C1FAC61AEF))) ∧
    (∀ v, s.Writes h idx sub v s1 k → isDomain idx sub = false → (writeFx s1 k idx sub v).wait = none →
      exec (.write h idx sub v) s =
        .next ((writeFx s1 k idx sub v).post ((writeFx s1 k idx sub v).s.answer h
          { rid := h.rid, status := (writeFx s1 k idx sub v).st, value := (writeFx s1 k idx sub v).value }))) ∧
    (∀ len, 0 < len → len < 2 ^ 64 → s.Stages h idx sub len s1 k →
      exec (.domainWriteOpen h idx sub (leBytes 8 len)) s =
        .next ((s1.withW (s1.w.setSession k.sid fun x => { x with staged := x.staged ++ [{ idx, sub, len }] })).replied h stOk)) ∧
    (∀ seg len range, s.Admits h ftSegRead (objBytes idx sub ++ leBytes 4 seg) s1 k → s1.rights k idx sub false = none →
      s1.readObj (some k) idx sub = .dom len range → 65536 * seg < len → k.segs.length < 8 →
      let v := range (65536 * seg) (min 65536 (len - 65536 * seg))
      s1.domainBus idx sub (65536 * seg) v.length = [] →
      ∃ t, exec (.segRead h idx sub seg) s = .next t ∧ (∀ a, Cells.get t.w.hbm.mem.cells a = Cells.get s1.w.hbm.mem.cells a) ∧
        ∀ x, (s1.domainRead idx sub (65536 * seg) v.length).w.session h.sid = some x →
          t.w.outbox = (s1.domainRead idx sub (65536 * seg) v.length).w.outbox ++
            x.frames h.port h.src ((segFrames v).map fun f => (h.rid, .segData f.1 f.2))) ∧
    (∀ seg len x, s.Admits h ftSegWrite (objBytes idx sub ++ leBytes 4 seg ++ leBytes 4 len) s1 k →
      k.staged.find? (fun x => x.idx == idx && x.sub == sub) = some x → 65536 * seg < x.len → len = min 65536 (x.len - 65536 * seg) →
      k.segs.length < 8 →
      exec (.segWrite h idx sub seg len) s = .next (s1.withW (s1.w.setSession h.sid fun k =>
        { k with segs := k.segs ++ [{ rid := h.rid, idx, sub, seg, len, out := false }], busy := k.busy ++ [h.rid] })))

/-- The frames of a session that are no requests (R387, R394–R396): a SEG_DATA frame that fits is held, the last of a segment lands it, and the last
frame of one that is not complete is answered with the bitmap of what is held, which is the model's choice (log entry 54); a SEG_ACK that lacks
nothing ends the transfer and one that lacks frames has them sent again; an EVENT_ACK takes its event from the queue; PING is
answered by PONG; CLOSE closes the session without a notice. Forms: close, segData, segAck, eventAck, ping. -/
def Obligations.SessionFramesComplete : Prop :=
  ∀ (s s1 : State) (h : KocHdr) (k : Session),
    (∀ frame data x, s.kocFrame h ftSegData (leBytes 2 frame ++ leBytes 2 data.length ++ data) = .ok (s1, k) →
      k.segs.find? (fun x => x.rid == h.rid && !x.out) = some x → x.fits frame data = true →
      ({ x with frames := x.frames.set frame data } : SegXfer).bitmap ≠ fullMap x.len → frame + 1 ≠ cdiv x.len 1024 →
      exec (.segData h frame data) s = .next (s1.withW (s1.w.setSession h.sid fun y =>
        { y with segs := (k.segs.filter fun x => !(x.rid == h.rid && !x.out)) ++ [{ x with frames := x.frames.set frame data }] }))) ∧
    (∀ frame data x, s.kocFrame h ftSegData (leBytes 2 frame ++ leBytes 2 data.length ++ data) = .ok (s1, k) →
      k.segs.find? (fun x => x.rid == h.rid && !x.out) = some x → x.fits frame data = true → frame + 1 = cdiv x.len 1024 →
      let y : SegXfer := { x with frames := x.frames.set frame data }
      y.bitmap ≠ fullMap x.len →
      exec (.segData h frame data) s = .next ((s1.withW (s1.w.setSession h.sid fun z =>
        { z with segs := (k.segs.filter fun x => !(x.rid == h.rid && !x.out)) ++ [y] })).transmit h [(h.rid, .segAck y.bitmap stOk)])) ∧
    (∀ frame data x, s.kocFrame h ftSegData (leBytes 2 frame ++ leBytes 2 data.length ++ data) = .ok (s1, k) →
      k.segs.find? (fun x => x.rid == h.rid && !x.out) = some x → x.fits frame data = true →
      ({ x with frames := x.frames.set frame data } : SegXfer).bitmap = fullMap x.len →
      exec (.segData h frame data) s = .next ((s1.withW (s1.w.setSession h.sid fun y =>
        { y with segs := k.segs.filter fun x => !(x.rid == h.rid && !x.out) })).landSegment h k { x with frames := x.frames.set frame data })) ∧
    (∀ bitmap status x, s.kocFrame h ftSegAck (leBytes 8 bitmap ++ leBytes 2 status) = .ok (s1, k) →
      k.segs.find? (fun x => x.rid == h.rid && x.out) = some x →
      ((∀ f ∈ x.frames, bitmap.testBit f.1 = true) →
        exec (.segAck h bitmap status) s = .next (s1.withW (s1.w.setSession h.sid fun y =>
          { y with segs := y.segs.filter fun x => !(x.rid == h.rid && x.out) }))) ∧
      ((∃ f ∈ x.frames, bitmap.testBit f.1 = false) →
        exec (.segAck h bitmap status) s = .next (s1.transmit h
          ((x.frames.filter fun f => !bitmap.testBit f.1).map fun f => (h.rid, .segData f.1 f.2))))) ∧
    (∀ seq, s.kocFrame h ftEventAck (leBytes 4 seq) = .ok (s1, k) →
      ∃ t, exec (.eventAck h seq) s = .next t ∧
        t = { s1 with w := { s1.w with outbox := t.w.outbox, koc := { s1.w.koc with sessions := t.w.koc.sessions } } } ∧
        ∀ x, t.w.koc.sessions.find? (fun y => y.sid == k.sid) = some x → ∀ q ∈ x.events, q.seq ≠ seq) ∧
    (s.kocFrame h ftPing [] = .ok (s1, k) → exec (.ping h) s = .next (s1.transmit h [(h.rid, .pong)])) ∧
    (∀ reason, s.kocFrame h ftClose (leBytes 2 reason) = .ok (s1, k) →
      exec (.close h reason) s = .next (s1.withW (s1.w.closeSession k.sid none)))

/-- Openings (R386, R389–R391): an OPEN_REQ that nothing refuses takes one token and one signature and sends the offer; that its session id is one
that no session or opening has is the model's choice (log entry 73). An OPEN_FINISH ends its opening: where its signature verifies and its secret
decapsulates, the session is open with the keys of both directions and OPEN_DONE, under sequence number 0 and the session's tag, carries `ST_OK`;
else one without a tag carries `ST_DIGEST_MISMATCH` under session id 0 (the model's choice, log entry 177) and the refusal is counted. Before the
firmware's verification has ended, the side-band port refuses an OPEN_REQ with `ST_STATE` (log entry 174). A timed-out opening is forgotten and nothing
is sent. Forms: openReq, openFinish, openTimeout. -/
def Obligations.OpeningsComplete : Prop :=
  ∀ (s s1 : State) (h : KocHdr),
    let awake : State := s1.withW { s1.w with koc := { s1.w.koc with asleep := [] } }
    (∀ nonce hash, s.kocArrive h = .ok s1 → h.sid = 0 → h.seq = 0 → h.tag = [] → h.single ftOpenReq 64 = true → nonce.length = 32 →
      hash.length = 32 → awake.offerRefusal h.port hash = none →
      ∃ t sid nonce' key sig, exec (.openReq h nonce hash) s = .next t ∧ t.w.koc.openings.length = s1.w.koc.openings.length + 1 ∧
        t.ctl.sec.nextSig = s1.ctl.sec.nextSig + 1 ∧ t.ctl.sec.tokens = s1.ctl.sec.tokens - 1 ∧
        (∃ l, t.w.outbox = l ++ [.koc h.port h.src 0 0 h.rid [] (.offer nonce' sid s.otp.identity key sig)]) ∧
        (∀ x ∈ s1.w.koc.sessions, x.sid ≠ sid) ∧ (∀ x ∈ s1.w.koc.openings, x.sid ≠ sid)) ∧
    (∀ nonce hash st, s.kocArrive h = .ok s1 → h.sid = 0 → h.seq = 0 → h.tag = [] → h.single ftOpenReq 64 = true → nonce.length = 32 →
      hash.length = 32 → awake.offerRefusal h.port hash = some st →
      exec (.openReq h nonce hash) s = .next (awake.withW (awake.w.refuseOpening h st))) ∧
    (∀ nonce hash, h.port = .side → s.ctl.pins.pgAon = true → s.ctl.booted = false → s.addressed .side h.net = true →
      h.net.udp = s.ctl.persist.udp → h.sid = 0 → h.seq = 0 → h.tag = [] → h.single ftOpenReq 64 = true → nonce.length = 32 → hash.length = 32 →
      exec (.openReq h nonce hash) s = .next (s.withW (s.w.refuseOpening h stState))) ∧
    (∀ sid cipher sig o, s.kocArrive h = .ok s1 → h.sid = 0 → h.seq = 0 → h.tag = [] → h.headed ftOpenFinish = true →
      s1.w.koc.openings.find? (fun o => o.sid == sid && o.port == h.port) = some o → awake.sessionRefusal o.port o.keyHash = none →
      cipher.length = 1568 → sig.length = 2820 → h.fragSet 4392 = true →
      let verified := Config.masterVerify o.keyHash (Config.shake256 (o.transcript ++ cipher) 64) sig
      ∃ t, exec (.openFinish h sid cipher sig) s = .next t ∧ (∀ x ∈ t.w.koc.openings, x.sid ≠ sid) ∧
        (verified = true → ∀ secret, Config.mlkemDecap o.decapKey cipher = some secret →
          let k := o.session h.src secret (leBytes 4 o.sid ++ cipher ++ sig)
          t.w.koc.sessions = s1.w.koc.sessions ++ [k] ∧ t.w.outbox = s1.w.outbox ++ [k.frame h.port h.src 0 h.rid (.openDone stOk)]) ∧
        (verified = false ∨ Config.mlkemDecap o.decapKey cipher = none →
          t.w.koc.sessions = s1.w.koc.sessions ∧ t.w.koc.refused = bump 32 s1.w.koc.refused 1 ∧
          t.w.outbox = s1.w.outbox ++ [.koc h.port h.src 0 0 h.rid [] (.openDone stDigestMismatch)])) ∧
    (∀ p sid, ∃ t, exec (.openTimeout p sid) s = .next t ∧ (∀ x ∈ t.w.koc.openings, ¬ (x.sid = sid ∧ x.port = p)) ∧
      (∀ x ∈ s.w.koc.openings, ¬ (x.sid = sid ∧ x.port = p) → x ∈ t.w.koc.openings) ∧
      t = s.withW { s.w with koc := { s.w.koc with openings := t.w.koc.openings } })

/-- What time ends in KOC (R394–R396, R409, R417, R424): a transfer left incomplete, a staged write without a segment, a session idle or at the
end of its life, a lease whose term has run out; unacknowledged events go out again, each under a new sequence number. That they do so eight times and
not a ninth (log entry 75), and that PERSISTENT_FLUSH takes the oldest persistent write to flash (log entry 72), is the model's reading. Forms: segmentTimeout, stagedWriteTimeout, eventResendTimer, sessionIdleTimeout, sessionLifetimeExpiry, leaseExpiry, persistentFlush. -/
def Obligations.KocTimersComplete : Prop :=
  ∀ (s : State) (sid : Nat),
    (∀ rid, ∃ t, exec (.segmentTimeout sid rid) s = .next t ∧ (∀ k ∈ t.w.koc.sessions, k.sid = sid → ∀ x ∈ k.segs, x.rid ≠ rid) ∧
      t = s.withW { s.w with koc := { s.w.koc with sessions := t.w.koc.sessions } }) ∧
    (∀ idx sub, ∃ t, exec (.stagedWriteTimeout sid idx sub) s = .next t ∧
      (∀ k ∈ t.w.koc.sessions, k.sid = sid → ∀ x ∈ k.staged, ¬ (x.idx = idx ∧ x.sub = sub)) ∧
      t = s.withW { s.w with koc := { s.w.koc with sessions := t.w.koc.sessions } }) ∧
    (∃ t, exec (.sessionIdleTimeout sid) s = .next t ∧ (∀ k ∈ t.w.koc.sessions, k.sid ≠ sid) ∧ t = s.withW (s.w.closeSession sid none)) ∧
    (∃ t, exec (.sessionLifetimeExpiry sid) s = .next t ∧ (∀ k ∈ t.w.koc.sessions, k.sid ≠ sid) ∧
      t = s.withW (s.w.closeSession sid (some stState))) ∧
    (∀ k, s.w.koc.sessions.find? (fun k => k.sid == sid) = some k →
      ∃ t x, exec (.eventResendTimer sid) s = .next t ∧ t.w.koc.sessions.find? (fun k => k.sid == sid) = some x ∧
        (∀ q ∈ k.events, 1 ≤ q.tries → q.tries < 9 →
          { q with tries := q.tries + 1 } ∈ x.events ∧ ∃ n, k.tx < n ∧ k.frame k.port k.addr n 0 (.event q.seq q.ev) ∈ t.w.outbox) ∧
        x.events.length = (k.events.filter fun q => decide (q.tries < 9)).length ∧
        t.w.koc.evDropped = bump 64 s.w.koc.evDropped (k.events.filter fun q => decide (9 ≤ q.tries)).length) ∧
    (s.w.lease.holder ≠ 0 → s.leaseLeft = 0 → ∃ t, exec .leaseExpiry s = .next t ∧ t.w.lease.holder = 0 ∧ t.w.lease.term = 0 ∧
      t.w.lease.ended = bump 32 s.w.lease.ended 1) ∧
    (∀ p rest, s.ctl.persistQ = p :: rest →
      exec .persistentFlush s = .next { s with flash := { s.flash with persist := p }, ctl := { s.ctl with persistQ := rest } })

/-- The lease, resets and key lists (R396, R416, R417, R424, R429): a free lease is granted to the session that asks for a term of 100 to
60,000 ms, its holder renews it with a new term and releases it with 0; a revoke ends it; a write of 1 to 0x1030:01 is answered and then resets the
part; a key list of whole hashes is in force at once and in flash later, and closes the sessions that it no longer lets in.
A DOMAIN object is written whole by the one command of its row (the model's choice, log entry 53).
Forms: kocKeyListWrite, leaseRequest, leaseRevoke, resetWrite. -/
def Obligations.LeaseResetAndKeyListWrites : Prop :=
  ∀ (s s1 : State) (h : KocHdr) (k : Session) (v : List Byte),
    (s.Writes h 0x1020 1 v s1 k → v.length = 4 → 100 ≤ leNat v → leNat v ≤ 60000 → s1.ctl.persist.barred = false → s1.w.lease.holder = 0 →
      k.sid ≠ 0 → ∃ t, exec (.leaseRequest h v) s = .next t ∧ t.w.lease.holder = k.sid ∧ t.w.lease.term = leNat v ∧ t.w.lease.start = s1.ctl.clock) ∧
    (s.Writes h 0x1020 1 v s1 k → v.length = 4 → 100 ≤ leNat v → leNat v ≤ 60000 → s1.ctl.persist.barred = false → s1.w.lease.holder = k.sid →
      k.sid ≠ 0 →
      exec (.leaseRequest h v) s =
        .next ((s1.withW { s1.w with lease := { s1.w.lease with term := leNat v, start := s1.ctl.clock } }).replied h stOk)) ∧
    (s.Writes h 0x1020 1 v s1 k → v = [0, 0, 0, 0] → s1.ctl.persist.barred = false → s1.w.lease.holder = k.sid → k.sid ≠ 0 →
      exec (.leaseRequest h v) s = .next ((s1.withW (s1.w.endLease 0)).replied h stOk)) ∧
    (s.Writes h 0x1020 4 v s1 k → v = [1] → s1.w.lease.holder ≠ 0 → ∃ t, exec (.leaseRevoke h v) s = .next t ∧ t.w.lease.holder = 0) ∧
    (s.Writes h 0x1030 1 v s1 k → v = [1] →
      exec (.resetWrite h v) s = .next ((s1.replied h stOk).restart s1.ctl.pins.straps (bump 32 s1.ctl.resets 1))) ∧
    (∀ sub, sub = 4 ∨ sub = 5 → s.Stages h 0x6C00 sub v.length s1 k → v.length % 32 = 0 → v.length ≤ 512 →
      ∃ t, exec (.kocKeyListWrite h sub v) s = .next t ∧ t.flash = s1.flash ∧ t.ctl.persistQ = s1.ctl.persistQ ++ [t.ctl.persist] ∧
        t.ctl.persist = (if sub = 4 then { s1.ctl.persist with hostKeys := v } else { s1.ctl.persist with mgmtKeys := v }) ∧
        ∀ x ∈ t.w.koc.sessions, t.authorised x.port x.keyHash = true)

/-! ## Object writes with a row of their own: what each does once it is admitted -/

/-- Cores, windows and caches (R88, R98, R119, R122, R123, R214): a cache invalidation leaves no line in either cache; RESUME sets a STOPPED core
running at the first record not dispatched, or DONE where its END was dispatched (the latter DEDUCED, log entry 142), and wakes its cluster; OPEN
of a window that nothing refuses gives it its next generation and credits every slot; CLOSE of an OPEN window leaves it DRAINING, or CLOSED
without a credited slot; a dirty-map write clears the bits that are 1. Forms: cacheInvalidateAll, coreResume, windowOpen, windowClose,
dirtyMapClear. -/
def Obligations.CoreObjectWritesComplete : Prop :=
  ∀ (s s1 : State) (h : KocHdr) (k : Session) (c : CoreId) (i : WinId) (v : List Byte),
    (s.Writes h 0x2810 5 v s1 k → v = [1] → ∃ t, exec (.cacheInvalidateAll h v) s = .next t ∧
      (∀ d line, d < 2 → (t.w.die d).holds line = false) ∧ (∀ d, d < 2 → ∀ f ∈ (t.w.die d).fills, f.dropped = true) ∧
      t = ({ s1 with w := { s1.w with dies := t.w.dies } } : State).replied h stOk) ∧
    (s.Writes h (0x4000 + c) 2 v s1 k → v = [1] → (s1.w.core c).state = .stopped →
      exec (.coreResume h c v) s =
        .next ((s1.withW ((s1.w.setCore c { s1.w.core c with state := if (s1.w.core c).ended then .done else .running, halted := false, ended := false, buf := [] }).wake (c / 16))).replied h stOk)) ∧
    (∀ n, s.Writes h (0x4000 + c) (0x10 + 8 * i) (leBytes 1 1) s1 k → openRefusal s1 c i = none → s1.bound c = some n →
      ∃ t, exec (.windowOpen h c i) s = .next t ∧ t.otp = s1.otp ∧ t.flash = s1.flash ∧ t.res = s1.res ∧ t.w.hbm = s1.w.hbm ∧
        (t.w.win c i).st = .open_ ∧ (t.w.win c i).gen = nextGen (s1.w.win c i).gen ∧
        (t.w.win c i).credited = List.range (s1.w.win c i).slots ∧ (t.w.win c i).held = [] ∧ (t.w.win c i).owner = n) ∧
    (s.Writes h (0x4000 + c) (0x10 + 8 * i) (leBytes 1 2) s1 k → (s1.w.win c i).st = .open_ →
      exec (.windowClose h c i) s = .next ((s1.withW
        ((s1.w.setWin c i { s1.w.win c i with st := if (s1.w.win c i).credited.isEmpty then .closed else .draining }).sendLink
          (s1.w.win c i).link (s1.w.win c i).rank (.wclose c i (s1.w.win c i).gen))).replied h stOk)) ∧
    (s.Writes h (0x4000 + c) 14 v s1 k → v.length = 4 →
      exec (.dirtyMapClear h c v) s = .next ((s1.withW (s1.w.setCore c
        { s1.w.core c with dirty := (s1.w.core c).dirty &&& ~~~(BitVec.ofNat 32 (leNat v)) })).replied h stOk))

/-- Contexts (R281, R283–R286, R298): CREATE of an ABSENT context with a good configuration makes it SAVED; RESUME of a SAVED one that nothing
refuses and that no other context is in the way of goes to RESTORING, and its answer waits; PREEMPT and DESTROY of a RESIDENT one start the drain,
and their answers wait; DESTROY of a SAVED one makes it ABSENT; a doorbell moves the tail; an invalidation request is queued; an import replaces
slot and configuration. A DOMAIN object is written whole by the one command of its row (the model's choice, log entry 53).
Forms: contextCreate, contextResume, contextPreempt, contextDestroy, doorbell, tlbInvalidateRequest, contextImport. -/
def Obligations.ContextWritesComplete : Prop :=
  ∀ (s s1 : State) (h : KocHdr) (k : Session) (n : CtxId) (v : List Byte),
    (s.Writes h (0x3100 + n) 1 (leBytes 1 1) s1 k → (s1.ent n).st = .absent → cfgOk (s1.ent n).cfg = true →
      ∃ t, exec (.contextCreate h n) s = .next t ∧ (t.ent n).st = .saved ∧ (t.ent n).cfg = (s1.ent n).cfg ∧
        (t.w.ctx n).seed = BitVec.ofNat 64 (s1.ent n).seed ∧ (t.w.ctx n).step = 0 ∧ (t.w.ctx n).tail = 0 ∧ t.otp = s1.otp ∧
        t.flash = s1.flash) ∧
    (s.Writes h (0x3100 + n) 1 (leBytes 1 2) s1 k → resumeRefusal s1 n = none → s1.inWay n = [] →
      ∃ t, exec (.contextResume h n) s = .next t ∧ (t.ent n).st = .restoring ∧ t.w.waiters.any (fun x => x.what == .ctx n && x.rid == h.rid) = true) ∧
    (s.Writes h (0x3100 + n) 1 (leBytes 1 3) s1 k → (s1.ent n).st = .resident →
      exec (.contextPreempt h n) s = .next ((s1.startSave n .stay).held h (.ctx n)) ∧ ((s1.startSave n .stay).ent n).st = .saving) ∧
    (s.Writes h (0x3100 + n) 1 (leBytes 1 4) s1 k → (s1.ent n).st = .resident →
      exec (.contextDestroy h n) s = .next (((ckptDestroy s1 n).startSave n .destroy).held h (.ctx n))) ∧
    (s.Writes h (0x3100 + n) 1 (leBytes 1 4) s1 k → (s1.ent n).st = .saved →
      ∃ t, exec (.contextDestroy h n) s = .next t ∧ (t.ent n).st = .absent ∧ (t.ent n).cfg = List.replicate 64 0) ∧
    (s.Writes h (0x3100 + n) 4 v s1 k → v.length = 4 → (s1.ent n).st ≠ .absent →
      sub32 (leNat v) (s1.w.ctx n).tail ≤ 2 ^ (s1.ent n).rlog →
      ∃ t, exec (.doorbell h n v) s = .next t ∧ (t.w.ctx n).tail = leNat v ∧ t.res = s1.res) ∧
    (s.Writes h (0x3100 + n) 10 v s1 k → (s1.ent n).st ≠ .absent → v.length = 16 → le v 0 8 % 65536 = 0 → allZero (sl v 12 4) = true →
      exec (.tlbInvalidateRequest h n v) s =
        .next ((s1.withW (s1.w.setCtx n { s1.w.ctx n with invq := (s1.w.ctx n).invq ++ [v] })).replied h stOk)) ∧
    (∀ image, s.Stages h (0x3100 + n) 12 536870912 s1 k → (s1.ent n).st = .saved → (s1.w.ctx n).rst.busy = false →
      let cells := (image.filter fun c => decide (c.1 < 0x20000000)).foldl (fun m c => Cells.set m c.1 c.2) []
      let hd := cellRun (cells.filter fun c => decide (c.1 < 128)) 0 128
      le hd 0 2 = 1 → cfgOk (sl hd 64 64) = true → le hd 4 2 = 16 * le (sl hd 64 64) 1 1 →
      ∃ t, exec (.contextImport h n image) s = .next t ∧ (t.ent n).cfg = sl hd 64 64 ∧ (t.ent n).st = .saved ∧ (t.w.ctx n).hold = 0 ∧
        (t.w.ctx n).step = le hd 8 4)

/-- Seeds and predictor slots of a context that does not run (R242, R248, R255): a seed write takes the seed at epoch 0, a reseed takes the epoch,
256 good slots replace the context's. A DOMAIN object is written whole by the one command of its row (the model's choice, log entry 53). Forms: predictorSlotsWrite, seedWrite, reseed. -/
def Obligations.SeedAndPredictorWritesComplete : Prop :=
  ∀ (s s1 : State) (h : KocHdr) (k : Session) (n : CtxId) (v : List Byte), (s1.ent n).st ≠ .absent → s1.ctxRuns n = false →
    (s.Writes h (0x3F00 + n) 1 v s1 k → v.length = 8 →
      exec (.seedWrite h n v) s =
        .next (((s1.withW (s1.w.setCtx n { s1.w.ctx n with seed := BitVec.ofNat 64 (leNat v) })).seedAt n 0).replied h stOk)) ∧
    (s.Writes h (0x3F00 + n) 4 v s1 k → v.length = 4 → exec (.reseed h n v) s = .next ((s1.seedAt n (leNat v)).replied h stOk)) ∧
    (s.Stages h (0x3D00 + n) 1 v.length s1 k → v.length = 16384 → (∀ i, i < 256 → predSlotOk (sl v (64 * i) 64) = true) →
      exec (.predictorSlotsWrite h n v) s = .next ((s1.withW (s1.w.hbmPut (predBase n 0) v)).replied h stOk))

/-- Snapshots (R267, R269, R270, R272): a request in IDLE for a later step of a context arms one; once the group has drained and no cluster whose
Weight Store the list names sleeps, the copy ends with a status and a size, and changes HBM only in the snapshot region; then it is READY, and the
advance that waited for it is completed with its STEP record; a release in READY returns to IDLE. Forms: snapshotRequest, snapshotCopy,
snapshotReady, snapshotRelease. -/
def Obligations.SnapshotCommandsComplete : Prop :=
  (∀ (s s1 : State) (h : KocHdr) (k : Session) (v : List Byte),
     (s.Writes h 0x3200 1 v s1 k → s1.w.snap.st = .idle → v.length = 16 → le v 0 2 < 256 → (s1.ent (le v 0 2)).st ≠ .absent →
       (s1.w.ctx (le v 0 2)).step < le v 4 4 → le v 2 2 = 0 → le v 8 8 % 64 = 0 →
       exec (.snapshotRequest h v) s =
         .next ((s1.withW { s1.w with snap := { s1.w.snap with st := .armed, ctx := le v 0 2, step := le v 4 4, list := le v 8 8 } }).replied h stOk)) ∧
     (s.Writes h 0x3200 3 v s1 k → v = [1] → s1.w.snap.st = .ready →
       exec (.snapshotRelease h v) s = .next ((s1.withW { s1.w with snap := { s1.w.snap with st := .idle } }).replied h stOk))) ∧
  (∀ s : State, s.ctl.part = .ready →
     (s.w.snap.st = .armed → s.w.snap.draining = true → s.w.drained (s.ent s.w.snap.ctx) = true →
       s.snapSleepers = [] →
       ∃ t, exec .snapshotCopy s = .next t ∧ t = { s with w := t.w } ∧
         t.w.snap = { s.w.snap with st := .copying, copied := true, status := s.snapCopy.2.1, bytes := s.snapCopy.2.2 } ∧
         ∀ a, a < snapBase ∨ snapBase + snapSize ≤ a → Cells.get t.w.hbm.mem.cells a = Cells.get s.w.hbm.mem.cells a) ∧
     (s.w.snap.st = .copying → s.w.snap.copied = true →
       ∃ t, exec .snapshotReady s = .next t ∧ t = { s with w := t.w } ∧ t.w.snap.st = .ready ∧
         t.w.snap.taken = (s.w.snap.taken + 1) % 2 ^ 64 ∧ (t.w.ctx s.w.snap.ctx).step = s.w.snap.newStep ∧
         (t.w.core s.w.snap.core).stepWait = false))

/-- The control of a DMA channel by its object (R301, R317), in the cluster of a context: RESUME sets a PAUSED or HALTED channel running and
clears its latches; PAUSE pauses a RUNNING one with nothing in flight, and waits for the drain of any other; SKIP completes a HALTED one's
descriptor with the latched status; ABORT of a PAUSED or HALTED one drops the rest of the chain. Forms: dmaCtrlResume, dmaCtrlPause, dmaCtrlSkip,
dmaCtrlAbort. -/
def Obligations.DmaControlWritesComplete : Prop :=
  ∀ (s s1 : State) (h : KocHdr) (k : Session) (d : ChanId) (n : Nat) (r : Resid), s1.chanCtx d = some (n, r) →
    let w := s1.w.wake (chanCluster d)
    let c := w.chan d
    (s.Writes h (0x5000 + d) 2 (leBytes 1 1) s1 k → c.st = .paused ∨ c.st = .halted →
      exec (.dmaCtrlResume h d) s = .next ((s1.withW (w.moveChan n d { c with st := .running, by_ := .nobody, desc := if c.have_ then c.desc else List.replicate 64 0, latStatus := 0, latAddr := 0, latDir := 0, latKind := 0 } c.lastStatus)).replied h stOk)) ∧
    (s.Writes h (0x5000 + d) 2 (leBytes 1 2) s1 k → c.st = .running → w.chanQuiet c = true →
      exec (.dmaCtrlPause h d) s = .next ((s1.withW (w.moveChan n d { c with st := .paused, by_ := .user } c.lastStatus)).replied h stOk)) ∧
    (s.Writes h (0x5000 + d) 2 (leBytes 1 2) s1 k → c.st = .running → w.chanQuiet c = false →
      exec (.dmaCtrlPause h d) s = .next ((s1.withW (w.moveChan n d { c with st := .pausing, by_ := .user } c.lastStatus)).held h (.dma d))) ∧
    (s.Writes h (0x5000 + d) 2 (leBytes 1 3) s1 k → c.st = .halted →
      exec (.dmaCtrlSkip h d) s = .next ((s1.withW (w.endDescriptor r n d c c.latStatus false)).replied h stOk)) ∧
    (s.Writes h (0x5000 + d) 2 (leBytes 1 4) s1 k → c.st = .paused ∨ c.st = .halted →
      exec (.dmaCtrlAbort h d) s =
        .next ((s1.withW (w.endDescriptor r n d c (if c.latStatus = 0 then stState else c.latStatus) true)).replied h stOk))

/-- Links, groups and queue pairs (R335, R342, R366, R369, R378, R434): RETRAIN takes an UP link down and a FAILED one to waiting for signal; a lost
rank that no open collective needs is cleared, and clusters whose COLL may then be admitted are asked to wake; each configuration write of a group
without an open collective sets its object and starts its sequence again; READY starts a RESET queue pair that is completely configured, and RESET
clears one in any state. What completes a configuration, where the remote object has the first sequence number, and what RESET makes of the number
of messages is the model's reading (log entries 51, 59, 60). A DOMAIN object is written whole by the one command of its row (the model's choice, log entry 53).
Forms: linkRetrain,
lostRankClear, groupConfigWrite, qpReady, qpReset. -/
def Obligations.LinkGroupAndQueuePairWritesComplete : Prop :=
  ∀ (s s1 : State) (h : KocHdr) (k : Session) (v : List Byte),
    (∀ l : LinkId, s.Writes h (0x6010 + l) 2 v s1 k → v = [1] → (s1.w.link l).st = .up →
      exec (.linkRetrain h l v) s = .next ((s1.linkDown l).replied h stOk)) ∧
    (∀ l : LinkId, s.Writes h (0x6010 + l) 2 v s1 k → v = [1] → (s1.w.link l).st = .failed →
      ∃ t, exec (.linkRetrain h l v) s = .next t ∧ (t.w.link l).st = .waitSignal ∧
        t = ({ s1 with w := { s1.w with links := t.w.links } } : State).replied h stOk) ∧
    (s.Writes h 0x6000 6 v s1 k → v.length = 2 → leNat v ∈ s1.w.seam.lost →
      (∀ c ∈ s1.w.collsOpen, leNat v ∉ (s1.w.group c.group).members) →
      ∃ t, exec (.lostRankClear h v) s = .next t ∧ leNat v ∉ t.w.seam.lost ∧ (∀ r ∈ s1.w.seam.lost, r ≠ leNat v → r ∈ t.w.seam.lost) ∧
        t = ({ s1 with w := { s1.w with seam := t.w.seam, dies := t.w.dies } } : State).replied h stOk) ∧
    (∀ g : GroupId, (∀ c ∈ s1.w.collsOpen, c.group ≠ g) →
      let G := s1.w.group g
      let set (x : Group) : State := (s1.withW ({ s1.w with colls := s1.w.colls.filter fun c => c.group != g }.setGroup g
        { x with next := 0, last := 0xFFFFFFFF, passed := [], through := [] })).replied h stOk
      let l := (List.range (v.length / 2)).map fun i => le v (2 * i) 2
      (s.Stages h (0x6410 + g) 1 v.length s1 k → v.length % 2 = 0 → v.length ≤ 8192 → (∀ r ∈ l, r ≤ 4095) → l.Nodup → s1.w.seam.rank ∈ l →
        exec (.groupConfigWrite h g 1 v) s = .next (set { G with members := l })) ∧
      (s.Writes h (0x6410 + g) 2 v s1 k → v.length = 4 → 100 ≤ leNat v → leNat v ≤ 100000 →
        exec (.groupConfigWrite h g 2 v) s = .next (set { G with tau := leNat v })) ∧
      (s.Writes h (0x6410 + g) 3 v s1 k → v.length = 8 → exec (.groupConfigWrite h g 3 v) s = .next (set { G with seed := BitVec.ofNat 64 (leNat v) })) ∧
      (s.Writes h (0x6410 + g) 4 v s1 k → v.length = 2 → leNat v < 256 → (s1.ent (leNat v)).st ≠ .absent →
        exec (.groupConfigWrite h g 4 v) s = .next (set { G with owner := leNat v }))) ∧
    (∀ q : QpId, s.Writes h (0x6A00 + q) 1 (leBytes 1 1) s1 k → (s1.w.qp q).st = .reset → qpComplete s1 (s1.w.qp q) = true →
      exec (.qpReady h q) s = .next ((s1.withW (s1.w.setQp q { s1.w.qp q with st := .ready, psn := le (s1.w.qp q).remote 20 4 % 2 ^ 24, rate := 100, target := 100, alpha := 1, n := 0, cnpAt := none, write := none })).replied h stOk)) ∧
    (∀ q : QpId, s.Writes h (0x6A00 + q) 1 (leBytes 1 0) s1 k →
      exec (.qpReset h q) s = .next ((s1.withW (s1.w.setQp q { s1.w.qp q with st := .reset, psn := 0, msn := 0, prod := 0, cons := 0, write := none })).replied h stOk))

/-- Power objects (R435, R442, R443, R448, R457): a floor of a cluster is set, and a sleeping cluster is woken that lies deeper than it; floor 3 drops
the cluster's waiting wake requests, and the cluster enters OFF at once, or as soon as an entry or a wake in progress ends; a margin of every rail within
±10 steps is set while nothing occupies a cluster; main power switches off, which destroys every context and leaves every cluster in OFF with its floor,
and on again, from SAFE only after a write of 0; a write of the value that main power has switches nothing. That the floors and the other settings stay
while the rails are off is the model's reading (log entry 65). Forms: clusterFloorWrite, railMarginWrite, mainPowerOff, mainPowerOn. -/
def Obligations.PowerWritesComplete : Prop :=
  ∀ (s s1 : State) (h : KocHdr) (k : Session) (v : List Byte),
    (∀ c : ClusterId, s.Writes h (0x2100 + c) 2 v s1 k → v.length = 1 → leNat v < 3 →
      ∃ t, exec (.clusterFloorWrite h c v) s = .next t ∧ (t.w.cluster c).floor = leNat v ∧ (t.w.cluster c).power = (s1.w.cluster c).power ∧
        t = ({ s1 with w := { s1.w with clusters := t.w.clusters, dies := t.w.dies } } : State).replied h stOk ∧
        (floorDepth (leNat v) < depth (s1.w.cluster c).settled → t.w = { ((s1.w.setCluster c { s1.w.cluster c with floor := leNat v }).wake c) with
          koc := t.w.koc, outbox := t.w.outbox })) ∧
    (∀ c : ClusterId, s.Writes h (0x2100 + c) 2 v s1 k → v = [3] → (∀ e ∈ s1.res, e.2.st.live = true → e.2.holds c = false) →
      let x := s1.w.cluster c
      ∃ t, exec (.clusterFloorWrite h c v) s = .next t ∧ (t.w.cluster c).floor = 3 ∧ (c : Nat) ∉ (t.w.die (dieOfCluster c)).powerQ ∧
        (c : Nat) ∉ (t.w.die (dieOfCluster c)).restartQ ∧
        (x.power ≠ .off → x.power ≠ .waking → x.entering = none → t.w.cluster c = { x with floor := 3, entering := some .off }) ∧
        (x.power = .off ∨ x.power = .waking ∨ x.entering ≠ none → t.w.cluster c = { x with floor := 3 }) ∧
        t = ({ s1 with w := { s1.w with clusters := t.w.clusters, dies := t.w.dies } } : State).replied h stOk) ∧
    (s.Writes h 0x2000 6 v s1 k → v.length = 16 → (∀ b ∈ v, -10 ≤ b.toInt ∧ b.toInt ≤ 10) → (∀ e ∈ s1.res, e.2.st.live = false) →
      exec (.railMarginWrite h v) s = .next (({ s1 with ctl := { s1.ctl with margins := v } } : State).replied h stOk)) ∧
    (s.Writes h 0x2000 1 (leBytes 1 0) s1 k → s1.ctl.mainPower ≠ 0 →
      ∃ t, exec (.mainPowerOff h) s = .next t ∧ t.ctl.mainPower = 0 ∧ t.ctl.railGroups = 0 ∧ t.ctl.pgMain = false ∧ t.res = [] ∧
        (s1.ctl.part = .safe → t.ctl.part = .safe ∧ t.ctl.safeOff = true) ∧
        ∀ i, i < 64 → (t.w.cluster i).power = .off ∧ (t.w.cluster i).floor = (s1.w.cluster i).floor) ∧
    (s.Writes h 0x2000 1 (leBytes 1 0) s1 k → s1.ctl.mainPower = 0 →
      exec (.mainPowerOff h) s = .next (({ s1 with ctl := { s1.ctl with safeOff := s1.ctl.safeOff || s1.ctl.part == .safe } } : State).replied h stOk)) ∧
    (s.Writes h 0x2000 1 (leBytes 1 1) s1 k → s1.ctl.mainPower ≠ 1 →
      (s1.ctl.part ≠ .safe ∧ 2 ≤ s1.ctl.step) ∨ (s1.ctl.part = .safe ∧ s1.ctl.safeOff = true) →
      ∃ t, exec (.mainPowerOn h) s = .next t ∧ t.ctl.mainPower = 1 ∧ t.ctl.step = 3 ∧ t.ctl.railGroups = 1 ∧ t.ctl.part = .bringup) ∧
    (s.Writes h 0x2000 1 (leBytes 1 1) s1 k → s1.ctl.mainPower ≠ 1 →
      (s1.ctl.part ≠ .safe ∧ s1.ctl.step < 2) ∨ (s1.ctl.part = .safe ∧ s1.ctl.safeOff = false) →
      exec (.mainPowerOn h) s = .next (({ s1 with ctl := { s1.ctl with mainPower := 1 } } : State).replied h stOk)) ∧
    (s.Writes h 0x2000 1 (leBytes 1 1) s1 k → s1.ctl.mainPower = 1 → exec (.mainPowerOn h) s = .next (s1.replied h stOk))

/-- Security (R460, R463–R467, R469, R472, R473): a licence of the next generation that verifies is kept as pending; a topology key's hash joins
the fuses and the key its area; an image whose signature and digest verify goes into the slot of its type that is not active; a quote takes a
token and its answer waits; an accepted transition changes the life-cycle state after its answer; a refill adds a token up to 32; a quote that
waits is signed with the next index of the key, whose block is fused before, and holds the body and the signature; the part warns once of the key's
end, and keeps in flash that it has (the latter the model's choice, log entry 184).
A DOMAIN object is written whole by the one command of its row (the model's choice, log entry 53). Forms: licenceInstall,
topologyKeyAdd, firmwareImageWrite, quoteRequest, attestationTokenRefill, lifecycleTransition, quoteSigned. -/
def Obligations.SecurityCommandsComplete : Prop :=
  (∀ (s s1 : State) (h : KocHdr) (k : Session) (v : List Byte),
     (s.Stages h 0x1400 1 v.length s1 k → exec (.licenceInstall h v) s = .next (
       if s1.licOk v (s1.otp.generation + 1) = true then ({ s1 with flash := { s1.flash with pendingLic := some v } } : State).replied h stOk
       else s1.replied h stLicence)) ∧
     (s.Stages h 0x1820 4 v.length s1 k → v.length = 68 → s1.otp.topoKeys.length < 4 → Config.shake256 v 32 ∉ s1.otp.topoKeys →
       s1.otp.life ≠ .returned → s1.otp.life ≠ .scrapped →
       exec (.topologyKeyAdd h v) s = .next (({ s1 with otp := { s1.otp with topoKeys := s1.otp.topoKeys ++ [Config.shake256 v 32] }, flash := { s1.flash with keys := s1.flash.keys ++ [v] } } : State).replied h stOk)) ∧
     (s.Stages h 0x1880 1 v.length s1 k → fwHeaderOk v = true → s1.otp.floor ≤ fwSecurity v →
       exec (.firmwareImageWrite h v) s = .next (if s1.fwSigned v = true then ({ s1 with flash := { s1.flash with firmware := s1.flash.firmware.set (fwSlot (fwType v) (1 - if fwType v = 1 then s1.ctl.sec.active1 else s1.ctl.sec.active2)) v } } : State).replied h stOk
         else s1.replied h stDigestMismatch)) ∧
     (s.Writes h 0x1810 1 v s1 k → v.length = 32 → s1.ctl.sec.signing = none → s1.sigRefusal false = none →
       exec (.quoteRequest h v) s = .next (({ s1 with ctl := { s1.ctl with sec := { s1.ctl.sec with tokens := s1.ctl.sec.tokens - 1, signing := some v } } } : State).held h .quote)) ∧
     (∀ l, s.Writes h 0x1800 1 v s1 k → lifeOf (leNat v) = some l → s1.lifeStatus v k.keyHash = stOk →
       ∃ t, exec (.lifecycleTransition h v) s = .next t ∧ t.otp.life = l ∧ t.ctl.step = 1 ∧ t.ctl.part = .bringup ∧ t.res = [] ∧
         ∀ x, s1.w.session h.sid = some x → x.frame h.port h.src (x.tx + 1) h.rid (.reply stOk []) ∈ t.w.outbox)) ∧
  (∀ s : State,
     (s.ctl.pins.pgAon = true → exec .attestationTokenRefill s =
       .next { s with ctl := { s.ctl with sec := { s.ctl.sec with tokens := min 32 (s.ctl.sec.tokens + 1) } } }) ∧
     (∀ nonce, s.ctl.sec.signing = some nonce →
       ∃ t, exec .quoteSigned s = .next t ∧ t.ctl.sec.signing = none ∧ t.ctl.sec.nextSig = s.ctl.sec.nextSig + 1 ∧
         t.ctl.sec.quote = s.quoteBody nonce ++
           Config.xmssSign (if s.otp.scrap then [] else s.otp.seed.getD []) s.ctl.sec.nextSig (s.quoteBody nonce) ∧
         t.otp = { s.otp with blocks := max s.otp.blocks (s.ctl.sec.nextSig / 256 + 1) } ∧
         t.flash = { s.flash with mirror := some s.ctl.sec.nextSig, sigWarned := t.flash.sigWarned } ∧
         (s.ctl.sec.nextSig + 1 + 65536 ≠ sigTotal → t.flash.sigWarned = s.flash.sigWarned) ∧
         (s.ctl.sec.nextSig + 1 + 65536 = sigTotal → t.flash.sigWarned = true) ∧ t.res = s.res ∧ ∀ x ∈ t.w.waiters, x.what ≠ .quote))

/-- The security floor (R464): a write of v raises it to v where v is above it and at most 64 and both active images have a security version
of at least v; any other value answers `ST_STATE` and changes nothing. No image below the floor is eligible or chosen to run, and no step lowers
the floor. -/
def Obligations.SecurityFloorOnlyRises : Prop :=
  (∀ (s s1 : State) (h : KocHdr) (k : Session) (v : List Byte), s.Writes h 0x1880 3 v s1 k → v.length = 1 →
    let x := leNat v
    let ok := s1.otp.floor < x ∧ x ≤ 64 ∧ x ≤ fwSecurity (s1.fwImage 1 s1.ctl.sec.active1) ∧ x ≤ fwSecurity (s1.fwImage 2 s1.ctl.sec.active2)
    (ok → exec (.securityFloorRaise h v) s = .next (({ s1 with otp := { s1.otp with floor := x } } : State).replied h stOk)) ∧
    (¬ ok → exec (.securityFloorRaise h v) s = .next (s1.replied h stState))) ∧
  (∀ (s : State) (type ab : Nat), fwSecurity (s.fwImage type ab) < s.otp.floor → s.eligible type ab = false ∧ s.chooseFw type ≠ some ab) ∧
  ∀ s t : State, step s = .next t → s.otp.floor ≤ t.otp.floor

/-- Reliability objects (R483, R489, R494, R497, R505): the oldest error record is acknowledged by its sequence number; the log is cleared; a scan
that nothing refuses begins and wakes its cluster; buddy and ward are set to a direct peer or to none, and an image held for a ward that is no more
is no base for another one's (R501); a restore of a SAVED context begins and
asks its holder for the image. Forms: errorRecordAck, errorLogClear, scanRequest, buddySet, wardSet, checkpointRestoreRequest. -/
def Obligations.ReliabilityWritesComplete : Prop :=
  ∀ (s s1 : State) (h : KocHdr) (k : Session) (v : List Byte),
    (∀ r rest, s.Writes h 0x7000 2 v s1 k → v.length = 4 → s1.w.errs.queue = r :: rest → r.seq = leNat v →
      exec (.errorRecordAck h v) s = .next ((s1.withW { s1.w with errs := { s1.w.errs with queue := rest } }).replied h stOk)) ∧
    (s.Writes h 0x7200 2 v s1 k → v = [1] →
      exec (.errorLogClear h v) s = .next (({ s1 with flash := { s1.flash with log := [] } } : State).replied h stOk)) ∧
    (s.Writes h 0x7401 1 v s1 k → v.length = 2 → scanRefusal s1 (le v 0 1) (le v 1 1) = none →
      exec (.scanRequest h v) s = .next ((s1.withW ({ s1.w with scan := { s1.w.scan with st := 1, cluster := le v 0 1, phys := le v 1 1, runs := bump 32 s1.w.scan.runs 1 } }.wake (le v 0 1))).replied h stOk)) ∧
    (s.Writes h 0x7400 1 v s1 k → v.length = 2 → s1.w.peerOk (leNat v) = true → (∀ e ∈ s1.w.ctxs, e.2.ck.busy = false) →
      ∃ t, exec (.buddySet h v) s = .next t ∧ t.w.buddy = { s1.w.buddy with buddy := leNat v } ∧
        (leNat v ≠ s1.w.buddy.buddy → ∀ e ∈ t.w.ctxs, e.2.ck.valid = false) ∧
        t = ({ s1 with w := { s1.w with buddy := t.w.buddy, ctxs := t.w.ctxs } } : State).replied h stOk) ∧
    (s.Writes h 0x7400 2 v s1 k → v.length = 2 → s1.w.peerOk (leNat v) = true → s1.w.buddy.inbound = none →
      exec (.wardSet h v) s = .next ((s1.withW { s1.w with buddy := { s1.w.buddy with
        ward := leNat v
        image := if leNat v = s1.w.buddy.ward then s1.w.buddy.image else s1.w.buddy.image.map fun i => { i with former := true } } }).replied h stOk)) ∧
    (∀ n : CtxId, s.Writes h (0x7500 + n) 0x20 v s1 k → (s1.ent n).st = .saved → v.length = 16 → s1.resuming n = false →
      (s1.w.ctx n).rst.busy = false → s1.inWay n = [] → le v 0 2 ≠ 0xFFFF → s1.w.directLinks (le v 0 2) ≠ [] → le v 0 2 ∉ s1.w.seam.lost →
      allZero (sl v 8 8) = true →
      ∃ t, exec (.checkpointRestoreRequest h n v) s = .next t ∧
        (t.w.ctx n).rst = { st := .checking, holder := le v 0 2, srcCtx := le v 2 2, step := le v 4 4 } ∧ t.res = s1.res)

/-! ## The sequencer -/

/-- SETI, ADDI, the ALU records, LDS and STS (R62, R71, R106): the record at the head of the fetch buffer writes the value that its row gives to
its destination register (s0 discards it), the next ring index is the next record's, and nothing else of the machine changes but its signal, its
event and, where it asks for one, its completion entry; LDS, at an address that is a multiple of 8 within the scratchpad, puts the eight bytes,
little-endian, into its destination register and leaves every byte of every memory; STS stores its source register's eight bytes there and leaves
every other byte. Forms: seti, addi, aluAdd, aluSub, aluAnd, aluOr, aluXor, aluShl, aluShr, aluSar, aluMul, aluMin, aluMax, aluSlt, aluSltu, lds,
sts. -/
def Obligations.RegisterAndScratchpadRecordsComplete : Prop :=
  (let ran (i : CoreId → Instr) (row : Record → Bool) (value : (Nat → Word) → Record → Word) : Prop :=
     ∀ (s : State) (c : CoreId) (e : Env) (idx : Nat) (r : Record), s.scalarHead c row = some (e, idx, r) → scalarBad e r = false →
       ∃ t, exec (i c) s = .next t ∧
         ScalarRan s t c r (setReg (s.w.core c).regs r.rd (value (fun j => (s.w.core c).regs.getD j 0) r)) (add32 idx 1)
   let alu (i : CoreId → Instr) (sub : Nat) (f : Word → Word → Word) : Prop :=
     ran i (fun r => r.op.toNat == 0x03 && r.sub == sub) fun s r => f (s r.ra) (s r.rb)
   ran .seti (fun r => r.op.toNat == 0x01) (fun _ r => r.imm) ∧
   ran .addi (fun r => r.op.toNat == 0x02) (fun s r => s r.ra + r.imm) ∧
   alu .aluAdd 0 (fun a b => a + b) ∧ alu .aluSub 1 (fun a b => a - b) ∧ alu .aluAnd 2 (fun a b => a &&& b) ∧
   alu .aluOr 3 (fun a b => a ||| b) ∧ alu .aluXor 4 (fun a b => a ^^^ b) ∧
   alu .aluShl 5 (fun a b => a <<< (b.toNat % 64)) ∧ alu .aluShr 6 (fun a b => a >>> (b.toNat % 64)) ∧
   alu .aluSar 7 (fun a b => a.sshiftRight (b.toNat % 64)) ∧ alu .aluMul 8 (fun a b => a * b) ∧
   alu .aluMin 9 (fun a b => if a.toInt < b.toInt then a else b) ∧ alu .aluMax 10 (fun a b => if a.toInt < b.toInt then b else a) ∧
   alu .aluSlt 11 (fun a b => if a.toInt < b.toInt then 1 else 0) ∧ alu .aluSltu 12 (fun a b => if a.toNat < b.toNat then 1 else 0)) ∧
  (∀ (s : State) (c : CoreId) (e : Env) (idx : Nat) (r : Record),
     let k := s.w.core c
     let a := (k.reg r.ra + r.imm).toNat
     scalarBad e r = false → a % 8 = 0 → a + 8 ≤ 0x60000 →
     (s.scalarHead c (fun r => r.op.toNat == 0x04) = some (e, idx, r) →
       ∃ t, exec (.lds c) s = .next t ∧ (t.w.core c).regs = setReg k.regs r.rd (BitVec.ofNat 64 (leNat (Cells.read k.sp.cells a 8))) ∧
         (t.w.core c).nextIdx = add32 idx 1 ∧ (∀ m b, Cells.get ((t.w.core c).mem m).cells b = Cells.get (k.mem m).cells b) ∧
         (∀ d, d ≠ (c : Nat) → t.w.core d = s.w.core d) ∧ t = { s with w := t.w }) ∧
     (s.scalarHead c (fun r => r.op.toNat == 0x05) = some (e, idx, r) →
       ∃ t, exec (.sts c) s = .next t ∧ (t.w.core c).regs = k.regs ∧ (t.w.core c).nextIdx = add32 idx 1 ∧
         Cells.read (t.w.core c).sp.cells a 8 = leBytes 8 (k.reg r.rb).toNat ∧
         (∀ b, b < a ∨ a + 8 ≤ b → Cells.get (t.w.core c).sp.cells b = Cells.get k.sp.cells b) ∧
         (t.w.core c).ws = k.ws ∧ (t.w.core c).ps = k.ps ∧ (∀ d, d ≠ (c : Nat) → t.w.core d = s.w.core d) ∧ t = { s with w := t.w }))


/-- NOP, WAIT, BR and LOOP (R71): NOP and a WAIT whose counter has reached its threshold only go on; BR goes to its target where its condition
holds on its source register; LOOP counts its register down and goes to its target while the result is not zero. Forms: nop, br, loop, wait. -/
def Obligations.FlowRecordsComplete : Prop :=
  ∀ (s : State) (c : CoreId) (e : Env) (idx : Nat) (r : Record), scalarBad e r = false →
    let k := s.w.core c
    let target := (idx + r.imm.toNat % 2 ^ 32) % 2 ^ 32
    let on := (idx + 1) % 2 ^ 32
    (s.scalarHead c (fun r => r.op.toNat == 0x00) = some (e, idx, r) → ∃ t, exec (.nop c) s = .next t ∧ ScalarRan s t c r k.regs on) ∧
    (s.scalarHead c (fun r => r.op.toNat == 0x08) = some (e, idx, r) → ∃ t, exec (.wait c) s = .next t ∧ ScalarRan s t c r k.regs on) ∧
    (s.scalarHead c (fun r => r.op == 6 && decide (r.sub ≤ 4)) = some (e, idx, r) →
      let v := (k.reg r.ra).toInt
      let taken := r.sub = 0 ∨ (r.sub = 1 ∧ v = 0) ∨ (r.sub = 2 ∧ v ≠ 0) ∨ (r.sub = 3 ∧ v < 0) ∨ (r.sub = 4 ∧ 0 ≤ v)
      (taken → ∃ t, exec (.br c) s = .next t ∧ ScalarRan s t c r k.regs target) ∧
      (¬ taken → ∃ t, exec (.br c) s = .next t ∧ ScalarRan s t c r k.regs on)) ∧
    (s.scalarHead c (fun r => r.op.toNat == 0x07) = some (e, idx, r) →
      let v := k.reg r.ra - 1
      ∃ t, exec (.loop c) s = .next t ∧ ScalarRan s t c r (setReg k.regs r.ra v) (if v = 0 then on else target))

/-- SIGNAL, FENCE, EVENT, END and STEP (R53, R54, R69, R71, R258, R269, R421): SIGNAL raises its signal once the records it names have completed, and is
kept aside until then; FENCE ends once none is; EVENT raises event 0x0002 of its core with `ST_OK`, the tag, the opcode and the immediate, and
completes; END stops the core's fetching, under the tail it met, which lets the core go on once the tail differs (the model's reading, log entry 96);
STEP with the current number changes nothing; with a larger one, while no checkpoint is being read, it moves the histories and the predictor slots on
and then advances the context's step number, or, where an armed snapshot is triggered, brings the group's matrix records to a boundary and waits with
its core for the snapshot; and with a smaller one it completes with `ST_STATE`. An advance shifts the amax history of every statistics slot that has an
entry, by one entry, and leaves its counts; a fold takes an amax into entry 0 as a maximum and adds to the counts; that a slot whose access fails on
the bus stays as it was is the model's reading (log entry 64), so these are stated without such a failure. Forms: signal, fence, stepRec, eventRec,
endRec. -/
def Obligations.SynchronisingRecordsComplete : Prop :=
  (∀ (s : State) (c : CoreId) (e : Env) (idx : Nat) (r : Record), scalarBad e r = false →
     let k := s.w.core c
     let on := add32 idx 1
     (s.scalarHead c (fun r => r.op.toNat == 0x09) = some (e, idx, r) → fld r.imm.toNat 63 4 = 0 → k.named r.imm.toNat = [] →
       ∃ t, exec (.signal c) s = .next t ∧ ScalarRan s t c r k.regs on ∧
         (r.sigEn = true → t.w.signals = s.w.signals ++ [{ src := c, cores := sigCores r c, ctr := r.sigCtr, inc := r.sigInc }])) ∧
     (s.scalarHead c (fun r => r.op.toNat == 0x09) = some (e, idx, r) → fld r.imm.toNat 63 4 = 0 → k.named r.imm.toNat ≠ [] →
       ∃ t, exec (.signal c) s = .next t ∧ (t.w.core c).deferred = k.deferred ++ [{ cmd := r, idx, ids := k.named r.imm.toNat }] ∧
         t.w.signals = s.w.signals ∧ t.w.hbm = s.w.hbm ∧ (t.w.core c).nextIdx = on ∧ (t.w.core c).regs = k.regs) ∧
     (s.scalarHead c (fun r => r.op.toNat == 0x0A) = some (e, idx, r) → fld r.imm.toNat 63 4 = 0 → k.named r.imm.toNat = [] →
       ∃ t, exec (.fence c) s = .next t ∧ ScalarRan s t c r k.regs on) ∧
     (s.scalarHead c (fun r => r.op.toNat == 0x0D) = some (e, idx, r) →
       let event := s.w.event 0x0002 (0x4000 + c) 0 (dieOfCore c) (some e.n) stOk
         (leBytes 2 r.tag.toNat ++ leBytes 2 r.op.toNat ++ leBytes 8 r.imm.toNat)
       exec (.eventRec c) s = .next (s.withW (event.endScalar e idx r stOk on)) ∧
         ScalarRan s (s.withW (event.endScalar e idx r stOk on)) c r k.regs on ∧ event.koc.raised = bump 64 s.w.koc.raised 1) ∧
     (s.scalarHead c (fun r => r.op.toNat == 0x0E) = some (e, idx, r) →
       ∃ t, exec (.endRec c) s = .next t ∧ (t.w.core c).endTail = (s.w.ctx e.n).tail ∧ (t.w.core c).regs = k.regs ∧
         ((t.w.core c).ended = true ∨ (t.w.core c).state = .done) ∧ t = { s with w := t.w })) ∧
  (∀ (s : State) (c : CoreId) (e : Env) (idx : Nat) (r : Record), s.scalarHead c (fun r => r.op.toNat == 0x0C) = some (e, idx, r) →
     scalarBad e r = false → r.imm.toNat < 0xFFFFFFFF →
     let n := r.imm.toNat
     (n = (s.w.ctx e.n).step → ∃ t, exec (.stepRec c) s = .next t ∧ (t.w.ctx e.n).step = n ∧ ScalarRan s t c r (s.w.core c).regs (add32 idx 1)) ∧
     ((s.w.ctx e.n).step < n → (s.w.ctx e.n).ck.st ≠ .reading → ¬ (s.w.snap.st = .armed ∧ s.w.snap.ctx = e.n ∧ s.w.snap.step ≤ n) →
       let u := (s.withW (s.w.advanceSlots e.n n)).advanceStep e.n n
       exec (.stepRec c) s = .next (u.withW (u.w.endScalar e idx r stOk (add32 idx 1)))) ∧
     ((s.w.ctx e.n).step < n → (s.w.ctx e.n).ck.st ≠ .reading → s.w.snap.st = .armed ∧ s.w.snap.ctx = e.n ∧ s.w.snap.step ≤ n →
       let u := e.r.coreList.foldl State.stopCore s
       ∃ t, exec (.stepRec c) s = .next t ∧ t = { u with w := t.w } ∧
         t.w.snap = { u.w.snap with draining := true, core := c, newStep := n } ∧ (t.w.core c).stepWait = true ∧
         (t.w.core c).buf = (u.w.core c).buf ∧ (t.w.ctx e.n).step = (u.w.ctx e.n).step ∧
         t.w.hbm = (u.w.advanceSlots e.n n).hbm) ∧
     (n < (s.w.ctx e.n).step → exec (.stepRec c) s = .next (s.withW (s.w.endScalar e idx r stState (add32 idx 1))))) ∧
  (∀ (w : World) (n new k : Nat) (v : Conv), k < 4096 → w.hbm.busBad = [] →
     let old := w.hbmBytes (statBase n k) 320
     let shifted := (w.advanceSlots n new).hbmBytes (statBase n k) 320
     let folded := (w.foldInto n k v).hbmBytes (statBase n k) 320
     (le old 0 4 = 0 → shifted = old) ∧
     (0 < le old 0 4 → le shifted 0 4 = min 64 (le old 0 4 + 1) ∧ le shifted 64 4 = 0 ∧ sl shifted 4 60 = sl old 4 60 ∧
       ∀ i, i < 63 → le shifted (64 + 4 * (i + 1)) 4 = le old (64 + 4 * i) 4) ∧
     le folded 4 4 = (le old 4 4 + v.retries) % 2 ^ 32 ∧ le folded 8 4 = (le old 8 4 + v.satTiles.length) % 2 ^ 32 ∧
     le folded 12 4 = (le old 12 4 + v.clamped) % 2 ^ 32 ∧ sl folded 68 252 = sl old 68 252 ∧
     (v.amaxs = [] → le folded 0 4 = le old 0 4 ∧ le folded 64 4 = le old 64 4) ∧
     (v.amaxs ≠ [] → le folded 0 4 = max 1 (le old 0 4) ∧
       le folded 64 4 = v.amaxs.foldl (fun top a => max top (f32Up a)) (le old 64 4) % 2 ^ 32))

/-- DMAGO (R301, R308): START sets an IDLE channel running at the descriptor that P0 locates, for this core; RESUME, PAUSE, SKIP and ABORT act on
the channel that the immediate names as their rows of R301 say; a PAUSE of a channel with reads in flight keeps its record until they have
drained. Forms: dmagoStart, dmagoResume, dmagoPause, dmagoSkip, dmagoAbort. -/
def Obligations.DmagoRecordsComplete : Prop :=
  ∀ (s : State) (c : CoreId) (e : Env) (idx : Nat) (r : Record),
    let d := 8 * ((c : Nat) / 16) + r.imm.toNat % 8
    let ch := s.w.chan d
    let row (a : Nat) : Prop := s.scalarHead c (isDmago a) = some (e, idx, r)
    let fin (w : World) : State := s.withW (w.endScalar e idx r stOk (add32 idx 1))
    let reg := (s.w.core c).reg (fld r.p0.toNat 60 56)
    (row 0 → dmagoBad e r true = false → r.p0 ≠ 0 → refSpace r.p0 ≤ 1 → refOk r.p0 reg 64 = true → ch.st = .idle →
      ∃ w, exec (.dmagoStart c) s = .next (fin w) ∧ (w.chan d).st = .running ∧ (w.chan d).core = c ∧ (w.chan d).have_ = false ∧
        (w.chan d).cur.toNat % 2 ^ 48 = refAddr r.p0 reg % 2 ^ 48) ∧
    (row 1 → dmagoBad e r false = false → ch.st = .paused ∨ ch.st = .halted →
      exec (.dmagoResume c) s = .next (fin (s.w.moveChan e.n d { ch with st := .running, by_ := .nobody, desc := if ch.have_ then ch.desc else List.replicate 64 0, latStatus := 0, latAddr := 0, latDir := 0, latKind := 0 } ch.lastStatus))) ∧
    (row 2 → dmagoBad e r false = false → ch.st = .running → s.w.chanQuiet ch = true →
      exec (.dmagoPause c) s = .next (fin (s.w.moveChan e.n d { ch with st := .paused, by_ := .user } ch.lastStatus))) ∧
    (row 2 → dmagoBad e r false = false → ch.st = .running → s.w.chanQuiet ch = false →
      ∃ t, exec (.dmagoPause c) s = .next t ∧ (t.w.chan d).st = .pausing ∧ (t.w.core c).dmaWait = some (d, none)) ∧
    (row 3 → dmagoBad e r false = false → ch.st = .halted →
      exec (.dmagoSkip c) s = .next (fin (s.w.endDescriptor e.r e.n d ch ch.latStatus false))) ∧
    (row 4 → dmagoBad e r false = false → ch.st = .paused ∨ ch.st = .halted →
      exec (.dmagoAbort c) s = .next (fin (s.w.endDescriptor e.r e.n d ch (if ch.latStatus = 0 then stState else ch.latStatus) true)))

/-- Fetch, dispatch and completion (R80, R82, R83, R85, R286): with a page that translates and a clean block that no bus error meets,
COMMAND_FETCH puts the 64 bytes at the ring slot of the next index into the fetch buffer as a record; an engine record goes to the end of its
queue with the registers it captures and its threshold; a record that has run leaves its queue; a signal whose sources are in order raises its
counter on every core it reaches. Forms: commandFetch, engineRecordDispatch, recordComplete, syncSignalDelivery. -/
def Obligations.FetchDispatchAndCompletionComplete : Prop :=
  ∀ (s : State) (c : CoreId) (e : Env),
    (∀ pa x, s.dispatching c = some e → (s.w.core c).buf = [] →
      let idx := (s.w.core c).nextIdx % 2 ^ 32
      0 < sub32 (s.w.ctx e.n).tail idx → sub32 (s.w.ctx e.n).tail idx ≤ 2 ^ 31 →
      (s.w.walker (c / 16)).xlate s.w.hbm.mem e.r.root e.n (ringAddr e.r e.j idx) false = (.ok pa, x) →
      (s.w.putWalker (c / 16) e.n x).hbmPoison pa 64 = false → (s.w.putWalker (c / 16) e.n x).busHits [pa / 64] = false →
      ∃ t, exec (.commandFetch c) s = .next t ∧
        (t.w.core c).buf = [(idx, Record.ofBytes (Cells.read s.w.hbm.mem.cells pa 64))] ∧ t = { s with w := t.w }) ∧
    (∀ idx r rest q, s.dispatching c = some e → (s.w.core c).buf = (idx, r) :: rest → queueOf r.op.toNat = some q →
      ((s.w.core c).queue q).length < queueCap q → (s.w.core c).inFlight < 16 →
      ∃ t, exec (.engineRecordDispatch c) s = .next t ∧
        ((t.w.core c).queue q) = (s.w.core c).queue q ++
          [{ id := (s.w.core c).nextId, cmd := r, ind := (s.w.core c).captures r, thr := (s.w.core c).threshold r, idx }] ∧
        (∀ p, p ≠ q → (t.w.core c).queue p = (s.w.core c).queue p) ∧ (t.w.core c).nextIdx = add32 idx 1 ∧
        (t.w.core c).buf = rest ∧ (t.w.core c).regs = (s.w.core c).regs ∧ t.w.hbm = s.w.hbm) ∧
    (∀ q t0 rest st count flags, s.env c = some e → (s.w.core c).queue q = t0 :: rest → t0.st = .done st count flags →
      (∀ x ∈ rest, x.id ≠ t0.id) →
      ∃ t, exec (.recordComplete c q) s = .next t ∧ (t.w.core c).queue q = rest ∧ (t.w.core c).regs = (s.w.core c).regs ∧
        (∀ m, (t.w.core c).mem m = (s.w.core c).mem m)) ∧
    (∀ i x, s.w.signals[i]? = some x →
      ((s.w.signals.take i).any fun y => y.src == x.src && y.ctr == x.ctr && y.cores.any fun c => decide (c ∈ x.cores)) = false →
      (∀ d ∈ x.cores, s.w.asleep (d / 16) = false) → x.cores.Nodup →
      ∃ t, exec (.syncSignalDelivery i) s = .next t ∧ t.w.signals = s.w.signals.eraseIdx i ∧
        (∀ d ∈ x.cores, (t.w.core d).ctrs = ((s.w.core d).addCtr x.ctr x.inc).ctrs) ∧
        (∀ d, d ∉ x.cores → t.w.core d = s.w.core d))

/-- Waits (R84, R86): a wait holds exactly when the counter is at most 2^15 − 1 increments, modulo 2^16, past its threshold; an entry whose wait
has not come true when it expires, and whose units the part has (R523 lets `ST_UNIT_ABSENT` come first), is done with `ST_TIMEOUT` and a
UE-context record of unit 6, and a scalar record that waits completes with `ST_TIMEOUT`. Forms: waitTimeout. -/
def Obligations.WaitsHoldAndExpire : Prop :=
  (∀ (s : State) (c : CoreId) (e : Env), s.env c = some e → e.st = .resident → s.w.asleep (c / 16) = false →
     (∀ q x, s.w.arrived c = none → firstWaiting q ((s.w.core c).queue q) = some x → (s.w.core c).entryReady x = false →
       s.w.lacksUnit s.ctl.sec.units e x = false →
       exec (.waitTimeout c (.queue q)) s = .next (s.withW
         ((s.w.setCore c ((s.w.core c).mark q x.id (.done stTimeout 0 0))).waitRecord e x.cmd x.idx stTimeout))) ∧
     (∀ idx r rest, s.dispatching c = some e → (s.w.core c).buf = (idx, r) :: rest → isScalarOp r.op.toNat = true →
       (s.w.core c).waitReady r = false →
       exec (.waitTimeout c .sequencer) s =
         .next (s.withW ((s.w.waitRecord e r idx stTimeout).endScalar e idx r stTimeout (add32 idx 1))))) ∧
  (∀ ctr thr : Nat, ctr < 2 ^ 16 → thr < 2 ^ 16 →
     (waitHolds ctr thr = true ↔ ∃ n, n < 2 ^ 15 ∧ (thr + n) % 2 ^ 16 = ctr))

/-- A command record is 64 bytes, aligned to 64 bytes, with its twelve fields at the offsets that R63 gives, little-endian as every field of
the part: every ring slot is aligned, what COMMAND_FETCH reads from the bytes of a record is the record, and the completion record carries
its tag. -/
def Obligations.RecordsAreLaidOut : Prop :=
  (∀ r : Record, r.bytes.length = 64 ∧ Record.ofBytes r.bytes = r ∧
    sl r.bytes 0 1 = leBytes 1 r.op.toNat ∧ sl r.bytes 1 1 = leBytes 1 r.flags.toNat ∧ sl r.bytes 2 2 = leBytes 2 r.tag.toNat ∧
    sl r.bytes 4 4 = leBytes 4 r.mode.toNat ∧ sl r.bytes 8 8 = leBytes 8 r.sync.toNat ∧ sl r.bytes 16 8 = leBytes 8 r.p0.toNat ∧
    sl r.bytes 24 8 = leBytes 8 r.p1.toNat ∧ sl r.bytes 32 8 = leBytes 8 r.p2.toNat ∧ sl r.bytes 40 8 = leBytes 8 r.p3.toNat ∧
    sl r.bytes 48 4 = leBytes 4 r.stream.toNat ∧ sl r.bytes 52 4 = leBytes 4 r.opflags.toNat ∧ sl r.bytes 56 8 = leBytes 8 r.imm.toNat) ∧
  (∀ (r : Resid) (j idx : Nat), cfgOk r.cfg = true → ringAddr r j idx % 64 = 0) ∧
  ∀ (r : Record) (st flags c step count : Nat), sl (completionBytes r st flags c step count) 0 2 = leBytes 2 r.tag.toNat

/-! ## The engine queues -/

/-- VEW, VRED, VCONV and VRAND complete (R70, R72, R77–R79). Forms: the twenty VEW rows, the six VRED rows, vconv, and the three VRAND rows. A record of a row is one of its opcode and subcode, and a run that continues
ends it with its status, count and flags. -/
def Obligations.VectorRecordsComplete : Prop :=
  let row (op sub : Nat) (r : Record) : Prop := r.op.toNat = op ∧ r.opflags.toNat % 256 = sub
  let vew (i : CoreId → Instr) (sub : Nat) : Prop := RowCompletes i .vector (row 0x40 sub) fun _ => runVew
  let vred (i : CoreId → Instr) (sub : Nat) : Prop := RowCompletes i .vector (row 0x41 sub) fun _ => runVred
  vew .vewAdd 0x00 ∧ vew .vewSub 0x01 ∧ vew .vewMul 0x02 ∧ vew .vewFma 0x03 ∧ vew .vewMax 0x04 ∧ vew .vewMin 0x05 ∧
  vew .vewAbs 0x06 ∧ vew .vewNeg 0x07 ∧ vew .vewScale 0x08 ∧ vew .vewRecip 0x09 ∧ vew .vewSqrt 0x0A ∧ vew .vewRsqrt 0x0B ∧
  vew .vewExp 0x0C ∧ vew .vewLog 0x0D ∧ vew .vewTanh 0x0E ∧ vew .vewSigmoid 0x0F ∧ vew .vewErf 0x10 ∧ vew .vewSelect 0x11 ∧
  vew .vewCmpgt 0x12 ∧ vew .vewClip 0x13 ∧
  vred .vredSum 0 ∧ vred .vredMax 1 ∧ vred .vredMin 2 ∧ vred .vredSumsq 3 ∧ vred .vredMeanvar 4 ∧ vred .vredAmax 5 ∧
  RowCompletes .vconv .vector (fun r => r.op.toNat = 0x42) (fun _ => runVconv) ∧
  RowCompletes .vrandBits .vector (row 0x43 0) (fun _ => runVrand) ∧
  RowCompletes .vrandUniform .vector (row 0x43 1) (fun _ => runVrand) ∧
  RowCompletes .vrandBernoulli .vector (row 0x43 2) (fun _ => runVrand)

/-- What a VEW record computes for each element (R72, R77): the exact result of its subcode over the operands' elements, where an operand
of SIZE 1 in a dimension supplies its one element; b is the immediate's F32 where the record says so. -/
def Obligations.VewElementsFollowTheirOperator : Prop :=
  ∀ (w : World) (core : Nat) (k : Int) (o : VewOps) (i : List Nat),
    let a := (w.vewVal core o.a i).n
    let b := match o.b with | some s => (w.vewVal core s i).n | none => o.bimm.getD FNum.zero
    let c := match o.c with | some s => (w.vewVal core s i).n | none => FNum.zero
    let el (sub : Nat) : FNum := (w.vewElem core sub k o i).n
    el 0x00 = a.add b ∧ el 0x01 = a.add b.neg ∧ el 0x02 = a.mul b ∧ el 0x03 = (a.mul b).add c ∧ el 0x04 = a.max b ∧ el 0x05 = a.min b ∧
    el 0x06 = a.abs ∧ el 0x07 = a.neg ∧ el 0x08 = a.scale k ∧ (∀ sub, 0x09 ≤ sub → sub ≤ 0x10 → el sub = unaryFn sub a) ∧
    el 0x11 = (if c.isZero then b else a) ∧
    (a ≠ .nan → b ≠ .nan → el 0x12 = if b.lt a then .fin ⟨false, 1, 0⟩ else FNum.zero) ∧ el 0x13 = (a.max b.neg).min b

/-- What a VRED record computes for a row of values (R29, R57, R58, R78), a VRAND record for an element (R72, R79), a matrix product for an
output (R29, R31, R73, R246) and a mask record for a tile (R200, R207, R208). MAX and MIN are the largest and the smallest value, AMAX the largest
magnitude; MEANVAR is the mean and the variance of R58; SUM adds the sums of the row's groups of G values in increasing group order, each addition
rounded to PS36, and SUMSQ does so with the squares. BITS is the high half of a random word, UNIFORM its high 24 bits over 2^24, BERNOULLI one
where its high half lies below the immediate. An output of a product takes every K-group of its own once, in increasing order, and each group's
sum is added to its accumulator and rounded to PS36, whatever the other outputs do; the accumulator's container then stands in the destination
P2. PRUNE keeps a stored weight with its value or drops it: THRESH drops those below the threshold, TILEK drops COUNT of the tile, or all when it
holds fewer, and none that ranks above one it keeps; REGROW keeps every stored weight and gives each position it adds +0; the new Batt is written into the
free run found for it, and no byte outside that run, the list entry, the free map and the two counts changes. -/
def Obligations.ReductionsAndDrawsFollowTheirRule : Prop :=
  -- SUM and SUMSQ
  (∀ (fmt G : Nat) (acc : Rm) (sample : Bool) (pos : Nat) (g : Rng) (vs : List Val), acc.random = false → 0 < G →
    let total (l : List Val) : Val :=
      ((groupsOf G vs.length l).map (groupSum (fmtNarrow fmt))).foldl (fun a v => roundPs acc 0 (a.add v)) Val.zero
    let squares := vs.map fun v => orTags (v.n.mul v.n) [v]
    (groupsOf G vs.length vs).flatten = vs ∧ (∀ x ∈ groupsOf G vs.length vs, x ≠ [] ∧ x.length ≤ G) ∧
    vredRow 0 fmt G acc sample pos g vs = ([total vs], g) ∧ vredRow 3 fmt G acc sample pos g vs = ([total squares], g)) ∧
  -- products
  (∀ M N K G Kt m n, 0 < G → 0 < Kt → m < M → n < N →
    ((denseSteps M N K G Kt).filter fun s => s.m == m && s.n == n).map (·.g) = List.range (cdiv K G)) ∧
  (∀ (mode : Rm) (cols : Nat) (pos : Nat → Nat → Nat) (draw : Nat → Nat) (sum : Nat → Nat → Nat → Val) (g : Rng) (acc : Tab Val)
    (steps : List AccStep) (m n : Nat), mode.random = false → n < cols → (∀ s ∈ steps, s.n < cols) →
    Tab.get Val.zero (accumulateSteps mode cols pos draw sum g acc steps).1 (m * cols + n) =
      (steps.filter fun s => s.m == m && s.n == n).foldl (fun v s => roundPs mode 0 (v.add (sum m n s.g))) (Tab.get Val.zero acc (m * cols + n))) ∧
  (∀ (w : World) (e : Env) (t : Entry) (p2 : Desc) (acc : Nat → Nat → Val) (pos : Nat → Nat → Nat) (start : Nat → Int) (g : Rng) (retries : Nat)
    (sat : List Nat) (fills : Nat) (tile : Option (Nat × Nat)) (count : Option Nat) (x : List Nat), p2.fmt = 12 → x ∈ p2.writtenCoords →
    (∀ y ∈ p2.writtenCoords, p2.bitAddr y % 64 = 0 ∧ (y ≠ x → p2.bitAddr y ≠ p2.bitAddr x)) →
    Cells.read ((w.finishProduct e t p2 none acc pos start g retries sat fills tile count).w.core e.c).ps.cells (p2.bitAddr x / 8) 5 =
      leBytes 5 (psEncode (acc (nth x 1) (nth x 0)))) ∧
  -- mask records
  (∀ (sel count : Nat) (thr : FNum) (b : Batt), (b.w.map (·.1)).Nodup →
    let keep := pruneKeep sel count thr b
    keep.Sublist b.w ∧
    (sel = 0 → ∀ x ∈ b.w, (x ∈ keep ↔ (b.num x.1 x.2).below thr = false)) ∧
    (sel = 1 → keep.length = b.w.length - count ∧
      ∀ x ∈ b.w, x ∉ keep → ∀ y ∈ keep, rankLe (b.num x.1 x.2, x.1) (b.num y.1 y.2, y.1) = true)) ∧
  (∀ (b : Batt) (ps : List Nat) (p : Nat), (∀ q ∈ ps, q ∉ b.w.map (·.1)) →
    (∀ x ∈ b.w, x ∈ addWeights b ps) ∧ (p ∈ ps → Tab.get 1 (addWeights b ps) p = 0) ∧ (∀ x ∈ addWeights b ps, x ∈ b.w ∨ x.1 ∈ ps)) ∧
  (∀ (e : Env) (l : BattList) (old : Nat) (pick : Batt → Nat → List (Nat × Nat)) (a : MaskAcc) (entry : Nat) (b : Batt) (run : Nat),
    let m := (a.w.core e.c).ws
    l.batt m entry = .ok b → l.tainted m entry = false → (pick b entry).map (·.1) ≠ b.w.map (·.1) →
    let new : Batt := { b with w := pick b entry, mx := if b.nnz = 0 then List.replicate 128 0x7F else b.mx, gen := add32 b.gen 1 }
    let n := new.encode.length
    let at_ := 256 * (l.pool + run)
    let others := [(l.entryAddr entry, 2), (l.mapAt.1, l.mapAt.2), (256 * l.pool + 6, 2), (256 * l.gran + 28, 4)]
    l.ordbase + (leNat (Cells.read m.cells (256 * l.gran + 28) 4) + new.nnz - b.nnz) ≤ 2 ^ 32 → l.freeRun m.cells (n / 256) = some run →
    (∀ p ∈ others, p.1 + p.2 ≤ at_ ∨ at_ + n ≤ p.1) →
    let q := a.tile e l old pick entry
    q.rewritten = a.rewritten + 1 ∧ q.before = a.before + b.nnz ∧ q.after = a.after + (pick b entry).length ∧
    Cells.read (q.w.core e.c).ws.cells at_ n = new.encode ∧
    ∀ i, (∀ p ∈ (at_, n) :: others, i < p.1 ∨ p.1 + p.2 ≤ i) → Cells.get (q.w.core e.c).ws.cells i = Cells.get m.cells i) ∧
  -- MAX, MIN, AMAX, MEANVAR and the draws
  (∀ (fmt G : Nat) (acc : Rm) (sample : Bool) (pos : Nat) (g : Rng) (v : Val) (vs : List Val),
    ((vredRow 1 fmt G acc sample pos g (v :: vs)).1.map (·.n) = [(vs.map (·.n)).foldl FNum.max v.n]) ∧
    ((vredRow 2 fmt G acc sample pos g (v :: vs)).1.map (·.n) = [(vs.map (·.n)).foldl FNum.min v.n]) ∧
    ((vredRow 5 fmt G acc sample pos g (v :: vs)).1.map (·.n) = [((v :: vs).map fun x => x.n.abs).foldl FNum.max FNum.zero]) ∧
    (vredRow 4 fmt G acc sample pos g (v :: vs)).1 = [(meanVar (v :: vs)).mu, (meanVar (v :: vs)).variance sample] ∧
    (∀ sub ∈ [1, 2, 4, 5], (vredRow sub fmt G acc sample pos g (v :: vs)).2 = g)) ∧
  (∀ (imm : Nat) (x : Word),
    vrandElem 0 imm x = x.toNat / 2 ^ 32 ∧ vrandElem 1 imm x = convPlain 0 .rne 0 (.fin ⟨false, x.toNat / 2 ^ 40, -24⟩) ∧
    vrandElem 2 imm x = if x.toNat / 2 ^ 32 < imm % 2 ^ 32 then 0x3F800000 else 0)

/-- A VEW, VRED, VCONV or VRAND record that does not continue has no side effect on data (R523): every byte of HBM, of every Weight Store
and of every scratchpad reads as before, and every byte of every Partial-Sum Store but those that hold a container's tags, which reading a word
with an uncorrectable error sets (R100, R105). -/
def Obligations.RefusedVectorRecordsWriteNothing : Prop :=
  ∀ (run : World → Env → Entry → Run), run ∈ [runVew, runVred, runVconv, runVrand] →
    ∀ (w : World) (e : Env) (t : Entry), continuing (run w e t).st = false →
      (∀ a, Cells.get (run w e t).w.hbm.mem.cells a = Cells.get w.hbm.mem.cells a) ∧
      ∀ c a, Cells.get ((run w e t).w.core c).ws.cells a = Cells.get (w.core c).ws.cells a ∧
        Cells.get ((run w e t).w.core c).sp.cells a = Cells.get (w.core c).sp.cells a ∧
        (a % 8 ≠ 4 → Cells.get ((run w e t).w.core c).ps.cells a = Cells.get (w.core c).ps.cells a)

/-- The matrix queue's products, mask records and predictors complete (R3, R70, R73–R76, R194–R213, R217–R242). Forms: matmul, spmm, spmmt, sddmm,
full, pruneThresh, pruneTilek, pruneRowk, regrowGrad, regrowRandt, regrowRandr, probeTile, probeRow, screen, predictPredicted, predictExact. A
record of a row is one of its
opcode and mode, and a run that continues ends it with its status, count and flags; PREDICT waits until its context's slots have been
updated after the last STEP. -/
def Obligations.MatrixRecordsComplete : Prop :=
  (let op (n : Nat) (r : Record) : Prop := r.op.toNat = n
   let mask (n kind : Nat) (r : Record) : Prop := r.op.toNat = n ∧ r.opflags.toNat / 16 % 8 = kind
   RowCompletes .matmul .matrix (op 0x30) (fun _ => goingOn (runMatmul none)) ∧
   RowCompletes .spmm .matrix (op 0x31) (fun s => goingOn (runSparse false s.ctl.sec.units none)) ∧
   RowCompletes .spmmt .matrix (op 0x32) (fun s => goingOn (runSparse true s.ctl.sec.units none)) ∧
   RowCompletes .sddmm .matrix (op 0x33) (fun _ => goingOn (runSddmm none)) ∧ RowCompletes .full .matrix (op 0x34) (fun _ => runFull) ∧
   RowCompletes .pruneThresh .matrix (mask 0x35 0) (fun _ => runPrune) ∧ RowCompletes .pruneTilek .matrix (mask 0x35 1) (fun _ => runPrune) ∧
   RowCompletes .pruneRowk .matrix (mask 0x35 2) (fun _ => runPrune) ∧
   RowCompletes .regrowGrad .matrix (mask 0x36 0) (fun _ => runRegrow) ∧ RowCompletes .regrowRandt .matrix (mask 0x36 1) (fun _ => runRegrow) ∧
   RowCompletes .regrowRandr .matrix (mask 0x36 2) (fun _ => runRegrow) ∧
   RowCompletes .probeTile .matrix (mask 0x37 0) (fun _ => runProbe) ∧ RowCompletes .probeRow .matrix (mask 0x37 1) (fun _ => runProbe) ∧
   RowCompletes .screen .matrix (op 0x39) (fun s => runScreen s.ctl.sec.units)) ∧
  (∀ (i : CoreId → Instr) (mode : Nat), (i, mode) = (.predictPredicted, 0) ∨ (i, mode) = (.predictExact, 1) →
     ∀ (s : State) (c : CoreId) (e : Env) (t : Entry), s.starting c .matrix = some (e, t) → t.cmd.op.toNat = 0x38 →
       t.cmd.opflags.toNat / 4 % 4 = mode → (s.w.ctx e.n).predWait = false →
       let R := (runPredict s.ctl.sec.units s.w e t).overBus s.w c
       continuing R.st = true → exec (i c) s = .next (Finished s R.w c .matrix t.id R.st R.count R.flags))


/-- CROWN (R92–R94). Forms: crownSum, crownMeanvar, crownMax (a good record arrives at its group, with the accumulation mode it reads, unless it completes a
group of cores none of which has an agreed phase and whose records disagree, which then all end with `ST_STATE`), crownPhaseStart (the start pulse of a group whose cores have all arrived with
agreeing records, that runs no phase and that neither a save nor a snapshot drains, begins its phase), crownPhaseEnd (a phase of good records whose arrivals lie within 64 clk at every node
ends: each record of the group is done, with `ST_POISON` where it gets a poisoned result and else with `ST_OK`; the result stands in the region
of the first core and of each BCAST core; no other core and nothing of HBM changes). -/
def Obligations.CrownRecordsComplete : Prop :=
  (∀ (i : CoreId → Instr) (kind : Nat), (i, kind) ∈ [(Instr.crownSum, 0), (Instr.crownMeanvar, 1), (Instr.crownMax, 2)] →
    ∀ (s : State) (c : CoreId) (e : Env) (t : Entry), s.starting c .matrix = some (e, t) → t.cmd.op.toNat = 0x3A → crownKind t.cmd = kind →
      crownBad e t = false →
      let acc := if t.cmd.accMode = 7 then s.w.nums.accMode else t.cmd.accMode
      let w := s.w.softStart c
      let w := w.setCore c ((w.core c).mark .matrix t.id (.arrived acc))
      ((∀ g, g ≤ 10 → ∀ l, w.crownGroup (crownFirst c g) g = some l → (∃ x ∈ l, x.2.1.cmd.slog = g) →
          crownAgree l = true ∨ ∃ x ∈ l, w.hasPhase x.1 = true) →
        exec (i c) s = .next (s.withW w)) ∧
      ∀ l, w.crownClash c = some l → exec (i c) s = .next (s.withW (w.crownFail l stState))) ∧
  (∀ (s : State) (c : CoreId) (e : Env) (t : Entry) (acc : Nat) (l : List (Nat × Entry × Nat)), s.env c = some e → e.st = .resident →
    s.w.snapHolds e.n = false → s.w.arrived c = some (t, acc) →
    let slog := t.cmd.slog
    let first := crownFirst c slog
    s.w.crownGroup first slog = some l → crownAgree l = true → (∀ p ∈ s.w.crown, p.first ≠ first) →
    exec (.crownPhaseStart c) s = .next (s.withW { s.w with crown := s.w.crown ++ [{ first, slog, started := true }] })) ∧
  (∀ (s : State) (c : CoreId) (e : Env) (p : CrownPhase) (l : List (Nat × Entry × Nat)), s.env c = some e →
    s.w.crown.find? (fun p => p.started && decide (c.val ∈ crownCores p.first p.slog)) = some p → s.w.crownGroup p.first p.slog = some l →
    (∀ x ∈ l, crownBad { e with c := x.1 } x.2.1 = false) → crownSkew p.slog (l.map fun x => crownOffset x.2.1.cmd) ≠ none →
    let vals := s.w.crownResult e l
    let gets (x : Nat × Entry × Nat) : Bool := x.1 == p.first || crownBcast x.2.1.cmd
    ∃ u, exec (.crownPhaseEnd c) s = .next u ∧ u = { s with w := u.w } ∧ (∀ q ∈ u.w.crown, q.first ≠ p.first) ∧ u.w.hbm = s.w.hbm ∧
      (∀ d, d ∉ crownCores p.first p.slog → u.w.core d = s.w.core d) ∧
      ∀ x ∈ l,
        (∀ y ∈ (u.w.core x.1).matrix, y.id = x.2.1.id →
          y.st = .done (if gets x && vals.any (·.2) then stPoison else stOk) (crownElems x.2.1.cmd) 0) ∧
        (gets x = true → ∀ k v, vals[k]? = some v →
          Cells.read ((u.w.core x.1).mem (memOfSpace (refSpace x.2.1.cmd.p1))).cells (refAddr x.2.1.cmd.p1 (x.2.1.ind.getD 1 0) + 8 * k) 5 =
            leBytes 5 v.1))

/-- LOAD, the three modes of LOADW, and STORE complete (R146–R167, R179–R181). Forms: load, loadwTiles, loadwPool, loadwValues, store. A run that
continues ends its record; a STORE into another part's window, while a credit of the window is held, and its extent fits the slot (whose
size at the owner is the model's free value, log entry 131), is sent and uses the credit (R125, R127, R346). -/
def Obligations.CopyRecordsComplete : Prop :=
  let loadw (mode : Nat) (r : Record) : Prop := r.op.toNat = 0x21 ∧ r.opflags.toNat % 4 = mode
  RowCompletes .load .load (fun r => r.op.toNat = 0x20) (fun _ w e t => w.runCopy loadKind e t false) ∧
  RowCompletes .loadwTiles .load (loadw 0) (fun _ w e t => w.runCopy tilesKind e t (w.ctx e.n).wsRo) ∧
  RowCompletes .loadwPool .load (loadw 1) (fun _ => runPool) ∧ RowCompletes .loadwValues .load (loadw 2) (fun _ => runValues) ∧
  (∀ (s : State) (c : CoreId) (e : Env) (t : Entry), s.starting c .store = some (e, t) → t.cmd.op.toNat = 0x28 → remoteDest s.w e t = none →
    let R := (s.w.runCopy storeKind e t false).overBus s.w c
    continuing R.st = true → exec (.store c) s = .next (Finished s R.w c .store t.id R.st R.count R.flags)) ∧
  (∀ (s : State) (c : CoreId) (e : Env) (t : Entry) (d : Desc) (x : Copy) (w : World) (cr : Credit),
    s.starting c .store = some (e, t) → t.cmd.op.toNat = 0x28 → remoteDest s.w e t = some d → s.w.licenceBars (remoteWindow d).1 = false →
    s.w.prepareCopy storeKind e t false = .ok (x, w) →
    w.seam.credits.find? (fun y => y.rank == (remoteWindow d).1 && y.core == (remoteWindow d).2.1 && y.win == (remoteWindow d).2.2) = some cr →
    (x.d.d.extent none).hi ≤ remoteSlot cr →
    World.busMet s.w (w.readSpans e x.s.pages x.s.d.space true (x.srcSpans x.moves)) = false →
    ∃ u, exec (.store c) s = .next u ∧ u = { s with w := u.w } ∧ u.w.seam.credits = w.seam.credits.erase cr ∧
      (∀ y ∈ (u.w.core c).store, y.id = t.id → ∃ id, y.st = .sent id ∧ u.w.seam.writes.any (fun z => z.id == id) = true))

/-- ATOMIC (R110–R114). Forms: atomicCas, atomicFac, atomicCac, each with SPACE 1, 2 and 3, W64 and RMT as R111 allows. On a target whose cluster is
awake and not OFF and whose word is not poisoned the record is done with `ST_OK`: CAS stores the immediate where the word equals the
compare register, FAC adds the immediate, CAC adds it while the word is below the compare register; the old value goes to the result
location, when there is one; the target word then holds the new value, unless the result location lies over it, and not one other byte of
the target's memory, of another core or of HBM changes. A container of the Partial-Sum Store has five bytes (R100). -/
def Obligations.AtomicRecordsComplete : Prop :=
  ∀ (i : CoreId → Instr) (op : Nat), (i, op) ∈ [(Instr.atomicCas, 0), (Instr.atomicFac, 1), (Instr.atomicCac, 2)] →
    ∀ (s : State) (c : CoreId) (e : Env) (t : Entry), s.starting c .store = some (e, t) → t.cmd.op.toNat = 0x29 → atOp t.cmd = op →
      atomicBad e t = false → ¬ ((s.w.ctx e.n).wsRo = true ∧ refSpace t.cmd.p0 = 2) →
      let tc := atTarget t.cmd c
      s.w.asleep (tc / 16) = false → (s.w.cluster (tc / 16)).power ≠ .off →
      let m := memOfSpace (refSpace t.cmd.p0)
      let a := refAddr t.cmd.p0 (t.ind.getD 0 0) + 4 * atWord t.cmd
      let n := if atW64 t.cmd then 8 else 4
      let at_ := refAddr t.cmd.p1 (t.ind.getD 1 0) + 8 * atSlot t.cmd
      let results := t.cmd.p1 ≠ 0 ∧ tc = c ∧ m = .scratch
      let old := leNat (Cells.read ((s.w.core tc).mem m).cells a n)
      let width := if m = .psum then 40 else 8 * n
      let cmp := (t.ind.getD 4 0).toNat % 2 ^ width
      let new := if op = 0 then (if old = cmp then t.cmd.imm.toNat % 2 ^ width else old)
        else if op = 1 then (old + t.cmd.imm.toNat) % 2 ^ width else if old < cmp then (old + t.cmd.imm.toNat) % 2 ^ width else old
      ((s.w.core tc).mem m).poisoned 16 a n = false →
      ∃ w, exec (i c) s = .next (Finished s w c .store t.id stOk 0 0) ∧
        ((results → a + n ≤ at_ ∨ at_ + 8 ≤ a) →
          (m ≠ .psum → Cells.read ((w.core tc).mem m).cells a n = leBytes n new) ∧
          (m = .psum → Cells.read ((w.core tc).mem m).cells a 5 = leBytes 5 new)) ∧
        (t.cmd.p1 ≠ 0 → Cells.read (w.core c).sp.cells at_ 8 = leBytes 8 old) ∧
        (∀ b, b < a ∨ a + n ≤ b → (results → b < at_ ∨ at_ + 8 ≤ b) → (m = .psum → b % 8 < 5) →
          Cells.get ((w.core tc).mem m).cells b = Cells.get ((s.w.core tc).mem m).cells b) ∧
        (∀ d, d ≠ tc → d ≠ (c : Nat) → w.core d = s.w.core d) ∧ (∀ b, Cells.get w.hbm.mem.cells b = Cells.get s.w.hbm.mem.cells b)

/-- COLL (R348–R356). Forms: collAllreduce, collReduceScatter, collAllgather, collBroadcast, collGnorm, collDigest. With room for one more collective, operands that its checks pass, pages that translate, no access that fails on
the bus and, for a DIGEST over Weight Stores, every cluster that it reads awake (R109), a record of each kind starts: it takes its group's next sequence number and its part of the tree begins. -/
def Obligations.CollectiveRecordsComplete : Prop :=
  ∀ (i : CoreId → Instr) (kind : Nat),
    (i, kind) ∈ [(Instr.collAllreduce, 0), (Instr.collReduceScatter, 1), (Instr.collAllgather, 2), (Instr.collBroadcast, 3), (Instr.collGnorm, 4),
      (Instr.collDigest, 5)] →
    ∀ (s : State) (c : CoreId) (e : Env) (t : Entry) (rp pages : List (Nat × Nat)) (w4 w5 : World), s.starting c .store = some (e, t) →
      t.cmd.op.toNat = 0x2A → clKind t.cmd = kind → s.w.seam.ownLost = false →
      (s.w.collsOpen.filter fun x => x.group == clGroup t.cmd && x.core.isSome).length < 4 → (s.w.collsOpen.filter fun x => x.core.isSome).length < 32 →
      (∀ k ∈ s.w.collPeers (clGroup t.cmd) (clKind t.cmd) (clSrc t.cmd), s.w.licenceBars k = false) →
      let f0 := s.w.fetchRef e t.cmd.p0 (t.ind.getD 0 0) 64
      let f1 := f0.2.fetchRef e t.cmd.p1 (t.ind.getD 1 0) 64
      let f3 := f1.2.fetchRef e t.cmd.p3 (t.ind.getD 3 0) 64
      firstFault [f0.1, f1.1, f3.1] = none → collBad f3.2 e t f0.1 f1.1 f3.1 = false → copyMisaligned f0.1 f1.1 f3.1 = false →
      let refs := [t.cmd.p0, t.cmd.p1, t.cmd.p3].zipIdx.flatMap fun p =>
        if p.1 ≠ 0 ∧ refSpace p.1 = 0 then pagesOf (refAddr p.1 (t.ind.getD (if p.2 = 2 then 3 else p.2) 0)) 64 else []
      f3.2.xlatePages e false refs = (.ok rp, w4) →
      let span (o : Opd) (wr : Bool) (x : Except Nat (List (Nat × Nat)) × World) : Except Nat (List (Nat × Nat)) × World :=
        match x.1, o.desc with
        | .ok l, some d =>
          match x.2.xlateSpans e d.space wr ((vecCoords d).map fun i => (d.bitAddr i / 8, d.bits / 8)) with
          | (.ok m, w) => (.ok (l ++ m), w)
          | q => q
        | _, _ => x
      span f1.1 true (span f3.1 true (span f0.1 false (.ok rp, w4))) = (.ok pages, w5) →
      let w6 := w5.meetSource e pages f0.1.desc
      World.busMet s.w w6 = false → (∀ k ∈ digestClusters e t.cmd, (s.w.cluster k).power ≠ .off ∧ s.w.asleep k = false) → exec (i c) s = .next (s.withW (w6.collStart s.res e t f0.1 f1.1 f3.1 pages))

/-! ## What the part does by itself: memories and caches -/

/-- Upkeep of the core memories and the caches (R95, R107, R115, R118, R123): a write-back in a running cluster takes the oldest entry of the
queue, and its word holds no correctable error any more; a patrol scrub (whose latent errors befall the memories by the model's free choice, log
entry 151) moves each position on by a row and changes no register, and no byte of a memory but those that hold the poison tag of a Partial-Sum
Store container (R100, R105); a fill installs its line, unless it was invalidated meanwhile, and only in its own set; a drain limit that expires
closes the window and reclaims every credited slot. Forms: correctedWriteback, corePatrolScrub, sacLineFill, windowDrainTimeout. -/
def Obligations.CoreUpkeepCompletes : Prop :=
  ∀ (s : State) (c : CoreId) (k : ClusterId) (d : DieId) (i : WinId),
    (∀ m word rest, (s.w.cluster (c / 16)).power = .run → (s.w.core c).wbq = (m, word) :: rest →
      ∃ t, exec (.correctedWriteback c) s = .next t ∧ t = { s with w := { s.w with cores := t.w.cores } } ∧ (t.w.core c).wbq = rest ∧
        (∀ e ∈ ((t.w.core c).mem m).upsets, e.1 = word → e.2.fatal = true) ∧
        (∀ m', ((t.w.core c).mem m').cells = ((s.w.core c).mem m').cells ∧ ((t.w.core c).mem m').marks = ((s.w.core c).mem m').marks) ∧
        ∀ e, e ≠ (c : Nat) → t.w.core e = s.w.core e) ∧
    ((s.w.cluster k).power = .run →
      ∃ t, exec (.corePatrolScrub k) s = .next t ∧ t = { s with w := t.w } ∧
        t.w.cluster k = { s.w.cluster k with scrubW := ((s.w.cluster k).scrubW + 1) % 16384, scrubS := ((s.w.cluster k).scrubS + 1) % 6144,
                                             scrubP := ((s.w.cluster k).scrubP + 1) % 4096 } ∧
        t.w.hbm = s.w.hbm ∧
        ∀ e, (t.w.core e).regs = (s.w.core e).regs ∧ (t.w.core e).ctrs = (s.w.core e).ctrs ∧
          (∀ m, m ≠ .psum → ((t.w.core e).mem m).cells = ((s.w.core e).mem m).cells) ∧
          ∀ a, a % 8 ≠ 4 → Cells.get (t.w.core e).ps.cells a = Cells.get (s.w.core e).ps.cells a) ∧
    (∀ line f, (s.w.die d).fills.find? (fun f => f.line == line) = some f → ((Tab.get {} (s.w.die d).sets (sacIndex line)) : SacSet).ways.length = 16 →
      ∃ t, exec (.sacLineFill d line) s = .next t ∧ t = { s with w := { s.w with dies := t.w.dies } } ∧
        (t.w.die d).fills = (s.w.die d).fills.erase f ∧ (f.dropped = false → (t.w.die d).holds line = true) ∧
        (f.dropped = true → (t.w.die d).sets = (s.w.die d).sets) ∧
        ∀ j, j ≠ sacIndex line → ((Tab.get {} (t.w.die d).sets j) : SacSet) = Tab.get {} (s.w.die d).sets j) ∧
    ((s.w.win c i).st = .draining →
      exec (.windowDrainTimeout c i) s = .next (s.withW ((s.w.setWin c i { s.w.win c i with st := .closed, credited := [] }).winEvent 0x0302 c i
        (s.w.win c i).gen (some (s.w.win c i).credited.length))))

/-- HBM (R320, R321, R329, R331): a patrol read moves on to the next block, changes no byte, and counts a pass after the last block; in the fourth
step a stack that trains starts its share of the wipe; the wipe done on every stack leaves every block zero and clean and begins self-test; the
refresh rate is double above 85 °C. Forms: hbmPatrolScrub, hbmStackTrained, hbmWipeDone, refreshRateChange. -/
def Obligations.HbmUpkeepCompletes : Prop :=
  ∀ (s : State) (t : StackId),
    (s.w.hbm.wipe = 2 → s.ctl.pgMain = true → s.ctl.part ≠ .safe →
      ∃ u, exec .hbmPatrolScrub s = .next u ∧ u = { s with w := u.w } ∧ u.w.hbm.scrubPos = (s.w.hbm.scrubPos + 1) % 2 ^ 34 ∧
        u.w.hbm.mem.cells = s.w.hbm.mem.cells ∧ u.w.cores = s.w.cores ∧
        u.w.hbm.passes = if s.w.hbm.scrubPos + 1 = 2 ^ 34 then (s.w.hbm.passes + 1) % 2 ^ 64 else s.w.hbm.passes) ∧
    (s.ctl.part = .bringup → s.ctl.step = 4 → (s.w.stack t).train = 0 →
      ∃ u, exec (.hbmStackTrained t true) s = .next u ∧ u = { s with w := { s.w with hbm := u.w.hbm } } ∧
        u.w.stack t = { s.w.stack t with train := 1 } ∧ u.w.hbm.wipe = 1 ∧ u.w.hbm.mem = s.w.hbm.mem ∧
        ∀ j, j ≠ (t : Nat) → u.w.stack j = s.w.stack j) ∧
    (s.ctl.part = .bringup → s.ctl.step = 4 → (s.w.stack t).train = 0 →
      ∃ u, exec (.hbmStackTrained t false) s = .next u ∧ u.ctl.part = .safe ∧ u.ctl.endStatus = stTimeout ∧ u.ctl.pins.faultLow = true) ∧
    (∀ us, s.ctl.part = .bringup → s.ctl.step = 4 → (∀ j, j < 16 → (s.w.stack j).train = 1) →
      ∃ u, exec (.hbmWipeDone none us) s = .next u ∧ u.ctl = { s.ctl with step := 5 } ∧ u.otp = s.otp ∧ u.flash = s.flash ∧ u.res = s.res ∧
        u.w.hbm.wipe = 2 ∧ u.w.hbm.wipeUs = us % 2 ^ 32 ∧ u.w.hbm.scrubPos = 0 ∧ (∀ a, Cells.get u.w.hbm.mem.cells a = 0) ∧
        (∀ b, u.w.hbm.mem.bad b = false) ∧ ∀ d line, (u.w.die d).holds line = false) ∧
    (∀ celsius : Int, s.ctl.pgMain = true → (s.w.stack t).train = 1 →
      ∃ u, exec (.refreshRateChange t celsius) s = .next u ∧ u = { s with w := { s.w with hbm := u.w.hbm } } ∧
        u.w.stack t = { s.w.stack t with temp := celsius, refresh := if 85 < celsius then 2 else 1 } ∧ u.w.hbm.mem = s.w.hbm.mem)

/-! ## What the part does by itself: contexts, snapshots, channels -/

/-- Contexts that move (R235, R281, R291, R294): a save of a drained group in RUN, while no snapshot copy runs and no checkpoint of it is being
read, ends with the context SAVED, its cores IDLE with zeroed Scratchpads unless a waiting window write still reaches them, and its save counted;
a restore whose header, blocks and pages are good ends with the context RESIDENT, each core at the index and with the registers that its image
holds; the oldest invalidation request that no collective holds back leaves no cached translation of its range and is counted; predictor slots
that have been updated let PREDICT records start. Forms: preemptSave, contextRestore, tlbInvalidateComplete, predictorUpdateDone. -/
def Obligations.ContextMovesComplete : Prop :=
  ∀ (s : State) (n : CtxId),
    (s.ctl.part = .ready → (s.ent n).st = .saving → (s.ent n).after = .stay → s.w.drained (s.ent n) = true → s.w.groupRuns (s.ent n) = true →
      (∀ c ∈ (s.ent n).coreList, (s.w.core c).stepWait = false) → s.w.snap.st ≠ .copying → (s.w.ctx n).ck.st ≠ .reading →
      ∃ t, exec (.preemptSave n) s = .next t ∧ t = { s with res := t.res, w := t.w } ∧ (t.ent n).st = .saved ∧
        (t.ent n).cfg = (s.ent n).cfg ∧ (∀ m, m ≠ (n : Nat) → t.ent m = s.ent m) ∧ (t.w.ctx n).saves = ((s.w.ctx n).saves + 1) % 2 ^ 32 ∧
        (∀ c ∈ (s.ent n).coreList, (t.w.core c).state = .idle ∧ (t.w.core c).savedCtx = some (n : Nat) ∧ (t.w.core c).load = [] ∧
          (t.w.core c).matrix = [] ∧ (t.w.core c).vector = [] ∧ (t.w.core c).store = []) ∧
        (s.w.seam.parked = [] → ∀ c ∈ (s.ent n).coreList, ∀ a, Cells.get (t.w.core c).sp.cells a = 0)) ∧
    (s.ctl.part = .ready → (s.ent n).st = .restoring → s.w.groupRuns (s.ent n) = true → (s.w.ctx n).hold = 0 →
      let r := s.ent n
      let w := (controlRanges n r).foldl (fun w x => w.readRange (some (n : Nat)) x.1 x.2) s.w
      let h := w.hbmRange (slotBase n) 64
      le h 0 2 = 1 → le h 2 2 = laneCount → le h 4 2 = r.cores → (∀ x ∈ controlRanges n r, w.badBlocks x.1 x.2 = []) →
      (∀ x ∈ restoreRanges n r, s.w.busRange x.1 x.2 = []) → (w.checkRings n r).1 = none →
      ∃ t, exec (.contextRestore n) s = .next t ∧ t = { s with res := t.res, w := t.w } ∧ (t.ent n).st = .resident ∧
        (t.ent n).cfg = r.cfg ∧ (∀ m, m ≠ (n : Nat) → t.ent m = s.ent m) ∧ t.w.ctxCtr.restores = (s.w.ctxCtr.restores + 1) % 2 ^ 64 ∧
        (t.w.ctx n).held = [] ∧
        ∀ j, j < r.cores → (t.w.core (r.core0 + j)).nextIdx = le (s.w.hbmRange (coreImageBase n j) 6656) 8 4 ∧
          (t.w.core (r.core0 + j)).regs =
            0 :: (List.range 31).map fun i => BitVec.ofNat 64 (le (s.w.hbmRange (coreImageBase n j) 6656) (72 + 8 * i) 8)) ∧
    (∀ q rest, (s.w.ctx n).invq = q :: rest → s.w.pageInUse (s.ent n) q = false →
      ∃ t, exec (.tlbInvalidateComplete n) s = .next t ∧ t = { s with w := t.w } ∧ (t.w.ctx n).invq = rest ∧
        (t.w.ctx n).invDone = ((s.w.ctx n).invDone + 1) % 2 ^ 32 ∧
        (∀ k, ∀ x ∈ (t.w.cluster k).tlb ++ (t.w.cluster k).walks, x.dropped n q = false) ∧
        (∀ p, ∀ x ∈ (t.w.port p).tlb ++ (t.w.port p).walks, x.dropped n q = false) ∧
        (∀ k, ∀ x ∈ (s.w.cluster k).tlb, x.dropped n q = false → x ∈ (t.w.cluster k).tlb) ∧ t.w.hbm = s.w.hbm ∧ t.w.cores = s.w.cores) ∧
    exec (.predictorUpdateDone n) s = .next (s.withW (s.w.setCtx n { s.w.ctx n with predWait := false }))


/-- A channel of a context's cluster, which does not sleep (R301, R304–R307, R312, R313). Forms: dmaDescriptorFetch (a good descriptor is loaded; the next one
of a chain is read while the current one, which does not set BAR, still writes), dmaDescriptorComplete (a descriptor that meets no fault is
completed and counted, and the chain goes on or ends), dmaPauseDrained (the channel is PAUSED after whole accesses, and under ABORT its
descriptor ends), dmaHalt with each of its causes and dmaWaitTimeout (the channel is HALTED with status, address and direction latched). Core
memory and HBM hold what the whole accesses before the pause or the halt wrote, and else stay. A copy that meets a bus error halts the channel there.
Reads made ahead of the descriptor before it, as R307 lets them be, are the model's free choice (log entry 186). -/
def Obligations.ChannelEventsComplete : Prop :=
  ∀ (s : State) (d : ChanId) (n : Nat) (r : Resid), s.chanCtx d = some (n, r) → s.w.asleep (chanCluster d) = false →
    let c := s.w.chan d
    let moving := (c.st = .running ∨ c.st = .pausing) ∧ c.have_ = true ∧ s.w.chanReady c = true ∧ c.aborting = false
    let after (k : Nat) : Chan := if k = 0 then c else c.moveOn (runBytes (firstBytes k c.runs))
    let same (u v : World) : Prop := u.hbm.mem.cells = v.hbm.mem.cells ∧ ∀ e m, ((u.core e).mem m).cells = ((v.core e).mem m).cells
    let moved_ (w : World) (sp dp : List (Nat × Nat)) (k : Nat) : World := if k = 0 then w else (w.chanCopy n c sp dp (firstBytes k c.runs)).1
    let halted (v : Chan) (st : Nat) (addr : Word) (dir kind : Nat) : Prop :=
      v.st = .halted ∧ v.latStatus = st ∧ v.latAddr = addr ∧ v.latDir = dir ∧ v.latKind = kind
    (∀ b w, c.st = .running → c.have_ = false → dNextBad c.core c.cur.toNat = false → c.cur.toNat % 64 = 0 →
      s.w.descriptorLost n d r c.cur.toNat = false → s.w.readDescriptor n d r c.cur.toNat = (.ok (b, false), w) → World.busMet s.w w = false →
      descriptorBad r (chanCluster d) c.core b = false →
      ∃ t, exec (.dmaDescriptorFetch d) s = .next t ∧ t = { s with w := t.w } ∧ t.w.hbm.mem.cells = s.w.hbm.mem.cells ∧
        t.w.chan d = { c with have_ := true, desc := b, src := BitVec.ofNat 64 (ddSrc b), dst := BitVec.ofNat 64 (ddDst b), rowLeft := ddLen b,
                              rowsLeft := ddRows b, poisoned := false, ahead := [] } ∧
        ∀ e, e ≠ (d : Nat) → t.w.chan e = s.w.chan e) ∧
    (∀ b w0 c0 w, c.st = .running → c.have_ = true → ddBar c.desc = false → ddNext c.desc ≠ 0 → ddNext c.desc % 64 = 0 → c.nextDesc = none →
      s.w.chanReady c = true → s.w.descriptorLost n d r (ddNext c.desc) = false → s.w.issueReads n d r.root c = some (w0, c0) →
      w0.readDescriptor n d r (ddNext c.desc) = (.ok (b, false), w) → World.busMet w0 w = false → descriptorBad r (chanCluster d) c.core b = false →
      exec (.dmaDescriptorFetch d) s = .next (s.withW (w.setChan d { c0 with nextDesc := some b }))) ∧
    (∀ sp dp w, c.st = .running → c.have_ = true → s.w.chanReady c = true → s.w.planCopy n d r.root c c.runs = (.clear sp dp, w) →
      let x := w.chanCopy n c sp dp c.runs
      let st := if x.2.poisoned then stPoison else stOk
      let y := x.1.endDescriptor r n d x.2 st false
      ∃ t, exec (.dmaDescriptorComplete d) s = .next t ∧ t = s.withW (if ddBar c.desc then y else y.readAhead s.w n d r.root) ∧
        (t.w.chan d).done = (c.done + 1) % 2 ^ 64 ∧ (t.w.chan d).lastStatus = st ∧ same t.w x.1 ∧
        (ddNext c.desc = 0 → (t.w.chan d).st = .idle) ∧
        (ddNext c.desc ≠ 0 → (t.w.chan d).st = .running ∧ (t.w.chan d).cur.toNat = ddNext c.desc ∧
          ((t.w.chan d).have_ = true ↔ c.nextDesc ≠ none)) ∧
        (dSpace c.dst.toNat ≠ 0 → t.w.hbm.mem.cells = s.w.hbm.mem.cells) ∧
        (dSpace c.dst.toNat = 0 → ∀ e, (t.w.core e).ws.cells = (s.w.core e).ws.cells ∧ (t.w.core e).sp.cells = (s.w.core e).sp.cells)) ∧
    (∀ before dir walk w sp dp w', c.st = .running → c.have_ = true → s.w.chanReady c = true →
      s.w.planCopy n d r.root c c.runs = (.broken before dir walk, w) → before < runBytes c.runs →
      let k := if dir = 0 then max c.aheadBytes (accessFloor (·.src) before c.runs) else accessFloor (·.dst) before c.runs
      k < runBytes c.runs → w.planCopy n d r.root c (firstBytes k c.runs) = (.clear sp dp, w') → c.aborting = false →
      ∃ t, exec (.dmaDescriptorComplete d) s = .next t ∧
        halted (t.w.chan d) stBusError (if dir = 0 then (after k).src else (after k).dst) dir 0 ∧ same t.w (moved_ w' sp dp k)) ∧
    (∀ moved sp dp w, c.st = .pausing → moved = 0 ∨ (c.have_ = true ∧ s.w.chanReady c = true) → moved ≤ runBytes c.runs →
      let k := max c.aheadBytes (accessFloor (·.src) moved c.runs)
      s.w.planCopy n d r.root c (firstBytes k c.runs) = (.clear sp dp, w) →
      ∃ t, exec (.dmaPauseDrained d moved) s = .next t ∧ t = { s with w := t.w } ∧
        (t.w.chan d).st = (if c.aborting then .idle else .paused) ∧
        (k ≠ 0 → (t.w.chan d).bytes = (c.bytes + runBytes (firstBytes k c.runs)) % 2 ^ 64) ∧
        (c.aborting = false → (t.w.chan d).src = (after k).src ∧ (t.w.chan d).dst = (after k).dst) ∧
        same t.w (moved_ w sp dp k)) ∧
    (∀ moved sp dp w, moving → moved < runBytes c.runs →
      let k := max c.aheadBytes (accessFloor (·.src) moved c.runs)
      k < runBytes c.runs → s.w.planCopy n d r.root c (firstBytes k c.runs) = (.clear sp dp, w) →
      ∃ t, exec (.dmaHalt d (.busRead moved)) s = .next t ∧ halted (t.w.chan d) stBusError (after k).src 0 0 ∧ same t.w (moved_ w sp dp k)) ∧
    (∀ moved sp dp w, moving → moved < runBytes c.runs →
      let k := accessFloor (·.dst) moved c.runs
      s.w.planCopy n d r.root c (firstBytes k c.runs) = (.clear sp dp, w) →
      ∃ t, exec (.dmaHalt d (.busWrite moved)) s = .next t ∧ halted (t.w.chan d) stBusError (after k).dst 1 0 ∧ same t.w (moved_ w sp dp k)) ∧
    (c.st = .running → c.have_ = false → c.aborting = false →
      ∃ t, exec (.dmaHalt d .busFetch) s = .next t ∧ halted (t.w.chan d) stBusError c.cur 2 0 ∧ same t.w s.w) ∧
    (∀ before dir va f w sp dp w', moving → s.w.planCopy n d r.root c c.runs = (.faulty before dir va f, w) → before < runBytes c.runs →
      let k := if dir = 0 then max c.aheadBytes (accessFloor (·.src) before c.runs) else accessFloor (·.dst) before c.runs
      k < runBytes c.runs → (w.reportFault n va f (chanSource d dir)).planCopy n d r.root c (firstBytes k c.runs) = (.clear sp dp, w') →
      ∃ t, exec (.dmaHalt d .translation) s = .next t ∧
        halted (t.w.chan d) f.status (if dir = 0 then (after k).src else (after k).dst) dir f.kind ∧ same t.w (moved_ w' sp dp k)) ∧
    (c.st = .running → c.have_ = true → s.w.chanReady c = false → c.aborting = false →
      ∃ t, exec (.dmaWaitTimeout d) s = .next t ∧ t = { s with w := t.w } ∧ halted (t.w.chan d) stTimeout c.cur 3 0 ∧
        same t.w s.w)

/-! ## The Seam links, windows, collectives and checkpoints as events and frames arrive -/

/-- What arrives on a link (R336–R338): a message is taken exactly where the link is open for its type, the CRC holds and its sequence number
is the one expected, or 0 for LINK and NAK; else it changes nothing. One taken that breaks R337, by its type, VC, reserved field or length,
is discarded and counted; the others are accepted once their final frame is there. A message taken advances the expected number by its frames,
but for LINK and NAK, and changes nothing but its link. That a command carries a whole message, or a part of one without LAST, and that what is
discarded stays acknowledged, with the frames held of its message, are the model's choices (log entries 102 and 46). -/
def Obligations.MessagesAreAcceptedInOrder : Prop :=
  ∀ (w : World) (l : Nat) (h : SeamHdr) (b : FrameBody) (keep : Bool),
    let k := w.link l
    let opens := k.st = .up ∨ (k.st = .identify ∧ (b = .link ∨ (∃ r st p, b = .heartbeat r st p) ∨ ∃ i r p v, b = .ident i r p v))
    let takes := opens ∧ h.crcOk = true ∧ h.seq = if h.plain then 0 else k.rxSeq
    let moved (u : World) : Prop := u = { w with links := u.links } ∧ (∀ i, i ≠ l → u.link i = w.link i) ∧
      (u.link l).st = k.st ∧ (u.link l).peerRank = k.peerRank ∧
      (u.link l).rxSeq = (if h.plain then k.rxSeq else (k.rxSeq + h.frames) % 65536) ∧ (u.link l).received = (k.received + h.wire) % 2 ^ 64
    (¬ takes → w.receive l h b keep = .error w) ∧
    (takes → h.malformed = true ∨ h.shape (k.held h.vc) b = false →
      ∃ u, w.receive l h b keep = .error u ∧ moved u ∧ 
        (u.link l).discarded = (k.discarded + h.frames + if h.malformed then 0 else (k.held h.vc).length) % 2 ^ 64) ∧
    (takes → h.malformed = false → h.shape (k.held h.vc) b = true → h.last = false → ∃ u, w.receive l h b keep = .error u ∧ moved u ∧ (u.link l).discarded = k.discarded) ∧
    (takes → h.malformed = false → h.shape (k.held h.vc) b = true → h.last = true → ∃ u, w.receive l h b keep = .ok u ∧ moved u ∧ (u.link l).discarded = k.discarded)

/-- Links by themselves (R335, R338, R340, R345): signal, training and IDENT move a link on; a training attempt that fails is counted, and the
third ends in FAILED; a loss of FEC and 1,000 µs of silence take an UP link down; heartbeats, acknowledgements and replays go out. Forms:
linkSignalDetect, linkTrained, linkTrainTimeout, identSend, linkFecLoss, linkSilenceCheck, heartbeatSend, ackSend, replayTimeout. -/
def Obligations.LinkEventsComplete : Prop :=
  ∀ (s : State) (l : LinkId) (age : Nat),
    let k := s.w.link l
    let ident := FrameBody.ident s.otp.identity s.topoRank l s.ctl.sec.variant
    (s.linksOn = true → k.st = .waitSignal → exec (.linkSignalDetect l) s = .next (s.withW (s.w.setLink l { k with st := .train }))) ∧
    (s.linksOn = true → k.st = .train →
      exec (.linkTrained l) s = .next (s.withW (s.w.setLink l ({ k with st := .identify }.post 0xFFFF s.w.seam.rank ident)))) ∧
    (s.linksOn = true → k.st = .train ∨ k.st = .identify →
      ∃ t, exec (.linkTrainTimeout l) s = .next t ∧ t = { s with w := t.w } ∧
        (t.w.link l).st = (if 2 ≤ k.tries then .failed else .train) ∧ (t.w.link l).tries = k.tries + 1 ∧
        (t.w.link l).attempts = (k.attempts + 1) % 2 ^ 32 ∧ ∀ i, i ≠ (l : Nat) → t.w.link i = s.w.link i) ∧
    (s.linksOn = true → k.st = .identify → exec (.identSend l) s = .next (s.withW (s.w.setLink l (k.post 0xFFFF s.w.seam.rank ident)))) ∧
    (k.st = .up →
      (∃ t, exec (.linkFecLoss l) s = .next t ∧ (t.w.link l).st = .waitSignal ∧ (t.w.link l).downs = (k.downs + 1) % 2 ^ 32 ∧
        (t.w.link l).replay = [] ∧ t.otp = s.otp ∧ t.res = s.res) ∧
      (1000 ≤ age → ∃ t, exec (.linkSilenceCheck l age) s = .next t ∧ (t.w.link l).st = .waitSignal ∧
        (t.w.link l).downs = (k.downs + 1) % 2 ^ 32 ∧ t.otp = s.otp ∧ t.res = s.res) ∧
      exec (.heartbeatSend l) s = .next (s.withW (s.w.setLink l (k.post 0xFFFF s.w.seam.rank (.heartbeat s.w.seam.rank (partCode s.ctl.part) l)))) ∧
      exec (.ackSend l) s = .next (s.withW (s.w.setLink l (k.post 0xFFFF s.w.seam.rank .link))) ∧
      ∀ m ms, k.replay = m :: ms → (∀ x ∈ k.replay, ∀ n ∈ x.tries, n < 15) →
        ∃ t, exec (.replayTimeout l) s = .next t ∧ t = { s with w := { s.w with links := t.w.links } } ∧ (t.w.link l).st = .up ∧
          (t.w.link l).replay.map (fun x => (x.seq, x.body)) = k.replay.map (fun x => (x.seq, x.body)) ∧ (t.w.link l).txSeq = k.txSeq)

/-- Frames for the link itself (R335, R337, R338, R341, R343, R345). Forms: frameReject with each of its causes (a message that fails its CRC or comes out
of order is dropped, with a NAK where one is due; one that breaks R337 or cannot be routed is discarded and counted), link, nak (a replay from
the number asked for), heartbeat (a buddy that it shows in bring-up or SAFE holds no image, R488),
ident (in IDENTIFY it brings the link UP with its peer), lost (it marks a rank once, and this part's own rank
as reported), frameForward (a routed message for another rank leaves on the link of its route, and is counted). A frame of one of these types that is
addressed to another rank is discarded and counted. That what is discarded stays acknowledged is the model's choice (log entry 46). -/
def Obligations.LinkFramesComplete : Prop :=
  ∀ (s : State) (l : LinkId) (h : SeamHdr) (w : World),
    let k := s.w.link l
    (∀ due : Bool, k.st = .up →
      let dropped : State := if due then s.withW (s.w.sendLink l 0xFFFF (.nak k.rxSeq)) else s
      (h.crcOk = false → exec (.frameReject l h .crc due) s = .next dropped) ∧
      (h.crcOk = true → h.seq ≠ (if h.plain then 0 else k.rxSeq) → exec (.frameReject l h .order due) s = .next dropped) ∧
      (h.crcOk = true → h.seq = (if h.plain then 0 else k.rxSeq) → h.malformed = true ∨ s.w.unroutable h = true →
        ∃ t, exec (.frameReject l h .malformed due) s = .next t ∧ t = { s with w := { s.w with links := t.w.links } } ∧
          (t.w.link l).discarded = (k.discarded + h.frames + if h.malformed then 0 else (k.held h.vc).length) % 2 ^ 64 ∧
          (t.w.link l).rxSeq = (if h.plain then k.rxSeq else (k.rxSeq + h.frames) % 65536))) ∧
    (s.w.mine h = false →
      let other (i : Instr) (b : FrameBody) : Prop := s.w.receive l h b false = .ok w →
        exec i s = .next (s.withW (w.setLink l { w.link l with discarded := ((w.link l).discarded + h.frames) % 2 ^ 64 }))
      other (.link l h) .link ∧ (∀ seq, other (.nak l h seq) (.nak seq)) ∧
        (∀ rank st peer, other (.heartbeat l h rank st peer) (.heartbeat rank st peer)) ∧
        (∀ id rank peer variant, other (.ident l h id rank peer variant) (.ident id rank peer variant)) ∧
        ∀ rank reporter, other (.lost l h rank reporter) (.lost rank reporter)) ∧
    (s.w.mine h = true → s.w.receive l h .link false = .ok w → exec (.link l h) s = .next (s.withW w)) ∧
    (∀ seq, s.w.mine h = true → s.w.receive l h (.nak seq) false = .ok w → ((w.link l).replayFrom seq).2 = false →
      exec (.nak l h seq) s = .next (s.withW (w.setLink l ((w.link l).replayFrom seq).1))) ∧
    (∀ rank st peer, s.w.mine h = true → s.w.receive l h (.heartbeat rank st peer) false = .ok w →
      exec (.heartbeat l h rank st peer) s = .next (s.withW (w.buddyReset rank st))) ∧
    (∀ identity rank peer variant, s.w.mine h = true → s.w.receive l h (.ident identity rank peer variant) false = .ok w → k.st = .identify →
      ∃ t, exec (.ident l h identity rank peer variant) s = .next t ∧ (t.w.link l).st = .up ∧ (t.w.link l).peerId = identity ∧
        (t.w.link l).peerRank = rank ∧ (t.w.link l).peerLink = peer ∧ (t.w.link l).tries = 0 ∧ t.otp = s.otp ∧ t.res = s.res) ∧
    (∀ rank reporter, s.w.mine h = true → s.w.receive l h (.lost rank reporter) false = .ok w →
      (rank ≠ s.topoRank → ∃ t, exec (.lost l h rank reporter) s = .next t ∧ rank ∈ t.w.seam.lost ∧ t.otp = s.otp ∧ t.res = s.res) ∧
      (rank = s.topoRank → ∃ t, exec (.lost l h rank reporter) s = .next t ∧ t.w.seam.ownLost = true ∧ t.w.seam.lost = s.w.seam.lost)) ∧
    (∀ b i, s.w.mine h = false → s.w.receive l h b false = .ok w → b.routed = true → w.routeLink h.dst = some i →
      (w.link i).peerRank ∉ s.w.seam.lost →
      ∃ t, exec (.frameForward l h b) s = .next t ∧ t.w.seam = { s.w.seam with forwarded := (s.w.seam.forwarded + h.frames) % 2 ^ 64 } ∧
        t.w.link i = (w.link i).post h.dst h.src b ∧ t = { s with w := { s.w with links := t.w.links, seam := t.w.seam } })

/-- Window messages for this part (R123, R125, R127, R128, R346). Forms: wcredit, wwrite, wanswer, wreturn, wclose. A credit is kept; a write of the window's generation, from its sender, to a
credited slot, that fits it, is committed while the owner is there: its elements stand at the slot, the slot is held and the arrival
counter is one up, and no other byte of the scratchpad changes; an answer with one of the four statuses of R346
completes its STORE; a returned credit frees its slot; a close
notice gives the window's credits back. -/
def Obligations.WindowFramesComplete : Prop :=
  ∀ (s : State) (l : LinkId) (h : SeamHdr) (w : World) (core win slot gen : Nat), s.w.mine h = true →
    (s.w.receive l h (.wcredit core win slot gen) false = .ok w →
      ∃ t, exec (.wcredit l h core win slot gen) s = .next t ∧ t = s.withW (s.wakeStores w (w.takeCredit l h.src core win slot gen)) ∧
        t.w.seam.credits = s.w.seam.credits ++ [{ rank := h.src, link := l, core, win, slot, gen }] ∧ t.w.cores = s.w.cores) ∧
    (∀ x : WinWrite, s.w.receive l h (.wwrite x) true = .ok w → x.core < 1024 → x.win < 8 →
      let v := s.w.win x.core x.win
      v.st ≠ .closed → x.gen = v.gen → v.rank = h.src → v.link = l → x.slot ∈ v.credited → ownerLive s.res v.owner = true →
      (s.w.cluster (x.core / 16)).power = .run → winFits x v.slotSize = true → (∀ j, j < 8 → (s.w.win x.core j).freeCtr ≠ v.arrCtr) →
      ∃ t, exec (.wwrite l h x) s = .next t ∧ t = { s with w := t.w } ∧
        (t.w.core x.core).sp.cells = (winWrites x (v.base + x.slot * v.slotSize)).foldl Cells.setBits (s.w.core x.core).sp.cells ∧
        (∀ a, (∀ b ∈ winWrites x (v.base + x.slot * v.slotSize), b.touches a = false) →
          Cells.get (t.w.core x.core).sp.cells a = Cells.get (s.w.core x.core).sp.cells a) ∧
        (t.w.win x.core x.win).held = v.held ++ [x.slot] ∧ x.slot ∉ (t.w.win x.core x.win).credited ∧
        (t.w.core x.core).ctrs = ((s.w.core x.core).addCtr v.arrCtr 1).ctrs ∧ ∀ e, e ≠ x.core → t.w.core e = s.w.core e) ∧
    (∀ (x : WinWrite), s.w.receive l h (.wwrite x) true = .ok w → x.core < 1024 → x.win < 8 → s.w.commitWaits s.res x = false →
      (s.w.win x.core x.win).st = .closed ∨ x.gen ≠ (s.w.win x.core x.win).gen →
      ∃ t, exec (.wwrite l h x) s = .next t ∧ (t.w.win x.core x.win).discarded = ((s.w.win x.core x.win).discarded + 1) % 2 ^ 32 ∧
        (t.w.core x.core).sp = (s.w.core x.core).sp ∧ (t.w.core x.core).ctrs = (s.w.core x.core).ctrs) ∧
    (∀ id status x, s.w.receive l h (.wanswer id status) false = .ok w →
      s.w.seam.writes.find? (fun y => y.id == id && y.rank == h.src) = some x → status ∈ [stOk, stWindowClosed, stNoCredit, stState] →
      let st := if status = stOk ∧ x.poison = true then stPoison else status
      ∃ t, exec (.wanswer l h id status) s = .next t ∧ t = { s with w := t.w } ∧ (∀ y ∈ t.w.seam.writes, y.id ≠ x.id) ∧
        ∀ y ∈ (s.w.core x.core).store, y.st = .sent x.id →
          { y with st := .done st (if continuing st then x.count else 0) (if continuing st then x.flags else 0) } ∈ (t.w.core x.core).store) ∧
    (s.w.receive l h (.wreturn core win slot gen) false = .ok w → core < 1024 → win < 8 → (s.w.win core win).rank = h.src →
      (s.w.win core win).st ≠ .closed → (s.w.win core win).gen = gen →
      ∃ t, exec (.wreturn l h core win slot gen) s = .next t ∧ t = { s with w := t.w } ∧ slot ∉ (t.w.win core win).credited ∧
        (t.w.win core win).held = (s.w.win core win).held ∧
        ((s.w.win core win).st = .draining → (t.w.win core win).credited = [] → (t.w.win core win).st = .closed)) ∧
    (s.w.receive l h (.wclose core win gen) false = .ok w →
      ∃ t, exec (.wclose l h core win gen) s = .next t ∧ t = { s with w := t.w } ∧
        t.w.seam.credits = s.w.seam.credits.filter (fun x => !(x.rank == h.src && x.core == core && x.win == win && x.gen == gen)) ∧
        (t.w.seam.remote h.src core win).map (·.closed) = some true)

/-- Collective messages for this part, while it is not reported lost (R353–R359). Forms: contrib (an intact contribution of a member, for a collective that
has not ended, is kept by its node, accepted, and offered to the tree once it is whole), result (an intact result is accepted and taken down
the tree), canswer (an acceptance ends the resending of its message), keepalive (noted), keepaliveSend (a host that waits for an input of a node sends
one to the parent's host), collInputTimeout (an input that stays away is given up, or waited for again where a KEEPALIVE has come or this part
itself waits below it, which is the model's reading, log entry 31; the missing
source of a BROADCAST gives an empty result). -/
def Obligations.CollectiveFramesComplete : Prop :=
  ∀ (s : State) (l : LinkId) (h : SeamHdr) (w : World), s.w.mine h = true → s.w.seam.ownLost = false →
    let member (g : Nat) : Prop := g < 64 ∧ (s.w.group g).members ≠ [] ∧ (s.w.ownPos g).isSome = true
    let held (g seq : Nat) : Coll := (s.w.coll g seq).getD { group := g, seq }
    let running (g seq : Nat) : Prop := (held g seq).ended = false ∧
      (s.w.coll g seq = none → s.w.collThrough g seq = none)
    (∀ m, s.w.receive l h (.contrib m) false = .ok w → member m.group → m.print = (s.w.group m.group).print → running m.group m.seq →
      let c := held m.group m.seq
      let hd := c.hdr.getD { m with mask := [], values := [] }
      sameHdr hd m = true → msgIntact m = true → (m.level, m.node) ∉ c.missing →
      let old := (c.inputs.find? fun v => v.level == m.level && v.node == m.node).getD { level := m.level, node := m.node }
      old.whole = false →
      let mask := maskOf (s.w.group m.group).members.length m.mask
      let vals := addVals old.vals (msgVals m false)
      let v := { old with mask, vals, failed := m.failed, whole := m.failed || decide (upCount hd mask ≤ vals.length) }
      let kept := (w.putColl { c with hdr := some hd, inputs := v :: c.inputs.filter fun x => !(x.level == m.level && x.node == m.node) }).collAnswer h.src m 0
      exec (.contrib l h m) s = .next (s.withW (if v.whole then World.offer s.res 14 kept m.group m.seq v else kept))) ∧
    (∀ m, s.w.receive l h (.result m) false = .ok w → member m.group → running m.group m.seq → msgIntact m = true →
      let c := held m.group m.seq
      let hd := c.hdr.getD { m with mask := [], values := [] }
      let first := m.values.isEmpty || m.first == (shard hd (s.w.group m.group).members.length (m.node * 2 ^ m.level)).1
      exec (.result l h m) s = .next (s.withW (((w.putColl { c with hdr := some hd }).collAnswer h.src m 0).resultAt s.res m.group m.seq m.level m.node hd
        (maskOf (s.w.group m.group).members.length m.mask) m.failed first (msgVals m true)))) ∧
    (∀ seq group level node first c x, s.w.receive l h (.canswer seq group 0 level node first) false = .ok w → s.w.coll group seq = some c →
      c.unacked.find? (fun y => y.rank == h.src && y.msg.level == level && y.msg.node == node && y.msg.first == first) = some x →
      let left := c.unacked.filter fun y => !(y.rank == h.src && y.msg.level == level && y.msg.node == node && y.msg.first == first)
      exec (.canswer l h seq group 0 level node first) s = .next (s.withW (w.putColl { c with unacked := left }))) ∧
    (∀ group seq level node c, s.w.receive l h (.keepalive group seq level node) false = .ok w → s.w.coll group seq = some c →
      exec (.keepalive l h group seq level node) s =
        .next (s.withW (w.putColl { c with alive := (level, node) :: c.alive.filter (· != (level, node)) }))) ∧
    (∀ (g : GroupId) seq level node c pos j, s.w.coll g seq = some c → s.w.hosts g level node = true → c.ended = false → level ≠ 0 →
      j = 2 * node ∨ j = 2 * node + 1 → cover (s.w.group g).members.length (level - 1) j ≠ [] → s.w.inputSt c (level - 1) j = .pending →
      (∀ v ∈ c.inputs, v.level + 1 = level → v.node / 2 = node → v.whole = true → v.failed = false) →
      level < treeLevels (s.w.group g).members.length → s.w.hosts g (level + 1) (node / 2) = false →
      s.w.hostPos g (level + 1) (node / 2) = some pos →
      exec (.keepaliveSend g seq level node) s =
        .next (s.withW (s.w.sendRank (nth (s.w.group g).members pos) (.keepalive g seq level node)))) ∧
    (∀ (g : GroupId) seq level node c, s.w.coll g seq = some c → c.ended = false → (c.hdr.any fun m => m.kind == 3) = false →
      s.w.hosts g (level + 1) (node / 2) = true → (c.inputs.any fun v => v.level == level && v.node / 2 == node / 2) = true →
      s.w.inputSt c level node = .pending →
      exec (.collInputTimeout g seq level node) s = .next (s.withW
        (if (level, node) ∈ c.alive then s.w.putColl { c with alive := c.alive.filter (· != (level, node)) }
         else if s.w.waitsHere c level node then s.w
         else (s.w.putColl { c with missing := (level, node) :: c.missing }).settleNode s.res g seq (level + 1) (node / 2)))) ∧
    (∀ (g : GroupId) seq c m, s.w.coll g seq = some c → c.ended = false → c.hdr = some m → m.kind = 3 →
      s.w.hosts g (treeLevels (s.w.group g).members.length) 0 = true → s.w.inputSt c 0 m.srcPos = .pending → c.inputs ≠ [] →
      exec (.collInputTimeout g seq 0 m.srcPos) s =
        .next (s.withW (s.w.resultAt s.res g seq (treeLevels (s.w.group g).members.length) 0 m [] false true [])))

/-- Checkpoints (R501, R503, R504, R506). Forms: checkpointReadDone (granules that can be read are staged and BEGIN goes out), ckptBegin (at the buddy it
opens a transfer, at the restoring part it brings table and step), ckptState and ckptGranule (a piece that the table names is kept in inbound
staging, at its place or the next one; the places are the model's, log entry 146; at the restoring part a piece of the state block is kept),
ckptEnd (the pieces received, which with those kept make a whole image, as the model reads it, log entry 157, become
the image; at the restoring part the state block goes into the context), ckptReplay (it joins the image of its
step), ckptAnswer (the buddy's word of the commit commits at the source), ckptPull (the ward's PULL begins to send the image, while no block of it
carries poison marking or an uncorrectable error and every CRC holds). The numbers of the
control messages (log entry 37), whose blocks a PULL reads (log entry 88), and the order of a pulled image's messages and to which transfer a
frame belongs (log entry 153) are the model's choices. -/
def Obligations.CheckpointFramesComplete : Prop :=
  ∀ (s : State) (l : LinkId) (h : SeamHdr) (k : CkptHdr) (data : List Byte) (w : World), s.w.mine h = true →
    (∀ n : CtxId, (s.w.ctx n).ck.st = .reading → (s.ent n).st = .resident → s.ctl.part = .ready →
      let old := s.w.getCrcs n (if (s.w.ctx n).ck.valid then (s.w.ctx n).ck.baseline else [])
      let ck := { (s.w.ctx n).ck with baseline := old.2 }
      let a := (ckEntries ck.table).foldl (fun a e => (List.range (ceCount e.2)).foldl (fun a g => a.granule n ck e.1 e.2 g) a)
        { s := s.withW old.1 : CkRead }
      s.w.sleepers (s.ent n).core0 ck.table = [] → a.fault = none →
      ∃ t, exec (.checkpointReadDone n) s = .next t ∧ (t.w.ctx n).ck.st = .sending ∧ (t.w.ctx n).ck.crcs = a.crcs ∧
        (t.w.ctx n).ck.granules = a.sent ∧ (t.w.ctx n).ck.step = ck.step ∧ t.otp = s.otp ∧ t.res = s.res) ∧
    (s.w.isWard h.src = true → s.w.pulling h.src k = none →
      (s.w.receive l h (.ckpt 0 k data) false = .ok w → (∀ i, s.w.buddy.inbound = some i → i.ctx = k.ctx) → crc64 data = k.crc →
        ∃ t, exec (.ckptBegin l h k data) s = .next t ∧ t = { s with w := t.w } ∧
          t.w.buddy = { s.w.buddy with inbound := some { ctx := k.ctx, step := k.step, table := data } }) ∧
      (∀ i, s.w.inboundOf k = some i → crc64 data = k.crc → ckNamed i.table k.entry k.granule = true → data.length ≤ 65536 →
        let place := (i.held.findIdx? fun p => p.entry == k.entry && p.gran == k.granule).getD i.held.length
        let at_ := inboundBase + 65536 * place
        let piece : CkPiece := { entry := k.entry, gran := k.granule, place, len := data.length, crc := k.crc }
        let kept (t : State) : Prop := t = { s with w := t.w } ∧
          t.w.buddy = { s.w.buddy with inbound := some { i with held := i.held.take place ++ [piece] ++ i.held.drop (place + 1) } } ∧
          Cells.read t.w.hbm.mem.cells at_ data.length = data ∧
          ∀ a, a < at_ ∨ at_ + alignUp data.length 64 ≤ a → Cells.get t.w.hbm.mem.cells a = Cells.get s.w.hbm.mem.cells a
        place < stagePlaces →
        (s.w.receive l h (.ckpt 1 k data) false = .ok w → ∃ t, exec (.ckptState l h k data) s = .next t ∧ kept t) ∧
        (s.w.receive l h (.ckpt 2 k data) false = .ok w → ∃ t, exec (.ckptGranule l h k data) s = .next t ∧ kept t)) ∧
      (∀ i, s.w.inboundOf k = some i → (i.onto s.w.buddy.image).complete = true → s.w.receive l h (.ckpt 3 k []) false = .ok w →
        ∃ t, exec (.ckptEnd l h k) s = .next t ∧ t = { s with w := t.w } ∧
          t.w.buddy = { s.w.buddy with image := some (i.onto s.w.buddy.image), inbound := none } ∧
          ∀ a, a < imageBase → Cells.get t.w.hbm.mem.cells a = Cells.get s.w.hbm.mem.cells a) ∧
      (∀ i, s.w.buddy.image = some i → i.ctx = k.ctx → i.step = k.step → crc64 data = k.crc → s.w.receive l h (.ckpt 4 k data) false = .ok w →
        ∃ t, exec (.ckptReplay l h k data) s = .next t ∧ t = { s with w := t.w } ∧
          t.w.buddy = { s.w.buddy with image := some { i with replay := some data } })) ∧
    (∀ i, s.w.receive l h (.ckpt 6 k []) false = .ok w → s.w.isWard h.src = true → s.w.buddy.image = some i → i.ctx = k.ctx →
      k.step = 0xFFFFFFFF ∨ i.step = k.step →
      (∀ p ∈ i.held, ∀ b, imageBase + 65536 * p.place ≤ 64 * b → 64 * b < imageBase + 65536 * p.place + alignUp p.len 64 →
        s.w.hbm.mem.bad b = false ∧ (s.w.hbm.mem.upset b).any Upset.fatal = false) →
      (∀ p ∈ i.held, crc64 (s.w.hbmRange (imageBase + 65536 * p.place) p.len) = p.crc) →
      ∃ t, exec (.ckptPull l h k) s = .next t ∧ t = { s with w := t.w } ∧
        t.w.buddy = { s.w.buddy with out := some { rank := h.src, left := (ceState, gBegin) :: i.held.map fun (p : CkPiece) => (p.entry, p.gran) } }) ∧
    (s.w.receive l h (.ckpt 5 k []) false = .ok w → h.src = s.w.buddy.buddy → s.w.buddy.out = none →
      s.w.isWard h.src = false → (s.w.ctx k.ctx).ck.st = .committing → (s.w.ctx k.ctx).ck.step = k.step → (s.w.ctx k.ctx).ck.ending = true →
      k.answer = 4 →
      exec (.ckptAnswer l h k) s =
        .next (s.withW ((w.setCtx k.ctx { s.w.ctx k.ctx with ck := (s.w.ctx k.ctx).ck.commit }).putCrcs k.ctx (s.w.ctx k.ctx).ck.crcs))) ∧
    (∀ n, s.w.pulling h.src k = some n →
      (s.w.receive l h (.ckpt 0 k data) false = .ok w → (s.w.ctx n).rst.st = .checking → k.ctx = (s.w.ctx n).rst.srcCtx →
        (s.w.ctx n).rst.step = 0xFFFFFFFF ∨ k.step = (s.w.ctx n).rst.step → crc64 data = k.crc →
        ∃ t, exec (.ckptBegin l h k data) s = .next t ∧ (t.w.ctx n).rst = { (s.w.ctx n).rst with table := data, step := k.step, state := [] }) ∧
      (s.w.receive l h (.ckpt 1 k data) false = .ok w → (s.w.ctx n).rst.st = .checking → crc64 data = k.crc →
        let state := (s.w.ctx n).rst.state.filter (fun (p : Nat × List Byte) => p.1 != k.granule) ++ [(k.granule, data)]
        sumN (state.map (·.2.length)) < stateBytes (s.ent n).cores →
        ∃ t, exec (.ckptState l h k data) s = .next t ∧ (t.w.ctx n).rst = { (s.w.ctx n).rst with state }) ∧
      (s.w.receive l h (.ckpt 3 k []) false = .ok w → (s.w.ctx n).rst.st = .transferring →
        ∃ t, exec (.ckptEnd l h k) s = .next t ∧ (t.w.ctx n).rst.st = .done ∧ (t.w.ctx n).hold = 0 ∧
          (t.w.ctx n).step = le (s.w.ctx n).rst.block 8 4 ∧ t.otp = s.otp ∧ t.res = s.res))

/-! ## Host ports -/

/-- Host ports by themselves and with their peer (R371–R375, R384, R398, R400): a link that comes up takes the port's settings into force; one
that goes down holds nothing in its buffer and pauses nothing any more; PFC for LL-A or LL-B pauses or resumes it, and its pause ends; a class that has
sent XOFF repeats it, and sends XON once it has drained below 64 KiB (by how much a buffer drains is the model's free value, log entry 49); a frame of
a lossless class enters its areas, then its headroom, and is dropped and counted only where neither has room; a
frame that is not accepted is counted; ARP, neighbour solicitations and echo requests for an address of the port are answered; a CNP lowers a
queue pair's rate and its timer raises it. What the part sends goes to the model's own list of sent frames (log entry 8). Forms: hostLinkUp, cnp, rateIncreaseTimer, pfc, pfcXoffRefresh, arp, neighbourDiscovery, icmpEcho,
hostFrameDiscard, hostLinkDown, pfcPauseExpiry. -/
def Obligations.HostPortEventsComplete : Prop :=
  ∀ (s : State) (p : PortId) (q : QpId) (pn : KocPort),
    let v := s.w.port p
    let c := s.ctl.persist
    (s.portsOn = true → v.st ≠ 2 → exec (.hostLinkUp p) s = .next (s.withW (s.w.setPort p { v with
      st := 2, live := (nth c.elec p, nth c.vlan p, c.ip6.getD p [], c.ip4.getD p []) }))) ∧
    (v.st = 2 → ∃ t, exec (.hostLinkDown p) s = .next t ∧ t = { s with w := { s.w with ports := t.w.ports, outbox := t.w.outbox } } ∧
      (∀ m ∈ t.w.outbox, m ∈ s.w.outbox) ∧ t.w.port p = { v with
        st := 0, inA := {}, inB := {}, inOther := 0, xoffA := false, xoffB := false, pausedA := none, pausedB := none }) ∧
    (∀ quanta, v.st = 2 →
      exec (.pfc p c.prioA quanta) s = .next (s.withW (s.w.setPort p { v with
        frames := bump 64 v.frames 1, pausedA := if quanta = 0 then none else some (v.pausedA.getD s.w.outbox.length),
        xoffRecv := if quanta = 0 then v.xoffRecv else bump 32 v.xoffRecv 1 })) ∧
      (c.prioB ≠ c.prioA → exec (.pfc p c.prioB quanta) s = .next (s.withW (s.w.setPort p { v with
        frames := bump 64 v.frames 1, pausedB := if quanta = 0 then none else some (v.pausedB.getD s.w.outbox.length),
        xoffRecv := if quanta = 0 then v.xoffRecv else bump 32 v.xoffRecv 1 })))) ∧
    exec (.pfcPauseExpiry p .llA) s = .next (s.withW (s.w.setPort p { v with pausedA := none })) ∧
    exec (.pfcPauseExpiry p .llB) s = .next (s.withW (s.w.setPort p { v with pausedB := none })) ∧
    (∀ k : LossClass, v.st = 2 →
      let w := s.w.drainPort c p
      let x := (w.port p).held k
      s.w.PortOnly w ∧ x.outside ≤ (v.held k).outside ∧ x.headroom ≤ (v.held k).headroom ∧
      (v.above k = true → ¬(v.inA = {} ∧ v.inB = {} ∧ v.inOther = 0) → x.outside < 65536 → (w.port p).above k = false ∧ .pfc p (c.prio k) 0 ∈ w.outbox) ∧
      ((w.port p).above k = false → exec (.pfcXoffRefresh p k) s = .next (s.withW w)) ∧
      ((w.port p).above k = true → exec (.pfcXoffRefresh p k) s = .next (s.withW { w.setPort p
        { (w.port p) with xoffSent := bump 32 (w.port p).xoffSent 1 } with outbox := w.outbox ++ [.pfc p (c.prio k) 0xFFFF] })) ∧
      ∀ net, c.classOf net = some k →
        ((w.port p).room k net.len = true → ∃ u, s.w.arrive c p net = .ok u ∧ s.w.PortOnly u ∧
          (u.port p).held k = { x with outside := x.outside + net.len } ∧ (163840 ≤ x.outside + net.len → .pfc p (c.prio k) 0xFFFF ∈ u.outbox)) ∧
        ((w.port p).room k net.len = false → x.headroom + net.len ≤ 327680 → ∃ u, s.w.arrive c p net = .ok u ∧ s.w.PortOnly u ∧
          (u.port p).held k = { x with headroom := x.headroom + net.len }) ∧
        ((w.port p).room k net.len = false → 327680 < x.headroom + net.len → ∃ u, s.w.arrive c p net = .error u ∧ (u.port p).held k = x ∧
          (u.port p).dropped = bump 64 (w.port p).dropped 1)) ∧
    (v.st = 2 → exec (.hostFrameDiscard p) s =
      .next (s.withW (s.w.setPort p { v with frames := bump 64 v.frames 1, discarded := bump 64 v.discarded 1 }))) ∧
    (∀ target payload w, s.portUp pn = true →
      let takes (len : Nat) : Prop := match kocPortNo pn with
        | none => w = s.w
        | some n => s.w.arrive c n { mac := [], ip := [], vlan := none, udp := 0, len } = .ok w
      let posts (i : Instr) (m : OutMsg) : Prop := exec i s = .next (s.withW { w with outbox := w.outbox ++ [m] }) ∧ s.w.PortOnly w
      (s.owns4 pn target = true → takes 64 → posts (.arp pn target) (.arpReply pn target)) ∧
      (s.owns6 pn target = true → takes 90 → posts (.neighbourDiscovery pn target) (.neighbour pn target)) ∧
      (s.owns4 pn target = true ∨ s.owns6 pn target = true → takes (66 + payload.length) → posts (.icmpEcho pn target payload) (.echo pn payload))) ∧
    (∀ w, s.Serves p q (s.cnpNet (portName p)) w → exec (.cnp p q) s = .next (s.withW (w.setQp q { s.w.qp q with
      target := (s.w.qp q).rate, rate := ratMax (1 / 10) ((s.w.qp q).rate * (1 - (s.w.qp q).alpha / 2)),
      alpha := (s.w.qp q).alpha * (15 / 16) + 1 / 16, n := 0 }))) ∧
    ((s.w.qp q).st = .ready → ∃ t, exec (.rateIncreaseTimer q) s = .next t ∧ t = { s with w := { s.w with qps := t.w.qps } } ∧
      (t.w.qp q).n = (s.w.qp q).n + 1 ∧ (t.w.qp q).alpha = (s.w.qp q).alpha * (15 / 16) ∧
      (t.w.qp q).target = (if 5 < (s.w.qp q).n + 1 then ratMin 100 ((s.w.qp q).target + 5) else (s.w.qp q).target) ∧
      (t.w.qp q).rate = ratMin 100 (((s.w.qp q).rate + (t.w.qp q).target) / 2))

/-- RDMA (R376, R377, R379–R384): a WRITE packet in order, of a message that R376 supports, into a region that its R_Key opens and pages that translate,
places its bytes, which are all that changes in HBM, and is acknowledged, and what is left of its message waits for the next packet; a READ of
the snapshot region in order is answered packet by packet with the bytes there, and one packet
of a context's region with its bytes, while no block is marked; a SEND in order goes into the next slot of a ring that has room; all while no
access fails on the bus; a request that is not valid gets a NAK and puts the queue pair in ERROR; and a request marked CE brings a CNP for its
queue pair where none was sent in the last 50 µs. The layout of ring and remote address, the count of message numbers, the half of the circle that
makes a number a repeat, and what may come within a message are the model's choices (log entries 51, 59, 112 and 175),
and its own list of sent frames holds what is sent (log entry 8). Forms: rdmaWrite, rdmaRead, send, roceInvalidRequest. -/
def Obligations.RdmaRequestsComplete : Prop :=
  ∀ (s : State) (p : PortId),
    (∀ (k : WritePkt) (m : WriteTo) (kind n : Nat) (pages : List (Nat × Nat)) (w0 w : World), s.Serves p k.qp k.net w0 →
      k.psn = (s.w.qp k.qp).psn → k.to (s.w.qp k.qp) = some m → k.fits m = true → s.w.target k.qp m.rkey m.va k.data.length 1 = some (kind, n) →
      (w0.congested p k.qp k.ce).rocePages p k.qp n (s.ent n).root true m.va k.data.length = (.ok pages, w) →
      let bs := k.data.zipIdx.map fun x => (bytesAt (m.va + x.2) [x.1]).phys pages
      w.busHits (touchedWords 64 bs) = false →
      ∃ t, exec (.rdmaWrite p k) s = .next t ∧ t = { s with w := t.w } ∧ t.w.hbm.mem.cells = bs.foldl Cells.setBits s.w.hbm.mem.cells ∧
        (∀ a, (∀ b ∈ bs, b.touches a = false) → Cells.get t.w.hbm.mem.cells a = Cells.get s.w.hbm.mem.cells a) ∧
        (t.w.qp k.qp).psn = (k.psn + 1) % 2 ^ 24 ∧ (t.w.qp k.qp).st = .ready ∧ (t.w.qp k.qp).write = m.after k ∧ t.w.cores = s.w.cores ∧
        .ack p k.qp k.psn ∈ t.w.outbox ∧ (k.ce = true → s.w.cnpDue p k.qp = true → .cnp p k.qp ∈ t.w.outbox)) ∧
    (∀ (k : ReadPkt) (kind n : Nat) (w0 : World), s.Serves p k.qp k.net w0 → k.psn = (s.w.qp k.qp).psn → (s.w.qp k.qp).write = none →
      k.len ≤ 2 ^ 31 → (w0.congested p k.qp k.ce).readsWaiting k.qp < 16 →
      s.w.target k.qp k.rkey k.va k.len 0 = some (kind, n) →
      (∃ t, exec (.rdmaRead p k) s = .next t ∧ t = { s with w := t.w } ∧ (t.w.qp k.qp).psn = (k.psn + readCount k) % 2 ^ 24 ∧
        t.w.hbm.mem.cells = s.w.hbm.mem.cells ∧ t.w.cores = s.w.cores) ∧
      (s.w.hbm.mem.marks = [] → s.w.hbm.mem.upsets = [] → s.w.hbm.busBad = [] →
        (kind = 1 → ∃ t, exec (.rdmaRead p k) s = .next t ∧ (t.w.qp k.qp).st = .ready ∧
          t.w.outbox = (w0.congested p k.qp k.ce).outbox ++ (List.range (readCount k)).map fun i => .readResp p k.qp ((k.psn + i) % 2 ^ 24)
            (decide (k.len ≤ 4096 * i + 4096))
            ((pageCuts 3 (k.va + 4096 * i) (min 4096 (k.len - 4096 * i))).flatMap fun c => s.w.hbmRange (0xB000000000 + c.1) c.2)) ∧
        (∀ pages w, kind = 0 → k.len ≤ 4096 →
          ((w0.congested p k.qp k.ce).setQp k.qp
            { (w0.congested p k.qp k.ce).qp k.qp with psn := (k.psn + 1) % 2 ^ 24 }).rocePages p k.qp n (s.ent n).root false k.va k.len =
            (.ok pages, w) →
          ∃ t, exec (.rdmaRead p k) s = .next t ∧ (t.w.qp k.qp).st = .ready ∧
            t.w.outbox = (w0.congested p k.qp k.ce).outbox ++
              [.readResp p k.qp (k.psn % 2 ^ 24) true ((pageCuts 3 k.va k.len).flatMap fun c => s.w.hbmRange (physOf pages c.1) c.2)]))) ∧
    (∀ (k : SendPkt) (pages : List (Nat × Nat)) (w0 w : World), s.Serves p k.qp k.net w0 → k.psn = (s.w.qp k.qp).psn →
      (s.w.qp k.qp).write = none → k.data.length ≤ 4032 →
      let v := s.w.qp k.qp
      let va := v.ringBase + 4096 * (v.prod % 2 ^ v.ringLog)
      sub32 v.prod v.cons < 2 ^ v.ringLog →
      (w0.congested p k.qp k.ce).rocePages p k.qp v.ctx (s.ent v.ctx).root true va (64 + k.data.length) = (.ok pages, w) →
      let bs := (leBytes 4 k.data.length ++ leBytes 4 v.msn ++ leBytes 56 0 ++ k.data).zipIdx.map fun x => (bytesAt (va + x.2) [x.1]).phys pages
      w.busHits (touchedWords 64 bs) = false →
      ∃ t, exec (.send p k) s = .next t ∧ t = { s with w := t.w } ∧ t.w.hbm.mem.cells = bs.foldl Cells.setBits s.w.hbm.mem.cells ∧
        (∀ a, (∀ b ∈ bs, b.touches a = false) → Cells.get t.w.hbm.mem.cells a = Cells.get s.w.hbm.mem.cells a) ∧
        t.w.qp k.qp = { (w0.congested p k.qp k.ce).qp k.qp with
          prod := add32 v.prod 1, msn := add32 v.msn 1, psn := (k.psn + 1) % 2 ^ 24 } ∧
        .ack p k.qp k.psn ∈ t.w.outbox ∧ (k.ce = true → s.w.cnpDue p k.qp = true → .cnp p k.qp ∈ t.w.outbox)) ∧
    (∀ (q : QpId) (k : InvalidPkt) (w0 : World), s.Serves p q k.net w0 →
      ∃ t, exec (.roceInvalidRequest p q k) s = .next t ∧ t = { s with w := t.w } ∧
        t.w.qp q = { (w0.congested p q k.ce).qp q with st := .error, naks := bump 32 (s.w.qp q).naks 1 } ∧
        .nak p q k.psn nakInvalid ∈ t.w.outbox ∧ (k.ce = true → s.w.cnpDue p q = true → .cnp p q ∈ t.w.outbox))

/-! ## Power, clocks and telemetry -/

/-- Clusters (R432–R437): a quiet cluster descends one state at a time as far as its floor lets it; an entry that is done leaves the cluster in
its state, with nothing translated in Nap and nothing held in OFF; the arbiter starts the next cluster of a queue while fewer than two power-ups,
or eight restarts, run on the die; a started cluster reaches RUN with its engines cold; a management core without work sleeps. Forms:
clusterIdleEntry, clusterDozeEntry, clusterNapEntry, clusterEntryDone, powerUpStart, dozeRestartStart, clusterRun, mgmtCoreSleep. -/
def Obligations.ClusterPowerCompletes : Prop :=
  ∀ (s : State) (k : ClusterId) (d : DieId),
    let v := s.w.cluster k
    let x := s.w.die d
    (∀ (i : Instr) (a b : PowerSt), (i, a, b) ∈ [(Instr.clusterIdleEntry k, PowerSt.run, PowerSt.idle), (.clusterDozeEntry k, .idle, .doze),
        (.clusterNapEntry k, .doze, .nap)] →
      s.powered = true → s.ctl.step ≠ 5 → v.power = a → v.entering = none → depth b ≤ floorDepth v.floor → s.quiet k = true →
      s.w.wakeQueued k = false →
      exec i s = .next (s.withW (s.w.setCluster k { v with entering := some b }))) ∧
    (∀ p, v.entering = some p →
      ∃ t, exec (.clusterEntryDone k) s = .next t ∧ t = { s with w := t.w } ∧ (t.w.cluster k).power = p ∧
        (v.floor ≠ 3 → (t.w.cluster k).entering = none) ∧ (p = .nap → (t.w.cluster k).tlb = [] ∧ (t.w.cluster k).walks = []) ∧
        (p = .off → ∀ i, i < 16 → ∀ m, (t.w.core (16 * k + i)).mem m = {}) ∧ (p ≠ .off → t.w.cores = s.w.cores)) ∧
    (∀ c, s.powered = true → x.poweringUp.length < 2 → s.w.nextOf d x.lastPower x.powerQ = some c →
      ∃ t, exec (.powerUpStart d) s = .next t ∧ t = { s with w := t.w } ∧ (t.w.cluster c).power = .waking ∧
        (t.w.cluster c).powerUps = ((s.w.cluster c).powerUps + 1) % 2 ^ 32 ∧
        t.w.die d = { x with powerQ := x.powerQ.filter (· != c), poweringUp := x.poweringUp ++ [c], lastPower := c % 32 }) ∧
    (∀ c, s.powered = true → x.restarting.length < 8 → s.w.nextOf d x.lastRestart x.restartQ = some c →
      ∃ t, exec (.dozeRestartStart d) s = .next t ∧ t = { s with w := t.w } ∧ t.w.cluster c = { s.w.cluster c with power := .waking } ∧
        t.w.cores = s.w.cores ∧
        t.w.die d = { x with restartQ := x.restartQ.filter (· != c), restarting := x.restarting ++ [c], lastRestart := c % 32 }) ∧
    (s.powered = true → v.entering = none →
      (v.power = .waking ∧ (k.val ∈ (s.w.die (dieOfCluster k)).poweringUp ∨ k.val ∈ (s.w.die (dieOfCluster k)).restarting)) ∨
        (v.power = .idle ∧ s.quiet k = false) →
      ∃ t, exec (.clusterRun k) s = .next t ∧ t = { s with w := t.w } ∧ (t.w.cluster k).power = .run ∧
        k.val ∉ (t.w.die (dieOfCluster k)).poweringUp ∧ k.val ∉ (t.w.die (dieOfCluster k)).restarting ∧
        ∀ i, i < 16 → (t.w.core (16 * k + i)).cold = true) ∧
    (∀ m : Fin 8, s.ctl.mgmt = true → ∃ t, exec (.mgmtCoreSleep m) s = .next t ∧ m.val ∈ t.w.koc.asleep ∧
      t = s.withW { s.w with koc := { s.w.koc with asleep := t.w.koc.asleep } })

/-- One period of the governor for a die (R439): the rules in their order, each with its cause: at the throttle temperature down by two; with
the mean above the limit, or an excursion, down by one; well below both, up by one; never below 1 nor above 8. -/
def Obligations.GovernorFollowsItsRules : Prop :=
  ∀ (c : Ctl) (p : Nat) (a : Rat) (x : Nat) (tj : Int) (d : Nat),
    let throttle : Int := (c.throttle * 1000 : Nat)
    (throttle ≤ tj → dutyStep c p a x tj d = (max 1 (d - 2), 2)) ∧
    (tj < throttle → c.limit * 1000 < a → dutyStep c p a x tj d = (max 1 (d - 1), 0)) ∧
    (tj < throttle → a ≤ c.limit * 1000 → c.excursion * 1000 < p ∨ c.duration * 1000 ≤ x → dutyStep c p a x tj d = (max 1 (d - 1), 1)) ∧
    (tj < throttle - 2000 → a * 100 < 95 * (c.limit * 1000) → p ≤ c.excursion * 1000 → x < c.duration * 1000 → d < 8 →
      dutyStep c p a x tj d = (d + 1, 4)) ∧
    (1 ≤ d → d ≤ 8 → 1 ≤ (dutyStep c p a x tj d).1 ∧ (dutyStep c p a x tj d).1 ≤ 8)

/-- Telemetry and its limits (R439–R444, R515, R517): a governor period takes the power into the mean of the last hundred samples and the time above the
limit, which are the model's reading of the two, log entry 180, and sets both dies' duties by them; at 3,600 A both halve, rounding up; a thermal
sample shows the hottest sensor, the lowest of equals, and at 105 °C pulls THERM_TRIP_N low, in SAFE too, and enters SAFE; a poll shows the regulators and
the sum of the main currents, and the rails may be up by it; an output fault, and a rail that is on outside its window, enter SAFE, but not in the
millisecond after RESET_N, as the model reads R517 (log entry 182). Forms: governorPeriod, currentLimitTrip, thermalSample, pmbusPoll,
railOutOfWindow. -/
def Obligations.TelemetryCompletes : Prop :=
  ∀ s : State,
    (∀ power mean us tj0 tj1, s.ctl.mgmt = true → s.ctl.part ≠ .safe →
      let x := s.w.tele.sample (s.ctl.limit * 1000) power
      x.samples = (power :: s.w.tele.samples).take 100 ∧ x.overUs = (if s.ctl.limit * 1000 < power then s.w.tele.overUs + 100 else 0) ∧
      x.mean * (max 1 x.samples.length : Nat) = (sumN x.samples : Nat) ∧
      ∃ t, exec (.governorPeriod power mean us tj0 tj1) s = .next t ∧
        (t.w.die 0).duty = (dutyStep s.ctl power x.mean x.overUs tj0 (s.w.die 0).duty).1 ∧
        (t.w.die 1).duty = (dutyStep s.ctl power x.mean x.overUs tj1 (s.w.die 1).duty).1 ∧ t.w.tele.power = power ∧
        t.w.tele.samples = x.samples ∧ t.w.tele.overUs = x.overUs ∧ t.w.koc.asleep = [] ∧
        t = s.withW t.w ∧ t.w.cores = s.w.cores ∧ t.w.hbm = s.w.hbm) ∧
    (∀ ma, s.powered = true → 3600000 ≤ ma →
      ∃ t, exec (.currentLimitTrip ma) s = .next t ∧ (∀ d, d < 2 → (t.w.die d).duty = ((s.w.die d).duty + 1) / 2 ∧
        (t.w.die d).cap = some ((s.dutyOf d + 1) / 2)) ∧ t.w.tele.current = ma ∧
        t = { s with w := t.w } ∧ t.w.cores = s.w.cores) ∧
    (∀ readings : List Int, s.ctl.pins.pgAon = true → readings.length = 256 →
      ((∀ r ∈ readings, r < 105000) →
        ∃ t, exec (.thermalSample readings) s = .next t ∧ t = { s with w := { s.w with tele := t.w.tele } } ∧ t.w.tele.readings = readings ∧
          (∀ r ∈ readings, r ≤ t.w.tele.hottest) ∧ readings.getD t.w.tele.sensor 0 = t.w.tele.hottest ∧
          ∀ i, i < t.w.tele.sensor → readings.getD i 0 < t.w.tele.hottest) ∧
      ((∃ r ∈ readings, 105000 ≤ r) → s.ctl.part ≠ .safe →
        ∃ t, exec (.thermalSample readings) s = .next t ∧ t.ctl.part = .safe ∧ t.ctl.pins.thermTripLow = true ∧ t.ctl.pins.faultLow = true ∧
          t.otp = s.otp) ∧
      ((∃ r ∈ readings, 105000 ≤ r) → s.ctl.part = .safe → ∃ t, exec (.thermalSample readings) s = .next t ∧ t.ctl.part = .safe ∧
        t.ctl.pins.thermTripLow = true ∧ t.w.tele.readings = readings ∧ t.otp = s.otp)) ∧
    (∀ rails : List RegReading, s.ctl.pins.pgAon = true → rails.length = 16 →
      ((∀ r ∈ rails, r.fault = false) → exec (.pmbusPoll rails) s = .next (s.withW { s.w with tele :=
        { s.w.tele with regs := rails, current := sumN ((rails.take 4).map (·.ma)) } }).tryRails) ∧
      ((∃ r ∈ rails, r.fault = true) → s.ctl.part ≠ .safe → s.ctl.byPin = false ∨ 100000 ≤ s.ctl.clock → ∃ t, exec (.pmbusPoll rails) s = .next t ∧ t.ctl.part = .safe ∧
        t.ctl.pins.faultLow = true ∧ t.w.tele.regs = rails ∧ t.otp = s.otp)) ∧
    (∀ rail status, s.ctl.pins.pgAon = true → s.ctl.part ≠ .safe → s.railOn rail = true → s.ctl.byPin = false ∨ 100000 ≤ s.ctl.clock →
      ∃ t, exec (.railOutOfWindow rail status) s = .next t ∧ t.ctl.part = .safe ∧ t.ctl.endStatus = stState ∧ t.ctl.pins.faultLow = true ∧
        t.otp = s.otp)

/-! ## Bring-up and reset -/

/-- Power and reset (R424, R445, R448, R465, R515, R517, R518): POWER_ON samples the straps, begins the first step with the persistent objects of
flash, and gives a BLANK part without a seed one of 96 bytes; a fall of PG_AON loses all but fuses and flash, and a persistent write still pending
leaves its old or its new value; RESET_N begins bring-up again without a context or a session, on a clock that starts anew. Forms: powerOn, pgAonFall, resetPin. -/
def Obligations.PowerOnAndResetComplete : Prop :=
  ∀ (s : State) (straps : BitVec 4),
    (s.ctl.pins.pgAon = false →
      ∃ t, exec (.powerOn straps) s = .next t ∧ t.ctl.part = .bringup ∧ t.ctl.step = 1 ∧ t.ctl.pins = { pgAon := true, straps } ∧
        t.ctl.mainPower = (if straps.getLsbD 0 then 1 else 0) ∧ t.ctl.persist = s.flash.persist ∧ t.ctl.sec.tokens = 4 ∧ t.flash = s.flash ∧
        (s.otp.life = .blank → s.otp.seed = none → ∃ seed, seed.length = 96 ∧ t.otp = { s.otp with seed := some seed }) ∧
        (s.otp.life ≠ .blank ∨ s.otp.seed ≠ none → t.otp = s.otp)) ∧
    (s.ctl.pins.pgAon = true →
      (∃ t, exec .pgAonFall s = .next t ∧ t.ctl = {} ∧ t.res = [] ∧ t.otp = s.otp ∧ t.w = { free := t.w.free } ∧
        t.flash = { s.flash with persist := t.flash.persist } ∧
        (t.flash.persist.hostKeys = s.flash.persist.hostKeys ∨ t.flash.persist.hostKeys = s.ctl.persist.hostKeys) ∧
        (t.flash.persist.udp = s.flash.persist.udp ∨ t.flash.persist.udp = s.ctl.persist.udp) ∧
        (s.ctl.persistQ = [] → t.flash.persist.hostKeys = s.flash.persist.hostKeys ∧ t.flash.persist.udp = s.flash.persist.udp ∧
          t.flash.persist.barred = s.flash.persist.barred ∧ t.flash.persist.mgmtKeys = s.flash.persist.mgmtKeys)) ∧
      ∃ t, exec (.resetPin straps) s = .next t ∧ t.ctl.part = .bringup ∧ t.ctl.step = 1 ∧ t.ctl.pins = { pgAon := true, straps } ∧
        t.ctl.resets = s.ctl.resets ∧ t.res = [] ∧ t.otp = s.otp ∧ t.w.koc.sessions = [] ∧ t.w.lease.holder = 0 ∧ t.w.cores = [] ∧ t.ctl.byPin = true ∧ t.ctl.clock = 0)

/-- Bring-up step by step (R445, R447, R449–R451, R454–R457, R462, R470, R496, R515): firmware that can be run ends the first step, and without
any the part stays there; a rail group in its window enables the next; PG_MAIN, once the telemetry agrees with it, brings the second stage that has
run since the reset, else an eligible one, links and ports up to training, and without one SAFE; a self-test with at most one bad core a cluster maps
the spares and begins the comparison, any other ends in SAFE; the comparison ends in READY or,
at its deadline, in TOPOLOGY_MISMATCH; rails that stay away, and a PLL that does not lock, end in SAFE. Forms: bootVerifyDone, railSequenceStep,
pgMainRise, pgMainTimeout, pllLockTimeout, selfTestDone, topologyDeadline, patternCacheLoaded. -/
def Obligations.BringUpCompletes : Prop :=
  ∀ s : State, s.ctl.part = .bringup →
    (s.ctl.pins.pgAon = true → s.ctl.step = 1 → s.ctl.booted = false →
      let x := s.bootLicence.countSkipped
      let y : State := { x with ctl := { x.ctl with booted := true } }
      ∃ t, exec .bootVerifyDone s = .next t ∧ t.ctl.booted = true ∧ t.ctl.part = .bringup ∧ t.otp = x.otp ∧
        (∀ ab, y.chooseFw 1 = some ab →
          t.ctl.sec.active1 = ab ∧ t.ctl.step = (if s.ctl.mainPower = 1 then 3 else 2) ∧
          (s.ctl.mainPower = 1 → t.ctl.railGroups = 1 ∧ t.ctl.pgMain = false) ∧ t.flash = x.flash) ∧
        (y.chooseFw 1 = none → t.ctl.step = 1 ∧ t.ctl.endStatus = stDigestMismatch)) ∧
    (s.ctl.step = 3 → s.ctl.mainPower = 1 → 1 ≤ s.ctl.railGroups → s.ctl.railGroups < 6 →
      exec .railSequenceStep s = .next { s with ctl := { s.ctl with railGroups := s.ctl.railGroups + 1 } }) ∧
    (s.ctl.step = 3 → s.ctl.railGroups = 6 → s.ctl.pgMain = false →
      let pin : State := { s with ctl := { s.ctl with pins := { s.ctl.pins with pgMain := true } } }
      let x : State := { s with ctl := { s.ctl with pgMain := true } }
      let t := s.tryRails
      exec .pgMainRise s = .next pin.tryRails ∧
      (s.ctl.pins.pgMain = false ∨ s.railsAgree = false → t = s) ∧
      (s.ctl.pins.pgMain = true → s.railsAgree = true →
        t.ctl.pgMain = true ∧ t.otp = s.otp ∧ (s.ctl.sec.ran2 = true → x.secondStage = some s.ctl.sec.active2) ∧
        (s.ctl.sec.ran2 = false → x.secondStage = x.chooseFw 2) ∧
        (∀ ab, x.secondStage = some ab →
          t.ctl.step = 4 ∧ t.ctl.mgmt = true ∧ t.ctl.sec.active2 = ab ∧ t.ctl.sec.ran2 = true ∧
          t.ctl.sec.record = (if x.topoOk s.flash.topology then s.flash.topology else []) ∧
          (∀ l, l < 20 → (t.w.link l).st = if bit s.ctl.sec.linkMask l then .waitSignal else .disabled) ∧
          (t.w.port 0).st = 1 ∧ (t.w.port 1).st = 1 ∧ t.flash = s.flash ∧ t.res = s.res) ∧
        (x.secondStage = none → t.ctl.part = .safe ∧ t.ctl.endStatus = stDigestMismatch))) ∧
    (s.ctl.step = 3 → 1 ≤ s.ctl.railGroups → s.ctl.pgMain = false →
      ∃ t, exec .pgMainTimeout s = .next t ∧ t.ctl.part = .safe ∧ t.ctl.endStatus = stTimeout ∧ t.ctl.pins.faultLow = true ∧ t.otp = s.otp) ∧
    (s.ctl.step = 3 → s.ctl.railGroups = 6 →
      ∃ t, exec .pllLockTimeout s = .next t ∧ t.ctl.part = .safe ∧ t.ctl.endStatus = stTimeout ∧ t.ctl.pins.faultLow = true ∧ t.otp = s.otp) ∧
    (∀ failed, s.ctl.step = 5 → (∀ k, k < 64 → (s.w.cluster k).power = .run) →
      (∀ k, k < 64 → (badCores s.flash.repair failed k).length < 2) →
      ∃ t, exec (.selfTestDone failed []) s = .next t ∧ t.flash.repair = newRepair s.flash.repair failed ∧
        (t.ctl.step = 6 ∨ t.ctl.step = 7) ∧ t.otp = s.otp ∧
        ∀ c, c < 1024 → (t.w.core c).phys = (if (newRepair s.flash.repair failed).getD (c / 16) 0xFF = c % 16 then 16 else c % 16) ∧
          ∀ m, (t.w.core c).mem m = {}) ∧
    (∀ failed units, s.ctl.step = 5 → (∀ k, k < 64 → (s.w.cluster k).power = .run) →
      units ≠ [] ∨ (∃ k, k < 64 ∧ 2 ≤ (badCores s.flash.repair failed k).length) →
      ∃ t, exec (.selfTestDone failed units) s = .next t ∧ t.flash.repair = newRepair s.flash.repair failed ∧ t.ctl.part = .safe ∧
        t.ctl.endStatus = stDigestMismatch ∧ t.ctl.pins.faultLow = true ∧ t.otp = s.otp) ∧
    (s.ctl.step = 6 →
      ∃ t, exec .topologyDeadline s = .next t ∧ t.ctl.compares = (s.ctl.compares + 1) % 2 ^ 32 ∧ t.otp = s.otp ∧
        (s.badLinks = [] → t.ctl.part = .ready ∧ t.ctl.step = 7 ∧ t.w.seam.rank = s.topoRank) ∧
        (s.badLinks ≠ [] → t.ctl.part = .mismatch ∧ t.ctl.mismatches = s.badLinks.length)) ∧
    (∀ ok, s.w.hbm.wipe = 2 → s.ctl.mgmt = true → s.w.scan.cache = 0 →
      let x := if ok then s.w.blit patternBase (alignUp s.flash.patterns.length 64) (cellsOf patternBase s.flash.patterns) [] else s.w
      exec (.patternCacheLoaded ok) s = .next (s.withW { x with scan := { x.scan with cache := if ok then 1 else 2 } }))

/-- Before power comes up (spec: the defaults of the object tables; log entries 5 to 7 for fuses, flash and what the spec leaves open):
PG_AON is low; the limits, delays, priorities, ports, numeric defaults, links, queue pairs, regions, groups, scan, snapshot and buddy hold their
defaults; no memory lists a byte, no context exists, so that core groups are apart, and nothing waits. -/
def Obligations.ResetHoldsDefaults : Prop :=
  let s := State.reset
  GroupsApart s.res ∧ s.pending = [] ∧ s.res = [] ∧ s.ctl.part = .bringup ∧ s.ctl.step = 0 ∧ s.ctl.pins.pgAon = false ∧ s.ctl.limit = 2600 ∧ s.ctl.excursion = 3100 ∧
  s.ctl.duration = 10 ∧ s.ctl.throttle = 100 ∧ s.ctl.idleDelay = 256 ∧ s.ctl.dozeDelay = 20 ∧ s.ctl.napDelay = 500 ∧ s.ctl.persist.udp = 50212 ∧
  s.ctl.persist.prioA = 3 ∧ s.ctl.persist.prioB = 4 ∧ s.w.hbm.mem.cells = [] ∧ s.w.koc.sessions = [] ∧ s.w.errs.queue = [] ∧ s.w.errs.next = 1 ∧
  (∀ c, (s.w.core c).state = .idle ∧ (s.w.core c).waitLimit = 100000 ∧ (s.w.core c).drainLimit = 2000 ∧ ∀ m, (s.w.core c).mem m = {}) ∧
  (∀ k, (s.w.cluster k).power = .off) ∧ (∀ d, (s.w.die d).duty = 8) ∧ (∀ g, (s.w.group g).tau = 2000 ∧ (s.w.group g).members = [] ∧ (s.w.group g).owner = 0xFFFF) ∧
  s.w.nums.accMode = 3 ∧ s.w.nums.outMode = 0 ∧ s.w.nums.rsrc = 0 ∧ s.w.nums.hist = 16 ∧ s.w.nums.margin = 1 ∧
  s.w.seam.rank = 0xFFFF ∧ s.w.seam.lost = [] ∧ (∀ l, (s.w.link l).peerRank = 0xFFFF ∧ (s.w.link l).downs = 0) ∧
  (∀ q, (s.w.qp q).st = .reset) ∧ (∀ m, (s.w.region m).kind = 0xFF) ∧ s.w.scan.st = 0 ∧ s.w.snap.st = .idle ∧
  s.w.buddy.buddy = 0xFFFF ∧ s.w.buddy.ward = 0xFFFF

/-! ## Security and the fault service -/


/-- The fault service (R477, R478, R482, R485, R487, R489): the record that waits longest is taken; a corrected or contained error leaves service,
a context's error is logged and its context held, a FATAL one ends in SAFE with its status, and every record that the log is owed is in it; a
record left untaken for 10 ms ends in SAFE; a scan that has run shows its result, and one that fails on a core not mapped out maps it out in flash
and lets the spare carry it. Forms: faultServiceTake, faultServiceWatchdog, scanComplete. -/
def Obligations.FaultServiceCompletes : Prop :=
  ∀ s : State,
    (∀ r rest, s.ctl.mgmt = true → s.ctl.part ≠ .safe → s.w.errs.waiting = r :: rest →
      ∃ t, exec .faultServiceTake s = .next t ∧ t.otp = s.otp ∧
        (r.cls = clsCe ∨ r.cls = clsUe → t.w.errs.waiting = rest ∧ t.ctl.part = s.ctl.part ∧ t.flash = s.flash ∧
          ∀ q ∈ t.w.errs.inService, q.seq ≠ r.seq) ∧
        (r.cls = clsCtx → t.flash = (if r.logged then s.flash else s.flash.addLog r) ∧ ((s.ent r.ctx).st ≠ .absent → (t.w.ctx r.ctx).hold = 1) ∧ t.ctl.part = s.ctl.part) ∧
        (r.cls = clsFatal → t.ctl.part = .safe ∧ t.ctl.endStatus = r.status ∧ t.ctl.pins.faultLow = true ∧
          (r.logged = false → (∀ q ∈ rest ++ s.w.errs.unqueued, q.seq ≠ r.seq) → t.flash = s.w.errs.owed.foldl Flash.addLog s.flash))) ∧
    (∀ r rest, s.ctl.mgmt = true → s.ctl.part ≠ .safe → s.w.errs.waiting = [] → s.w.errs.unqueued = r :: rest →
      ∃ t, exec .faultServiceTake s = .next t ∧ t.ctl.part = .safe ∧ t.ctl.endStatus = r.status ∧
        (r.cls = clsFatal → (∀ q ∈ rest, q.seq ≠ r.seq) → t.flash = s.w.errs.owed.foldl Flash.addLog s.flash)) ∧
    (s.ctl.mgmt = true → s.w.errs.waiting ≠ [] → s.ctl.part ≠ .safe →
      ∃ t, exec .faultServiceWatchdog s = .next t ∧ t.ctl.part = .safe ∧ t.ctl.pins.faultLow = true ∧ t.otp = s.otp) ∧
    (∀ pass patterns, s.w.scan.st = 1 → s.ctl.part = .ready → (s.w.cluster s.w.scan.cluster).power = .run →
      ∃ t, exec (.scanComplete pass patterns) s = .next t ∧ t.w.scan.st = (if pass then 2 else 3) ∧ t.otp = s.otp ∧
        t.w.scan.result = leBytes 1 s.w.scan.cluster ++ leBytes 1 s.w.scan.phys ++ leBytes 1 (if pass then 2 else 3) ++ leBytes 1 0 ++
          leBytes 4 patterns ∧
        (pass = true → t.flash.repair = s.flash.repair) ∧
        (pass = false → s.flash.repair.getD s.w.scan.cluster 0xFF = 0xFF →
          t.flash.repair = s.flash.repair.set s.w.scan.cluster s.w.scan.phys ∧ t.ctl.part = .ready ∧
          ∀ i, i < 16 → (s.w.core (16 * s.w.scan.cluster + i)).phys = s.w.scan.phys →
            (t.w.core (16 * s.w.scan.cluster + i)).phys = 16 ∧ ∀ m, (t.w.core (16 * s.w.scan.cluster + i)).mem m = {}))

/-- The error queue (R481, R482): a record that repeats a queued CE of its unit, instance and address is counted there and in no other
way; up to 240 queued records any record is queued with the next sequence number, up to 248 all but CE, up to 255 all but CE and UE,
up to 256 only FATAL ones; a CE and a UE that find no room are counted and dropped. -/
def Obligations.ErrorQueueAdmitsByClass : Prop :=
  ∀ (e : Errs) (r : ErrRec),
    let x := e.escalate r
    ((e.queue.any fun q => x.merges q) = true →
      (e.takeIn r).2 = none ∧ (e.takeIn r).1.queue.length = e.queue.length ∧ (e.takeIn r).1.next = e.next ∧
        ∀ (i : Nat) (q : ErrRec), e.queue[i]? = some q → (e.takeIn r).1.queue[i]? = some (if x.merges q then { q with occ := min 65535 (q.occ + 1) } else q)) ∧
    ((e.queue.any fun q => x.merges q) = false →
      (e.queue.length < admitLimit x.cls → (e.takeIn r).2 = some { x with seq := e.next } ∧
        (e.takeIn r).1.queue = e.queue ++ [{ x with seq := e.next }] ∧ (e.takeIn r).1.waiting = e.waiting ++ [{ x with seq := e.next }] ∧
        (e.takeIn r).1.next = add32 e.next 1) ∧
      (admitLimit x.cls ≤ e.queue.length → x.cls = clsCe → (e.takeIn r).2 = none ∧ (e.takeIn r).1.queue = e.queue ∧
        (e.takeIn r).1.dropped = (e.dropped + 1) % 2 ^ 64) ∧
      (admitLimit x.cls ≤ e.queue.length → x.cls = clsUe → (e.takeIn r).2 = none ∧ (e.takeIn r).1.queue = e.queue ∧
        (e.takeIn r).1.notQueued = (e.notQueued + 1) % 2 ^ 64) ∧
      (admitLimit x.cls ≤ e.queue.length → x.cls = clsCtx → e.queue.length < 256 → ∃ q, (e.takeIn r).2 = some q ∧ q.cls = clsFatal ∧
        q.escalated = true)) ∧
    ((e.takeIn r).1.queue.length ≤ max 256 e.queue.length)
end

