-- ==== Sys2Proof/Laws/Memory.lean ====
section
/-! SUPPORT. Memories as cells: a byte written is the byte read, every other byte reads as before, and each memory operation keeps the
canonical form (`Memory.wf`), which the memories after reset have. -/
namespace Sys2Proof.Machine

/-! ## Reading what was written -/

theorem Cells.get_filter (m : List Host.Cell) (p : Host.Cell → Bool) (a : Nat) (h : ∀ b, p (a, b) = true) :
    Cells.get (m.filter p) a = Cells.get m a := by
  induction m with
  | nil => rfl
  | cons e t ih =>
    obtain ⟨j, b⟩ := e
    by_cases hj : j = a
    · subst hj; simp [h, Cells.get]
    · cases hp : p (j, b) <;> simp [hp, Cells.get, hj, ih]

theorem Cells.get_filter_none (m : List Host.Cell) (p : Host.Cell → Bool) (a : Nat) (h : ∀ b, p (a, b) = false) :
    Cells.get (m.filter p) a = 0 := by
  induction m with
  | nil => rfl
  | cons e t ih =>
    obtain ⟨j, b⟩ := e
    by_cases hj : j = a
    · subst hj; simp [h, ih]
    · cases hp : p (j, b) <;> simp [hp, Cells.get, hj, ih]

theorem Cells.get_put (m : List Host.Cell) (a : Nat) (v : Byte) (b : Nat) :
    Cells.get (Cells.put m a v) b = if b = a then v else Cells.get m b := by
  induction m with
  | nil =>
    simp only [Cells.put, Cells.get]
    by_cases h : b = a
    · subst h; simp
    · rw [if_neg h, if_neg fun x => h x.symm]
  | cons e t ih =>
    obtain ⟨j, u⟩ := e
    simp only [Cells.put]
    by_cases h : b = a
    · subst h
      split
      · simp [Cells.get]
      · split
        · simp [Cells.get]
        · rename_i h1 h2
          have : ¬ j = b := fun x => h2 x.symm
          simp [Cells.get, this, ih]
    · have h' : ¬ a = b := fun x => h x.symm
      split
      · simp [Cells.get, h']
      · split
        · rename_i h1 h2; subst h2; simp [Cells.get, h']
        · simp [Cells.get, h, ih]

/-- A byte written is the byte read, and every other byte reads as before. -/
theorem Cells.get_set (m : List Host.Cell) (a : Nat) (v : Byte) (b : Nat) :
    Cells.get (Cells.set m a v) b = if b = a then v else Cells.get m b := by
  unfold Cells.set
  split
  · rename_i hv
    by_cases h : b = a
    · subst h; rw [Cells.get_filter_none]
      · simp [hv]
      · simp
    · rw [Cells.get_filter]
      · simp [h]
      · simp [h]
  · exact Cells.get_put ..

theorem Cells.get_write (bs : List Byte) (m : List Host.Cell) (a b : Nat) :
    Cells.get (Cells.write m a bs) b = if a ≤ b ∧ b < a + bs.length then bs.getD (b - a) 0 else Cells.get m b := by
  induction bs generalizing m a with
  | nil => simp [Cells.write] <;> omega
  | cons x xs ih =>
    simp only [Cells.write, ih, Cells.get_set, List.length_cons]
    by_cases h1 : b = a
    · subst h1; simp <;> omega
    · by_cases h2 : a + 1 ≤ b ∧ b < a + 1 + xs.length
      · have h3 : a ≤ b ∧ b < a + (xs.length + 1) := by omega
        have h4 : b - a = (b - (a + 1)) + 1 := by omega
        rw [if_pos h2, if_pos h3, h4, List.getD_cons_succ]
      · have h3 : ¬ (a ≤ b ∧ b < a + (xs.length + 1)) := by omega
        rw [if_neg h2, if_neg h3, if_neg h1]

theorem Cells.read_write (m : List Host.Cell) (a : Nat) (bs : List Byte) : Cells.read (Cells.write m a bs) a bs.length = bs := by
  apply List.ext_getElem
  · simp [Cells.read]
  · intro i h1 h2
    simp [Cells.read, Cells.get_write, h2]

@[simp] theorem leBytes_length (n v : Nat) : (leBytes n v).length = n := by
  induction n generalizing v with
  | zero => rfl
  | succ n ih => simp [leBytes, ih]

/-- A bit write leaves every byte that it does not touch. -/
theorem Cells.get_setBits (m : List Host.Cell) (b : BitWrite) (a : Nat) (h : b.touches a = false) :
    Cells.get (Cells.setBits m b) a = Cells.get m a := by
  simp only [Cells.setBits, Cells.get_write, leBytes_length]
  rw [if_neg]
  rintro ⟨h1, h2⟩
  have : b.touches a = true := by
    simp only [BitWrite.touches, BitWrite.span, Bool.and_eq_true]
    exact ⟨decide_eq_true h1, decide_eq_true h2⟩
  rw [this] at h
  exact absurd h (by decide)

theorem Cells.get_setBitsAll (bs : List BitWrite) (m : List Host.Cell) (a : Nat) (h : ∀ b ∈ bs, b.touches a = false) :
    Cells.get (bs.foldl Cells.setBits m) a = Cells.get m a := by
  induction bs generalizing m with
  | nil => rfl
  | cons b bs ih =>
    simp only [List.foldl_cons]
    rw [ih _ fun x hx => h x (List.mem_cons_of_mem _ hx), Cells.get_setBits _ _ _ (h b List.mem_cons_self)]

/-- Writes of an access change only the bytes that they touch. -/
theorem EccMem.get_write (ws : Nat) (m : EccMem) (bs : List BitWrite) (a : Nat) (h : ∀ b ∈ bs, b.touches a = false) :
    Cells.get (m.write ws bs).cells a = Cells.get m.cells a := Cells.get_setBitsAll bs m.cells a h

@[simp] theorem EccMem.write_cells (ws : Nat) (m : EccMem) (bs : List BitWrite) : (m.write ws bs).cells = bs.foldl Cells.setBits m.cells := rfl
@[simp] theorem EccMem.mark_cells (m : EccMem) (k : Nat) : (m.mark k).cells = m.cells := rfl
@[simp] theorem EccMem.clean_cells (m : EccMem) (k : Nat) : (m.clean k).cells = m.cells := rfl
@[simp] theorem EccMem.seen_cells (m : EccMem) (k b : Nat) : (m.seen k b).cells = m.cells ∧ (m.seen k b).marks = m.marks := ⟨rfl, rfl⟩

/-- A range replaced leaves every byte outside it. -/
theorem Cells.get_splice (m new : List Host.Cell) (lo hi a : Nat) (hn : ∀ c ∈ new, lo ≤ c.1 ∧ c.1 < hi) (ha : a < lo ∨ hi ≤ a) (hl : lo ≤ hi) :
    Cells.get (Cells.splice m lo hi new) a = Cells.get m a := by
  have app : ∀ (x y : List Host.Cell), Cells.get (x ++ y) a = if ∃ b, (a, b) ∈ x then Cells.get x a else Cells.get y a := by
    intro x y
    induction x with
    | nil => simp
    | cons e t ih =>
      obtain ⟨j, b⟩ := e
      by_cases hj : j = a
      · subst hj
        rw [if_pos ⟨b, List.mem_cons_self⟩]; simp [Cells.get]
      · have hj' : ¬ a = j := fun h => hj h.symm
        simp only [List.cons_append, Cells.get, if_neg hj, ih, List.mem_cons, Prod.mk.injEq, hj', false_and, false_or]
  have nolist : ∀ x : List Host.Cell, (¬ ∃ b, (a, b) ∈ x) → Cells.get x a = 0 := by
    intro x hx
    induction x with
    | nil => rfl
    | cons e t ih =>
      obtain ⟨j, b⟩ := e
      have hj : ¬ j = a := fun h => hx ⟨b, by rw [h]; exact List.mem_cons_self⟩
      simp only [Cells.get, if_neg hj]
      exact ih fun ⟨b, hb⟩ => hx ⟨b, List.mem_cons_of_mem _ hb⟩
  have hnew : ¬ ∃ b, (a, b) ∈ new := by
    rintro ⟨b, hb⟩; have := hn _ hb; simp at this; omega
  unfold Cells.splice
  rcases ha with ha | ha
  · rw [app, app]
    split
    · split
      · exact Cells.get_filter m _ a (by simp [ha])
      · rename_i h1 h2
        obtain ⟨b, hb⟩ := h1
        rcases List.mem_append.1 hb with hb | hb
        · exact absurd ⟨b, hb⟩ h2
        · exact absurd ⟨b, hb⟩ hnew
    · rename_i h1
      have : ¬ ∃ b, (a, b) ∈ m := by
        rintro ⟨b, hb⟩
        exact h1 ⟨b, List.mem_append.2 (.inl (List.mem_filter.2 ⟨hb, by simpa using ha⟩))⟩
      rw [Cells.get_filter_none _ _ _ (by simp; omega), nolist m this]
  · rw [app, if_neg]
    · exact Cells.get_filter m _ a (by simp [ha])
    · rintro ⟨b, hb⟩
      rcases List.mem_append.1 hb with hb | hb
      · have := (List.mem_filter.1 hb).2; simp at this; omega
      · exact hnew ⟨b, hb⟩

/-! ## The canonical form -/

theorem Cells.wfFrom_mono (m : List Host.Cell) {lo lo' : Nat} (h : lo' ≤ lo) (hw : Cells.wfFrom lo m = true) : Cells.wfFrom lo' m = true := by
  cases m with
  | nil => rfl
  | cons e t =>
    obtain ⟨j, b⟩ := e
    simp only [Cells.wfFrom, Bool.and_eq_true, decide_eq_true_eq] at hw ⊢
    exact ⟨⟨by omega, hw.1.2⟩, hw.2⟩

theorem Cells.wfFrom_filter (p : Host.Cell → Bool) (m : List Host.Cell) (lo : Nat) (h : Cells.wfFrom lo m = true) :
    Cells.wfFrom lo (m.filter p) = true := by
  induction m generalizing lo with
  | nil => rfl
  | cons e t ih =>
    obtain ⟨j, b⟩ := e
    simp only [Cells.wfFrom, Bool.and_eq_true, decide_eq_true_eq] at h
    cases hp : p (j, b)
    · simp only [List.filter_cons, hp]
      exact Cells.wfFrom_mono _ (by omega) (ih (j + 1) h.2)
    · simp only [List.filter_cons, hp, if_true, Cells.wfFrom, Bool.and_eq_true, decide_eq_true_eq]
      exact ⟨h.1, ih (j + 1) h.2⟩

theorem Cells.wfFrom_put (m : List Host.Cell) (lo a : Nat) (v : Byte) (hv : v ≠ 0) (ha : lo ≤ a) (h : Cells.wfFrom lo m = true) :
    Cells.wfFrom lo (Cells.put m a v) = true := by
  induction m generalizing lo with
  | nil => simpa [Cells.put, Cells.wfFrom, ha] using hv
  | cons e t ih =>
    obtain ⟨j, b⟩ := e
    simp only [Cells.wfFrom, Bool.and_eq_true, decide_eq_true_eq] at h
    simp only [Cells.put]
    split
    · simp only [Cells.wfFrom, Bool.and_eq_true, decide_eq_true_eq]
      exact ⟨⟨ha, hv⟩, ⟨by omega, h.1.2⟩, h.2⟩
    · split
      · rename_i h1 h2
        subst h2
        simp only [Cells.wfFrom, Bool.and_eq_true, decide_eq_true_eq]
        exact ⟨⟨ha, hv⟩, h.2⟩
      · simp only [Cells.wfFrom, Bool.and_eq_true, decide_eq_true_eq]
        exact ⟨h.1, ih (j + 1) (by omega) h.2⟩

theorem Cells.wf_set (m : List Host.Cell) (a : Nat) (v : Byte) (h : Memory.wf m = true) : Memory.wf (Cells.set m a v) = true := by
  unfold Cells.set
  split
  · exact Cells.wfFrom_filter _ _ _ h
  · rename_i hv; exact Cells.wfFrom_put _ _ _ _ hv (Nat.zero_le _) h

theorem Cells.wf_write (bs : List Byte) (m : List Host.Cell) (a : Nat) (h : Memory.wf m = true) : Memory.wf (Cells.write m a bs) = true := by
  induction bs generalizing m a with
  | nil => exact h
  | cons x xs ih => exact ih _ _ (Cells.wf_set _ _ _ h)

theorem Cells.wf_setBits (m : List Host.Cell) (b : BitWrite) (h : Memory.wf m = true) : Memory.wf (Cells.setBits m b) = true :=
  Cells.wf_write _ _ _ h

theorem Cells.wf_setBitsAll (bs : List BitWrite) (m : List Host.Cell) (h : Memory.wf m = true) : Memory.wf (bs.foldl Cells.setBits m) = true := by
  induction bs generalizing m with
  | nil => exact h
  | cons b bs ih => exact ih _ (Cells.wf_setBits _ _ h)

theorem Cells.wf_zero (m : List Host.Cell) (lo hi : Nat) (h : Memory.wf m = true) : Memory.wf (Cells.zero m lo hi) = true :=
  Cells.wfFrom_filter _ _ _ h

theorem EccMem.wf_write (ws : Nat) (m : EccMem) (bs : List BitWrite) (h : Memory.wf m.cells = true) : Memory.wf (m.write ws bs).cells = true :=
  Cells.wf_setBitsAll _ _ h

theorem EccMem.wf_zero (ws : Nat) (m : EccMem) (lo hi : Nat) (h : Memory.wf m.cells = true) : Memory.wf (m.zero ws lo hi).cells = true :=
  Cells.wf_zero _ _ _ h

theorem EccMem.wf_psTags (m : EccMem) (k : Nat) (h : Memory.wf m.cells = true) : Memory.wf (m.psTags k).cells = true :=
  Cells.wf_setBits _ _ (Cells.wf_setBits _ _ h)

theorem writeMem_wf (m : CoreMem) (v : EccMem) (bs : List BitWrite) (h : Memory.wf v.cells = true) : Memory.wf (writeMem m v bs).cells = true := by
  cases m
  · exact EccMem.wf_write 16 v bs h
  · exact EccMem.wf_write 16 v bs h
  · exact Cells.wfFrom_filter _ _ _ (EccMem.wf_write 16 v bs h)

/-- The cells of a byte string are canonical, and lie where the string does. -/
theorem cellsOf_wfFrom (bs : List Byte) (a : Nat) : Cells.wfFrom a (cellsOf a bs) = true := by
  induction bs generalizing a with
  | nil => rfl
  | cons b bs ih =>
    simp only [cellsOf]
    split
    · exact Cells.wfFrom_mono _ (Nat.le_succ a) (ih (a + 1))
    · rename_i hb; simpa [Cells.wfFrom, ih (a + 1)] using hb

theorem cellsOf_range (bs : List Byte) (a : Nat) : ∀ c ∈ cellsOf a bs, a ≤ c.1 ∧ c.1 < a + bs.length := by
  induction bs generalizing a with
  | nil => simp [cellsOf]
  | cons b bs ih =>
    intro c hc
    simp only [cellsOf] at hc
    simp only [List.length_cons]
    split at hc
    · have := ih (a + 1) c hc; omega
    · rcases List.mem_cons.1 hc with h | h
      · subst h; simp
      · have := ih (a + 1) c h; omega

theorem Cells.moved_range (m : List Host.Cell) (lo hi dst : Nat) : ∀ c ∈ Cells.moved m lo hi dst, dst ≤ c.1 ∧ c.1 < dst + (hi - lo) := by
  intro c hc
  simp only [Cells.moved, List.mem_map, List.mem_filter, Bool.and_eq_true, decide_eq_true_eq] at hc
  obtain ⟨x, ⟨-, h1, h2⟩, rfl⟩ := hc
  simp; omega

theorem Cells.wfFrom_append (x y : List Host.Cell) (lo mid : Nat) (hx : Cells.wfFrom lo x = true) (hr : ∀ c ∈ x, c.1 < mid)
    (hy : Cells.wfFrom mid y = true) (hl : lo ≤ mid) : Cells.wfFrom lo (x ++ y) = true := by
  induction x generalizing lo with
  | nil => exact Cells.wfFrom_mono _ hl hy
  | cons e t ih =>
    obtain ⟨j, b⟩ := e
    simp only [Cells.wfFrom, Bool.and_eq_true, decide_eq_true_eq] at hx
    have hj := hr _ List.mem_cons_self
    simp only [List.cons_append, Cells.wfFrom, Bool.and_eq_true, decide_eq_true_eq]
    exact ⟨hx.1, ih (j + 1) hx.2 (fun c hc => hr c (List.mem_cons_of_mem _ hc)) hj⟩

theorem Cells.wfFrom_raise (m : List Host.Cell) (lo lo' : Nat) (h : Cells.wfFrom lo m = true) (hr : ∀ c ∈ m, lo' ≤ c.1) :
    Cells.wfFrom lo' m = true := by
  cases m with
  | nil => rfl
  | cons e t =>
    obtain ⟨j, b⟩ := e
    simp only [Cells.wfFrom, Bool.and_eq_true, decide_eq_true_eq] at h ⊢
    exact ⟨⟨hr _ List.mem_cons_self, h.1.2⟩, h.2⟩

/-- A range replaced by canonical cells of that range leaves a canonical memory. -/
theorem Cells.wf_splice (m new : List Host.Cell) (lo hi : Nat) (h : Memory.wf m = true) (hn : Cells.wfFrom lo new = true)
    (hr : ∀ c ∈ new, c.1 < hi) (hl : lo ≤ hi) : Memory.wf (Cells.splice m lo hi new) = true := by
  unfold Memory.wf Cells.splice
  apply Cells.wfFrom_append _ _ 0 hi
  · apply Cells.wfFrom_append _ _ 0 lo (Cells.wfFrom_filter _ _ _ h) _ hn (Nat.zero_le _)
    intro c hc; simpa using (List.mem_filter.1 hc).2
  · intro c hc
    rcases List.mem_append.1 hc with hc | hc
    · have : c.1 < lo := by simpa using (List.mem_filter.1 hc).2
      omega
    · exact hr c hc
  · apply Cells.wfFrom_raise _ 0 hi (Cells.wfFrom_filter _ _ _ h)
    intro c hc; simpa using (List.mem_filter.1 hc).2
  · exact Nat.zero_le _

/-- Every memory of a world is canonical. -/
def World.memWf (w : World) : Prop :=
  Memory.wf w.hbm.mem.cells = true ∧ ∀ c m, Memory.wf ((w.core c).mem m).cells = true

theorem reset_memWf : State.reset.w.memWf := by
  refine ⟨rfl, fun c m => ?_⟩
  cases m <;> rfl

end Sys2Proof.Machine
end

