-- ==== Sys2Proof/Laws/Tables.lean ====
section
/-! SUPPORT. Sparse tables: what a written entry reads as, and that every other entry reads as before, in any table. -/
namespace Sys2Proof.Machine

@[simp] theorem Tab.get_set_same {α : Type} (d : α) (t : Tab α) (k : Nat) (v : α) : Tab.get d (t.set k v) k = v := by
  induction t with
  | nil => simp [Tab.set, Tab.get]
  | cons e t ih =>
    obtain ⟨j, u⟩ := e
    simp only [Tab.set]
    split
    · simp [Tab.get]
    · split
      · simp [Tab.get]
      · rename_i h1 h2
        have : ¬ j = k := fun h => h2 h.symm
        simp [Tab.get, this, ih]

theorem Tab.get_set_ne {α : Type} (d : α) (t : Tab α) {k i : Nat} (v : α) (h : i ≠ k) : Tab.get d (t.set k v) i = Tab.get d t i := by
  have hk : ¬ k = i := fun e => h e.symm
  induction t with
  | nil => simp [Tab.set, Tab.get, hk]
  | cons e t ih =>
    obtain ⟨j, u⟩ := e
    simp only [Tab.set]
    split
    · simp [Tab.get, hk]
    · split
      · rename_i h1 h2
        subst h2
        simp [Tab.get, hk]
      · simp [Tab.get, ih]

theorem Tab.set_set {α : Type} (t : Tab α) (k : Nat) (u v : α) : (t.set k u).set k v = t.set k v := by
  induction t with
  | nil => simp [Tab.set]
  | cons e t ih =>
    obtain ⟨j, x⟩ := e
    simp only [Tab.set]
    split
    · simp [Tab.set]
    · split
      · simp [Tab.set]
      · rename_i h1 h2
        simp [Tab.set, h1, h2, ih]

/-- An entry of a table whose every value was mapped, the default among them. -/
theorem Tab.get_map {α β : Type} (f : α → β) (d : α) (t : Tab α) (k : Nat) :
    Tab.get (f d) (t.map fun e => (e.1, f e.2)) k = f (Tab.get d t k) := by
  induction t with
  | nil => rfl
  | cons e t ih =>
    simp only [List.map_cons, Tab.get]
    split <;> simp_all

/-- An entry of a table of pairs that is not its default stands in the table. -/
theorem Tab.mem_of_get {α : Type} (d : α) (t : Tab α) (k : Nat) (h : Tab.get d t k ≠ d) : (k, Tab.get d t k) ∈ t := by
  induction t with
  | nil => exact absurd rfl h
  | cons e t ih =>
    simp only [Tab.get] at h ⊢
    by_cases hk : e.1 = k
    · simp only [hk, if_true] at h ⊢; exact List.mem_cons.2 (.inl (by rw [← hk]))
    · simp only [hk, if_false] at h ⊢; exact List.mem_cons_of_mem _ (ih h)

end Sys2Proof.Machine
end

