-- ==== Sys2Proof/Laws/State.lean ====
section
/-! SUPPORT. What each update of the state leaves: every other field, by computation; what a written entry reads as, and that another
entry of the same table reads as before. -/
namespace Sys2Proof.Machine

/-! ## The state -/

@[simp] theorem State.withW_frame (s : State) (w : World) :
    (s.withW w).w = w ∧ (s.withW w).pending = s.pending ∧ (s.withW w).otp = s.otp ∧ (s.withW w).flash = s.flash ∧ (s.withW w).ctl = s.ctl ∧
      (s.withW w).res = s.res := ⟨rfl, rfl, rfl, rfl, rfl, rfl⟩

@[simp] theorem State.withW_withW (s : State) (w u : World) : (s.withW w).withW u = s.withW u := rfl

@[simp] theorem State.withW_ent (s : State) (w : World) (n : Nat) : (s.withW w).ent n = s.ent n := rfl

@[simp] theorem State.setEnt_frame (s : State) (n : Nat) (v : Resid) :
    (s.setEnt n v).w = s.w ∧ (s.setEnt n v).pending = s.pending ∧ (s.setEnt n v).otp = s.otp ∧ (s.setEnt n v).flash = s.flash ∧
      (s.setEnt n v).ctl = s.ctl := ⟨rfl, rfl, rfl, rfl, rfl⟩

@[simp] theorem State.ent_setEnt (s : State) (n : Nat) (v : Resid) : (s.setEnt n v).ent n = v := Tab.get_set_same ..

theorem State.ent_setEnt_ne (s : State) {n m : Nat} (v : Resid) (h : m ≠ n) : (s.setEnt n v).ent m = s.ent m := Tab.get_set_ne _ _ _ h

/-! ## The tables of the world -/

@[simp] theorem World.setCore_frame (w : World) (c : Nat) (x : Core) :
    (w.setCore c x).signals = w.signals ∧ (w.setCore c x).crown = w.crown ∧ (w.setCore c x).clusters = w.clusters ∧ (w.setCore c
      x).dies = w.dies ∧ (w.setCore c x).ctxs = w.ctxs ∧ (w.setCore c x).ctxCtr = w.ctxCtr ∧ (w.setCore c x).dma = w.dma ∧ (w.setCore c
      x).hbm = w.hbm ∧ (w.setCore c x).nums = w.nums ∧ (w.setCore c x).links = w.links ∧ (w.setCore c x).seam = w.seam ∧ (w.setCore c
      x).groups = w.groups ∧ (w.setCore c x).colls = w.colls ∧ (w.setCore c x).collCtr = w.collCtr ∧ (w.setCore c x).ports = w.ports ∧
      (w.setCore c x).regions = w.regions ∧ (w.setCore c x).qps = w.qps ∧ (w.setCore c x).koc = w.koc ∧ (w.setCore c x).lease = w.lease
      ∧ (w.setCore c x).errs = w.errs ∧ (w.setCore c x).snap = w.snap ∧ (w.setCore c x).scan = w.scan ∧ (w.setCore c x).buddy = w.buddy
      ∧ (w.setCore c x).tele = w.tele ∧ (w.setCore c x).waiters = w.waiters ∧ (w.setCore c x).outbox = w.outbox ∧ (w.setCore c x).tick =
      w.tick ∧ (w.setCore c x).free = w.free :=
  ⟨rfl, rfl, rfl, rfl, rfl, rfl, rfl, rfl, rfl, rfl, rfl, rfl, rfl, rfl, rfl, rfl, rfl, rfl, rfl, rfl, rfl, rfl, rfl, rfl, rfl, rfl, rfl, rfl⟩
@[simp] theorem World.core_setCore (w : World) (c : Nat) (x : Core) : (w.setCore c x).core c = x := Tab.get_set_same ..
theorem World.core_setCore_ne (w : World) {c i : Nat} (x : Core) (h : i ≠ c) : (w.setCore c x).core i = w.core i := Tab.get_set_ne _ _ _ h
@[simp] theorem World.setCore_setCore (w : World) (c : Nat) (x y : Core) : (w.setCore c x).setCore c y = w.setCore c y := by
  simp [World.setCore, Tab.set_set]

@[simp] theorem World.setCluster_frame (w : World) (k : Nat) (x : Cluster) :
    (w.setCluster k x).cores = w.cores ∧ (w.setCluster k x).signals = w.signals ∧ (w.setCluster k x).crown = w.crown ∧ (w.setCluster k
      x).dies = w.dies ∧ (w.setCluster k x).ctxs = w.ctxs ∧ (w.setCluster k x).ctxCtr = w.ctxCtr ∧ (w.setCluster k x).dma = w.dma ∧
      (w.setCluster k x).hbm = w.hbm ∧ (w.setCluster k x).nums = w.nums ∧ (w.setCluster k x).links = w.links ∧ (w.setCluster k x).seam =
      w.seam ∧ (w.setCluster k x).groups = w.groups ∧ (w.setCluster k x).colls = w.colls ∧ (w.setCluster k x).collCtr = w.collCtr ∧
      (w.setCluster k x).ports = w.ports ∧ (w.setCluster k x).regions = w.regions ∧ (w.setCluster k x).qps = w.qps ∧ (w.setCluster k
      x).koc = w.koc ∧ (w.setCluster k x).lease = w.lease ∧ (w.setCluster k x).errs = w.errs ∧ (w.setCluster k x).snap = w.snap ∧
      (w.setCluster k x).scan = w.scan ∧ (w.setCluster k x).buddy = w.buddy ∧ (w.setCluster k x).tele = w.tele ∧ (w.setCluster k
      x).waiters = w.waiters ∧ (w.setCluster k x).outbox = w.outbox ∧ (w.setCluster k x).tick = w.tick ∧ (w.setCluster k x).free =
      w.free :=
  ⟨rfl, rfl, rfl, rfl, rfl, rfl, rfl, rfl, rfl, rfl, rfl, rfl, rfl, rfl, rfl, rfl, rfl, rfl, rfl, rfl, rfl, rfl, rfl, rfl, rfl, rfl, rfl, rfl⟩
@[simp] theorem World.cluster_setCluster (w : World) (k : Nat) (x : Cluster) : (w.setCluster k x).cluster k = x := Tab.get_set_same ..
theorem World.cluster_setCluster_ne (w : World) {k i : Nat} (x : Cluster) (h : i ≠ k) : (w.setCluster k x).cluster i = w.cluster i := Tab.get_set_ne _ _ _ h
@[simp] theorem World.setCluster_setCluster (w : World) (k : Nat) (x y : Cluster) : (w.setCluster k x).setCluster k y = w.setCluster k y := by
  simp [World.setCluster, Tab.set_set]

@[simp] theorem World.setDie_frame (w : World) (d : Nat) (x : Die) :
    (w.setDie d x).cores = w.cores ∧ (w.setDie d x).signals = w.signals ∧ (w.setDie d x).crown = w.crown ∧ (w.setDie d x).clusters =
      w.clusters ∧ (w.setDie d x).ctxs = w.ctxs ∧ (w.setDie d x).ctxCtr = w.ctxCtr ∧ (w.setDie d x).dma = w.dma ∧ (w.setDie d x).hbm =
      w.hbm ∧ (w.setDie d x).nums = w.nums ∧ (w.setDie d x).links = w.links ∧ (w.setDie d x).seam = w.seam ∧ (w.setDie d x).groups =
      w.groups ∧ (w.setDie d x).colls = w.colls ∧ (w.setDie d x).collCtr = w.collCtr ∧ (w.setDie d x).ports = w.ports ∧ (w.setDie d
      x).regions = w.regions ∧ (w.setDie d x).qps = w.qps ∧ (w.setDie d x).koc = w.koc ∧ (w.setDie d x).lease = w.lease ∧ (w.setDie d
      x).errs = w.errs ∧ (w.setDie d x).snap = w.snap ∧ (w.setDie d x).scan = w.scan ∧ (w.setDie d x).buddy = w.buddy ∧ (w.setDie d
      x).tele = w.tele ∧ (w.setDie d x).waiters = w.waiters ∧ (w.setDie d x).outbox = w.outbox ∧ (w.setDie d x).tick = w.tick ∧
      (w.setDie d x).free = w.free :=
  ⟨rfl, rfl, rfl, rfl, rfl, rfl, rfl, rfl, rfl, rfl, rfl, rfl, rfl, rfl, rfl, rfl, rfl, rfl, rfl, rfl, rfl, rfl, rfl, rfl, rfl, rfl, rfl, rfl⟩
@[simp] theorem World.die_setDie (w : World) (d : Nat) (x : Die) : (w.setDie d x).die d = x := Tab.get_set_same ..
theorem World.die_setDie_ne (w : World) {d i : Nat} (x : Die) (h : i ≠ d) : (w.setDie d x).die i = w.die i := Tab.get_set_ne _ _ _ h
@[simp] theorem World.setDie_setDie (w : World) (d : Nat) (x y : Die) : (w.setDie d x).setDie d y = w.setDie d y := by
  simp [World.setDie, Tab.set_set]

@[simp] theorem World.setCtx_frame (w : World) (n : Nat) (x : Ctx) :
    (w.setCtx n x).cores = w.cores ∧ (w.setCtx n x).signals = w.signals ∧ (w.setCtx n x).crown = w.crown ∧ (w.setCtx n x).clusters =
      w.clusters ∧ (w.setCtx n x).dies = w.dies ∧ (w.setCtx n x).ctxCtr = w.ctxCtr ∧ (w.setCtx n x).dma = w.dma ∧ (w.setCtx n x).hbm =
      w.hbm ∧ (w.setCtx n x).nums = w.nums ∧ (w.setCtx n x).links = w.links ∧ (w.setCtx n x).seam = w.seam ∧ (w.setCtx n x).groups =
      w.groups ∧ (w.setCtx n x).colls = w.colls ∧ (w.setCtx n x).collCtr = w.collCtr ∧ (w.setCtx n x).ports = w.ports ∧ (w.setCtx n
      x).regions = w.regions ∧ (w.setCtx n x).qps = w.qps ∧ (w.setCtx n x).koc = w.koc ∧ (w.setCtx n x).lease = w.lease ∧ (w.setCtx n
      x).errs = w.errs ∧ (w.setCtx n x).snap = w.snap ∧ (w.setCtx n x).scan = w.scan ∧ (w.setCtx n x).buddy = w.buddy ∧ (w.setCtx n
      x).tele = w.tele ∧ (w.setCtx n x).waiters = w.waiters ∧ (w.setCtx n x).outbox = w.outbox ∧ (w.setCtx n x).tick = w.tick ∧
      (w.setCtx n x).free = w.free :=
  ⟨rfl, rfl, rfl, rfl, rfl, rfl, rfl, rfl, rfl, rfl, rfl, rfl, rfl, rfl, rfl, rfl, rfl, rfl, rfl, rfl, rfl, rfl, rfl, rfl, rfl, rfl, rfl, rfl⟩
@[simp] theorem World.ctx_setCtx (w : World) (n : Nat) (x : Ctx) : (w.setCtx n x).ctx n = x := Tab.get_set_same ..
theorem World.ctx_setCtx_ne (w : World) {n i : Nat} (x : Ctx) (h : i ≠ n) : (w.setCtx n x).ctx i = w.ctx i := Tab.get_set_ne _ _ _ h
@[simp] theorem World.setCtx_setCtx (w : World) (n : Nat) (x y : Ctx) : (w.setCtx n x).setCtx n y = w.setCtx n y := by
  simp [World.setCtx, Tab.set_set]

@[simp] theorem World.setChan_frame (w : World) (d : Nat) (x : Chan) :
    (w.setChan d x).cores = w.cores ∧ (w.setChan d x).signals = w.signals ∧ (w.setChan d x).crown = w.crown ∧ (w.setChan d x).clusters
      = w.clusters ∧ (w.setChan d x).dies = w.dies ∧ (w.setChan d x).ctxs = w.ctxs ∧ (w.setChan d x).ctxCtr = w.ctxCtr ∧ (w.setChan d
      x).hbm = w.hbm ∧ (w.setChan d x).nums = w.nums ∧ (w.setChan d x).links = w.links ∧ (w.setChan d x).seam = w.seam ∧ (w.setChan d
      x).groups = w.groups ∧ (w.setChan d x).colls = w.colls ∧ (w.setChan d x).collCtr = w.collCtr ∧ (w.setChan d x).ports = w.ports ∧
      (w.setChan d x).regions = w.regions ∧ (w.setChan d x).qps = w.qps ∧ (w.setChan d x).koc = w.koc ∧ (w.setChan d x).lease = w.lease
      ∧ (w.setChan d x).errs = w.errs ∧ (w.setChan d x).snap = w.snap ∧ (w.setChan d x).scan = w.scan ∧ (w.setChan d x).buddy = w.buddy
      ∧ (w.setChan d x).tele = w.tele ∧ (w.setChan d x).waiters = w.waiters ∧ (w.setChan d x).outbox = w.outbox ∧ (w.setChan d x).tick =
      w.tick ∧ (w.setChan d x).free = w.free :=
  ⟨rfl, rfl, rfl, rfl, rfl, rfl, rfl, rfl, rfl, rfl, rfl, rfl, rfl, rfl, rfl, rfl, rfl, rfl, rfl, rfl, rfl, rfl, rfl, rfl, rfl, rfl, rfl, rfl⟩
@[simp] theorem World.chan_setChan (w : World) (d : Nat) (x : Chan) : (w.setChan d x).chan d = x := Tab.get_set_same ..
theorem World.chan_setChan_ne (w : World) {d i : Nat} (x : Chan) (h : i ≠ d) : (w.setChan d x).chan i = w.chan i := Tab.get_set_ne _ _ _ h
@[simp] theorem World.setChan_setChan (w : World) (d : Nat) (x y : Chan) : (w.setChan d x).setChan d y = w.setChan d y := by
  simp [World.setChan, Tab.set_set]

@[simp] theorem World.setLink_frame (w : World) (l : Nat) (x : Link) :
    (w.setLink l x).cores = w.cores ∧ (w.setLink l x).signals = w.signals ∧ (w.setLink l x).crown = w.crown ∧ (w.setLink l x).clusters
      = w.clusters ∧ (w.setLink l x).dies = w.dies ∧ (w.setLink l x).ctxs = w.ctxs ∧ (w.setLink l x).ctxCtr = w.ctxCtr ∧ (w.setLink l
      x).dma = w.dma ∧ (w.setLink l x).hbm = w.hbm ∧ (w.setLink l x).nums = w.nums ∧ (w.setLink l x).seam = w.seam ∧ (w.setLink l
      x).groups = w.groups ∧ (w.setLink l x).colls = w.colls ∧ (w.setLink l x).collCtr = w.collCtr ∧ (w.setLink l x).ports = w.ports ∧
      (w.setLink l x).regions = w.regions ∧ (w.setLink l x).qps = w.qps ∧ (w.setLink l x).koc = w.koc ∧ (w.setLink l x).lease = w.lease
      ∧ (w.setLink l x).errs = w.errs ∧ (w.setLink l x).snap = w.snap ∧ (w.setLink l x).scan = w.scan ∧ (w.setLink l x).buddy = w.buddy
      ∧ (w.setLink l x).tele = w.tele ∧ (w.setLink l x).waiters = w.waiters ∧ (w.setLink l x).outbox = w.outbox ∧ (w.setLink l x).tick =
      w.tick ∧ (w.setLink l x).free = w.free :=
  ⟨rfl, rfl, rfl, rfl, rfl, rfl, rfl, rfl, rfl, rfl, rfl, rfl, rfl, rfl, rfl, rfl, rfl, rfl, rfl, rfl, rfl, rfl, rfl, rfl, rfl, rfl, rfl, rfl⟩
@[simp] theorem World.link_setLink (w : World) (l : Nat) (x : Link) : (w.setLink l x).link l = x := Tab.get_set_same ..
theorem World.link_setLink_ne (w : World) {l i : Nat} (x : Link) (h : i ≠ l) : (w.setLink l x).link i = w.link i := Tab.get_set_ne _ _ _ h
@[simp] theorem World.setLink_setLink (w : World) (l : Nat) (x y : Link) : (w.setLink l x).setLink l y = w.setLink l y := by
  simp [World.setLink, Tab.set_set]

@[simp] theorem World.setGroup_frame (w : World) (g : Nat) (x : Group) :
    (w.setGroup g x).cores = w.cores ∧ (w.setGroup g x).signals = w.signals ∧ (w.setGroup g x).crown = w.crown ∧ (w.setGroup g
      x).clusters = w.clusters ∧ (w.setGroup g x).dies = w.dies ∧ (w.setGroup g x).ctxs = w.ctxs ∧ (w.setGroup g x).ctxCtr = w.ctxCtr ∧
      (w.setGroup g x).dma = w.dma ∧ (w.setGroup g x).hbm = w.hbm ∧ (w.setGroup g x).nums = w.nums ∧ (w.setGroup g x).links = w.links ∧
      (w.setGroup g x).seam = w.seam ∧ (w.setGroup g x).colls = w.colls ∧ (w.setGroup g x).collCtr = w.collCtr ∧ (w.setGroup g x).ports
      = w.ports ∧ (w.setGroup g x).regions = w.regions ∧ (w.setGroup g x).qps = w.qps ∧ (w.setGroup g x).koc = w.koc ∧ (w.setGroup g
      x).lease = w.lease ∧ (w.setGroup g x).errs = w.errs ∧ (w.setGroup g x).snap = w.snap ∧ (w.setGroup g x).scan = w.scan ∧
      (w.setGroup g x).buddy = w.buddy ∧ (w.setGroup g x).tele = w.tele ∧ (w.setGroup g x).waiters = w.waiters ∧ (w.setGroup g x).outbox
      = w.outbox ∧ (w.setGroup g x).tick = w.tick ∧ (w.setGroup g x).free = w.free :=
  ⟨rfl, rfl, rfl, rfl, rfl, rfl, rfl, rfl, rfl, rfl, rfl, rfl, rfl, rfl, rfl, rfl, rfl, rfl, rfl, rfl, rfl, rfl, rfl, rfl, rfl, rfl, rfl, rfl⟩
@[simp] theorem World.group_setGroup (w : World) (g : Nat) (x : Group) : (w.setGroup g x).group g = x := Tab.get_set_same ..
theorem World.group_setGroup_ne (w : World) {g i : Nat} (x : Group) (h : i ≠ g) : (w.setGroup g x).group i = w.group i := Tab.get_set_ne _ _ _ h
@[simp] theorem World.setGroup_setGroup (w : World) (g : Nat) (x y : Group) : (w.setGroup g x).setGroup g y = w.setGroup g y := by
  simp [World.setGroup, Tab.set_set]

@[simp] theorem World.setPort_frame (w : World) (p : Nat) (x : HPort) :
    (w.setPort p x).cores = w.cores ∧ (w.setPort p x).signals = w.signals ∧ (w.setPort p x).crown = w.crown ∧ (w.setPort p x).clusters
      = w.clusters ∧ (w.setPort p x).dies = w.dies ∧ (w.setPort p x).ctxs = w.ctxs ∧ (w.setPort p x).ctxCtr = w.ctxCtr ∧ (w.setPort p
      x).dma = w.dma ∧ (w.setPort p x).hbm = w.hbm ∧ (w.setPort p x).nums = w.nums ∧ (w.setPort p x).links = w.links ∧ (w.setPort p
      x).seam = w.seam ∧ (w.setPort p x).groups = w.groups ∧ (w.setPort p x).colls = w.colls ∧ (w.setPort p x).collCtr = w.collCtr ∧
      (w.setPort p x).regions = w.regions ∧ (w.setPort p x).qps = w.qps ∧ (w.setPort p x).koc = w.koc ∧ (w.setPort p x).lease = w.lease
      ∧ (w.setPort p x).errs = w.errs ∧ (w.setPort p x).snap = w.snap ∧ (w.setPort p x).scan = w.scan ∧ (w.setPort p x).buddy = w.buddy
      ∧ (w.setPort p x).tele = w.tele ∧ (w.setPort p x).waiters = w.waiters ∧ (w.setPort p x).outbox = w.outbox ∧ (w.setPort p x).tick =
      w.tick ∧ (w.setPort p x).free = w.free :=
  ⟨rfl, rfl, rfl, rfl, rfl, rfl, rfl, rfl, rfl, rfl, rfl, rfl, rfl, rfl, rfl, rfl, rfl, rfl, rfl, rfl, rfl, rfl, rfl, rfl, rfl, rfl, rfl, rfl⟩
@[simp] theorem World.port_setPort (w : World) (p : Nat) (x : HPort) : (w.setPort p x).port p = x := Tab.get_set_same ..
theorem World.port_setPort_ne (w : World) {p i : Nat} (x : HPort) (h : i ≠ p) : (w.setPort p x).port i = w.port i := Tab.get_set_ne _ _ _ h
@[simp] theorem World.setPort_setPort (w : World) (p : Nat) (x y : HPort) : (w.setPort p x).setPort p y = w.setPort p y := by
  simp [World.setPort, Tab.set_set]

@[simp] theorem World.setRegion_frame (w : World) (m : Nat) (x : Region) :
    (w.setRegion m x).cores = w.cores ∧ (w.setRegion m x).signals = w.signals ∧ (w.setRegion m x).crown = w.crown ∧ (w.setRegion m
      x).clusters = w.clusters ∧ (w.setRegion m x).dies = w.dies ∧ (w.setRegion m x).ctxs = w.ctxs ∧ (w.setRegion m x).ctxCtr = w.ctxCtr
      ∧ (w.setRegion m x).dma = w.dma ∧ (w.setRegion m x).hbm = w.hbm ∧ (w.setRegion m x).nums = w.nums ∧ (w.setRegion m x).links =
      w.links ∧ (w.setRegion m x).seam = w.seam ∧ (w.setRegion m x).groups = w.groups ∧ (w.setRegion m x).colls = w.colls ∧ (w.setRegion
      m x).collCtr = w.collCtr ∧ (w.setRegion m x).ports = w.ports ∧ (w.setRegion m x).qps = w.qps ∧ (w.setRegion m x).koc = w.koc ∧
      (w.setRegion m x).lease = w.lease ∧ (w.setRegion m x).errs = w.errs ∧ (w.setRegion m x).snap = w.snap ∧ (w.setRegion m x).scan =
      w.scan ∧ (w.setRegion m x).buddy = w.buddy ∧ (w.setRegion m x).tele = w.tele ∧ (w.setRegion m x).waiters = w.waiters ∧
      (w.setRegion m x).outbox = w.outbox ∧ (w.setRegion m x).tick = w.tick ∧ (w.setRegion m x).free = w.free :=
  ⟨rfl, rfl, rfl, rfl, rfl, rfl, rfl, rfl, rfl, rfl, rfl, rfl, rfl, rfl, rfl, rfl, rfl, rfl, rfl, rfl, rfl, rfl, rfl, rfl, rfl, rfl, rfl, rfl⟩
@[simp] theorem World.region_setRegion (w : World) (m : Nat) (x : Region) : (w.setRegion m x).region m = x := Tab.get_set_same ..
theorem World.region_setRegion_ne (w : World) {m i : Nat} (x : Region) (h : i ≠ m) : (w.setRegion m x).region i = w.region i := Tab.get_set_ne _ _ _ h
@[simp] theorem World.setRegion_setRegion (w : World) (m : Nat) (x y : Region) : (w.setRegion m x).setRegion m y = w.setRegion m y := by
  simp [World.setRegion, Tab.set_set]

@[simp] theorem World.setQp_frame (w : World) (q : Nat) (x : Qp) :
    (w.setQp q x).cores = w.cores ∧ (w.setQp q x).signals = w.signals ∧ (w.setQp q x).crown = w.crown ∧ (w.setQp q x).clusters =
      w.clusters ∧ (w.setQp q x).dies = w.dies ∧ (w.setQp q x).ctxs = w.ctxs ∧ (w.setQp q x).ctxCtr = w.ctxCtr ∧ (w.setQp q x).dma =
      w.dma ∧ (w.setQp q x).hbm = w.hbm ∧ (w.setQp q x).nums = w.nums ∧ (w.setQp q x).links = w.links ∧ (w.setQp q x).seam = w.seam ∧
      (w.setQp q x).groups = w.groups ∧ (w.setQp q x).colls = w.colls ∧ (w.setQp q x).collCtr = w.collCtr ∧ (w.setQp q x).ports =
      w.ports ∧ (w.setQp q x).regions = w.regions ∧ (w.setQp q x).koc = w.koc ∧ (w.setQp q x).lease = w.lease ∧ (w.setQp q x).errs =
      w.errs ∧ (w.setQp q x).snap = w.snap ∧ (w.setQp q x).scan = w.scan ∧ (w.setQp q x).buddy = w.buddy ∧ (w.setQp q x).tele = w.tele ∧
      (w.setQp q x).waiters = w.waiters ∧ (w.setQp q x).outbox = w.outbox ∧ (w.setQp q x).tick = w.tick ∧ (w.setQp q x).free = w.free :=
  ⟨rfl, rfl, rfl, rfl, rfl, rfl, rfl, rfl, rfl, rfl, rfl, rfl, rfl, rfl, rfl, rfl, rfl, rfl, rfl, rfl, rfl, rfl, rfl, rfl, rfl, rfl, rfl, rfl⟩
@[simp] theorem World.qp_setQp (w : World) (q : Nat) (x : Qp) : (w.setQp q x).qp q = x := Tab.get_set_same ..
theorem World.qp_setQp_ne (w : World) {q i : Nat} (x : Qp) (h : i ≠ q) : (w.setQp q x).qp i = w.qp i := Tab.get_set_ne _ _ _ h
@[simp] theorem World.setQp_setQp (w : World) (q : Nat) (x y : Qp) : (w.setQp q x).setQp q y = w.setQp q y := by
  simp [World.setQp, Tab.set_set]

/-! ## Stacks of HBM -/

@[simp] theorem World.setStack_frame (w : World) (t : Nat) (x : Stack) :
    (w.setStack t x).cores = w.cores ∧ (w.setStack t x).signals = w.signals ∧ (w.setStack t x).crown = w.crown ∧ (w.setStack t
      x).clusters = w.clusters ∧ (w.setStack t x).dies = w.dies ∧ (w.setStack t x).ctxs = w.ctxs ∧ (w.setStack t x).ctxCtr = w.ctxCtr ∧
      (w.setStack t x).dma = w.dma ∧ (w.setStack t x).nums = w.nums ∧ (w.setStack t x).links = w.links ∧ (w.setStack t x).seam = w.seam
      ∧ (w.setStack t x).groups = w.groups ∧ (w.setStack t x).colls = w.colls ∧ (w.setStack t x).collCtr = w.collCtr ∧ (w.setStack t
      x).ports = w.ports ∧ (w.setStack t x).regions = w.regions ∧ (w.setStack t x).qps = w.qps ∧ (w.setStack t x).koc = w.koc ∧
      (w.setStack t x).lease = w.lease ∧ (w.setStack t x).errs = w.errs ∧ (w.setStack t x).snap = w.snap ∧ (w.setStack t x).scan =
      w.scan ∧ (w.setStack t x).buddy = w.buddy ∧ (w.setStack t x).tele = w.tele ∧ (w.setStack t x).waiters = w.waiters ∧ (w.setStack t
      x).outbox = w.outbox ∧ (w.setStack t x).tick = w.tick ∧ (w.setStack t x).free = w.free :=
  ⟨rfl, rfl, rfl, rfl, rfl, rfl, rfl, rfl, rfl, rfl, rfl, rfl, rfl, rfl, rfl, rfl, rfl, rfl, rfl, rfl, rfl, rfl, rfl, rfl, rfl, rfl, rfl, rfl⟩
@[simp] theorem World.setStack_mem (w : World) (t : Nat) (x : Stack) :
    (w.setStack t x).hbm.mem = w.hbm.mem ∧ (w.setStack t x).hbm.corrected = w.hbm.corrected ∧ (w.setStack t x).hbm.scrubPos = w.hbm.scrubPos ∧
      (w.setStack t x).hbm.passes = w.hbm.passes ∧ (w.setStack t x).hbm.wipe = w.hbm.wipe := ⟨rfl, rfl, rfl, rfl, rfl⟩
@[simp] theorem World.stack_setStack (w : World) (t : Nat) (x : Stack) : (w.setStack t x).stack t = x := Tab.get_set_same ..
theorem World.stack_setStack_ne (w : World) {t i : Nat} (x : Stack) (h : i ≠ t) : (w.setStack t x).stack i = w.stack i := Tab.get_set_ne _ _ _ h

/-! ## Windows and memories of a core -/

@[simp] theorem World.win_setWin (w : World) (c i : Nat) (v : Window) : (w.setWin c i v).win c i = v := by
  simp [World.win, World.setWin, Core.win, Core.setWin, Tab.get_set_same]
theorem World.win_setWin_ne (w : World) (c i : Nat) (v : Window) {j : Nat} (h : j ≠ i) : (w.setWin c i v).win c j = w.win c j := by
  simp [World.win, World.setWin, Core.win, Core.setWin, Tab.get_set_ne _ _ _ h]
@[simp] theorem Core.mem_setMem (k : Core) (m : CoreMem) (v : EccMem) : (k.setMem m v).mem m = v := by cases m <;> rfl
theorem Core.mem_setMem_ne (k : Core) {m m' : CoreMem} (v : EccMem) (h : m' ≠ m) : (k.setMem m v).mem m' = k.mem m' := by
  cases m <;> cases m' <;> first | rfl | exact absurd rfl h
@[simp] theorem Core.setMem_frame (k : Core) (m : CoreMem) (v : EccMem) :
    (k.setMem m v).state = k.state ∧ (k.setMem m v).regs = k.regs ∧ (k.setMem m v).ctrs = k.ctrs ∧ (k.setMem m v).nextIdx = k.nextIdx ∧
      (k.setMem m v).buf = k.buf ∧ (k.setMem m v).load = k.load ∧ (k.setMem m v).matrix = k.matrix ∧ (k.setMem m v).vector = k.vector ∧
      (k.setMem m v).store = k.store ∧ (k.setMem m v).stream = k.stream ∧ (k.setMem m v).windows = k.windows ∧
      (k.setMem m v).wbq = k.wbq ∧ (k.setMem m v).phys = k.phys := by cases m <;> exact ⟨rfl, rfl, rfl, rfl, rfl, rfl, rfl, rfl, rfl, rfl, rfl, rfl, rfl⟩

/-! ## Classes of a host port (R373, R374) and the receive units of a link (R339) -/

@[simp] theorem HPort.held_setHeld (v : HPort) (k : LossClass) (x : Ingress) : (v.setHeld k x).held k = x := by cases k <;> rfl
theorem HPort.held_setHeld_ne (v : HPort) {k j : LossClass} (x : Ingress) (h : j ≠ k) : (v.setHeld k x).held j = v.held j := by
  cases k <;> cases j <;> first | rfl | exact absurd rfl h
@[simp] theorem HPort.above_setAbove (v : HPort) (k : LossClass) (x : Bool) : (v.setAbove k x).above k = x := by cases k <;> rfl
theorem HPort.above_setAbove_ne (v : HPort) {k j : LossClass} (x : Bool) (h : j ≠ k) : (v.setAbove k x).above j = v.above j := by
  cases k <;> cases j <;> first | rfl | exact absurd rfl h
@[simp] theorem HPort.paused_setPaused (v : HPort) (k : LossClass) (x : Option Nat) : (v.setPaused k x).paused k = x := by cases k <;> rfl
theorem HPort.paused_setPaused_ne (v : HPort) {k j : LossClass} (x : Option Nat) (h : j ≠ k) : (v.setPaused k x).paused j = v.paused j := by
  cases k <;> cases j <;> first | rfl | exact absurd rfl h
@[simp] theorem HPort.setHeld_frame (v : HPort) (k : LossClass) (x : Ingress) :
    (v.setHeld k x).inOther = v.inOther ∧ (v.setHeld k x).above = v.above ∧ (v.setHeld k x).paused = v.paused ∧ (v.setHeld k x).drops = v.drops ∧
      (v.setHeld k x).st = v.st ∧ (v.setHeld k x).live = v.live := by
  cases k <;> refine ⟨rfl, ?_, ?_, rfl, rfl, rfl⟩ <;> funext j <;> cases j <;> rfl
@[simp] theorem HPort.setPaused_frame (v : HPort) (k : LossClass) (x : Option Nat) :
    (v.setPaused k x).inOther = v.inOther ∧ (v.setPaused k x).held = v.held ∧ (v.setPaused k x).above = v.above ∧ (v.setPaused k x).drops = v.drops ∧
      (v.setPaused k x).st = v.st ∧ (v.setPaused k x).live = v.live := by
  cases k <;> refine ⟨rfl, ?_, ?_, rfl, rfl, rfl⟩ <;> funext j <;> cases j <;> rfl
@[simp] theorem Link.free_frame (k : Link) (vc units : Nat) :
    (k.free vc units).st = k.st ∧ (k.free vc units).resv = k.resv ∧ (k.free vc units).shared = k.shared ∧ (k.free vc units).replay = k.replay ∧
      (k.free vc units).waitq = k.waitq ∧ (k.free vc units).txSeq = k.txSeq ∧ (k.free vc units).rxSeq = k.rxSeq ∧
      (k.free vc units).parts = k.parts := ⟨rfl, rfl, rfl, rfl, rfl, rfl, rfl, rfl⟩
@[simp] theorem Link.give_frame (k : Link) (vc units : Nat) :
    (k.give vc units).st = k.st ∧ (k.give vc units).toReturn = k.toReturn ∧ (k.give vc units).replay = k.replay ∧
      (k.give vc units).waitq = k.waitq ∧ (k.give vc units).txSeq = k.txSeq ∧ (k.give vc units).rxSeq = k.rxSeq ∧
      (k.give vc units).parts = k.parts := ⟨rfl, rfl, rfl, rfl, rfl, rfl, rfl⟩
@[simp] theorem Link.take_frame (k : Link) (vc units : Nat) :
    (k.take vc units).st = k.st ∧ (k.take vc units).toReturn = k.toReturn ∧ (k.take vc units).replay = k.replay ∧
      (k.take vc units).waitq = k.waitq ∧ (k.take vc units).txSeq = k.txSeq ∧ (k.take vc units).rxSeq = k.rxSeq ∧
      (k.take vc units).parts = k.parts := ⟨rfl, rfl, rfl, rfl, rfl, rfl, rfl⟩

end Sys2Proof.Machine
end

