-- ==== Sys2Proof/Laws/Reads.lean ====
section
/-! SUPPORT. What events, error records and reads of memory leave: `OnlyRead w u` says that u differs from w in error records, events,
latent errors and marking, but in no byte that a program can have written. -/
namespace Sys2Proof.Machine

/-! ## Events and records -/

/-- An event reaches sessions and the outbox, and nothing else (R422). -/
theorem World.event_frame (w : World) (code idx sub die : Nat) (ctx : Option Nat) (st : Nat) (p : List Byte) :
    w.event code idx sub die ctx st p = { w with koc := (w.event code idx sub die ctx st p).koc, outbox := (w.event code idx sub die ctx st p).outbox } := rfl

@[simp] theorem World.event_fields (w : World) (code idx sub die : Nat) (ctx : Option Nat) (st : Nat) (p : List Byte) :
    let u := w.event code idx sub die ctx st p
    u.cores = w.cores ∧ u.signals = w.signals ∧ u.crown = w.crown ∧ u.clusters = w.clusters ∧ u.dies = w.dies ∧ u.ctxs = w.ctxs ∧
      u.ctxCtr = w.ctxCtr ∧ u.dma = w.dma ∧ u.hbm = w.hbm ∧ u.nums = w.nums ∧ u.links = w.links ∧ u.seam = w.seam ∧ u.groups = w.groups ∧
      u.colls = w.colls ∧ u.collCtr = w.collCtr ∧ u.ports = w.ports ∧ u.regions = w.regions ∧ u.qps = w.qps ∧ u.lease = w.lease ∧
      u.errs = w.errs ∧ u.snap = w.snap ∧ u.scan = w.scan ∧ u.buddy = w.buddy ∧ u.tele = w.tele ∧ u.waiters = w.waiters ∧ u.tick = w.tick ∧
      u.free = w.free :=
  ⟨rfl, rfl, rfl, rfl, rfl, rfl, rfl, rfl, rfl, rfl, rfl, rfl, rfl, rfl, rfl, rfl, rfl, rfl, rfl, rfl, rfl, rfl, rfl, rfl, rfl, rfl, rfl⟩

@[simp] theorem World.event_at (w : World) (code idx sub die : Nat) (ctx : Option Nat) (st : Nat) (p : List Byte) (i : Nat) :
    let u := w.event code idx sub die ctx st p
    u.core i = w.core i ∧ u.cluster i = w.cluster i ∧ u.die i = w.die i ∧ u.ctx i = w.ctx i ∧ u.chan i = w.chan i ∧ u.link i = w.link i ∧
      u.group i = w.group i ∧ u.port i = w.port i ∧ u.region i = w.region i ∧ u.qp i = w.qp i ∧ u.stack i = w.stack i :=
  ⟨rfl, rfl, rfl, rfl, rfl, rfl, rfl, rfl, rfl, rfl, rfl⟩

/-- A record raised reaches the error queue, sessions and the outbox, and nothing else (R477–R485). -/
theorem World.raise_frame (w : World) (cls unit status inst : Nat) (ctx : Option Nat) (die addr : Nat) (detail : List Byte) (peer : Bool) :
    let u := w.raise cls unit status inst ctx die addr detail peer
    u = { w with errs := u.errs, koc := u.koc, outbox := u.outbox } := by
  unfold World.raise
  dsimp only
  split <;> rfl

@[simp] theorem World.raise_fields (w : World) (cls unit status inst : Nat) (ctx : Option Nat) (die addr : Nat) (detail : List Byte) (peer : Bool) :
    let u := w.raise cls unit status inst ctx die addr detail peer
    u.cores = w.cores ∧ u.signals = w.signals ∧ u.crown = w.crown ∧ u.clusters = w.clusters ∧ u.dies = w.dies ∧ u.ctxs = w.ctxs ∧
      u.ctxCtr = w.ctxCtr ∧ u.dma = w.dma ∧ u.hbm = w.hbm ∧ u.nums = w.nums ∧ u.links = w.links ∧ u.seam = w.seam ∧ u.groups = w.groups ∧
      u.colls = w.colls ∧ u.collCtr = w.collCtr ∧ u.ports = w.ports ∧ u.regions = w.regions ∧ u.qps = w.qps ∧ u.lease = w.lease ∧
      u.snap = w.snap ∧ u.scan = w.scan ∧ u.buddy = w.buddy ∧ u.tele = w.tele ∧ u.waiters = w.waiters ∧ u.tick = w.tick ∧ u.free = w.free := by
  have h := World.raise_frame w cls unit status inst ctx die addr detail peer
  dsimp only at h ⊢
  rw [h]
  exact ⟨rfl, rfl, rfl, rfl, rfl, rfl, rfl, rfl, rfl, rfl, rfl, rfl, rfl, rfl, rfl, rfl, rfl, rfl, rfl, rfl, rfl, rfl, rfl, rfl, rfl, rfl⟩

@[simp] theorem World.raise_at (w : World) (cls unit status inst : Nat) (ctx : Option Nat) (die addr : Nat) (detail : List Byte) (peer : Bool) (i : Nat) :
    let u := w.raise cls unit status inst ctx die addr detail peer
    u.core i = w.core i ∧ u.cluster i = w.cluster i ∧ u.die i = w.die i ∧ u.ctx i = w.ctx i ∧ u.chan i = w.chan i ∧ u.link i = w.link i ∧
      u.group i = w.group i ∧ u.port i = w.port i ∧ u.region i = w.region i ∧ u.qp i = w.qp i ∧ u.stack i = w.stack i := by
  have h := World.raise_frame w cls unit status inst ctx die addr detail peer
  dsimp only at h ⊢
  rw [h]
  exact ⟨rfl, rfl, rfl, rfl, rfl, rfl, rfl, rfl, rfl, rfl, rfl⟩

/-! ## Reads -/

/-- Two memories with the same bytes, but for the poison tags that a Partial-Sum Store keeps in byte 4 of a container (R105). -/
def sameBytes (m : CoreMem) (a b : EccMem) : Prop :=
  ∀ i, m ≠ .psum ∨ i % 8 ≠ 4 → Cells.get b.cells i = Cells.get a.cells i

/-- u differs from w in error records, events, latent errors and marking only: what reading may change (R95, R105, R326). -/
structure World.OnlyRead (w u : World) : Prop where
  rest : u = { w with cores := u.cores, hbm := u.hbm, koc := u.koc, errs := u.errs, outbox := u.outbox }
  core : ∀ c, u.core c = { w.core c with ws := (u.core c).ws, sp := (u.core c).sp, ps := (u.core c).ps, wbq := (u.core c).wbq, wbDropped := (u.core c).wbDropped }
  bytes : ∀ c m, sameBytes m ((w.core c).mem m) ((u.core c).mem m)
  hbm : u.hbm = { w.hbm with mem := u.hbm.mem, corrected := u.hbm.corrected, stackTab := u.hbm.stackTab }
  cells : u.hbm.mem.cells = w.hbm.mem.cells

theorem World.OnlyRead.refl (w : World) : w.OnlyRead w := ⟨rfl, fun _ => rfl, fun _ _ _ _ => rfl, rfl, rfl⟩

theorem World.OnlyRead.trans {w u v : World} (a : w.OnlyRead u) (b : u.OnlyRead v) : w.OnlyRead v where
  rest := by rw [b.rest, a.rest]
  core c := by rw [b.core c, a.core c]
  bytes c m i h := (b.bytes c m i h).trans (a.bytes c m i h)
  hbm := by rw [b.hbm, a.hbm]
  cells := b.cells.trans a.cells

theorem World.OnlyRead.foldl {α : Type} (f : World → α → World) (h : ∀ (w : World) (x : α), w.OnlyRead (f w x)) (l : List α) (w : World) :
    w.OnlyRead (l.foldl f w) := by
  induction l generalizing w with
  | nil => exact .refl w
  | cons x l ih => exact (h w x).trans (ih _)

theorem World.onlyRead_event (w : World) (code idx sub die : Nat) (ctx : Option Nat) (st : Nat) (p : List Byte) :
    w.OnlyRead (w.event code idx sub die ctx st p) := ⟨rfl, fun _ => rfl, fun _ _ _ _ => rfl, rfl, rfl⟩

theorem World.onlyRead_raise (w : World) (cls unit status inst : Nat) (ctx : Option Nat) (die addr : Nat) (detail : List Byte) (peer : Bool) :
    w.OnlyRead (w.raise cls unit status inst ctx die addr detail peer) := by
  have h := World.raise_frame w cls unit status inst ctx die addr detail peer
  dsimp only at h
  rw [h]
  exact ⟨rfl, fun _ => rfl, fun _ _ _ _ => rfl, rfl, rfl⟩

theorem tagBit_touches (a i : Nat) (ha : a % 8 = 0) (h : i % 8 ≠ 4) : BitWrite.touches ⟨8 * a + 36, 1, 1, false⟩ i = false := by
  cases ht : BitWrite.touches ⟨8 * a + 36, 1, 1, false⟩ i with
  | false => rfl
  | true =>
    simp only [BitWrite.touches, BitWrite.span, Bool.and_eq_true] at ht
    have h1 := of_decide_eq_true ht.1
    have h2 := of_decide_eq_true ht.2
    omega

theorem EccMem.psTags_bytes (m : EccMem) (k i : Nat) (h : i % 8 ≠ 4) : Cells.get (m.psTags k).cells i = Cells.get m.cells i := by
  unfold EccMem.psTags
  dsimp only
  rw [Cells.get_setBits, Cells.get_setBits]
  · exact tagBit_touches _ i (by omega) h
  · exact tagBit_touches _ i (by omega) h

/-- A core's memory given new marking, and its write-back queue. -/
theorem World.onlyRead_setMem (w : World) (c : Nat) (m : CoreMem) (v : EccMem) (q : List (CoreMem × Nat)) (d : Nat)
    (h : sameBytes m ((w.core c).mem m) v) : w.OnlyRead (w.setCore c { (w.core c).setMem m v with wbq := q, wbDropped := d }) where
  rest := rfl
  core e := by
    by_cases he : e = c
    · subst he; rw [World.core_setCore]; cases m <;> rfl
    · rw [World.core_setCore_ne _ _ he]
  bytes e m' i hi := by
    by_cases he : e = c
    · subst he
      rw [World.core_setCore]
      by_cases hm : m' = m
      · subst hm
        have : (({ (w.core e).setMem m' v with wbq := q, wbDropped := d } : Core)).mem m' = v := by cases m' <;> rfl
        rw [this]; exact h i hi
      · have : (({ (w.core e).setMem m v with wbq := q, wbDropped := d } : Core)).mem m' = (w.core e).mem m' := by
          cases m <;> cases m' <;> first | rfl | exact absurd rfl hm
        rw [this]
    · rw [World.core_setCore_ne _ _ he]
  hbm := rfl
  cells := rfl

theorem World.onlyRead_touchWord (w : World) (c : Nat) (n : Option Nat) (m : CoreMem) (k : Nat) : w.OnlyRead (w.touchWord c n m k) := by
  unfold World.touchWord
  dsimp only
  split
  · exact .refl w
  · rename_i b seen _
    have h1 : w.OnlyRead (w.setCore c (((w.core c).setMem m (((w.core c).mem m).seen k b)).queueWb m k)) := by
      have h := fun q d => World.onlyRead_setMem w c m (((w.core c).mem m).seen k b) q d fun i _ => rfl
      unfold Core.queueWb
      split
      · exact h ((w.core c).setMem m (((w.core c).mem m).seen k b)).wbq ((w.core c).setMem m (((w.core c).mem m).seen k b)).wbDropped
      · split
        · exact h _ ((w.core c).setMem m (((w.core c).mem m).seen k b)).wbDropped
        · exact h ((w.core c).setMem m (((w.core c).mem m).seen k b)).wbq _
    split
    · exact h1
    · exact h1.trans (World.onlyRead_raise ..)
  · refine World.OnlyRead.trans ?_ (World.onlyRead_raise ..)
    refine World.onlyRead_setMem w c m _ ((w.core c).setMem m _).wbq ((w.core c).setMem m _).wbDropped ?_
    intro i hi
    split
    · rename_i hm
      rw [EccMem.psTags_bytes _ _ _ (by rcases hi with h | h; exact absurd hm h; exact h)]
      rfl
    · rfl

theorem World.onlyRead_touch (w : World) (c : Nat) (n : Option Nat) (m : CoreMem) (ks : List Nat) : w.OnlyRead (w.touch c n m ks) :=
  .foldl _ (fun w k => World.onlyRead_touchWord w c n m k) ks w

theorem World.onlyRead_setHbm (w : World) (mem : EccMem) (l : List Nat) (st : Tab Stack) (h : mem.cells = w.hbm.mem.cells) :
    w.OnlyRead { w with hbm := { w.hbm with mem := mem, corrected := l, stackTab := st } } :=
  ⟨rfl, fun _ => rfl, fun _ _ _ _ => rfl, rfl, h⟩

theorem World.onlyRead_setStack (w : World) (t : Nat) (x : Stack) : w.OnlyRead (w.setStack t x) :=
  World.onlyRead_setHbm w w.hbm.mem w.hbm.corrected _ rfl

theorem World.onlyRead_touchBlock (w : World) (n : Option Nat) (b : Nat) : w.OnlyRead (w.touchBlock n b) := by
  unfold World.touchBlock
  dsimp only
  split
  · exact .refl w
  split
  · have h : w.OnlyRead { w.setStack (stackOf (64 * b)) { w.stack (stackOf (64 * b)) with corrected := bump 64 (w.stack (stackOf (64 * b))).corrected 1 } with
        hbm := { (w.setStack (stackOf (64 * b)) { w.stack (stackOf (64 * b)) with corrected := bump 64 (w.stack (stackOf (64 * b))).corrected 1 }).hbm with
          mem := { w.hbm.mem with upsets := w.hbm.mem.upsets.filter fun e => e.1 != b }, corrected := insertNat b w.hbm.corrected } } :=
      World.onlyRead_setHbm w _ _ _ rfl
    split
    · exact h.trans (World.onlyRead_raise ..)
    · exact h
  · refine World.OnlyRead.trans ?_ (World.onlyRead_raise ..)
    exact (World.onlyRead_setStack w ..).trans (World.onlyRead_setHbm (w.setStack ..) ((w.setStack ..).hbm.mem.mark b) w.hbm.corrected _ rfl)

theorem World.onlyRead_readBlocks (w : World) (n : Option Nat) (bs : List Nat) : w.OnlyRead (w.readBlocks n bs) :=
  .foldl _ (fun w b => (World.onlyRead_touchBlock w n b).trans (World.onlyRead_setStack ..)) bs w

theorem World.onlyRead_countHbm (w : World) (lo n : Nat) (wr : Bool) : w.OnlyRead (w.countHbm lo n wr) :=
  .foldl _ (fun w _ => World.onlyRead_setStack w ..) _ w

theorem World.onlyRead_readRange (w : World) (n : Option Nat) (lo k : Nat) : w.OnlyRead (w.readRange n lo k) :=
  (World.OnlyRead.foldl _ (fun w b => World.onlyRead_touchBlock w n b) _ w).trans (World.onlyRead_countHbm ..)

/-! ## Accesses that fail on the bus -/

/-- A block that does not fail on the bus is no matter of `meetBus`. -/
theorem World.meetBus_none (w : World) (n : Option Nat) (l : List Nat) (h : w.busHits l = false) : w.meetBus n l = w := by
  have : l.filter (fun b => decide (b ∈ w.hbm.busBad)) = [] := by
    rw [List.filter_eq_nil_iff]
    intro b hb hm
    have := List.any_eq_false.1 h b hb
    exact this hm
  unfold World.meetBus
  rw [this]; rfl

theorem World.busMet_self (w : World) : World.busMet w w = false := by simp [World.busMet]

/-- A bus error is counted for its stack and recorded; no memory changes (R330). -/
theorem World.busFail_frame (w : World) (n : Option Nat) (b : Nat) (own : Bool) :
    ∃ e k o st, w.busFail n b own =
      { w with errs := e, koc := k, outbox := o, hbm := { w.hbm with busBad := w.hbm.busBad.filter (· != b), stackTab := st } } := by
  have h (v u : World) (c : Prop) [Decidable c] (cls st i : Nat) (m : Option Nat) (d a : Nat) (l : List Byte)
      (hv : ∃ e k o t, v = { u with errs := e, koc := k, outbox := o, hbm := { u.hbm with busBad := u.hbm.busBad.filter (· != b), stackTab := t } }) :
      ∃ e k o t, (if c then v.raise cls uHbm st i m d a l else v) =
        { u with errs := e, koc := k, outbox := o, hbm := { u.hbm with busBad := u.hbm.busBad.filter (· != b), stackTab := t } } := by
    obtain ⟨e, k, o, t, rfl⟩ := hv
    split
    · exact ⟨_, _, _, t, World.raise_frame ..⟩
    · exact ⟨e, k, o, t, rfl⟩
  unfold World.busFail
  dsimp only
  apply h
  cases own
  · exact ⟨_, _, _, _, World.raise_frame ..⟩
  · exact ⟨w.errs, w.koc, w.outbox, _, rfl⟩

theorem World.meetBus_frame (w : World) (n : Option Nat) (l : List Nat) :
    ∃ e k o st bad, w.meetBus n l =
      { w with errs := e, koc := k, outbox := o, hbm := { w.hbm with busBad := bad, stackTab := st } } := by
  unfold World.meetBus
  generalize l.filter _ = bs
  induction bs generalizing w with
  | nil => exact ⟨_, _, _, _, _, rfl⟩
  | cons b bs ih =>
    obtain ⟨e, k, o, st, h⟩ := World.busFail_frame w n b false
    obtain ⟨e', k', o', st', bad, h'⟩ := ih (w.busFail n b false)
    refine ⟨e', k', o', st', bad, ?_⟩
    rw [List.foldl_cons, h', h]

/-- A memory that keeps the old content of some blocks is canonical (R164, R330). -/
theorem EccMem.wf_keepSome (ws free : Nat) (a b : EccMem) (l : List Nat) (ha : Memory.wf a.cells = true) (hb : Memory.wf b.cells = true) :
    Memory.wf (EccMem.keepSome ws a b l free).1.cells = true := by
  unfold EccMem.keepSome
  dsimp only
  refine List.foldlRecOn (motive := fun m : EccMem => Memory.wf m.cells = true) _ _ hb fun m hm x _ => ?_
  split
  · exact hm
  · refine Cells.wf_splice _ _ _ _ hm ?_ ?_ (by omega)
    · apply Cells.wfFrom_raise _ 0 _ (Cells.wfFrom_filter _ _ _ ha)
      intro c hc
      have := (List.mem_filter.1 hc).2
      simp at this
      omega
    · intro c hc
      have := (List.mem_filter.1 hc).2
      simp at this
      omega

theorem EccMem.wf_partly (ws free : Nat) (a b : EccMem) (ha : Memory.wf a.cells = true) (hb : Memory.wf b.cells = true) :
    Memory.wf (EccMem.partly ws a b free).1.cells = true := EccMem.wf_keepSome _ _ _ _ _ ha hb

/-! ## What follows for a part of the world -/

theorem World.OnlyRead.regs {w u : World} (h : w.OnlyRead u) (c : Nat) : (u.core c).regs = (w.core c).regs := by rw [h.core c]
theorem World.OnlyRead.ctrs {w u : World} (h : w.OnlyRead u) (c : Nat) : (u.core c).ctrs = (w.core c).ctrs := by rw [h.core c]
theorem World.OnlyRead.windows {w u : World} (h : w.OnlyRead u) (c : Nat) : (u.core c).windows = (w.core c).windows := by rw [h.core c]
theorem World.OnlyRead.ctx {w u : World} (h : w.OnlyRead u) (n : Nat) : u.ctx n = w.ctx n := by rw [h.rest]; rfl
theorem World.OnlyRead.cluster {w u : World} (h : w.OnlyRead u) (k : Nat) : u.cluster k = w.cluster k := by rw [h.rest]; rfl
theorem World.OnlyRead.die {w u : World} (h : w.OnlyRead u) (d : Nat) : u.die d = w.die d := by rw [h.rest]; rfl
theorem World.OnlyRead.chan {w u : World} (h : w.OnlyRead u) (d : Nat) : u.chan d = w.chan d := by rw [h.rest]; rfl
theorem World.OnlyRead.link {w u : World} (h : w.OnlyRead u) (l : Nat) : u.link l = w.link l := by rw [h.rest]; rfl
theorem World.OnlyRead.qp {w u : World} (h : w.OnlyRead u) (q : Nat) : u.qp q = w.qp q := by rw [h.rest]; rfl
theorem World.OnlyRead.seam {w u : World} (h : w.OnlyRead u) : u.seam = w.seam := by rw [h.rest]
theorem World.OnlyRead.snap {w u : World} (h : w.OnlyRead u) : u.snap = w.snap := by rw [h.rest]

/-! ## Writes into HBM -/

theorem World.invalidateLine_frame (w : World) (line : Nat) :
    w.invalidateLine line = { w with dies := (w.invalidateLine line).dies, nums := (w.invalidateLine line).nums } := rfl

/-- A write into HBM (R327, R18): its bytes, and beside what reading may change only the two caches and their counters. -/
structure World.Wrote (w u : World) (bs : List BitWrite) : Prop where
  rest : u = { w with cores := u.cores, hbm := u.hbm, koc := u.koc, errs := u.errs, outbox := u.outbox, dies := u.dies, nums := u.nums }
  cores : u.cores = w.cores
  cells : u.hbm.mem.cells = bs.foldl Cells.setBits w.hbm.mem.cells

theorem World.touchBlock_cores (w : World) (n : Option Nat) (b : Nat) : (w.touchBlock n b).cores = w.cores := by
  unfold World.touchBlock
  dsimp only
  split
  · rfl
  split
  · split
    · simp
    · rfl
  · simp

theorem World.readBlocks_cores (w : World) (n : Option Nat) (bs : List Nat) : (w.readBlocks n bs).cores = w.cores := by
  unfold World.readBlocks
  induction bs generalizing w with
  | nil => rfl
  | cons b bs ih => rw [List.foldl_cons, ih]; simp [World.touchBlock_cores]

/-- Reading blocks changes nothing in a memory that holds no errors. -/
theorem World.readBlocks_mem (w : World) (n : Option Nat) (bs : List Nat) (h : w.hbm.mem.upsets = []) : (w.readBlocks n bs).hbm.mem = w.hbm.mem := by
  unfold World.readBlocks
  induction bs generalizing w with
  | nil => rfl
  | cons b bs ih =>
    have ht : w.touchBlock n b = w := by simp [World.touchBlock, EccMem.upset, h]
    rw [List.foldl_cons, ih _ (by rw [ht]; exact h), ht]
    rfl

theorem World.countHbm_mem (w : World) (lo n : Nat) (wr : Bool) : (w.countHbm lo n wr).hbm.mem = w.hbm.mem := by
  unfold World.countHbm
  generalize List.range _ = l
  induction l generalizing w with
  | nil => rfl
  | cons a l ih => rw [List.foldl_cons, ih]; rfl

/-- Reading a range changes nothing in a memory that holds no errors. -/
theorem World.readRange_mem (w : World) (n : Option Nat) (lo k : Nat) (h : w.hbm.mem.upsets = []) : (w.readRange n lo k).hbm.mem = w.hbm.mem := by
  unfold World.readRange
  rw [World.countHbm_mem, h]
  rfl

theorem World.writeHbm_wrote (w : World) (n : Option Nat) (bs : List BitWrite) : w.Wrote (w.writeHbm n bs) bs := by
  have h1 : ∀ (l : List Nat) (w : World), w.OnlyRead (l.foldl (fun w b => w.touchBlock n b) w) ∧ (l.foldl (fun w b => w.touchBlock n b) w).cores = w.cores := by
    intro l
    induction l with
    | nil => exact fun w => ⟨.refl w, rfl⟩
    | cons b l ih =>
      intro w
      exact ⟨(World.onlyRead_touchBlock w n b).trans (ih _).1, by rw [List.foldl_cons, (ih _).2, World.touchBlock_cores]⟩
  have h2 : ∀ (l : List Nat) (f : World → Nat → Stack) (w : World),
      let u := l.foldl (fun w b => w.setStack (stackOf (64 * b)) (f w b)) w
      u = { w with hbm := u.hbm } ∧ u.hbm.mem = w.hbm.mem := by
    intro l f
    induction l with
    | nil => exact fun w => ⟨rfl, rfl⟩
    | cons b l ih =>
      intro w
      have := ih (w.setStack (stackOf (64 * b)) (f w b))
      dsimp only at this ⊢
      rw [List.foldl_cons]
      exact ⟨by rw [this.1]; rfl, by rw [this.2]; rfl⟩
  have h3 : ∀ (l : List Nat) (w : World), let u := l.foldl (fun w k => w.invalidateLine k) w; u = { w with dies := u.dies, nums := u.nums } := by
    intro l
    induction l with
    | nil => exact fun w => rfl
    | cons b l ih =>
      intro w
      have := ih (w.invalidateLine b)
      dsimp only at this ⊢
      rw [List.foldl_cons, this]; rfl
  obtain ⟨a1, a2⟩ := h1 (mergedWords 64 bs) w
  unfold World.writeHbm
  dsimp only
  generalize (mergedWords 64 bs).foldl (fun w b => w.touchBlock n b) w = v at a1 a2 ⊢
  have b1 := h2 (touchedWords 64 bs) (fun w b => { w.stack (stackOf (64 * b)) with
    bytesW := bump 64 (w.stack (stackOf (64 * b))).bytesW ((List.range 64).filter fun i => bs.any fun x => x.touches (64 * b + i)).length })
    { v with hbm := { v.hbm with mem := v.hbm.mem.write 64 bs, merges := bump 64 v.hbm.merges (mergedWords 64 bs).length } }
  dsimp only at b1
  generalize (touchedWords 64 bs).foldl (fun w b => w.setStack (stackOf (64 * b)) { w.stack (stackOf (64 * b)) with
    bytesW := bump 64 (w.stack (stackOf (64 * b))).bytesW ((List.range 64).filter fun i => bs.any fun x => x.touches (64 * b + i)).length })
    { v with hbm := { v.hbm with mem := v.hbm.mem.write 64 bs, merges := bump 64 v.hbm.merges (mergedWords 64 bs).length } } = v2 at b1 ⊢
  have c1 := h3 (touchedWords 256 bs) v2
  dsimp only at c1
  constructor
  · rw [c1, b1.1, a1.rest]
  · rw [c1]; show v2.cores = _; rw [b1.1]; exact a2
  · rw [c1]; show v2.hbm.mem.cells = _; rw [b1.2]; show bs.foldl Cells.setBits v.hbm.mem.cells = _; rw [a1.cells]

end Sys2Proof.Machine
end

