-- ==== Sys2Proof/Laws/Requests.lean ====
section
/-! SUPPORT. What a request that KOC admits does, said once for every row that is one: cite these and never unfold `State.request`. -/
namespace Sys2Proof.Machine

/-- An admitted request runs. -/
theorem State.request_of_admits {s s1 : State} {h : KocHdr} {type : Nat} {payload : List Byte} {k : Session}
    (ha : s.Admits h type payload s1 k) (run : State → Session → State) : s.request h type payload run = .next (run s1 k) := by
  obtain ⟨s0, k0, hf, hn, hb, hg, hr, hc, rfl⟩ := ha
  have hfind : k0.answers.find? (fun a => a.rid == h.rid) = none := by
    simpa [List.find?_eq_none] using hn
  have hold : ¬ (h.rid ∈ k0.busy ∨ h.rid ∈ k0.given ∨ h.rid + 64 < k0.highRid) := by
    rintro (h1 | h1 | h1)
    · exact hb h1
    · exact hg h1
    · omega
  simp only [State.request, hf, hfind, hc, if_neg hold]
  rfl

/-- An admitted WRITE does what the object's rule says. -/
theorem State.writeRequest_of_writes {s s1 : State} {h : KocHdr} {idx sub : Nat} {v : List Byte} {k : Session}
    (hw : s.Writes h idx sub v s1 k) (eff : State → Session → Fx) : s.writeRequest h idx sub v eff = .next ((eff s1 k).finish h) := by
  obtain ⟨ha, hr, d, hd, hv⟩ := hw
  simp [State.writeRequest, State.request_of_admits ha, State.writeValue, hr, hd, hv]

/-- An admitted DOMAIN value is applied. -/
theorem State.domainRequest_of_stages {s s1 : State} {h : KocHdr} {idx sub len : Nat} {k : Session}
    (hw : s.Stages h idx sub len s1 k) (eff : State → Session → Fx) : s.domainRequest h idx sub len eff = .next ((eff s1 k).finish h) := by
  obtain ⟨ha, hr⟩ := hw
  simp [State.domainRequest, State.request_of_admits ha, hr]

/-- An access that ends at once, without anything after its answer, is answered. -/
theorem Fx.finish_answered (s : State) (h : KocHdr) (st : Nat) (v : List Byte) :
    Fx.finish { s, st, value := v } h = s.replied h st v := rfl

/-- An access whose answer waits. -/
theorem Fx.finish_held (s : State) (h : KocHdr) (st : Nat) (v : List Byte) (what : WaitFor) (post : State → State) :
    Fx.finish { s, st, value := v, wait := some what, post } h = s.held h what := rfl

/-- An access that has something to do after its answer. -/
theorem Fx.finish_post (s : State) (h : KocHdr) (st : Nat) (v : List Byte) (post : State → State) :
    Fx.finish { s, st, value := v, post } h = post (s.replied h st v) := rfl

end Sys2Proof.Machine
end

