-- ==== Sys2Proof/Laws/Service.lean ====
section
/-! SUPPORT. What logging an error record, reacting to congestion and asking for a wake can change: cite these and never unfold the operations. -/
namespace Sys2Proof.Machine

/-! ## The error log (R489) -/

/-- Logging records leaves everything but the log and the marks of the queued copies. -/
structure LogsOnly (s t : State) : Prop where
  pending : t.pending = s.pending
  otp : t.otp = s.otp
  ctl : t.ctl = s.ctl
  res : t.res = s.res
  world : t.w = { s.w with errs := t.w.errs }
  flash : t.flash = { s.flash with log := t.flash.log }

theorem State.logRec_only (s : State) (r : ErrRec) : LogsOnly s (s.logRec r) := by
  unfold State.logRec; split <;> exact ⟨rfl, rfl, rfl, rfl, rfl, by simp only [Flash.addLog]⟩

/-- A record not logged yet is added to the log. -/
theorem State.logRec_flash (s : State) {r : ErrRec} (h : r.logged = false) : (s.logRec r).flash = s.flash.addLog r := by
  simp [State.logRec, h]

/-- Logging several records, each not logged yet, adds them in their order. -/
theorem State.logRecs_flash (l : List ErrRec) (s : State) (h : ∀ r ∈ l, r.logged = false) :
    (l.foldl State.logRec s).flash = l.foldl Flash.addLog s.flash := by
  induction l generalizing s with
  | nil => rfl
  | cons r l ih =>
    rw [List.foldl_cons, ih _ fun x hx => h x (List.mem_cons_of_mem _ hx), State.logRec_flash s (h r List.mem_cons_self), List.foldl_cons]

theorem State.logRecs_only (l : List ErrRec) (s : State) : LogsOnly s (l.foldl State.logRec s) := by
  induction l generalizing s with
  | nil => exact ⟨rfl, rfl, rfl, rfl, rfl, rfl⟩
  | cons r l ih =>
    have a := State.logRec_only s r
    have b := ih (s.logRec r)
    exact ⟨b.pending.trans a.pending, b.otp.trans a.otp, b.ctl.trans a.ctl, b.res.trans a.res, by rw [List.foldl_cons, b.world, a.world],
      by rw [List.foldl_cons, b.flash, a.flash]⟩

/-- What the log is owed goes into it. -/
theorem State.logOwed_flash (s : State) : s.logOwed.flash = s.w.errs.owed.foldl Flash.addLog s.flash :=
  State.logRecs_flash _ _ fun r h => by
    have x := (List.mem_filter.1 h).2
    simp at x
    exact x.2

theorem State.logOwed_only (s : State) : LogsOnly s s.logOwed := State.logRecs_only _ _

/-! ## Frames that enter a host port (R372–R375) -/

theorem World.PortOnly.refl (w : World) : w.PortOnly w := rfl
theorem World.PortOnly.trans {a b c : World} (h : a.PortOnly b) (k : b.PortOnly c) : a.PortOnly c := by
  unfold World.PortOnly at *
  rw [k, h]

theorem World.setPort_only (w : World) (p : Nat) (v : HPort) : w.PortOnly (w.setPort p v) := rfl
theorem World.gotFrame_only (w : World) (p : Nat) : w.PortOnly (w.gotFrame p) := rfl
theorem World.sendXoff_only (w : World) (c : Persist) (p : Nat) (k : LossClass) : w.PortOnly (w.sendXoff c p k) := rfl
theorem World.sendXon_only (w : World) (c : Persist) (p : Nat) (k : LossClass) : w.PortOnly (w.sendXon c p k) := rfl
theorem World.xonIfLow_only (w : World) (c : Persist) (p : Nat) (k : LossClass) : w.PortOnly (w.xonIfLow c p k) := by
  unfold World.xonIfLow; split <;> rfl

theorem World.drainPort_only (w : World) (c : Persist) (p : Nat) : w.PortOnly (w.drainPort c p) := by
  unfold World.drainPort
  simp only
  split
  · rfl
  · refine .trans (.trans ?_ (World.xonIfLow_only _ _ _ _)) (World.xonIfLow_only _ _ _ _)
    rfl

/-- A frame that a port takes changes the port, the PFC frames sent and the count of free values only. -/
theorem World.arrive_only {w w' : World} {c : Persist} {p : Nat} {net : NetHdr} (h : w.arrive c p net = .ok w') : w.PortOnly w' := by
  have hd := World.drainPort_only w c p
  unfold World.arrive at h
  simp only at h
  split at h
  · split at h <;> cases h
    exact hd.trans (.trans (World.setPort_only _ _ _) (World.gotFrame_only _ _))
  · split at h
    · injection h with h
      subst h
      refine hd.trans ?_
      split
      · exact .trans (.trans (World.setPort_only _ _ _) (World.gotFrame_only _ _)) (World.sendXoff_only _ _ _ _)
      · exact .trans (World.setPort_only _ _ _) (World.gotFrame_only _ _)
    · split at h
      · injection h with h
        subst h
        exact hd.trans (.trans (World.setPort_only _ _ _) (World.gotFrame_only _ _))
      · cases h

/-- What the frame of a UDP port leaves where its port takes it. -/
theorem State.frameIn_only {s s' : State} {p : KocPort} {net : NetHdr} {udp : Nat} (h : s.frameIn p net udp = .ok s') :
    s' = s.withW s'.w ∧ s.w.PortOnly s'.w := by
  unfold State.frameIn at h
  split at h
  · cases h
  · split at h
    · split at h <;> cases h
      exact ⟨rfl, rfl⟩
    · split at h
      · split at h <;> cases h
        exact ⟨rfl, World.arrive_only (by assumption)⟩
      · cases h

/-! ## Congestion (R384) and wakes (R434) -/

/-- A CE mark changes the queue pair's last CNP and the outbox only. -/
theorem World.congested_only (w : World) (p q : Nat) (ce : Bool) :
    w.congested p q ce = { w with qps := (w.congested p q ce).qps, outbox := (w.congested p q ce).outbox } := by
  unfold World.congested; split <;> rfl

/-- A CNP goes out exactly for a marked packet while one is due. -/
theorem World.congested_outbox (w : World) (p q : Nat) (ce : Bool) :
    (w.congested p q ce).outbox = if ce && w.cnpDue p q then w.outbox ++ [.cnp p q] else w.outbox := by
  unfold World.congested; split <;> rfl

/-- A wake request changes the queues of the arbiters only. -/
theorem World.wake_only (w : World) (k : Nat) : w.wake k = { w with dies := (w.wake k).dies } := by
  cases h : (w.cluster k).settled <;> simp only [World.wake, h] <;> split <;> rfl

end Sys2Proof.Machine
end

