-- ==== Sys2Proof/WellFormed.lean ====
section
/-! DEFINITION. Which terms are commands that can arrive: field widths and lengths of what a sender puts on the wire. A command that
breaks a rule of the spec above its widths (a bad tag, a wrong VC, a value of the wrong size) is well formed, and its meaning says
what the part answers. -/
namespace Sys2Proof

/-- Whether a number fits an unsigned field of so many bytes (R7). -/
def fitsU (bytes x : Nat) : Bool := decide (x < 2 ^ (8 * bytes))

/-- What lies around a frame: a MAC address of 6 bytes, an IP address of 4 or 16, a 3-bit priority, a 12-bit VLAN id, 16-bit port and length. -/
def NetHdr.ok (n : NetHdr) : Bool :=
  n.mac.length == 6 && (n.ip.length == 4 || n.ip.length == 16) && n.vlan.all (fun t => decide (t.1 < 8) && decide (t.2 < 4096))
    && fitsU 2 n.udp && fitsU 2 n.len

/-- A KOC header as R386 lays it out, with a tag of 16 bytes or none (R390). -/
def KocHdr.ok (h : KocHdr) : Bool :=
  h.net.ok && fitsU 1 h.version && fitsU 1 h.typ && h.frags != [] && h.frags.all (fun f => fitsU 1 f.1 && fitsU 1 f.2.1 && fitsU 2 f.2.2)
    && fitsU 4 h.sid && fitsU 8 h.seq && fitsU 4 h.rid && fitsU 2 h.reserved && fitsU 1 h.pad && (h.tag == [] || h.tag.length == 16)

/-- A Seam header as R336 lays it out. -/
def SeamHdr.ok (h : SeamHdr) : Bool :=
  fitsU 1 h.typ && decide (h.vc < 4) && h.lens != [] && h.lens.all (fun n => decide (n < 32)) && fitsU 2 h.seq && fitsU 2 h.ack
    && decide (h.retVc < 4) && decide (h.retUnits < 2 ^ 14) && fitsU 2 h.dst && fitsU 2 h.src && fitsU 4 h.tag

/-- A window write as R346 lays it out: 64 bytes of descriptor, 1 to 65,536 bytes packed. -/
def WinWrite.ok (w : WinWrite) : Bool :=
  fitsU 2 w.core && fitsU 1 w.win && fitsU 1 w.slot && fitsU 2 w.gen && fitsU 2 w.sender && fitsU 4 w.id && w.desc.length == 64
    && decide (1 ≤ w.data.length) && decide (w.data.length ≤ 65536)

/-- A contribution or result as R356 and R357 lay it out: at most 8,192 values. -/
def CollMsg.ok (m : CollMsg) : Bool :=
  fitsU 1 m.kind && fitsU 1 m.group && fitsU 2 m.pos && fitsU 4 m.seq && fitsU 1 m.level && fitsU 2 m.node && fitsU 8 m.print
    && fitsU 4 m.elems && fitsU 4 m.first && m.digest.length == 16

/-- A checkpoint header as R504 lays it out. -/
def CkptHdr.ok (k : CkptHdr) : Bool := fitsU 1 k.answer && fitsU 2 k.ctx && fitsU 4 k.step && fitsU 4 k.entry && fitsU 4 k.granule

/-- A payload as R337, R345 and R504 lay it out. -/
def FrameBody.ok : FrameBody → Bool
  | .link => true
  | .nak seq => fitsU 2 seq
  | .heartbeat rank state peer => fitsU 2 rank && fitsU 1 state && fitsU 1 peer
  | .ident identity rank peer variant => fitsU 8 identity && fitsU 2 rank && fitsU 1 peer && fitsU 1 variant
  | .lost rank reporter => fitsU 2 rank && fitsU 2 reporter
  | .wcredit core win slot gen => fitsU 2 core && fitsU 1 win && fitsU 1 slot && fitsU 2 gen
  | .wwrite w => w.ok
  | .wanswer id status => fitsU 4 id && fitsU 2 status
  | .wreturn core win slot gen => fitsU 2 core && fitsU 1 win && fitsU 1 slot && fitsU 2 gen
  | .wclose core win gen => fitsU 2 core && fitsU 1 win && fitsU 2 gen
  | .contrib m => m.ok
  | .result m => m.ok
  | .canswer seq group answer level node first =>
    fitsU 4 seq && fitsU 1 group && fitsU 1 answer && fitsU 1 level && fitsU 2 node && fitsU 4 first
  | .keepalive group seq level node => fitsU 1 group && fitsU 4 seq && fitsU 1 level && fitsU 2 node
  | .ckpt op k data => decide (op < 7) && k.ok && decide (data.length ≤ 65536)

/-- A packet of a queue pair (R380–R383): 24-bit numbers, 32-bit keys and lengths, 64-bit addresses, at most 4,096 bytes. -/
def WritePkt.ok (k : WritePkt) : Bool :=
  decide (k.qp < 2 ^ 24) && decide (k.psn < 2 ^ 24) && k.first.all (fun x => fitsU 4 x.rkey && fitsU 8 x.va && fitsU 4 x.len)
    && decide (k.data.length ≤ 4096) && k.net.ok
def ReadPkt.ok (k : ReadPkt) : Bool :=
  decide (k.qp < 2 ^ 24) && decide (k.psn < 2 ^ 24) && fitsU 4 k.rkey && fitsU 8 k.va && fitsU 4 k.len && k.net.ok
def SendPkt.ok (k : SendPkt) : Bool :=
  decide (k.qp < 2 ^ 24) && decide (k.psn < 2 ^ 24) && decide (k.data.length ≤ 4096) && k.net.ok

/-- The value of a WRITE frame: at most 1,024 bytes (R387). -/
def valueOk (v : List Byte) : Bool := decide (v.length ≤ 1024)

/-- Whether a command can arrive: what a sender puts on the wire fits its fields. A command of the part itself always can. -/
def Instr.ok : Instr → Bool
  | .commandFetch _ | .engineRecordDispatch _ | .recordComplete _ _ | .syncSignalDelivery _ | .waitTimeout _ _ => true
  | .nop _ | .seti _ | .addi _ | .aluAdd _ | .aluSub _ | .aluAnd _ | .aluOr _ | .aluXor _ | .aluShl _ | .aluShr _ | .aluSar _
  | .aluMul _ | .aluMin _ | .aluMax _ | .aluSlt _ | .aluSltu _ | .lds _ | .sts _ | .br _ | .loop _ | .wait _ | .signal _ | .fence _
  | .dmagoStart _ | .dmagoResume _ | .dmagoPause _ | .dmagoSkip _ | .dmagoAbort _ | .stepRec _ | .eventRec _ | .endRec _ => true
  | .load _ | .loadwTiles _ | .loadwPool _ | .loadwValues _ | .store _ | .atomicCas _ | .atomicFac _ | .atomicCac _
  | .collAllreduce _ | .collReduceScatter _ | .collAllgather _ | .collBroadcast _ | .collGnorm _ | .collDigest _ => true
  | .matmul _ | .spmm _ | .spmmt _ | .sddmm _ | .full _ | .pruneThresh _ | .pruneTilek _ | .pruneRowk _ | .regrowGrad _
  | .regrowRandt _ | .regrowRandr _ | .probeTile _ | .probeRow _ | .predictPredicted _ | .predictExact _ | .screen _ | .crownSum _
  | .crownMeanvar _ | .crownMax _ | .crownPhaseStart _ | .crownPhaseEnd _ => true
  | .vewAdd _ | .vewSub _ | .vewMul _ | .vewFma _ | .vewMax _ | .vewMin _ | .vewAbs _ | .vewNeg _ | .vewScale _ | .vewRecip _
  | .vewSqrt _ | .vewRsqrt _ | .vewExp _ | .vewLog _ | .vewTanh _ | .vewSigmoid _ | .vewErf _ | .vewSelect _ | .vewCmpgt _
  | .vewClip _ | .vredSum _ | .vredMax _ | .vredMin _ | .vredSumsq _ | .vredMeanvar _ | .vredAmax _ | .vconv _ | .vrandBits _
  | .vrandUniform _ | .vrandBernoulli _ => true
  | .correctedWriteback _ | .corePatrolScrub _ | .sacLineFill _ _ | .windowDrainTimeout _ _ | .snapshotCopy | .snapshotReady
  | .preemptSave _ | .contextRestore _ | .tlbInvalidateComplete _ => true
  | .cacheInvalidateAll h v | .coreResume h _ v | .dirtyMapClear h _ v | .seedWrite h _ v | .reseed h _ v | .snapshotRequest h v
  | .snapshotRelease h v | .doorbell h _ v | .tlbInvalidateRequest h _ v | .linkRetrain h _ v | .lostRankClear h v => h.ok && valueOk v
  | .windowOpen h _ _ | .windowClose h _ _ | .pmxKnownAnswer h | .contextCreate h _ | .contextResume h _ | .contextPreempt h _
  | .contextDestroy h _ | .dmaCtrlResume h _ | .dmaCtrlPause h _ | .dmaCtrlSkip h _ | .dmaCtrlAbort h _ => h.ok
  | .predictorSlotsWrite h _ _ => h.ok
  | .contextImport h _ image => h.ok && image.all fun x => decide (x.1 < 536870912)
  | .dmaDescriptorFetch _ | .dmaDescriptorComplete _ | .dmaPauseDrained _ _ | .dmaHalt _ _ | .dmaWaitTimeout _ | .hbmPatrolScrub
  | .hbmStackTrained _ _ | .hbmWipeDone _ _ => true
  | .linkSignalDetect _ | .linkTrained _ | .linkTrainTimeout _ | .identSend _ | .linkFecLoss _ | .linkSilenceCheck _ _
  | .heartbeatSend _ | .ackSend _ | .replayTimeout _ => true
  | .frameReject _ h _ _ | .link _ h => h.ok
  | .nak _ h seq => h.ok && (FrameBody.nak seq).ok
  | .heartbeat _ h rank state peer => h.ok && (FrameBody.heartbeat rank state peer).ok
  | .ident _ h identity rank peer variant => h.ok && (FrameBody.ident identity rank peer variant).ok
  | .lost _ h rank reporter => h.ok && (FrameBody.lost rank reporter).ok
  | .frameForward _ h b => h.ok && b.ok
  | .wcredit _ h core win slot gen | .wreturn _ h core win slot gen => h.ok && (FrameBody.wcredit core win slot gen).ok
  | .wwrite _ h w => h.ok && w.ok
  | .wanswer _ h id status => h.ok && (FrameBody.wanswer id status).ok
  | .wclose _ h core win gen => h.ok && (FrameBody.wclose core win gen).ok
  | .contrib _ h m | .result _ h m => h.ok && m.ok
  | .canswer _ h seq group answer level node first => h.ok && (FrameBody.canswer seq group answer level node first).ok
  | .keepalive _ h group seq level node => h.ok && (FrameBody.keepalive group seq level node).ok
  | .keepaliveSend _ seq _ _ | .collInputTimeout _ seq _ _ => fitsU 4 seq
  | .groupConfigWrite h _ sub _ => h.ok && fitsU 1 sub
  | .hostLinkUp _ | .rateIncreaseTimer _ | .pfcXoffRefresh _ _ | .hostFrameDiscard _ | .cnp _ _ | .hostLinkDown _
  | .pfcPauseExpiry _ _ => true
  | .rdmaWrite _ k => k.ok
  | .rdmaRead _ k => k.ok
  | .send _ k => k.ok
  | .roceInvalidRequest _ _ k => decide (k.psn < 2 ^ 24) && k.net.ok
  | .pfc _ priority quanta => decide (priority < 8) && fitsU 2 quanta
  | .arp _ target => target.length == 4
  | .neighbourDiscovery _ target => target.length == 16
  | .icmpEcho _ target payload => (target.length == 4 || target.length == 16) && decide (payload.length ≤ 1500)
  | .qpReady h _ | .qpReset h _ | .ping h | .mainPowerOff h | .mainPowerOn h => h.ok
  | .openReq h nonce keyHash => h.ok && nonce.length == 32 && keyHash.length == 32
  | .openFinish h sid cipher sig => h.ok && fitsU 4 sid && cipher.length == 1568 && sig.length == 2820
  | .openTimeout _ sid | .eventResendTimer sid | .sessionIdleTimeout sid | .sessionLifetimeExpiry sid => fitsU 4 sid
  | .close h reason => h.ok && fitsU 2 reason
  | .read h idx sub => h.ok && fitsU 2 idx && fitsU 1 sub
  | .write h idx sub v => h.ok && fitsU 2 idx && fitsU 1 sub && valueOk v
  | .domainWriteOpen h idx sub v => h.ok && fitsU 2 idx && fitsU 1 sub && v.length == 8
  | .segRead h idx sub seg => h.ok && fitsU 2 idx && fitsU 1 sub && fitsU 4 seg
  | .segWrite h idx sub seg len => h.ok && fitsU 2 idx && fitsU 1 sub && fitsU 4 seg && fitsU 4 len
  | .segData h frame data => h.ok && fitsU 2 frame && decide (data.length ≤ 1024)
  | .segAck h bitmap status => h.ok && fitsU 8 bitmap && fitsU 2 status
  | .segmentTimeout sid rid => fitsU 4 sid && fitsU 4 rid
  | .stagedWriteTimeout sid idx sub => fitsU 4 sid && fitsU 2 idx && fitsU 1 sub
  | .eventAck h seq => h.ok && fitsU 4 seq
  | .kocKeyListWrite h sub _ => h.ok && (sub == 4 || sub == 5)
  | .leaseRequest h v | .leaseRevoke h v | .resetWrite h v | .clusterFloorWrite h _ v | .railMarginWrite h v => h.ok && valueOk v
  | .leaseExpiry | .persistentFlush | .clusterIdleEntry _ | .clusterDozeEntry _ | .clusterNapEntry _ | .clusterEntryDone _
  | .powerUpStart _ | .dozeRestartStart _ | .clusterRun _ | .mgmtCoreSleep _ | .governorPeriod _ _ _ _ _ | .currentLimitTrip _ => true
  | .thermalSample readings => readings.length == 256
  | .pmbusPoll rails => rails.length == 16
  | .railOutOfWindow _ status => fitsU 2 status
  | .powerOn _ | .pgAonFall | .resetPin _ | .bootVerifyDone | .railSequenceStep | .pgMainRise | .pgMainTimeout | .pllLockTimeout
  | .selfTestDone _ _ | .topologyDeadline | .patternCacheLoaded _ => true
  | .licenceInstall h _ | .topologyKeyAdd h _ | .firmwareImageWrite h _ => h.ok
  | .securityFloorRaise h v | .quoteRequest h v | .lifecycleTransition h v | .errorRecordAck h v | .errorLogClear h v | .scanRequest h v
  | .buddySet h v | .wardSet h v | .checkpointRestoreRequest h _ v => h.ok && valueOk v
  | .attestationTokenRefill | .faultServiceTake | .faultServiceWatchdog | .scanComplete _ _ | .checkpointReadDone _
  | .refreshRateChange _ _ | .predictorUpdateDone _ | .quoteSigned => true
  | .ckptBegin _ h k data | .ckptState _ h k data | .ckptGranule _ h k data | .ckptReplay _ h k data =>
    h.ok && k.ok && decide (data.length ≤ 65536)
  | .ckptEnd _ h k | .ckptAnswer _ h k | .ckptPull _ h k => h.ok && k.ok

end Sys2Proof
end

