-- ==== Sys2Proof/Tests/Slice0.lean ====
section
/-! SUPPORT. Tests: ill-formed terms that the check refuses, the spec's own numbers, and for every statement a state and operands that meet
its hypotheses. -/
namespace Sys2Proof.Tests
open Sys2Proof Sys2Proof.Machine

-- one theorem after another: those that wait for the kernel would each keep a thread's memory
set_option Elab.async false

/-! ## A part that answers -/

/-- A session of a port whose frames carry the sequence number 1 and the request id 1. -/
def session (p : KocPort) : Session := { sid := 1, port := p, keyHash := [], keyIn := [1], keyOut := [2] }

/-- The MAC address of every port of the part. -/
def aMac : List Byte := [2, 0, 0, 0, 0, 1]

/-- A READY part of the full variant with one session on a port, both host ports up, and everything else at its default. -/
def up (p : KocPort) : State :=
  { pending := [], otp := { life := .field, macs := List.replicate 3 aMac }, flash := {}
    ctl := { part := .ready, step := 7, mgmt := true, booted := true, pgMain := true, railGroups := 6, pins := { pgAon := true, pgMain := true }
             sec := { units := 3, linkMask := 0xFFFFF } }
    res := []
    w := { koc := { sessions := [session p] }, ports := [(0, { st := 2 }), (1, { st := 2 })] } }

/-- The part with something changed in its world, or with a context table. -/
def with_ (p : KocPort) (f : World → World) (res : Tab Resid := []) : State := { up p with w := f (up p).w, res }

/-- What lies around a frame for a port: its MAC address, its link-local address, KOC's UDP port. -/
def net : NetHdr := { mac := aMac, ip := linkLocal aMac, vlan := none, udp := 50212, len := 64 }
/-- The header of a frame on a port with a session id, before its type, its payload and its tag. -/
def bare (p : KocPort) (sid : Nat) : KocHdr :=
  { port := p, src := 0, net, version := 1, typ := 0, frags := [], sid, seq := sid, rid := 1, reserved := 0, pad := 0, tag := [] }
/-- The same as one fragment with a payload of a type. -/
def framed (p : KocPort) (sid type len : Nat) : KocHdr := { bare p sid with typ := type, frags := [(0, 1, len)] }
/-- A frame of the session, intact. -/
def header (p : KocPort) (type : Nat) (payload : List Byte) : KocHdr :=
  { framed p 1 type payload.length with tag := kocTag [1] (framed p 1 type payload.length) type payload }

/-- The session that a state holds for the frames of a port. -/
def sessionAt (s : State) (p : KocPort) : Option Session := s.w.koc.sessions.find? fun k => k.sid == 1 && (k.port == .side) == (p == .side)

/-- The state and the session after an intact frame of the session. -/
def heardState (s : State) (p : KocPort) : State :=
  match s.kocArrive (bare p 1) with
  | .error t => t
  | .ok s0 => let w := s0.w.setSession 1 fun x => x.heard (bare p 1); s0.withW { w with koc := { w.koc with asleep := [] } }
def heardSession (s : State) (p : KocPort) : Session :=
  match s.kocArrive (bare p 1) with
  | .error _ => session p
  | .ok s0 => ((sessionAt s0 p).getD (session p)).heard (bare p 1)

/-- Whether a frame of the session is accepted. -/
def hears (s : State) (p : KocPort) (n : Nat) : Bool :=
  match s.kocArrive (bare p 1) with
  | .error _ => false
  | .ok s0 =>
    match sessionAt s0 p with
    | none => false
    | some k => k.keyIn == [1] && k.sid == 1 && k.accepts 1 && !k.spent && decide (n ≤ 1028)

theorem heard {s : State} {p : KocPort} {type : Nat} {payload : List Byte} (hb : hears s p payload.length = true) :
    s.kocFrame (header p type payload) type payload = .ok (heardState s p, heardSession s p) := by
  unfold hears at hb
  unfold State.kocFrame heardState heardSession
  rw [show s.kocArrive (header p type payload) = s.kocArrive (bare p 1) from rfl]
  split at hb
  · exact absurd hb (by simp)
  · rename_i s0 ha
    try rw [ha]
    split at hb
    · exact absurd hb (by simp)
    · rename_i k hk
      have hs : s0.sessionOf (header p type payload) = some k := hk
      simp only [Bool.and_eq_true, beq_iff_eq, Bool.not_eq_true', decide_eq_true_eq] at hb
      obtain ⟨⟨⟨⟨h1, h2⟩, h3⟩, h4⟩, h5⟩ := hb
      have hl : payload.length ≤ 1192 := by omega
      have ht : (header p type payload).tag = kocTag k.keyIn (header p type payload) type payload := by rw [h1]; rfl
      have hn : ¬ ((header p type payload).sid = 0 ∨ 1028 < payload.length ∨
          (header p type payload).single type payload.length = false ∨ (header p type payload).tag ≠ kocTag k.keyIn (header p type payload) type payload ∨
          k.accepts (header p type payload).seq = false) := by
        rintro (h | h | h | h | h)
        · exact absurd h (by simp [header, framed, bare])
        · omega
        · exact absurd h (by simp [header, framed, bare, KocHdr.single, KocHdr.headed, hl])
        · exact h ht
        · exact absurd h (by rw [show (header p type payload).seq = 1 from rfl, h3]; simp)
      simp only [hs, hk, if_neg hn, h4, h2, Option.getD_some]
      rfl

/-- What a request of the session leaves before its run. -/
def admittedState (s : State) (p : KocPort) : State :=
  let s0 := heardState s p
  ((s0.withW (s0.w.setSession 1 fun x => { x with highRid := max x.highRid 1 })).countRequest p).1
def admittedSession (s : State) (p : KocPort) : Session := { heardSession s p with highRid := max (heardSession s p).highRid 1 }

/-- Whether a request of the session is admitted. -/
def admitted (s : State) (p : KocPort) (n : Nat) : Bool :=
  let s0 := heardState s p
  let k := heardSession s p
  hears s p n && k.answers.all (fun a => a.rid != 1) && !decide (1 ∈ k.busy) && !decide (1 ∈ k.given) && decide (k.highRid ≤ 65) &&
    ((s0.withW (s0.w.setSession 1 fun x => { x with highRid := max x.highRid 1 })).countRequest p).2

theorem admits {s : State} {p : KocPort} {type : Nat} {payload : List Byte} (hb : admitted s p payload.length = true) :
    s.Admits (header p type payload) type payload (admittedState s p) (admittedSession s p) := by
  simp only [admitted, Bool.and_eq_true, List.all_eq_true, bne_iff_ne, Bool.not_eq_true', decide_eq_true_eq, decide_eq_false_iff_not] at hb
  obtain ⟨⟨⟨⟨⟨h1, h2⟩, h3⟩, hg⟩, h4⟩, h5⟩ := hb
  exact ⟨_, _, heard h1, fun a ha => h2 a ha, h3, hg, by simpa [header, framed, bare] using h4, Prod.ext rfl h5, rfl⟩

/-! ## Requests that meet a statement's hypotheses -/

/-- There is a WRITE of the session that is admitted with every right, and what follows holds of the state in which it runs. -/
def Writing (s : State) (idx sub : Nat) (v : List Byte) (P : State → Session → Prop) : Prop :=
  ∃ s1 h k, h.sid ≠ 0 ∧ s.Writes h idx sub v s1 k ∧ P s1 k
def canWrite (s : State) (p : KocPort) (idx sub : Nat) (v : List Byte) : Bool :=
  admitted s p (objBytes idx sub ++ v).length && ((admittedState s p).rights (admittedSession s p) idx sub true).isNone &&
    ((objAt idx sub).any fun d => d.ty.valueOk v)
theorem writing {s : State} (p : KocPort) {idx sub : Nat} {v : List Byte} {P : State → Session → Prop} (hb : canWrite s p idx sub v = true)
    (hp : P (admittedState s p) (admittedSession s p)) : Writing s idx sub v P := by
  simp only [canWrite, Bool.and_eq_true, Option.isNone_iff_eq_none, Option.any_eq_true] at hb
  exact ⟨_, header p ftWrite (objBytes idx sub ++ v), _, by simp [header, framed, bare], ⟨admits hb.1.1, hb.1.2, by obtain ⟨d, h1, h2⟩ := hb.2; exact ⟨d, h1, h2⟩⟩, hp⟩

/-- There is a staged write of the session that may be opened. -/
def Staging (s : State) (idx sub len : Nat) (P : State → Session → Prop) : Prop :=
  ∃ s1 h k, h.sid ≠ 0 ∧ s.Stages h idx sub len s1 k ∧ P s1 k
def canStage (s : State) (p : KocPort) (idx sub len : Nat) : Bool :=
  admitted s p (objBytes idx sub ++ leBytes 8 len).length && ((admittedState s p).openRefusal (admittedSession s p) idx sub len).isNone
theorem staging {s : State} (p : KocPort) {idx sub len : Nat} {P : State → Session → Prop} (hb : canStage s p idx sub len = true)
    (hp : P (admittedState s p) (admittedSession s p)) : Staging s idx sub len P := by
  simp only [canStage, Bool.and_eq_true, Option.isNone_iff_eq_none] at hb
  exact ⟨_, header p ftWrite _, _, by simp [header, framed, bare], ⟨admits hb.1, hb.2⟩, hp⟩

/-- There is a READ of the session that is admitted with the right to read. -/
def Reading (s : State) (idx sub : Nat) (P : State → Session → Prop) : Prop :=
  ∃ s1 h k, h.sid ≠ 0 ∧ s.Reads h idx sub s1 k ∧ P s1 k
def canRead (s : State) (p : KocPort) (idx sub : Nat) : Bool :=
  admitted s p (objBytes idx sub).length && ((admittedState s p).rights (admittedSession s p) idx sub false).isNone
theorem reading {s : State} (p : KocPort) {idx sub : Nat} {P : State → Session → Prop} (hb : canRead s p idx sub = true)
    (hp : P (admittedState s p) (admittedSession s p)) : Reading s idx sub P := by
  simp only [canRead, Bool.and_eq_true, Option.isNone_iff_eq_none] at hb
  exact ⟨_, header p ftRead _, _, by simp [header, framed, bare], ⟨admits hb.1, hb.2⟩, hp⟩

/-- There is a frame of the session that is accepted. -/
def Hearing (s : State) (type : Nat) (payload : List Byte) (P : State → Session → KocHdr → Prop) : Prop :=
  ∃ s1 h k, s.kocFrame h type payload = .ok (s1, k) ∧ P s1 k h
theorem hearing {s : State} (p : KocPort) {type : Nat} {payload : List Byte} {P : State → Session → KocHdr → Prop}
    (hb : hears s p payload.length = true) (hp : P (heardState s p) (heardSession s p) (header p type payload)) : Hearing s type payload P :=
  ⟨_, _, _, heard hb, hp⟩

/-- There is a request of the session that is admitted. -/
def Admitting (s : State) (type : Nat) (payload : List Byte) (P : State → Session → Prop) : Prop :=
  ∃ s1 h k, h.sid ≠ 0 ∧ s.Admits h type payload s1 k ∧ P s1 k
theorem admitting {s : State} (p : KocPort) {type : Nat} {payload : List Byte} {P : State → Session → Prop}
    (hb : admitted s p payload.length = true) (hp : P (admittedState s p) (admittedSession s p)) : Admitting s type payload P :=
  ⟨_, _, _, by simp [header, framed, bare], admits hb, hp⟩

/-- A context of one cluster that occupies it or not. -/
def cfg (first : Nat) : List Byte :=
  [BitVec.ofNat 8 first, 1, 0, 6, 6, 0, 0, 0] ++ leBytes 8 0x10000 ++ leBytes 8 0x20000 ++ leBytes 8 0x30000 ++ leBytes 8 0x40000 ++ leBytes 24 0
def entry (st : CtxSt) (first : Nat := 0) : Resid := { st, cfg := cfg first }
/-- A world whose first clusters run. -/
def running (w : World) : World := { w with clusters := [(0, { power := .run }), (1, { power := .run })] }
/-- One context RESIDENT on cluster 0, SAVED, and so on, with the first clusters running. -/
def resident (p : KocPort) (f : World → World := id) (st : CtxSt := .resident) : State := with_ p (fun w => f (running w)) [(5, entry st)]


/-! ## The block and its queue -/

theorem test_step_takes_the_front :
    step { up .side with pending := [.attestationTokenRefill, .leaseExpiry] } = exec .attestationTokenRefill { up .side with pending := [.leaseExpiry] } := rfl

theorem test_idle_counts : (match step (up .side) with | .next t => (t.ctl.clock, t.w.tick) | _ => (0, [])) = (1, [1, 1, 1, 1]) := by decide
theorem test_idle_without_power_stays : step State.reset = .next State.reset := rfl
theorem test_idle_side_band_counts : (up .side).pending = [] ∧ (up .side).ctl.pins.pgAon = true ∧ (up .side).ctl.pgMain = true ∧
    (up .side).w.tick.length = 4 ∧ State.reset.pending = [] ∧ State.reset.ctl.pins.pgAon = false ∧ State.reset.ctl.pgMain = false := by decide

theorem test_fuses_witness : ∃ t, step { State.reset with pending := [.powerOn 1] } = .next t ∧ t.otp.seed.isSome = true := ⟨_, rfl, by decide⟩

theorem test_groups_witness : GroupsApart [(3, entry .resident 0), (7, entry .restoring 1)] ∧
    ∃ t, step (with_ .side id [(3, entry .resident 0), (7, entry .restoring 1)]) = .next t :=
  ⟨⟨by decide, by decide, by decide⟩, _, rfl⟩

/-! ## KOC -/

theorem test_admits_witness : ∃ (s0 : State) (h : KocHdr) (k : Session), (up .host0).kocArrive h = .ok s0 ∧ s0.sessionOf h = some k ∧ h.sid ≠ 0 ∧
    h.single ftPing 0 = true ∧ h.tag = kocTag k.keyIn h ftPing [] ∧ k.accepts h.seq = true ∧ k.spent = false ∧ (∀ a ∈ k.answers, a.rid ≠ h.rid) ∧
    h.rid ∉ k.busy ∧ h.rid ∉ k.given ∧ k.highRid ≤ h.rid + 64 ∧
    (recent (up .host0).w.koc.reqs (portNo h.port) (up .host0).ctl.clock).length < 20000 :=
  ⟨_, header .host0 ftPing [], session .host0, rfl, rfl, by simp [header, framed, bare], by decide, rfl, by decide, by decide, by decide,
    by decide, by decide, by decide, by decide⟩

theorem test_broken_unknown_session : ∃ (s0 : State) (h : KocHdr), (up .side).kocArrive h = .ok s0 ∧ h.sid ≠ 0 ∧ s0.sessionOf h = none :=
  ⟨_, { header .side ftPing [] with sid := 9 }, rfl, by simp, rfl⟩
theorem test_broken_header : ∃ (s0 : State) (h : KocHdr) (k : Session), (up .side).kocArrive h = .ok s0 ∧ h.sid ≠ 0 ∧ s0.sessionOf h = some k ∧
    h.single ftPing 0 = false :=
  ⟨_, { header .side ftPing [] with version := 2 }, _, rfl, by simp [header, framed, bare], rfl, by decide⟩
theorem test_broken_old_number : ∃ (s0 : State) (h : KocHdr),
    (with_ .side fun w => w.setSession 1 fun k => k.heard (bare .side 1)).kocArrive h = .ok s0 ∧ h.sid ≠ 0 ∧
    ∀ k, s0.sessionOf h = some k → k.accepts h.seq = false :=
  ⟨_, header .side ftPing [], rfl, by simp [header, framed, bare], by intro k hk; cases hk; decide⟩

theorem test_repeat_witness : Hearing (with_ .side fun w => w.setSession 1 fun k => { k with answers := [{ rid := 1, status := 0, value := [] }] })
    ftWrite (objBytes 0x1020 4 ++ [1]) fun s1 k h =>
      (∃ a, k.answers.find? (fun b => b.rid == h.rid) = some a ∧ a.kind = .reply) ∧ ∃ x, s1.w.session h.sid = some x :=
  hearing .side (by decide) ⟨⟨_, rfl, rfl⟩, _, rfl⟩

theorem test_refused_write_witness : Admitting (up .side) ftWrite (objBytes 0x1000 1 ++ []) fun s1 k => ∃ st, s1.rights k 0x1000 1 true = some st :=
  admitting .side (by decide) ⟨_, rfl⟩
theorem test_refused_read_witness : Admitting (up .side) ftRead (objBytes 0x0FFF 1) fun s1 k => ∃ st, s1.rights k 0x0FFF 1 false = some st :=
  admitting .side (by decide) ⟨_, rfl⟩

/-- The clauses of R414 in their order, each with an access that meets it. -/
theorem test_refusal_order :
    let s := up .side
    let h := up .host0
    objAt 0x0FFF 1 = none ∧
    ((objAt 0x3C00 1).isSome = true ∧ ({ s with ctl := { s.ctl with sec := { s.ctl.sec with units := 0 } } } : State).unitAbsent 0x3C00 = true) ∧
    (s.unitAbsent 0x3101 = false ∧ ({ s with ctl := { s.ctl with part := .safe } } : State).partAllows true 0x3101 1 = false) ∧
    ((objAt 0x3101 2).any fun d => lifeAllows .field 0x3101 true (d.cls == .mgmt) && s.partAllows true 0x3101 2 && d.acc == .ro) = true ∧
    ((objAt 0x1880 3).any fun d => lifeAllows .field 0x1880 true (d.cls == .mgmt) && h.partAllows false 0x1880 3 && d.acc != .ro && d.cls == .mgmt) = true ∧
    ((objAt 0x3101 1).any fun d => d.acc != .ro && d.cls == .run) = true ∧ h.w.lease.holder ≠ (session .host0).sid := by decide

/-! ## Ill-formed terms -/

/-- A KOC header that is well formed, of a session and outside one. -/
def inside : KocHdr := { framed .side 1 ftPing 0 with tag := List.replicate 16 0 }
def outside : KocHdr := framed .side 0 ftPing 0
theorem smoke_widths : (fitsU 2 65535, fitsU 2 65536) = (true, false) := by decide
theorem smoke_koc_header : [inside, outside].map KocHdr.ok = [true, true] ∧
    [{ inside with sid := 2 ^ 32 }, { inside with seq := 2 ^ 64 }, { inside with rid := 2 ^ 32 }, { inside with tag := [0] }, { inside with version := 256 },
     { inside with typ := 256 }, { inside with frags := [] }, { inside with frags := [(256, 1, 0)] }, { inside with frags := [(0, 256, 0)] },
     { inside with frags := [(0, 1, 65536)] }, { inside with reserved := 65536 }, { inside with pad := 256 }, { inside with net := { net with mac := [] } },
     { inside with net := { net with ip := [0] } }, { inside with net := { net with vlan := some (8, 1) } },
     { inside with net := { net with vlan := some (0, 4096) } }, { inside with net := { net with udp := 65536 } },
     { inside with net := { net with len := 65536 } }].all (fun h => !h.ok) = true := by decide
/-- A Seam header that is well formed. -/
def onLink : SeamHdr := { crcOk := true, typ := 3, vc := 0, last := true, lens := [1], seq := 1, ack := 1, retVc := 0, retUnits := 0, dst := 0, src := 1, tag := 0 }
theorem smoke_seam_header : onLink.ok = true ∧
    [{ onLink with vc := 4 }, { onLink with lens := [] }, { onLink with lens := [32] }, { onLink with typ := 256 }, { onLink with tag := 2 ^ 32 }, { onLink with seq := 65536 }, { onLink with ack := 65536 }, { onLink with retVc := 4 },
     { onLink with retUnits := 16384 }, { onLink with dst := 65536 }, { onLink with src := 65536 }].all (fun h => !h.ok) = true := by decide
/-- A window write that is well formed. -/
def aWrite : WinWrite := { core := 0, win := 0, slot := 0, gen := 1, sender := 0, id := 0, desc := List.replicate 64 0, data := [0], bad := [] }
set_option maxRecDepth 4000 in
theorem smoke_window_write : aWrite.ok = true ∧
    [{ aWrite with core := 65536 }, { aWrite with win := 256 }, { aWrite with slot := 256 }, { aWrite with gen := 65536 }, { aWrite with sender := 65536 },
     { aWrite with id := 2 ^ 32 }, { aWrite with desc := [0] }, { aWrite with data := [] }].all (fun x => !x.ok) = true := by decide
/-- A collective message that is well formed. -/
def aMessage : CollMsg :=
  { kind := 0, group := 0, pos := 0, seq := 0, level := 0, avg := false, poison := false, failed := false, node := 0, print := 0, elems := 1, srcFmt := 0, dstFmt := 0
    accMode := 0, outMode := 0, stream := 0, tau := 0, crc := 0, digest := List.replicate 16 0, srcPos := 0, first := 0, mask := [], values := [] }
theorem smoke_collective : aMessage.ok = true ∧
    [{ aMessage with kind := 256 }, { aMessage with group := 256 }, { aMessage with pos := 65536 }, { aMessage with seq := 2 ^ 32 }, { aMessage with level := 256 },
     { aMessage with node := 65536 }, { aMessage with print := 2 ^ 64 }, { aMessage with elems := 2 ^ 32 }, { aMessage with first := 2 ^ 32 },
     { aMessage with digest := [] }].all (fun m => !m.ok) = true := by decide
/-- A checkpoint header that is well formed. -/
def aCkpt : CkptHdr := { answer := 0, ctx := 0, step := 0, entry := 0, granule := 0, crc := 0 }
theorem smoke_checkpoint : aCkpt.ok = true ∧
    [{ aCkpt with answer := 256 }, { aCkpt with ctx := 65536 }, { aCkpt with step := 2 ^ 32 }, { aCkpt with entry := 2 ^ 32 },
     { aCkpt with granule := 2 ^ 32 }].all (fun k => !k.ok) = true := by decide
theorem smoke_payloads :
    [FrameBody.nak 65536, .heartbeat 65536 0 0, .heartbeat 0 256 0, .heartbeat 0 0 256, .ident (2 ^ 64) 0 0 0, .ident 0 65536 0 0, .ident 0 0 256 0,
     .ident 0 0 0 256, .lost 65536 0, .lost 0 65536, .wcredit 65536 0 0 0, .wcredit 0 256 0 0, .wcredit 0 0 256 0, .wcredit 0 0 0 65536,
     .wwrite { aWrite with data := [] }, .wanswer (2 ^ 32) 0, .wanswer 0 65536, .wreturn 65536 0 0 0, .wclose 65536 0 0, .wclose 0 256 0,
     .wclose 0 0 65536, .contrib { aMessage with kind := 256 }, .result { aMessage with kind := 256 }, .canswer (2 ^ 32) 0 0 0 0 0, .canswer 0 256 0 0 0 0,
     .canswer 0 0 256 0 0 0, .canswer 0 0 0 256 0 0, .canswer 0 0 0 0 65536 0, .canswer 0 0 0 0 0 (2 ^ 32), .keepalive 256 0 0 0, .keepalive 0 (2 ^ 32) 0 0,
     .keepalive 0 0 256 0, .keepalive 0 0 0 65536, .ckpt 7 aCkpt [], .ckpt 0 { aCkpt with ctx := 65536 } []].all (fun b => !b.ok) = true := by decide
/-- Packets that are well formed. -/
def aTarget : WriteTo := { rkey := 0, va := 0, len := 0 }
def aPacket : WritePkt := { qp := 0, psn := 0, first := some aTarget, last := true, data := [], ce := false, net }
def aRead : ReadPkt := { qp := 0, psn := 0, rkey := 0, va := 0, len := 0, ce := false, net }
def aSend : SendPkt := { qp := 0, psn := 0, data := [], ce := false, net }
theorem smoke_packets : (aPacket.ok, aRead.ok, aSend.ok) = (true, true, true) ∧
    [{ aPacket with qp := 2 ^ 24 }, { aPacket with psn := 2 ^ 24 }, { aPacket with first := some { aTarget with rkey := 2 ^ 32 } },
     { aPacket with first := some { aTarget with va := 2 ^ 64 } }, { aPacket with first := some { aTarget with len := 2 ^ 32 } },
     { aPacket with net := { net with mac := [] } }].all (fun k => !k.ok) = true ∧
    [{ aRead with qp := 2 ^ 24 }, { aRead with psn := 2 ^ 24 }, { aRead with rkey := 2 ^ 32 }, { aRead with va := 2 ^ 64 }, { aRead with len := 2 ^ 32 },
     { aRead with net := { net with mac := [] } }].all (fun k => !k.ok) = true ∧
    [{ aSend with qp := 2 ^ 24 }, { aSend with psn := 2 ^ 24 }, { aSend with net := { net with mac := [] } }].all (fun k => !k.ok) = true := by decide
set_option maxRecDepth 20000 in
theorem smoke_lengths : valueOk (List.replicate 1025 0) = false ∧
    ({ aPacket with data := List.replicate 4097 0 } : WritePkt).ok = false ∧
    ({ aSend with data := List.replicate 4097 0 } : SendPkt).ok = false ∧ (Instr.segData inside 0 (List.replicate 1025 0)).ok = false ∧
    (Instr.icmpEcho .side [0, 0, 0, 0] (List.replicate 1501 0)).ok = false := by decide +kernel
theorem smoke_commands :
    [Instr.ping inside, .read inside 0x1000 1, .write inside 0x1020 4 [1], .arp .side [10, 0, 0, 1], .pfc 0 7 65535, .leaseExpiry].all Instr.ok = true ∧
    [Instr.ping { inside with tag := [0] }, .read inside 65536 1, .read inside 0x1000 256, .write inside 65536 4 [1], .domainWriteOpen inside 0x6412 1 [0],
     .segRead inside 0x6412 1 (2 ^ 32), .segWrite inside 0x6412 1 0 (2 ^ 32), .segData inside 65536 [], .segAck inside (2 ^ 64) 0, .segAck inside 0 65536,
     .openReq outside [] (List.replicate 32 0), .openReq outside (List.replicate 32 0) [], .openFinish outside 1 [] [], .openTimeout .side (2 ^ 32),
     .close inside 65536, .eventAck inside (2 ^ 32), .segmentTimeout 0 (2 ^ 32), .stagedWriteTimeout 0 65536 0, .kocKeyListWrite inside 3 [],
     .contextImport inside 5 [(536870912, 1)], .nak 0 onLink 65536, .link 0 { onLink with vc := 4 }, .frameForward 0 onLink (.nak 65536),
     .keepaliveSend 0 (2 ^ 32) 0 0, .collInputTimeout 0 (2 ^ 32) 0 0, .groupConfigWrite inside 0 256 [], .roceInvalidRequest 0 0 { psn := 2 ^ 24, ce := false, net }, .pfc 0 8 0, .pfc 0 0 65536,
     .arp .side [10], .neighbourDiscovery .side [10], .icmpEcho .side [10] [], .thermalSample [], .pmbusPoll [], .railOutOfWindow 0 65536,
     .ckptEnd 0 onLink { aCkpt with ctx := 65536 }, .eventResendTimer (2 ^ 32), .sessionIdleTimeout (2 ^ 32), .sessionLifetimeExpiry (2 ^ 32)].all (fun i => !i.ok) =
      true := by decide

theorem test_read_bytes : Reading (up .side) 0x1000 1 fun s1 k => ∃ v, s1.readObj (some k) 0x1000 1 = .bytes v := reading .side (by decide) ⟨_, rfl⟩
theorem test_read_domain : Reading (up .side) 0x6412 1 fun s1 k => ∃ len range, s1.readObj (some k) 0x6412 1 = .dom len range :=
  reading .side (by decide) ⟨_, _, rfl⟩
theorem test_read_known_answer : Reading (up .side) 0x3E00 5 fun _ _ => pmx 0 0 0 0 = 0x348372C1FAC61AEF := reading .side (by decide) (by decide)
theorem test_write_value : Writing (up .side) 0x6414 2 (leBytes 4 500) fun s1 k =>
    isDomain 0x6414 2 = false ∧ (writeFx s1 k 0x6414 2 (leBytes 4 500)).wait = none := writing .side (by decide) (by decide)
theorem test_open_staged : Staging (up .side) 0x6412 1 8 fun _ _ => True := staging .side (by decide) trivial
theorem test_segment_read : Admitting (with_ .side fun w => w.setGroup 2 { w.group 2 with members := [0, 1] }) ftSegRead
    (objBytes 0x6412 1 ++ leBytes 4 0) fun s1 k => s1.rights k 0x6412 1 false = none ∧ k.segs.length < 8 ∧
      ∃ len range, s1.readObj (some k) 0x6412 1 = .dom len range ∧ 65536 * 0 < len ∧ s1.domainBus 0x6412 1 0 len = [] :=
  admitting .side (by decide) ⟨by decide, by decide, _, _, rfl, by decide, by decide⟩
theorem test_segment_write : Admitting (with_ .side fun w => w.setSession 1 fun k => { k with staged := [{ idx := 0x6412, sub := 1, len := 70000 }] })
    ftSegWrite (objBytes 0x6412 1 ++ leBytes 4 1 ++ leBytes 4 4464) fun _ k => k.segs.length < 8 ∧
      ∃ x, k.staged.find? (fun x => x.idx == 0x6412 && x.sub == 1) = some x ∧ 65536 * 1 < x.len ∧ 4464 = min 65536 (x.len - 65536 * 1) :=
  admitting .side (by decide) ⟨by decide, _, rfl, by decide, by decide⟩

/-- A session that receives a segment of so many bytes. -/
def receiving (len : Nat) : State :=
  with_ .side fun w => w.setSession 1 fun k => { k with
    staged := [{ idx := 0x6412, sub := 1, len }], segs := [{ rid := 1, idx := 0x6412, sub := 1, seg := 0, len, out := false }], busy := [1] }
set_option maxRecDepth 20000 in
theorem test_segment_data_held : Hearing (receiving 2050) ftSegData (leBytes 2 0 ++ leBytes 2 1024 ++ List.replicate 1024 7) fun _ k h =>
    ∃ x : SegXfer, k.segs.find? (fun x => x.rid == h.rid && !x.out) = some x ∧ x.fits 0 (List.replicate 1024 7) = true ∧
      ({ x with frames := x.frames.set 0 (List.replicate 1024 7) } : SegXfer).bitmap ≠ fullMap x.len ∧ 0 + 1 ≠ cdiv x.len 1024 :=
  hearing .side (by decide) ⟨_, rfl, by decide, by decide, by decide⟩
theorem test_segment_data_last : Hearing (receiving 4) ftSegData (leBytes 2 0 ++ leBytes 2 4 ++ [0, 0, 1, 0]) fun _ k h =>
    ∃ x : SegXfer, k.segs.find? (fun x => x.rid == h.rid && !x.out) = some x ∧ x.fits 0 [0, 0, 1, 0] = true ∧
      ({ x with frames := x.frames.set 0 [0, 0, 1, 0] } : SegXfer).bitmap = fullMap x.len :=
  hearing .side (by decide) ⟨_, rfl, by decide, by decide⟩
set_option maxRecDepth 20000 in
theorem test_segment_data_lacks : Hearing (receiving 1026) ftSegData (leBytes 2 1 ++ leBytes 2 2 ++ List.replicate 2 7) fun _ k h =>
    ∃ x : SegXfer, k.segs.find? (fun x => x.rid == h.rid && !x.out) = some x ∧ x.fits 1 (List.replicate 2 7) = true ∧ 1 + 1 = cdiv x.len 1024 ∧
      ({ x with frames := x.frames.set 1 (List.replicate 2 7) } : SegXfer).bitmap ≠ fullMap x.len :=
  hearing .side (by decide) ⟨_, rfl, by decide, by decide, by decide⟩
/-- A session that sends a segment of two frames. -/
def sending : State :=
  with_ .side fun w => w.setSession 1 fun k => { k with
    segs := [{ rid := 1, idx := 0x6412, sub := 1, seg := 0, len := 1025, out := true, frames := [(0, List.replicate 1024 0), (1, [0])] }] }
theorem test_segment_ack_all : Hearing sending ftSegAck (leBytes 8 3 ++ leBytes 2 0) fun _ k h =>
    ∃ x, k.segs.find? (fun x => x.rid == h.rid && x.out) = some x ∧ ∀ f ∈ x.frames, Nat.testBit 3 f.1 = true :=
  hearing .side (by decide) ⟨_, rfl, by decide⟩
theorem test_segment_ack_lacks : Hearing sending ftSegAck (leBytes 8 1 ++ leBytes 2 0) fun _ k h =>
    ∃ x, k.segs.find? (fun x => x.rid == h.rid && x.out) = some x ∧ ∃ f ∈ x.frames, Nat.testBit 1 f.1 = false :=
  hearing .side (by decide) ⟨_, rfl, (1, [0]), by decide, by decide⟩
theorem test_event_ack : Hearing (up .side) ftEventAck (leBytes 4 7) fun _ _ _ => True := hearing .side (by decide) trivial
theorem test_ping : Hearing (up .side) ftPing [] fun _ _ _ => True := hearing .side (by decide) trivial
theorem test_close : Hearing (up .side) ftClose (leBytes 2 0) fun _ _ _ => True := hearing .side (by decide) trivial

/-- A part whose management key list holds a hash, with an opening in progress for it. -/
def opening : State :=
  let s := with_ .side fun w => { w with koc := { w.koc with openings :=
    [{ sid := 5, port := .side, keyHash := leBytes 32 9, decapKey := [], transcript := [] }] } }
  { s with ctl := { s.ctl with persist := { mgmtKeys := leBytes 32 9 } } }
/-- The part with the management cores awake. -/
def awake (s : State) : State := s.withW { s.w with koc := { s.w.koc with asleep := [] } }
theorem test_open_request : ∃ (h : KocHdr) (s1 : State), opening.kocArrive h = .ok s1 ∧ h.sid = 0 ∧ h.seq = 0 ∧ h.tag = [] ∧ h.single ftOpenReq 64 = true ∧
    (leBytes 32 0).length = 32 ∧ (leBytes 32 9).length = 32 ∧ (awake s1).offerRefusal h.port (leBytes 32 9) = none :=
  ⟨framed .side 0 ftOpenReq 64, _, rfl, rfl, rfl, rfl, by decide, by decide, by decide, by decide⟩
theorem test_open_refused : ∃ (h : KocHdr) (s1 : State) (st : Nat), opening.kocArrive h = .ok s1 ∧ h.sid = 0 ∧ h.seq = 0 ∧ h.tag = [] ∧
    h.single ftOpenReq 64 = true ∧ (awake s1).offerRefusal h.port (leBytes 32 8) = some st :=
  ⟨framed .side 0 ftOpenReq 64, _, _, rfl, rfl, rfl, rfl, by decide, rfl⟩
theorem test_open_early : ∃ h : KocHdr, let s : State := { opening with ctl := { opening.ctl with booted := false } }
    h.port = .side ∧ s.ctl.pins.pgAon = true ∧ s.ctl.booted = false ∧ s.addressed .side h.net = true ∧ h.net.udp = s.ctl.persist.udp ∧ h.sid = 0 ∧
      h.seq = 0 ∧ h.tag = [] ∧ h.single ftOpenReq 64 = true :=
  ⟨framed .side 0 ftOpenReq 64, rfl, rfl, rfl, by decide, rfl, rfl, rfl, rfl, by decide⟩
theorem test_open_finish : ∃ (h : KocHdr) (s1 : State) (o : Opening), opening.kocArrive h = .ok s1 ∧ h.sid = 0 ∧ h.seq = 0 ∧ h.tag = [] ∧
    h.headed ftOpenFinish = true ∧ s1.w.koc.openings.find? (fun o => o.sid == 5 && o.port == h.port) = some o ∧
    (awake s1).sessionRefusal o.port o.keyHash = none ∧ (List.replicate 1568 (0 : Byte)).length = 1568 ∧
    (List.replicate 2820 (0 : Byte)).length = 2820 ∧ h.fragSet 4392 = true :=
  ⟨{ bare .side 0 with typ := ftOpenFinish, frags := [(0, 4, 1192), (1, 4, 1192), (2, 4, 1192), (3, 4, 816)] }, _, _, rfl, rfl, rfl, rfl, by decide,
    rfl, by decide, List.length_replicate, List.length_replicate, by decide⟩

/-- An event record. -/
def anEvent : EventRec := { code := 2, idx := 0, sub := 0, die := 0, ctx := 0, ctr := 0, step := 0, status := 0, payload := [] }
/-- A queued error record. -/
def anError (seq : Nat) (cls : Nat := 0) (ctx : Nat := 0xFFFF) : ErrRec := { seq, cls, unit := 6, status := 2, inst := 0, ctx, step := 0, ctr := 0, die := 0 }
theorem test_resend : ∃ k, (with_ .side fun w => w.setSession 1 fun k => { k with events :=
      [{ seq := 1, tries := 9, ev := anEvent }, { seq := 2, tries := 8, ev := anEvent }, { seq := 3, tries := 0, ev := anEvent }] }).w.koc.sessions.find?
      (fun k => k.sid == 1) = some k ∧ ∃ q ∈ k.events, 1 ≤ q.tries ∧ q.tries < 9 := ⟨_, rfl, by decide⟩
theorem test_lease_runs_out : let s := with_ .side fun w => { w with lease := { holder := 1, term := 100, start := 0 } }
    ({ s with ctl := { s.ctl with clock := 100 * 100000 } } : State).leaseLeft = 0 ∧ s.leaseLeft ≠ 0 ∧ s.w.lease.holder ≠ 0 := by decide
theorem test_flush : let s : State := { up .side with ctl := { (up .side).ctl with persistQ := [{ udp := 7 }, { udp := 8 }] } }
    (match exec .persistentFlush s with | .next t => (t.flash.persist.udp, t.ctl.persistQ.length) | _ => (0, 0)) = (7, 1) := by decide

theorem test_lease_granted : Writing (up .host0) 0x1020 1 (leBytes 4 1000) fun s1 k =>
    (leBytes 4 1000).length = 4 ∧ 100 ≤ leNat (leBytes 4 1000) ∧ leNat (leBytes 4 1000) ≤ 60000 ∧ s1.ctl.persist.barred = false ∧
      s1.w.lease.holder = 0 ∧ k.sid ≠ 0 := writing .host0 (by decide) (by decide)
/-- A host session that holds the lease. -/
def holding : State := with_ .host0 fun w => { w with lease := { holder := 1, term := 100, start := 0 } }
theorem test_lease_renewed : Writing holding 0x1020 1 (leBytes 4 100) fun s1 k => leNat (leBytes 4 100) = 100 ∧ s1.ctl.persist.barred = false ∧
    s1.w.lease.holder = k.sid ∧ k.sid ≠ 0 := writing .host0 (by decide) (by decide)
theorem test_lease_released : Writing holding 0x1020 1 [0, 0, 0, 0] fun s1 k => s1.ctl.persist.barred = false ∧
    s1.w.lease.holder = k.sid ∧ k.sid ≠ 0 := writing .host0 (by decide) (by decide)
theorem test_lease_revoked : Writing (with_ .side fun w => { w with lease := { holder := 3 } }) 0x1020 4 [1] fun s1 _ => s1.w.lease.holder ≠ 0 :=
  writing .side (by decide) (by decide)
theorem test_reset_write : Writing (up .side) 0x1030 1 [1] fun _ _ => True := writing .side (by decide) trivial
theorem test_key_list : (Staging (up .side) 0x6C00 4 32 fun _ _ => True) ∧ Staging (up .side) 0x6C00 5 32 fun _ _ => True :=
  ⟨staging .side (by decide) trivial, staging .side (by decide) trivial⟩

/-! ## Object writes -/

theorem test_invalidate_caches : Writing (up .side) 0x2810 5 [1] fun _ _ => True := writing .side (by decide) trivial
theorem test_core_resume : Writing (resident .side fun w => w.setCore 3 { w.core 3 with state := .stopped }) 0x4003 2 [1] fun s1 _ =>
    (s1.w.core 3).state = .stopped := writing .side (by decide) (by decide)
/-- A part with link 2 UP to rank 1, and a window of core 3 for it. -/
def windowed (st : WinSt) : State := resident .side fun w =>
  (w.setLink 2 { st := .up, peerRank := 1, peerLink := 0 }).setWin 3 1 { st, base := 0x4000, geom := 0x40000, sender := 0x10002, credited := [0, 1] }
theorem test_window_open : Writing (windowed .closed) 0x4003 0x18 [1] fun s1 _ => openRefusal s1 3 1 = none ∧ s1.bound 3 = some 5 :=
  writing .side (by decide) (by decide)
theorem test_window_close : Writing (windowed .open_) 0x4003 0x18 [2] fun s1 _ => (s1.w.win 3 1).st = .open_ := writing .side (by decide) (by decide)
theorem test_dirty_clear : Writing (up .side) 0x4003 14 [1, 0, 0, 0] fun _ _ => True := writing .side (by decide) trivial

theorem test_context_create : Writing (with_ .side id [(5, entry .absent)]) 0x3105 1 [1] fun s1 _ => (s1.ent 5).st = .absent ∧ cfgOk (s1.ent 5).cfg = true :=
  writing .side (by decide) (by decide)
theorem test_context_resume : Writing (resident .side id .saved) 0x3105 1 [2] fun s1 _ => resumeRefusal s1 5 = none ∧ s1.inWay 5 = [] :=
  writing .side (by decide) (by decide)
theorem test_context_preempt : Writing (resident .side) 0x3105 1 [3] fun s1 _ => (s1.ent 5).st = .resident := writing .side (by decide) (by decide)
theorem test_context_destroy : Writing (resident .side) 0x3105 1 [4] fun s1 _ => (s1.ent 5).st = .resident := writing .side (by decide) (by decide)
theorem test_context_destroy_saved : Writing (resident .side id .saved) 0x3105 1 [4] fun s1 _ => (s1.ent 5).st = .saved ∧ s1.resuming 5 = false :=
  writing .side (by decide) (by decide)
theorem test_doorbell : Writing (resident .side) 0x3105 4 [64, 0, 0, 0] fun s1 _ => (s1.ent 5).st ≠ .absent ∧
    sub32 (leNat ([64, 0, 0, 0] : List Byte)) (s1.w.ctx 5).tail ≤ 2 ^ (s1.ent 5).rlog := writing .side (by decide) (by decide)
theorem test_invalidate_request : Writing (resident .side) 0x3105 10 (List.replicate 16 0) fun s1 _ => (s1.ent 5).st ≠ .absent ∧
    le (List.replicate 16 (0 : Byte)) 0 8 % 65536 = 0 ∧ allZero (sl (List.replicate 16 (0 : Byte)) 12 4) = true :=
  writing .side (by decide) (by decide)
/-- An image whose header names 16 cores and whose configuration is good; every other byte is zero. -/
def image : List Host.Cell := ((leBytes 2 1 ++ leBytes 2 128 ++ leBytes 2 16 ++ leBytes 58 0 ++ cfg 0).zipIdx).map fun x => (x.2, x.1)
set_option maxRecDepth 4000 in
theorem test_context_import : Staging (resident .side id .saved) 0x3105 12 536870912 fun s1 _ => (s1.ent 5).st = .saved ∧ s1.resuming 5 = false ∧
    (s1.w.ctx 5).rst.busy = false ∧
    (let cells := (image.filter fun c => decide (c.1 < 0x20000000)).foldl (fun m c => Cells.set m c.1 c.2) []
     let hd := cellRun (cells.filter fun c => decide (c.1 < 128)) 0 128
     le hd 0 2 = 1 ∧ cfgOk (sl hd 64 64) = true ∧ le hd 4 2 = 16 * le (sl hd 64 64) 1 1) := staging .side (by decide) (by decide)

theorem test_seed_write : Writing (resident .side) 0x3F05 1 (leBytes 8 1) fun s1 _ => (s1.ent 5).st ≠ .absent ∧ s1.ctxRuns 5 = false :=
  writing .side (by decide) (by decide)
theorem test_reseed : Writing (resident .side) 0x3F05 4 (leBytes 4 1) fun s1 _ => (s1.ent 5).st ≠ .absent ∧ s1.ctxRuns 5 = false :=
  writing .side (by decide) (by decide)
theorem test_predictor_slots : Staging (resident .side) 0x3D05 1 16384 fun s1 _ => (s1.ent 5).st ≠ .absent ∧ s1.ctxRuns 5 = false :=
  staging .side (by decide) (by decide)
theorem test_predictor_slot_good : predSlotOk (List.replicate 64 0) = true := by decide

theorem test_snapshot_request : Writing (resident .side) 0x3200 1 ([5, 0, 0, 0, 1, 0, 0, 0] ++ leBytes 8 64) fun s1 _ =>
    let v : List Byte := [5, 0, 0, 0, 1, 0, 0, 0] ++ leBytes 8 64
    s1.w.snap.st = .idle ∧ v.length = 16 ∧ le v 0 2 < 256 ∧ (s1.ent (le v 0 2)).st ≠ .absent ∧ (s1.w.ctx (le v 0 2)).step < le v 4 4 ∧ le v 2 2 = 0 ∧
      le v 8 8 % 64 = 0 ∧ le v 8 8 < 2 ^ 48 := writing .side (by decide) (by decide)
theorem test_snapshot_release : Writing (with_ .side fun w => { w with snap := { st := .ready } }) 0x3200 3 [1] fun s1 _ => s1.w.snap.st = .ready :=
  writing .side (by decide) (by decide)
theorem test_snapshot_copy : let s := resident .side fun w => { w with snap := { st := .armed, draining := true, ctx := 5 } }
    s.ctl.part = .ready ∧ s.w.snap.st = .armed ∧ s.w.snap.draining = true ∧ s.w.drained (s.ent s.w.snap.ctx) = true ∧ s.snapSleepers = [] := by decide
theorem test_snapshot_ready : let s := resident .side fun w => { w with snap := { st := .copying, copied := true, ctx := 5 } }
    s.ctl.part = .ready ∧ s.w.snap.st = .copying ∧ s.w.snap.copied = true := by decide

/-- Channel 2 of a resident context. -/
def channelled (c : Chan) : State := resident .side fun w => w.setChan 2 c
theorem test_channel_resume : Writing (channelled { st := .paused, by_ := .user }) 0x5002 2 [1] fun s1 _ => (s1.chanCtx 2).isSome = true ∧
    ((s1.w.wake 0).chan 2).st = .paused ∧ ((s1.w.wake 0).chan 2).by_ ≠ .part := writing .side (by decide) (by decide)
theorem test_channel_pause : Writing (channelled { st := .running }) 0x5002 2 [2] fun s1 _ => (s1.chanCtx 2).isSome = true ∧
    ((s1.w.wake 0).chan 2).st = .running ∧ (s1.w.wake 0).chanQuiet ((s1.w.wake 0).chan 2) = true := writing .side (by decide) (by decide)
theorem test_channel_pause_waits : Writing (channelled { st := .running, have_ := true, desc := leBytes 64 0, rowLeft := 8, rowsLeft := 1 }) 0x5002 2 [2]
    fun s1 _ => (s1.chanCtx 2).isSome = true ∧ ((s1.w.wake 0).chan 2).st = .running ∧ (s1.w.wake 0).chanQuiet ((s1.w.wake 0).chan 2) = false :=
  writing .side (by decide) (by decide)
theorem test_channel_skip : Writing (channelled { st := .halted }) 0x5002 2 [3] fun s1 _ => (s1.chanCtx 2).isSome = true ∧
    ((s1.w.wake 0).chan 2).st = .halted := writing .side (by decide) (by decide)
theorem test_channel_abort : Writing (channelled { st := .paused }) 0x5002 2 [4] fun s1 _ => (s1.chanCtx 2).isSome = true ∧
    ((s1.w.wake 0).chan 2).st = .paused := writing .side (by decide) (by decide)

theorem test_link_retrain_up : Writing (windowed .closed) 0x6012 2 [1] fun s1 _ => (s1.w.link 2).st = .up := writing .side (by decide) (by decide)
theorem test_link_retrain_failed : Writing (with_ .side fun w => w.setLink 2 { st := .failed }) 0x6012 2 [1] fun s1 _ => (s1.w.link 2).st = .failed :=
  writing .side (by decide) (by decide)
theorem test_lost_rank_clear : Writing (with_ .side fun w => { w with seam := { w.seam with lost := [1, 7] } }) 0x6000 6 [7, 0] fun s1 _ =>
    leNat ([7, 0] : List Byte) ∈ s1.w.seam.lost ∧ ∀ c ∈ s1.w.collsOpen, leNat ([7, 0] : List Byte) ∉ (s1.w.group c.group).members :=
  writing .side (by decide) (by decide)
theorem test_group_members : Staging (with_ .side fun w => { w with seam := { w.seam with rank := 1 } }) 0x6412 1 4 fun s1 _ =>
    let l := (List.range ((leBytes 4 0x10000).length / 2)).map fun i => le (leBytes 4 0x10000) (2 * i) 2
    (∀ c ∈ s1.w.collsOpen, c.group ≠ 2) ∧ (∀ r ∈ l, r ≤ 4095) ∧ l.Nodup ∧ s1.w.seam.rank ∈ l := staging .side (by decide) (by decide)
theorem test_group_time : Writing (up .side) 0x6412 2 (leBytes 4 100) fun s1 _ => (∀ c ∈ s1.w.collsOpen, c.group ≠ 2) ∧
    100 ≤ leNat (leBytes 4 100) ∧ leNat (leBytes 4 100) ≤ 100000 := writing .side (by decide) (by decide)
theorem test_group_seed : Writing (up .side) 0x6412 3 (leBytes 8 1) fun s1 _ => ∀ c ∈ s1.w.collsOpen, c.group ≠ 2 := writing .side (by decide) (by decide)
theorem test_group_owner : Writing (resident .side) 0x6412 4 (leBytes 2 5) fun s1 _ => (∀ c ∈ s1.w.collsOpen, c.group ≠ 2) ∧
    leNat (leBytes 2 5) < 256 ∧ (s1.ent (leNat (leBytes 2 5))).st ≠ .absent := writing .side (by decide) (by decide)
theorem test_qp_ready : Writing (resident .side fun w => w.setQp 9 { w.qp 9 with ctx := 5, remote := leBytes 32 1, ring := leBytes 8 0 ++ leBytes 8 2 })
    0x6A09 1 [1] fun s1 _ => (s1.w.qp 9).st = .reset ∧ qpComplete s1 (s1.w.qp 9) = true := writing .side (by decide) (by decide)
theorem test_qp_reset : Writing (up .side) 0x6A09 1 [0] fun _ _ => True := writing .side (by decide) trivial

theorem test_cluster_floor : Writing (with_ .side fun w => w.setCluster 4 { power := .nap }) 0x2104 2 [1] fun s1 _ => leNat ([1] : List Byte) < 3 ∧
    floorDepth (leNat ([1] : List Byte)) < depth (s1.w.cluster 4).settled := writing .side (by decide) (by decide)
theorem test_cluster_floor_off : Writing (resident .side) 0x2104 2 [3] fun s1 _ => ∀ e ∈ s1.res, e.2.st.live = true → e.2.holds 4 = false :=
  writing .side (by decide) (by decide)
theorem test_cluster_floor_off_later : Writing (with_ .side fun w => w.setCluster 4 { power := .off }) 0x2104 2 [3] fun s1 _ =>
    (∀ e ∈ s1.res, e.2.st.live = true → e.2.holds 4 = false) ∧ (s1.w.cluster 4).power = .off := writing .side (by decide) (by decide)
theorem test_cluster_floor_off_now : Writing (with_ .side fun w => w.setCluster 4 { power := .run }) 0x2104 2 [3] fun s1 _ =>
    (∀ e ∈ s1.res, e.2.st.live = true → e.2.holds 4 = false) ∧ (s1.w.cluster 4).power = .run ∧ (s1.w.cluster 4).entering = none :=
  writing .side (by decide) (by decide)
theorem test_rail_margin : Writing (with_ .side id [(5, entry .saved)]) 0x2000 6 (List.replicate 16 (-10)) fun s1 _ =>
    (∀ b ∈ List.replicate 16 (-10 : Byte), -10 ≤ b.toInt ∧ b.toInt ≤ 10) ∧ ∀ e ∈ s1.res, e.2.st.live = false := writing .side (by decide) (by decide)
theorem test_main_power_off : Writing (up .side) 0x2000 1 [0] fun s1 _ => s1.ctl.mainPower ≠ 0 := writing .side (by decide) (by decide)
/-- A part in SAFE, with main power as last written, and whether 0 was written since. -/
def inSafe (mainPower : Nat) (safeOff : Bool) : State :=
  { up .side with ctl := { (up .side).ctl with part := .safe, mainPower, pgMain := false, railGroups := 0, safeOff } }
theorem test_main_power_off_again : Writing (inSafe 0 false) 0x2000 1 [0] fun s1 _ => s1.ctl.mainPower = 0 := writing .side (by decide) (by decide)
theorem test_main_power_off_safe : Writing (inSafe 1 false) 0x2000 1 [0] fun s1 _ => s1.ctl.mainPower ≠ 0 ∧ s1.ctl.part = .safe :=
  writing .side (by decide) (by decide)
theorem test_main_power_on_safe : Writing (inSafe 0 true) 0x2000 1 [1] fun s1 _ => s1.ctl.mainPower ≠ 1 ∧ s1.ctl.part = .safe ∧ s1.ctl.safeOff = true :=
  writing .side (by decide) (by decide)
theorem test_main_power_on_only_once : Writing (inSafe 0 false) 0x2000 1 [1] fun s1 _ => s1.ctl.mainPower ≠ 1 ∧ s1.ctl.part = .safe ∧
    s1.ctl.safeOff = false := writing .side (by decide) (by decide)
theorem test_main_power_on_already : Writing (up .side) 0x2000 1 [1] fun s1 _ => s1.ctl.mainPower = 1 := writing .side (by decide) (by decide)
theorem test_main_power_on : Writing { up .side with ctl := { (up .side).ctl with part := .bringup, step := 2, mainPower := 0, pgMain := false } } 0x2000 1 [1]
    fun s1 _ => s1.ctl.mainPower ≠ 1 ∧ 2 ≤ s1.ctl.step := writing .side (by decide) (by decide)

theorem test_licence_install : Staging (up .side) 0x1400 1 2884 fun _ _ => True := staging .side (by decide) trivial
theorem test_topology_key : Staging (up .side) 0x1820 4 68 fun s1 _ => s1.otp.topoKeys.length < 4 ∧ Config.shake256 (leBytes 68 1) 32 ∉ s1.otp.topoKeys ∧
    s1.otp.life ≠ .returned ∧ s1.otp.life ≠ .scrapped := staging .side (by decide) ⟨by decide, List.not_mem_nil, by decide, by decide⟩
/-- A first-stage image without a body. -/
def firmware : List Byte := [1, 0] ++ List.replicate 2882 0
set_option maxRecDepth 20000 in
theorem test_firmware : (Staging (up .side) 0x1880 1 2884 fun s1 _ => s1.otp.floor ≤ 0) ∧ fwHeaderOk firmware = true ∧ fwSecurity firmware = 0 :=
  ⟨staging .side (by decide) (by decide), by decide, by decide⟩
theorem test_quote_request : Writing (up .side) 0x1810 1 (List.replicate 32 0) fun s1 _ => s1.ctl.sec.signing = none ∧ s1.sigRefusal false = none :=
  writing .side (by decide) (by decide)
theorem test_life_cycle : Writing { up .side with otp := { (up .side).otp with life := .provisioned, topoKeys := [[1]] }, ctl := { (up .side).ctl with persist := { mgmtKeys := [1] } } }
    0x1800 1 [2] fun s1 k => lifeOf (leNat ([2] : List Byte)) = some .field ∧ s1.lifeStatus [2] k.keyHash = stOk := writing .side (by decide) (by decide)
theorem test_signature_block : (up .side).ctl.sec.nextSig + 1 + 65536 ≠ sigTotal := by decide
theorem test_quote_waits : ({ up .side with ctl := { (up .side).ctl with sec := { signing := some [] } } } : State).ctl.sec.signing = some [] := rfl

/-- A part whose active images have security version 2. -/
def floored : State := { up .side with flash := { firmware := [[1, 2], [], [2, 2], []] } }
theorem test_floor_raised : Writing floored 0x1880 3 [2] fun s1 _ => s1.otp.floor < 2 ∧ 2 ≤ fwSecurity (s1.fwImage 1 s1.ctl.sec.active1) ∧
    2 ≤ fwSecurity (s1.fwImage 2 s1.ctl.sec.active2) := writing .side (by decide) (by decide)
theorem test_floor_refused : Writing floored 0x1880 3 [3] fun s1 _ => ¬ 3 ≤ fwSecurity (s1.fwImage 1 s1.ctl.sec.active1) := writing .side (by decide) (by decide)
theorem test_floor_bars : fwSecurity (({ up .side with otp := { floor := 1 } } : State).fwImage 1 0) < 1 := by decide

theorem test_error_ack : Writing (with_ .side fun w => { w with errs := { w.errs with queue := [anError 3] } }) 0x7000 2 (leBytes 4 3) fun s1 _ =>
    ∃ r rest, s1.w.errs.queue = r :: rest ∧ r.seq = leNat (leBytes 4 3) := writing .side (by decide) ⟨_, _, rfl, by decide⟩
theorem test_log_clear : Writing (up .side) 0x7200 2 [1] fun _ _ => True := writing .side (by decide) trivial
theorem test_scan_request : Writing (with_ .side fun w => { w with scan := { w.scan with cache := 1 } }) 0x7401 1 [3, 16] fun s1 _ =>
    scanRefusal s1 (le ([3, 16] : List Byte) 0 1) (le ([3, 16] : List Byte) 1 1) = none := writing .side (by decide) (by decide)
theorem test_buddy : Writing (windowed .closed) 0x7400 1 [1, 0] fun s1 _ => s1.w.peerOk (leNat ([1, 0] : List Byte)) = true ∧ (∀ e ∈ s1.w.ctxs, e.2.ck.busy = false) ∧
    leNat ([1, 0] : List Byte) ≠ s1.w.buddy.buddy := writing .side (by decide) (by decide)
theorem test_buddy_same : Writing (windowed .closed) 0x7400 1 [255, 255] fun s1 _ => s1.w.peerOk (leNat ([255, 255] : List Byte)) = true ∧
    (∀ e ∈ s1.w.ctxs, e.2.ck.busy = false) ∧ leNat ([255, 255] : List Byte) = s1.w.buddy.buddy := writing .side (by decide) (by decide)
theorem test_ward : Writing (windowed .closed) 0x7400 2 [1, 0] fun s1 _ => s1.w.peerOk (leNat ([1, 0] : List Byte)) = true ∧ s1.w.buddy.inbound = none :=
  writing .side (by decide) (by decide)
theorem test_restore_request : Writing { windowed .closed with res := [(5, entry .saved)] } 0x7505 0x20 ([1, 0] ++ List.replicate 14 0) fun s1 _ =>
    (s1.ent 5).st = .saved ∧ s1.resuming 5 = false ∧ (s1.w.ctx 5).rst.busy = false ∧ s1.inWay 5 = [] ∧ le ([1, 0] ++ List.replicate 14 (0 : Byte)) 0 2 ≠ 0xFFFF ∧
      s1.w.directLinks (le ([1, 0] ++ List.replicate 14 (0 : Byte)) 0 2) ≠ [] ∧ le ([1, 0] ++ List.replicate 14 (0 : Byte)) 0 2 ∉ s1.w.seam.lost ∧
      allZero (sl ([1, 0] ++ List.replicate 14 (0 : Byte)) 8 8) = true :=
  writing .side (by decide) (by decide)

/-! ## The sequencer -/

/-- A record with an opcode, operation flags, operands and an immediate. -/
def rec (op opflags : Nat) (p0 p1 p2 p3 : Word := 0) (imm : Word := 0) (sync : BitVec 64 := 0) (mode : BitVec 32 := 0) : Record :=
  { op := BitVec.ofNat 8 op, flags := 0, tag := 0, mode, sync, p0, p1, p2, p3, stream := 0, opflags := BitVec.ofNat 32 opflags, imm }
/-- Scalar operation flags: subcode, Rb, Ra, Rd. -/
def sel (sub rb ra rd : Nat) : Nat := sub * 32768 + rb * 1024 + ra * 32 + rd

/-- Page tables of a context that map the first 2 MiB to 0x200000, readable and writable. -/
def tables : List Host.Cell := [(0x10000, 0x0F), (0x10002, 0x04), (0x40000, 0x0D), (0x40002, 0x20)]
/-- Core 3 of a resident context, dispatching a record at ring index 0. -/
def dispatching (r : Record) (f : Core → Core := id) (g : World → World := id) : State :=
  resident .side fun w => g (w.setCore 3 (f { w.core 3 with state := .running, buf := [(0, r)], regs := (List.range 32).map fun i => BitVec.ofNat 64 (8 * i) }))

/-- Whether a record is at the head, of a row, and good. -/
def headed (s : State) (row : Record → Bool) : Bool :=
  match s.scalarHead 3 row with
  | some (e, _, r) => !scalarBad e r
  | none => false
/-- What a command leaves in a register of core 3. -/
def regAfter (i : CoreId → Instr) (s : State) (d : Nat) : Word := match exec (i 3) s with | .next t => (t.w.core 3).regs.getD d 0 | _ => 0
/-- The next ring index that a command leaves core 3 at. -/
def nextAfter (i : CoreId → Instr) (s : State) : Nat := match exec (i 3) s with | .next t => (t.w.core 3).nextIdx | _ => 99

theorem test_seti : headed (dispatching (rec 1 (sel 0 0 0 5) (imm := 77))) (fun r => r.op.toNat == 1) = true ∧
    regAfter .seti (dispatching (rec 1 (sel 0 0 0 5) (imm := 77))) 5 = 77 ∧ regAfter .seti (dispatching (rec 1 (sel 0 0 0 0) (imm := 77))) 0 = 0 := by decide
theorem test_addi : headed (dispatching (rec 2 (sel 0 0 3 5) (imm := -1))) (fun r => r.op.toNat == 2) = true ∧
    regAfter .addi (dispatching (rec 2 (sel 0 0 3 5) (imm := -1))) 5 = 23 := by decide
/-- An ALU record on s4 = −16 and s3 = 24. -/
def alu (sub : Nat) : State := dispatching (rec 3 (sel sub 3 4 5)) fun k => { k with regs := k.regs.set 4 (-16) }
theorem test_alu_heads : (List.range 13).all (fun sub => headed (alu sub) fun r => r.op.toNat == 3 && r.sub == sub) = true := by decide
theorem test_alu_values :
    [regAfter .aluAdd (alu 0) 5, regAfter .aluSub (alu 1) 5, regAfter .aluAnd (alu 2) 5, regAfter .aluOr (alu 3) 5, regAfter .aluXor (alu 4) 5,
     regAfter .aluShl (alu 5) 5, regAfter .aluShr (alu 6) 5, regAfter .aluSar (alu 7) 5, regAfter .aluMul (alu 8) 5, regAfter .aluMin (alu 9) 5,
     regAfter .aluMax (alu 10) 5, regAfter .aluSlt (alu 11) 5, regAfter .aluSltu (alu 12) 5] =
    [8, 0xFFFFFFFFFFFFFFD8, 0x10, 0xFFFFFFFFFFFFFFF8, 0xFFFFFFFFFFFFFFE8, 0xFFFFFFFFF0000000, 0xFFFFFFFFFF, 0xFFFFFFFFFFFFFFFF,
     0xFFFFFFFFFFFFFE80, 0xFFFFFFFFFFFFFFF0, 24, 1, 0] := by decide
/-- LDS and STS at the last eight bytes of the scratchpad. -/
def scratch (op : Nat) : State :=
  dispatching (rec op (sel 0 5 3 6) (imm := 0x5FFE0)) fun k => { k with sp := { cells := [(0x5FFF8, 1), (0x5FFFF, 0x80)] } }
theorem test_lds : headed (scratch 4) (fun r => r.op.toNat == 4) = true ∧ regAfter .lds (scratch 4) 6 = 0x8000000000000001 := by decide
theorem test_sts : headed (scratch 5) (fun r => r.op.toNat == 5) = true ∧
    (match exec (.sts 3) (scratch 5) with | .next t => (t.w.core 3).sp.cells | _ => []) = [(0x5FFF8, 40)] := by decide

theorem test_nop : headed (dispatching (rec 0 0)) (fun r => r.op.toNat == 0) = true ∧ nextAfter .nop (dispatching (rec 0 0)) = 1 := by decide
/-- A WAIT for counter 2 to reach 3, which it has. -/
def waiting (ctr : BitVec 16) : State := dispatching (rec 8 0 (sync := 0x8400060000000000)) fun k => { k with ctrs := k.ctrs.set 2 ctr }
theorem test_wait : headed (waiting 3) (fun r => r.op.toNat == 8) = true ∧ headed (waiting 2) (fun r => r.op.toNat == 8) = false := by decide
theorem test_br_heads : (List.range 5).all (fun sub => headed (dispatching (rec 6 (sel sub 0 3 0) (imm := 9))) fun r => r.op == 6 && decide (r.sub ≤ 4)) = true := by decide
theorem test_br_taken : (List.range 5).map (fun sub => nextAfter .br (dispatching (rec 6 (sel sub 0 3 0) (imm := 9)))) = [9, 1, 9, 1, 9] := by decide
theorem test_loop : headed (dispatching (rec 7 (sel 0 0 3 0) (imm := 0xFFFFFFFF))) (fun r => r.op.toNat == 7) = true ∧
    nextAfter .loop (dispatching (rec 7 (sel 0 0 3 0) (imm := 0xFFFFFFFF))) = 0xFFFFFFFF := by decide

/-- A SIGNAL of counter 1 by 4, with the load queue named, and an engine record in that queue or not. -/
def signalling (busy : Bool) : State :=
  dispatching (rec 9 0 (imm := 1) (sync := 0x10400010000)) fun k =>
    { k with load := if busy then [{ id := 7, cmd := rec 0x20 0, ind := [], thr := 0, idx := 0 }] else [] }
theorem test_signal_raised : headed (signalling false) (fun r => r.op.toNat == 9) = true ∧ ((signalling false).w.core 3).named 1 = [] := by decide
theorem test_signal_kept : headed (signalling true) (fun r => r.op.toNat == 9) = true ∧ ((signalling true).w.core 3).named 1 ≠ [] := by decide
theorem test_fence : headed (dispatching (rec 10 0 (imm := 15))) (fun r => r.op.toNat == 10) = true := by decide
theorem test_event_record : headed (dispatching (rec 0x0D 0 (imm := 5))) (fun r => r.op.toNat == 0x0D) = true := by decide
theorem test_end_record : headed (dispatching (rec 0x0E 0)) (fun r => r.op.toNat == 0x0E) = true := by decide
/-- STEP with a number, in a context at step 4. -/
def stepping (n : Nat) : State := dispatching (rec 0x0C 0 (imm := BitVec.ofNat 64 n)) id fun w => w.setCtx 5 { w.ctx 5 with step := 4 }
theorem test_step_heads : [4, 5, 3].all (fun n => headed (stepping n) fun r => r.op.toNat == 0x0C) = true := by decide
theorem test_step_advances : ((stepping 5).w.ctx 5).step < 5 ∧ ((stepping 5).w.ctx 5).ck.st ≠ .reading ∧ (stepping 5).w.snap.st ≠ .armed ∧
    [4, 3].map (fun n => match exec (.stepRec 3) (stepping n) with | .next t => (t.w.ctx 5).step | _ => 0) = [4, 4] := by decide

/-- STEP under an armed snapshot of its context. -/
theorem test_step_armed : let s := (stepping 5).withW { (stepping 5).w with snap := { (stepping 5).w.snap with st := .armed, ctx := 5, step := 5 } }
    headed s (fun r => r.op.toNat == 0x0C) = true ∧ (s.w.ctx 5).step < 5 ∧ (s.w.ctx 5).ck.st ≠ .reading ∧ s.w.snap.st = .armed ∧ s.w.snap.ctx = 5 ∧
      s.w.snap.step ≤ 5 := by decide
/-- A slot of the statistics with one entry, 9, in its amax history: a fold of 2 and 1/2 makes it F32 2, and adds to the counts (R53). -/
theorem test_fold : let w : World := { (up .side).w with hbm := { mem := { cells := [(statBase 5 7, 1), (statBase 5 7 + 64, 9)] } } }
    let v : Conv := { rng := { positional := true, seed := 0, tid := 0, gen := {} }, retries := 3, clamped := 1, amaxs := [⟨false, 1, 1⟩, ⟨false, 1, -1⟩] }
    w.hbm.busBad = [] ∧ le (w.hbmBytes (statBase 5 7) 320) 0 4 = 1 ∧ le (w.hbmBytes (statBase 5 8) 320) 0 4 = 0 ∧
      (w.foldInto 5 7 v).hbm.mem.cells = [(statBase 5 7, 1), (statBase 5 7 + 4, 3), (statBase 5 7 + 12, 1), (statBase 5 7 + 67, 0x40)] := by decide +kernel
/-- A DMAGO action on channel 2. -/
def dmago (action : Nat) (c : Chan) (p0 : Word := 0) : State := dispatching (rec 0x0B 0 (p0 := p0) (imm := BitVec.ofNat 64 (8 * action + 2))) id fun w => w.setChan 2 c
/-- Whether a DMAGO record is at the head and good. -/
def dmagoHeaded (s : State) (action : Nat) (start : Bool) : Bool :=
  match s.scalarHead 3 (isDmago action) with
  | some (e, _, r) => !dmagoBad e r start
  | none => false
theorem test_dmago_start : dmagoHeaded (dmago 0 {} 0x4000000000000040) 0 true = true ∧ refSpace 0x4000000000000040 ≤ 1 ∧
    refOk 0x4000000000000040 0 64 = true ∧ ((dmago 0 {} 0x4000000000000040).w.chan 2).st = .idle := by decide
theorem test_dmago_resume : dmagoHeaded (dmago 1 { st := .halted }) 1 false = true ∧ ((dmago 1 { st := .halted }).w.chan 2).st = .halted := by decide
theorem test_dmago_pause : dmagoHeaded (dmago 2 { st := .running }) 2 false = true ∧
    (dmago 2 { st := .running }).w.chanQuiet { st := .running } = true := by decide
/-- A channel with bytes of a row left to move. -/
def moving : Chan := { st := .running, have_ := true, rowLeft := 8, rowsLeft := 1 }
theorem test_dmago_pause_waits : dmagoHeaded (dmago 2 moving) 2 false = true ∧ (dmago 2 moving).w.chanQuiet moving = false := by decide
theorem test_dmago_skip : dmagoHeaded (dmago 3 { st := .halted }) 3 false = true := by decide
theorem test_dmago_abort : dmagoHeaded (dmago 4 { st := .paused }) 4 false = true := by decide

/-- Core 3 with an empty fetch buffer, one record under the tail. -/
def fetching : State := dispatching (rec 0 0) (fun k => { k with buf := [] }) fun w =>
  { w.setCtx 5 { w.ctx 5 with tail := 1 } with hbm := { mem := { cells := tables ++ [(0x220000, 1)] } } }
theorem test_fetch : ∃ e pa x, fetching.dispatching 3 = some e ∧ (fetching.w.core 3).buf = [] ∧ 0 < sub32 (fetching.w.ctx e.n).tail 0 ∧
    sub32 (fetching.w.ctx e.n).tail 0 ≤ 2 ^ 31 ∧
    (fetching.w.walker 0).xlate fetching.w.hbm.mem e.r.root e.n (ringAddr e.r e.j 0) false = (.ok pa, x) ∧ pa = 0x220000 ∧
    (fetching.w.putWalker 0 e.n x).hbmPoison pa 64 = false ∧ (fetching.w.putWalker 0 e.n x).busHits [pa / 64] = false :=
  ⟨_, _, _, rfl, by decide, by decide, by decide, rfl, by decide, by decide, by decide⟩
/-- A fetch that fails on the bus stops its core, is counted for its stack, and is a record (R164, R330; 13_hbm 0x2820 + t:05). -/
theorem test_command_fetch_bus_error : (match exec (.commandFetch 3) (fetching.withW { fetching.w with hbm := { fetching.w.hbm with busBad := [0x8800] } }) with
    | .next t => (t.w.core 3).failStatus == stBusError && (t.w.core 3).state == .stopped && (t.w.stack (stackOf 0x220000)).bus == 1 && sumN t.w.errs.raised == 1
    | _ => false) = true := by decide
/-- The third bus error of a stack within a second is also a FATAL record (R330). -/
theorem test_third_bus_error : sumN (([5, 6, 7].foldl (fun (w : World) b => w.busFail none b false)
    { fetching.w with hbm := { fetching.w.hbm with busBad := [5, 6, 7] } }).errs.raised) = 4 := by decide
theorem test_dispatch : ∃ e, (dispatching (rec 0x20 0)).dispatching 3 = some e ∧ queueOf 0x20 = some .load ∧
    ((dispatching (rec 0x20 0)).w.core 3).load.length < queueCap .load ∧ ((dispatching (rec 0x20 0)).w.core 3).inFlight < 16 :=
  ⟨_, rfl, by decide, by decide, by decide⟩
/-- Core 3 with one entry of the vector queue. -/
def queued (r : Record) (st : EntrySt := .waiting) : State :=
  resident .side fun w => w.setCore 3 { w.core 3 with state := .running, vector := [{ id := 0, cmd := r, ind := [0, 0, 0, 0, 0], thr := 3, idx := 0, st }] }
theorem test_complete : ((queued (rec 0x40 0) (.done 0 0 0)).env 3).isSome = true ∧
    ∃ t0 rest, ((queued (rec 0x40 0) (.done 0 0 0)).w.core 3).queue .vector = t0 :: rest ∧ t0.st = .done 0 0 0 ∧ ∀ x ∈ rest, x.id ≠ t0.id :=
  ⟨by decide, _, _, rfl, rfl, by decide⟩
theorem test_signal_delivered : let s := resident .side fun w => { w with signals := [{ src := 3, cores := [3, 4], ctr := 1, inc := 2 }] }
    ∃ x, s.w.signals[0]? = some x ∧ (s.w.signals.take 0).any (fun y => y.src == x.src && y.ctr == x.ctr && y.cores.any fun c => decide (c ∈ x.cores)) = false ∧ (∀ d ∈ x.cores, s.w.asleep (d / 16) = false) ∧
      x.cores.Nodup := ⟨_, rfl, by decide, by decide, by decide⟩

theorem test_wait_expires : let s := queued (rec 0x40 0 (sync := 0x8400060000000000))
    ∃ e, s.env 3 = some e ∧ e.st = .resident ∧ s.w.asleep 0 = false ∧ s.w.arrived 3 = none ∧
      ∃ x, firstWaiting .vector ((s.w.core 3).queue .vector) = some x ∧ (s.w.core 3).entryReady x = false ∧
        s.w.lacksUnit s.ctl.sec.units e x = false := ⟨_, rfl, by decide, by decide, by decide, _, rfl, by decide, by decide⟩
theorem test_sequencer_wait_expires : let s := waiting 2
    ∃ e idx r rest, s.dispatching 3 = some e ∧ (s.w.core 3).buf = (idx, r) :: rest ∧ isScalarOp r.op.toNat = true ∧ (s.w.core 3).waitReady r = false :=
  ⟨_, _, _, _, rfl, rfl, by decide, by decide⟩
theorem test_wait_wraps : waitHolds 0xFFFF 0x8000 = true ∧ waitHolds 0x7FFF 0x8000 = false ∧ waitHolds 2 0xFFFF = true := by decide
theorem test_ring_slot : cfgOk (cfg 0) = true ∧ ringAddr (entry .resident) 3 65 = 0x20040 := by decide

/-! ## The engines -/

/-- The bytes of a tensor descriptor of rank 1 or 2 (R129–R136): space, format, base, two sizes. -/
def descBytes (space fmt base n0 n1 : Nat) (rank : Nat := 2) (w7 : Nat := 0) : List Byte :=
  leBytes 8 (space * 2 ^ 61 + fmt * 2 ^ 56 + rank * 2 ^ 53 + base) ++ leBytes 8 (n0 - 1 + (n1 - 1) * 2 ^ 20) ++ leBytes 8 0
    ++ leBytes 8 (n0 - 1 + (n1 - 1) * 2 ^ 20) ++ leBytes 8 0 ++ leBytes 8 (if rank = 1 then 0 else 64) ++ leBytes 8 0 ++ leBytes 8 w7
/-- Memory cells from pieces. -/
def put (l : List (Nat × List Byte)) : List Host.Cell := l.foldl (fun m x => Cells.write m x.1 x.2) []
/-- A reference to a scratchpad address. -/
def ref (a : Nat) : Word := BitVec.ofNat 64 (0x4000000000000000 + a)
/-- A resident context whose core 3 has one waiting record, with pieces of its scratchpad, Weight Store and Partial-Sum Store. -/
def engine (q : Queue) (r : Record) (sp : List (Nat × List Byte)) (ws ps : List (Nat × List Byte) := []) (f : World → World := id) : State :=
  resident .side fun w => f (w.setCore 3 (({ w.core 3 with
    state := .running, sp := { cells := put sp }, ws := { cells := put ws }, ps := { cells := put ps } } : Core).setQueue q
      [{ id := 0, cmd := r, ind := [0, 0, 0, 0, 0], thr := 0, idx := 0 }]))
/-- What the run of the record at the start of a queue leaves in a memory of core 3, where the record is of a row and its run ends with a
continuing status. -/
def result (s : State) (q : Queue) (row : Record → Bool) (run : State → World → Env → Entry → Run) (m : CoreMem) (a n : Nat) : Option Nat :=
  match s.starting 3 q with
  | some (e, t) => let r := (run s s.w e t).overBus s.w 3; if row t.cmd && continuing r.st then some (leNat (Cells.read ((r.w.core 3).mem m).cells a n)) else none
  | none => none
/-- Whether the record starts, is of a row, and its run ends with a continuing status. -/
def completes (s : State) (q : Queue) (row : Record → Bool) (run : State → World → Env → Entry → Run) : Bool :=
  (result s q row run .scratch 0 0).isSome
/-- A SCREEN on a part without the unit goes before its wait expires (R523). -/
theorem test_absent_unit_before_wait : let s := engine .matrix (rec 0x39 0 (sync := 0x8400060000000000)) []
    (match exec (.screen 3) ({ s with ctl := { s.ctl with sec := { s.ctl.sec with units := 0 } } }) with
      | .next t => (t.w.core 3).matrix.map (·.st) | _ => []) = [.done stUnitAbsent 0 0] := by decide
/-- VEW on a = 2, b = 3, c = 1 in F32, the result at 0x10C0. -/
def vew (sub : Nat) : State :=
  engine .vector (rec 0x40 sub (ref 0x40) (if vewUnary sub then 0 else ref 0x80) (if vewTernary sub then ref 0xC0 else 0) (ref 0x100)
      (if sub = 8 then 0x100000000 else 0))
    [(0x40, descBytes 1 0 0x1000 1 1), (0x80, descBytes 1 0 0x1040 1 1), (0xC0, descBytes 1 0 0x1080 1 1), (0x100, descBytes 1 0 0x10C0 1 1),
     (0x1000, leBytes 4 0x40000000), (0x1040, leBytes 4 0x40400000), (0x1080, leBytes 4 0x3F800000)]
/-- By hand: 2 + 3, 2 − 3, 2 × 3, 2 × 3 + 1, max, min, |2|, −2, 2 × 2^1, 1/2, √2, 1/√2, e², ln 2, tanh 2, σ(2), erf 2, c is not 0 so a, 2 > 3
is false, min(max(2, −3), 3). -/
theorem test_vew_values :
    (List.range 20).map (fun sub => result (vew sub) .vector (vrow 0x40 sub) (fun _ => runVew) .scratch 0x10C0 4) =
    [0x40A00000, 0xBF800000, 0x40C00000, 0x40E00000, 0x40400000, 0x40000000, 0x40000000, 0xC0000000, 0x40800000, 0x3F000000, 0x3FB504F3, 0x3F3504F3,
     0x40EC7326, 0x3F317218, 0x3F76CA83, 0x3F617BEB, 0x3F7ECD71, 0x40000000, 0, 0x40000000].map some := by decide +kernel

/-- VRED over the row −2, 3 of F32, the results at 0x10C0. -/
def vred (sub : Nat) : State :=
  engine .vector (rec 0x41 sub (ref 0x40) 0 0 (ref 0x100))
    [(0x40, descBytes 1 0 0x1000 2 1), (0x100, descBytes 1 0 0x10C0 (if sub = 4 then 2 else 1) 1), (0x1000, leBytes 4 0xC0000000 ++ leBytes 4 0x40400000)]
theorem test_vred_values :
    (List.range 6).map (fun sub => result (vred sub) .vector (vrow 0x41 sub) (fun _ => runVred) .scratch 0x10C0 (if sub = 4 then 8 else 4)) =
    [0x3F800000, 0x40400000, 0xC0000000, 0x41500000, 0x40C800003F000000, 0x40400000].map some := by decide +kernel

/-- VCONV of a PS36 zero into BF16. -/
def vconv : State := engine .vector (rec 0x42 0 (ref 0x40) 0 0 (ref 0x100)) [(0x40, descBytes 1 12 0x1000 1 1), (0x100, descBytes 1 1 0x10C0 1 1)]
theorem test_vconv : completes vconv .vector (fun r => r.op.toNat == 0x42) (fun _ => runVconv) = true := by decide +kernel
/-- VRAND of one element. -/
def vrand (sub : Nat) : State :=
  engine .vector (rec 0x43 sub 0 0 0 (ref 0x100) 0x80000000) [(0x100, descBytes 1 (if sub = 0 then 14 else 0) 0x10C0 1 1)]
/-- With seed, stream, position and draw index 0 the word of BITS is the known answer of R254. -/
theorem test_vrand_known_answer :
    result (vrand 0) .vector (vrow 0x43 0) (fun _ => runVrand) .scratch 0x10C0 4 = some 0x348372C1 := by decide +kernel
theorem test_vrand : [1, 2].all (fun sub => completes (vrand sub) .vector (vrow 0x43 sub) fun _ => runVrand) = true := by decide +kernel
theorem test_vector_refused : continuing (runVew (vew 20).w { c := 3, n := 5, r := entry .resident, st := .resident }
    { id := 0, cmd := rec 0x40 20, ind := [], thr := 0, idx := 0 }).st = false := by decide

/-- A record of the matrix queue. -/
def matrix (r : Record) (sp : List (Nat × List Byte)) (ws ps : List (Nat × List Byte) := []) : State := engine .matrix r sp ws ps
/-- MATMUL of the row 1, 2 and the column 3, 4 in F32, added up in the Partial-Sum Store and converted to F32. -/
def matmul : State :=
  matrix (rec 0x30 0 (ref 0x40) (ref 0x80) (ref 0xC0) (ref 0x100))
    [(0x40, descBytes 1 0 0x1000 2 1), (0x80, descBytes 1 0 0x1040 1 2), (0xC0, descBytes 3 12 0 1 1), (0x100, descBytes 1 0 0x10C0 1 1),
     (0x1000, leBytes 4 0x3F800000 ++ leBytes 4 0x40000000), (0x1040, leBytes 4 0x40400000), (0x1080, leBytes 4 0x40800000)]
theorem test_matmul : result matmul .matrix (fun r => r.op.toNat == 0x30) (fun _ => runMatmul none) .scratch 0x10C0 4 = some 0x41300000 := by
  decide +kernel

/-- A destination of two containers in the Partial-Sum Store, each at its own address. -/
theorem test_product_destination : let d := Desc.ofBytes (descBytes 3 12 0 2 1)
    d.fmt = 12 ∧ d.writtenCoords.length = 2 ∧
      ∀ x ∈ d.writtenCoords, ∀ y ∈ d.writtenCoords, d.bitAddr y % 64 = 0 ∧ (y ≠ x → d.bitAddr y ≠ d.bitAddr x) := by decide +kernel

/-- A pool of eight granules with one list of one tile: BF16 weights 2 at (0, 0) and 3 at (1, 1) of a 2 × 2 matrix. -/
def pool : List (Nat × List Byte) :=
  [(0, leBytes 2 1 ++ leBytes 2 0 ++ leBytes 2 8 ++ leBytes 2 4 ++ leBytes 2 1), (16, leBytes 2 2), (256, [0x0F]),
   (512, leBytes 1 1 ++ leBytes 1 0 ++ leBytes 2 0 ++ leBytes 2 1 ++ leBytes 2 1 ++ leBytes 4 0 ++ leBytes 4 0 ++ leBytes 4 2 ++ leBytes 4 2
      ++ leBytes 4 0 ++ leBytes 4 2 ++ leBytes 2 0 ++ leBytes 2 1), (576, leBytes 2 3),
   (768, leBytes 1 1 ++ leBytes 1 2 ++ leBytes 2 2 ++ leBytes 1 0 ++ leBytes 1 1), (800, leBytes 3 (65 * 4096)), (808, leBytes 2 0x4000 ++ leBytes 2 0x4040)]
/-- The list's reference. -/
def listRef : Word := 0x8000000000000200
/-- SPMM and SPMMT of the row 1, 1. -/
def spmm (op : Nat) : State :=
  matrix (rec op 0 (ref 0x40) listRef (ref 0xC0) (ref 0x100))
    [(0x40, descBytes 1 1 0x1000 2 1), (0xC0, descBytes 3 12 0 2 1), (0x100, descBytes 1 0 0x10C0 2 1), (0x1000, leBytes 4 0x3F803F80)] pool
theorem test_spmm : result (spmm 0x31) .matrix (fun r => r.op.toNat == 0x31) (fun s => runSparse false s.ctl.sec.units none) .scratch 0x10C0 8 =
    some 0x4040000040000000 := by decide +kernel
theorem test_spmmt : completes (spmm 0x32) .matrix (fun r => r.op.toNat == 0x32) (fun s => runSparse true s.ctl.sec.units none) = true := by decide +kernel
/-- SDDMM of two columns at the stored positions. -/
def sddmm : State :=
  matrix (rec 0x33 0 (ref 0x40) listRef (ref 0x2000) 0 (ref 0x80))
    [(0x40, descBytes 1 1 0x1000 1 2), (0x80, descBytes 1 1 0x1080 1 2)] pool
theorem test_sddmm : completes sddmm .matrix (fun r => r.op.toNat == 0x33) (fun _ => runSddmm none) = true := by decide +kernel
/-- FULL of one stream of one pair into eight containers. -/
def full : State :=
  matrix (rec 0x34 0 (ref 0x40) (ref 0x2000) 0 0 0x800000000) [(0x40, leBytes 8 0x4000000000001000 ++ leBytes 4 1), (0x1000, leBytes 4 3)]
theorem test_full : completes full .matrix (fun r => r.op.toNat == 0x34) (fun _ => runFull) = true := by decide +kernel
/-- Whether a record is a mask record of a kind. -/
def isKind (op kind : Nat) (r : Record) : Bool := r.op.toNat == op && r.opflags.toNat / 16 % 8 == kind
/-- PRUNE below 2.5, or of the lowest weight of the tile or of each row. -/
def prune (kind : Nat) : State := matrix (rec 0x35 (16 * kind) 0 listRef 0 0 (if kind = 0 then 0x4020000000000000 else 0x100000000)) [] pool
/-- The tile below 2.5 keeps its second weight, in the lowest free granule. -/
theorem test_prune_thresh : result (prune 0) .matrix (isKind 0x35 0) (fun _ => runPrune) .weight 576 2 = some 4 := by decide +kernel
theorem test_prune : [1, 2].all (fun kind => completes (prune kind) .matrix (isKind 0x35 kind) fun _ => runPrune) = true := by decide +kernel
/-- A mask record that drops the tile's weight at (0, 0) meets what a rewrite asks, and its new Batt goes into granule 2. -/
theorem test_tile_rewritten : let w := (prune 0).w
    (match (w.readList { c := 3, n := 5, r := entry .resident, st := .resident } listRef 0).1 with
     | .ok l =>
       let m := (w.core 3).ws
       (match l.batt m 0 with
        | .ok b =>
          let new : Batt := { b with w := pruneKeep 0 0 (decElem 0 0x40200000) b, gen := add32 b.gen 1 }
          !l.tainted m 0 && b.nnz == 2 && new.nnz == 1 && (b.w.map (·.1)).length == 2 && l.freeRun m.cells (new.encode.length / 256) == some 4 &&
            decide (l.ordbase + (leNat (Cells.read m.cells (256 * l.gran + 28) 4) + new.nnz - b.nnz) ≤ 2 ^ 32) &&
            [(l.entryAddr 0, 2), (l.mapAt.1, l.mapAt.2), (256 * l.pool + 6, 2), (256 * l.gran + 28, 4)].all fun p =>
              decide (p.1 + p.2 ≤ 256 * (l.pool + 4) ∨ 256 * (l.pool + 4) + new.encode.length ≤ p.1)
        | _ => false)
     | _ => false) = true := by decide +kernel
/-- REGROW from a candidate list, or at random in the tile or in each row. -/
def regrow (kind : Nat) : State :=
  matrix (rec 0x36 (16 * kind) (if kind = 0 then ref 0x40 else 0) listRef 0 0 0x100000000)
    [(0x40, leBytes 4 0 ++ leBytes 4 1 ++ leBytes 2 1 ++ leBytes 1 0 ++ leBytes 1 1 ++ leBytes 2 2), (0x80, leBytes 4 1)] pool
theorem test_regrow : (List.range 3).all (fun kind => completes (regrow kind) .matrix (isKind 0x36 kind) fun _ => runRegrow) = true := by decide +kernel
/-- PROBE for the best absent position of the tile or of each row. -/
def probe (kind : Nat) : State :=
  matrix (rec 0x37 (16 * kind) (ref 0x40) listRef (ref 0x80) (ref 0x2000) 1)
    [(0x40, descBytes 1 1 0x1000 1 2), (0x80, descBytes 1 1 0x1080 1 2)] pool
theorem test_probe : (List.range 2).all (fun kind => completes (probe kind) .matrix (isKind 0x37 kind) fun _ => runProbe) = true := by decide +kernel
/-- SCREEN of two FP4 neurons for the better one. -/
def screen : State :=
  matrix (rec 0x39 0 (ref 0x40) (ref 0x80) 0 (ref 0x2000) 1)
    [(0x40, descBytes 1 5 0x1000 2 1 2 0x4000000000003000), (0x80, descBytes 2 5 0 2 2 2 0x4000000000003040)]
theorem test_screen : completes screen .matrix (fun r => r.op.toNat == 0x39) (fun s => runScreen s.ctl.sec.units) = true := by decide +kernel
/-- PREDICT of one neuron from a hidden vector of 16. -/
def predict (mode : Nat) : State :=
  matrix (rec 0x38 (4 * mode + 16) (ref 0x40) 0 (ref 0x80) (ref 0x2000) 1)
    [(0x40, descBytes 1 1 0x1000 16 1), (0x80, descBytes 2 3 0 1 16 2 0x4000000000003040)]
theorem test_predict : (List.range 2).all (fun mode => ((predict mode).w.ctx 5).predWait == false &&
    completes (predict mode) .matrix (fun r => r.op.toNat == 0x38 && r.opflags.toNat / 4 % 4 == mode) fun s => runPredict s.ctl.sec.units) = true := by
  decide +kernel

/-- A CROWN record of the group of one core, of two elements. -/
def crown (kind : Nat) (st : EntrySt := .waiting) (g : World → World := id) : State :=
  resident .side fun w => g (w.setCore 3 { w.core 3 with
    state := .running, matrix := [{ id := 0, cmd := rec 0x3A kind (ref 0x1000) (ref 0x2000) 0 0 0x200000000, ind := [0, 0, 0, 0, 0], thr := 0, idx := 0, st }] })
/-- What an arrival at its group leaves. -/
def arrives (s : State) (t : Entry) : World := let w := s.w.softStart 3; w.setCore 3 ((w.core 3).mark .matrix t.id (.arrived 0))
/-- Whether every group that a core completes, and that a record of it names, agrees. -/
def noClash (w : World) : Bool := (List.range 11).all fun g =>
  match w.crownGroup (crownFirst 3 g) g with | some l => !(l.any fun x => x.2.1.cmd.slog == g) || crownAgree l | none => true
theorem test_crown_arrives : (List.range 3).all (fun kind =>
    match (crown kind).starting 3 .matrix with
    | some (e, t) => t.cmd.op.toNat == 0x3A && crownKind t.cmd == kind && !crownBad e t && noClash (arrives (crown kind) t)
    | none => false) = true := by decide +kernel
/-- Core 2 has arrived for the group of cores 2 and 3 with another tag than core 3. -/
theorem test_crown_clash : (List.range 3).all (fun kind =>
    let r : Record := rec 0x3A kind (ref 0x1000) (ref 0x2000) 0 0 0x200000000
    let entry (imm : Word) (st : EntrySt) : Entry := { id := 0, cmd := { r with mode := 0x40000, imm }, ind := [0, 0, 0, 0, 0], thr := 0, idx := 0, st }
    let s := crown kind .waiting fun w => (w.setCore 2 { w.core 2 with matrix := [entry 0x200010000 (.arrived 0)] }).setCore 3 { w.core 3 with
      matrix := [entry 0x200000000 .waiting] }
    match s.starting 3 .matrix with
    | some (e, t) => !crownBad e t && ((arrives s t).crownClash 3).isSome
    | none => false) = true := by decide +kernel
theorem test_crown_starts : let s := crown 0 (.arrived 0)
    ∃ e t acc l, s.env 3 = some e ∧ e.st = .resident ∧ s.w.snapHolds e.n = false ∧ s.w.arrived 3 = some (t, acc) ∧ s.w.crownGroup (crownFirst 3 t.cmd.slog) t.cmd.slog = some l ∧
      crownAgree l = true ∧ ∀ p ∈ s.w.crown, p.first ≠ crownFirst 3 t.cmd.slog := ⟨_, _, _, _, rfl, rfl, by decide, rfl, rfl, by decide, by decide⟩
theorem test_crown_ends : let s := crown 0 (.arrived 0) fun w => { w with crown := [{ first := 3, slog := 0, started := true }] }
    ∃ e p l, s.env 3 = some e ∧ s.w.crown.find? (fun p => p.started && decide (3 ∈ crownCores p.first p.slog)) = some p ∧
      s.w.crownGroup p.first p.slog = some l ∧ (∀ x ∈ l, crownBad { e with c := x.1 } x.2.1 = false) ∧
      crownSkew p.slog (l.map fun x => crownOffset x.2.1.cmd) ≠ none := ⟨_, _, _, rfl, rfl, rfl, by decide, by decide⟩

/-- LOAD of a BF16 1.5 from HBM into the scratchpad as F32. -/
def load : State :=
  engine .load (rec 0x20 0 (ref 0x40) (ref 0x80)) [(0x40, descBytes 0 1 0x1000 1 1), (0x80, descBytes 1 0 0x10C0 1 1)] [] []
    fun w => { w with hbm := { mem := { cells := tables ++ [(0x201000, 0xC0), (0x201001, 0x3F)] } } }
theorem test_load : result load .load (fun r => r.op.toNat == 0x20) (fun _ w e t => w.runCopy loadKind e t false) .scratch 0x10C0 4 = some 0x3FC00000 := by
  decide +kernel
/-- Whether a record is a LOADW record of a mode. -/
def isLoadw (mode : Nat) (r : Record) : Bool := r.op.toNat == 0x21 && r.opflags.toNat % 4 == mode
/-- LOADW TILES of one F32 word. -/
def loadwTiles : State :=
  engine .load (rec 0x21 0 (ref 0x40) (ref 0x80)) [(0x40, descBytes 1 0 0x1000 1 1), (0x80, descBytes 2 0 0x10C0 1 1), (0x1000, leBytes 4 0x3FC00000)]
theorem test_loadw_tiles : result loadwTiles .load (isLoadw 0) (fun _ w e t => w.runCopy tilesKind e t (w.ctx e.n).wsRo) .weight 0x10C0 4 = some 0x3FC00000 := by
  decide +kernel
/-- LOADW POOL of a pool of four granules whose one Batt is EMPTY. -/
def loadwPool : State :=
  engine .load (rec 0x21 1 (ref 0x40) 0x8000000000000000)
    [(0x40, descBytes 1 15 0x1000 1024 1 1), (0x1000, leBytes 2 1 ++ leBytes 2 0 ++ leBytes 2 4 ++ leBytes 2 0 ++ leBytes 2 1), (0x1010, leBytes 2 2),
     (0x1100, [0x0F]), (0x1200, leBytes 1 1 ++ leBytes 1 0 ++ leBytes 2 0 ++ leBytes 2 1 ++ leBytes 2 1 ++ leBytes 8 0 ++ leBytes 4 2 ++ leBytes 4 2
      ++ leBytes 8 0 ++ leBytes 2 0 ++ leBytes 2 1), (0x1240, leBytes 2 3), (0x1300, leBytes 1 1 ++ leBytes 4 0 ++ leBytes 1 1)]
theorem test_loadw_pool : result loadwPool .load (isLoadw 1) (fun _ => runPool) .weight 0x240 2 = some 3 := by decide +kernel
/-- LOADW VALUES of 1.5 and 2.5 into the two weights of a list. -/
def loadwValues : State :=
  engine .load (rec 0x21 2 (ref 0x40) listRef) [(0x40, descBytes 1 0 0x1000 2 1 1), (0x1000, leBytes 4 0x3FC00000 ++ leBytes 4 0x40200000)] pool
theorem test_loadw_values : result loadwValues .load (isLoadw 2) (fun _ => runValues) .weight 808 4 = some 0x40203FC0 := by decide +kernel

/-- STORE of one F32 word into the Partial-Sum Store, or into window 2 of core 7 of part 9. -/
def store (remote : Bool) : State :=
  engine .store (rec 0x28 0 (ref 0x40) (ref 0x80))
    [(0x40, descBytes 1 0 0x1000 1 1), (0x80, if remote then descBytes 4 0 0x40 1 1 2 (9 * 2 ^ 48 + 7 * 2 ^ 32 + 2) else descBytes 3 0 0x40 1 1),
     (0x1000, leBytes 4 0x3FC00000)] [] [] fun w =>
    { w with seam := { w.seam with rank := 0, credits := [{ rank := 9, link := 4, core := 7, win := 2, slot := 1, gen := 0 }] } }
theorem test_store : (match (store false).starting 3 .store with | some (e, t) => (remoteDest (store false).w e t).isNone | none => false) = true ∧
    result (store false) .store (fun r => r.op.toNat == 0x28) (fun _ w e t => w.runCopy storeKind e t false) .psum 0x40 4 = some 0x3FC00000 := by
  decide +kernel
theorem test_store_remote : (match (store true).starting 3 .store with
    | some (e, t) =>
      t.cmd.op.toNat == 0x28 && (match remoteDest (store true).w e t with
        | some d => !(store true).w.licenceBars (remoteWindow d).1 && (match (store true).w.prepareCopy storeKind e t false with
          | .ok (x, w) => decide ((x.d.d.extent none).hi ≤ 4096) && !x.moves.isEmpty && (w.seam.credits.find? fun y =>
              y.rank == (remoteWindow d).1 && y.core == (remoteWindow d).2.1 && y.win == (remoteWindow d).2.2).isSome &&
              !World.busMet (store true).w (w.readSpans e x.s.pages x.s.d.space true (x.srcSpans x.moves))
          | .error _ => false)
        | none => false)
    | none => false) = true := by decide +kernel
/-- Every slot size that a window can have takes 4,096 bytes (R120). -/
theorem remote_slot_least (c : Credit) : 4096 ≤ remoteSlot c := Nat.le_mul_of_pos_right _ (Nat.two_pow_pos _)

/-- ATOMIC on word 3 of a block of the own scratchpad, which holds 5: CAS against 5, FAC, CAC below 6. -/
def atomic (op : Nat) : State :=
  resident .side fun w => w.setCore 3 { w.core 3 with
    state := .running, sp := { cells := put [(0x100C, leBytes 4 5)] }
    store := [{ id := 0, cmd := rec 0x29 (op * 2 ^ 28 + 3 * 2 ^ 9) (ref 0x1000) 0 0 0 2, ind := [0, 0, 0, 0, if op = 2 then 6 else 5], thr := 0, idx := 0 }] }
theorem test_atomic : (List.range 3).all (fun op =>
    match (atomic op).starting 3 .store with
    | some (e, t) =>
      t.cmd.op.toNat == 0x29 && atOp t.cmd == op && !atomicBad e t && !(((atomic op).w.ctx e.n).wsRo && refSpace t.cmd.p0 == 2) && atTarget t.cmd 3 == 3 &&
        !(atomic op).w.asleep 0 && ((atomic op).w.cluster 0).power != .off && !(((atomic op).w.core 3).mem (memOfSpace (refSpace t.cmd.p0))).poisoned 16 0x100C 4
    | none => false) = true := by decide
/-- What a command leaves in a memory of core 3. -/
def after (i : Instr) (s : State) (m : CoreMem) (a n : Nat) : Nat :=
  match exec i s with | .next t => leNat (Cells.read ((t.w.core 3).mem m).cells a n) | _ => 0
theorem test_atomic_values :
    [after (.atomicCas 3) (atomic 0) .scratch 0x100C 4, after (.atomicFac 3) (atomic 1) .scratch 0x100C 4, after (.atomicCac 3) (atomic 2) .scratch 0x100C 4] =
    [2, 7, 7] := by decide

/-- COLL of one part: group 1 of rank 0. -/
def coll (kind : Nat) : State :=
  engine .store (rec 0x2A (2 ^ 18 + kind * 2 ^ 15) (if kind = 5 then 0 else ref 0x40) (ref 0x80) 0 0 (if kind = 4 then 0x3F800000 else 0))
    [(0x40, descBytes 1 (if kind = 4 then 12 else 0) 0x1000 1 1 1), (0x80, if 4 ≤ kind then descBytes 1 15 0x1040 16 1 1 else descBytes 1 0 0x1040 1 1 1)]
    [] [] fun w => { w with seam := { w.seam with rank := 0 }, groups := [(1, { members := [0], owner := 5 })] }
/-- Pages of one operand of a collective, after those of others. -/
def collSpan (e : Env) (o : Opd) (wr : Bool) (x : Except Nat (List (Nat × Nat)) × World) : Except Nat (List (Nat × Nat)) × World :=
  match x.1, o.desc with
  | .ok l, some d =>
    match x.2.xlateSpans e d.space wr ((vecCoords d).map fun i => (d.bitAddr i / 8, d.bits / 8)) with
    | (.ok m, w) => (.ok (l ++ m), w)
    | q => q
  | _, _ => x
theorem test_coll : (List.range 6).all (fun kind =>
    match (coll kind).starting 3 .store with
    | some (e, t) =>
      let w := (coll kind).w
      let f0 := w.fetchRef e t.cmd.p0 (t.ind.getD 0 0) 64
      let f1 := f0.2.fetchRef e t.cmd.p1 (t.ind.getD 1 0) 64
      let f3 := f1.2.fetchRef e t.cmd.p3 (t.ind.getD 3 0) 64
      t.cmd.op.toNat == 0x2A && clKind t.cmd == kind && !w.seam.ownLost && w.collsOpen.isEmpty && (w.collPeers (clGroup t.cmd) kind (clSrc t.cmd)).isEmpty &&
        (firstFault [f0.1, f1.1, f3.1]).isNone && !collBad f3.2 e t f0.1 f1.1 f3.1 && !copyMisaligned f0.1 f1.1 f3.1 &&
        ((digestClusters e t.cmd).all fun k => ((coll kind).w.cluster k).power != .off && !(coll kind).w.asleep k) &&
        (t.cmd.p0 == 0 || refSpace t.cmd.p0 == 1) && refSpace t.cmd.p1 == 1 && t.cmd.p3 == 0 &&
        (match f3.2.xlatePages e false [] with
        | (.ok rp, w4) => (match (collSpan e f1.1 true (collSpan e f3.1 true (collSpan e f0.1 false (.ok rp, w4)))) with
          | (.ok pages, w5) => !World.busMet w (w5.meetSource e pages f0.1.desc)
          | (.error _, _) => false)
        | _ => false)
    | none => false) = true := by decide +kernel

/-! ## Upkeep, contexts, channels -/

theorem test_writeback : let s := resident .side fun w => w.setCore 3 { w.core 3 with wbq := [(.scratch, 7)], sp := { upsets := [(7, .ce 5 false)] } }
    (s.w.cluster (3 / 16)).power = .run ∧ (s.w.core 3).wbq = (.scratch, 7) :: [] := by decide
theorem test_core_scrub : (((resident .side).w.cluster 0).power = .run) := by decide
theorem test_fill : let s := with_ .side fun w => w.setDie 1 { w.die 1 with fills := [{ line := 0x12345 }] }
    (s.w.die 1).fills.find? (fun f => f.line == 0x12345) = some { line := 0x12345 } ∧
      ((Tab.get {} (s.w.die 1).sets (sacIndex 0x12345)) : SacSet).ways.length = 16 := by decide
theorem test_drain_times_out : ((windowed .draining).w.win 3 1).st = .draining := by decide

/-- A part in a step of its bring-up. -/
def climbing (step : Nat) (f : World → World := id) : State := { with_ .side f with ctl := { (up .side).ctl with part := .bringup, step } }
theorem test_hbm_scrub : let s := with_ .side fun w => { w with hbm := { w.hbm with wipe := 2, scrubPos := 2 ^ 34 - 1 } }
    s.w.hbm.wipe = 2 ∧ s.ctl.pgMain = true ∧ s.ctl.part ≠ .safe := by decide
theorem test_stack_trains : (climbing 4).ctl.part = .bringup ∧ (climbing 4).ctl.step = 4 ∧ ((climbing 4).w.stack 15).train = 0 := by decide
/-- Every stack trained. -/
def trained (w : World) : World := (List.range 16).foldl (fun w j => w.setStack j { w.stack j with train := 1 }) w
theorem test_wipe_done : (climbing 4 trained).ctl.part = .bringup ∧ (climbing 4 trained).ctl.step = 4 ∧
    ∀ j, j < 16 → ((climbing 4 trained).w.stack j).train = 1 := by decide
theorem test_refresh : (with_ .side trained).ctl.pgMain = true ∧ ((with_ .side trained).w.stack 15).train = 1 := by decide

theorem test_save : let s := resident .side (st := .saving)
    s.ctl.part = .ready ∧ (s.ent 5).st = .saving ∧ (s.ent 5).after = .stay ∧ s.w.drained (s.ent 5) = true ∧ s.w.groupRuns (s.ent 5) = true ∧
      (∀ c ∈ (s.ent 5).coreList, (s.w.core c).stepWait = false) ∧ s.w.snap.st ≠ .copying ∧ (s.w.ctx 5).ck.st ≠ .reading ∧ s.w.seam.parked = [] := by decide
/-- A world with a certain HBM that no bus error waits in, empty walk caches and cached translations that grant every access. -/
structure Fresh (m : EccMem) (w : World) : Prop where
  mem : w.hbm.mem = m
  bus : w.hbm.busBad = []
  walks : ∀ k, (w.cluster k).walks = []
  grants : ∀ k, ∀ t ∈ (w.cluster k).tlb, t.r = 0 ∧ t.w = 0
theorem fresh_check {m : EccMem} (hu : m.upsets = []) {w : World} (h : Fresh m w) (n k root va : Nat) (wr : Bool) (access num : Nat) (hva : va < 2 ^ 48)
    (hw : ∀ x : Walker, x.walks = [] → ∃ pa t b, walkRoot m root va wr n x = (.ok pa, { x with tlb := t :: x.tlb, blocks := b }) ∧ t.r = 0 ∧ t.w = 0) :
    (w.checkPage n k root va wr access num).1 = none ∧ Fresh m (w.checkPage n k root va wr access num).2 := by
  have key : ∃ pa y, (w.walker k).xlate m root n va wr = (.ok pa, y) ∧ y.walks = [] ∧ ∀ t ∈ y.tlb, t.r = 0 ∧ t.w = 0 := by
    have h0 : (w.walker k).walks = [] := h.walks k
    have h1 : ∀ t ∈ (w.walker k).tlb, t.r = 0 ∧ t.w = 0 := h.grants k
    unfold Walker.xlate
    rw [if_neg (by omega)]
    split
    · rename_i t ht
      have hm : t ∈ (w.walker k).tlb := List.mem_of_find?_eq_some (Option.filter_eq_some_iff.1 ht).1
      have hl : t.lacks wr = 0 := by unfold TlbEntry.lacks; split <;> simp [h1 t hm]
      rw [if_pos hl]
      exact ⟨_, _, rfl, h0, h1⟩
    · dsimp only
      rw [h0, List.find?_nil]
      obtain ⟨pa, t, b, hx, hr⟩ := hw { (w.walker k) with
        free := (w.walker k).free + 2, misses := (w.walker k).misses + 1, tlb := (w.walker k).tlb.filter fun t => !t.covers n va, walks := [] } rfl
      refine ⟨pa, _, hx, rfl, fun u hm => ?_⟩
      rcases List.mem_cons.1 hm with rfl | hm
      · exact hr
      · exact h1 u (List.mem_filter.1 hm).1
  obtain ⟨pa, y, hy, hyw, hyt⟩ := key
  have hp : (w.putWalker k n y).hbm.mem = m ∧ (w.putWalker k n y).hbm.busBad = [] ∧
      ∀ j, (w.putWalker k n y).cluster j = if j = k then { w.cluster k with tlb := y.tlb.take 2048, walks := y.walks.take 128 } else w.cluster j := by
    unfold World.putWalker
    dsimp only
    rw [World.meetBus_none]
    refine ⟨?_, ?_, fun j => ?_⟩
    rotate_right
    · simp [World.busHits, World.setCluster, h.bus]
    · rw [World.readBlocks_mem _ _ _ (by show w.hbm.mem.upsets = []; rw [h.mem, hu])]; exact h.mem
    · rw [(World.onlyRead_readBlocks _ _ _).hbm]; exact h.bus
    · rw [(World.onlyRead_readBlocks _ _ _).cluster]
      by_cases hj : j = k
      · subst hj; simp [World.cluster, World.setCluster]
      · rw [if_neg hj]
        exact Tab.get_set_ne _ _ _ hj
  have hc : w.checkPage n k root va wr access num = (none, w.putWalker k n y) := by
    unfold World.checkPage
    dsimp only
    rw [h.mem, hy]
    have : World.busMet w (w.putWalker k n y) = false := by simp [World.busMet, h.bus]
    simp only [this]
    rfl
  rw [hc]
  refine ⟨rfl, hp.1, hp.2.1, fun j => ?_, fun j u hm => ?_⟩
  · rw [hp.2.2 j]; split
    · simp [hyw]
    · exact h.walks j
  · rw [hp.2.2 j] at hm; split at hm
    · exact hyt u (List.mem_of_mem_take hm)
    · exact h.grants j u hm
/-- A context RESTORING from a slot whose header is good. -/
def restoring : State := resident .side (fun w => { w with hbm := { mem := { cells :=
  tables ++ [(slotBase 5, 1), (slotBase 5 + 2, 128), (slotBase 5 + 4, 16)] } } }) .restoring
/-- What the reads of its image leave. -/
def restoringRead : World := (controlRanges 5 (restoring.ent 5)).foldl (fun w x => w.readRange (some 5) x.1 x.2) restoring.w
theorem restoring_fresh : Fresh restoring.w.hbm.mem restoringRead := by
  have h : restoring.w.OnlyRead restoringRead := .foldl _ (fun w x => World.onlyRead_readRange w ..) _ _
  have hc (k : Nat) : (restoring.w.cluster k).walks = [] ∧ (restoring.w.cluster k).tlb = [] := by
    have : restoring.w.clusters = [(0, { power := .run }), (1, { power := .run })] := rfl
    unfold World.cluster
    rw [this]
    simp only [Tab.get]
    split
    · exact ⟨rfl, rfl⟩
    · split <;> exact ⟨rfl, rfl⟩
  refine ⟨by decide +kernel, by rw [h.hbm]; rfl, fun k => by rw [h.cluster k]; exact (hc k).1, fun k t ht => ?_⟩
  rw [h.cluster k, (hc k).2] at ht
  exact absurd ht (List.not_mem_nil)
theorem restoring_rings : (restoringRead.checkRings 5 (restoring.ent 5)).1 = none := by
  have hu : restoring.w.hbm.mem.upsets = [] := rfl
  have hw (p : Nat) (wr : Bool) (hp : p < 0x200000) (x : Walker) (hx : x.walks = []) :
      ∃ pa t b, walkRoot restoring.w.hbm.mem 0x10000 p wr 5 x = (.ok pa, { x with tlb := t :: x.tlb, blocks := b }) ∧ t.r = 0 ∧ t.w = 0 := by
    have h1 : fld p 47 35 = 0 := by unfold fld; omega
    have h2 : fld p 34 21 = 0 := by unfold fld; omega
    unfold walkRoot
    rw [h1, h2]
    cases wr <;> exact ⟨_, _, _, rfl, rfl, rfl⟩
  have step (p : Nat) (wr : Bool) (hp : p < 0x200000)
      (k access num : Nat) {w : World} (h : Fresh restoring.w.hbm.mem w) :
      (w.checkPage 5 k 0x10000 p wr access num).1 = none ∧ Fresh restoring.w.hbm.mem (w.checkPage 5 k 0x10000 p wr access num).2 :=
    fresh_check hu h 5 k 0x10000 p wr access num (by omega) (hw _ wr hp)
  have cores : ∀ (f : Option Nat × World → Nat → Option Nat × World), (∀ a j, a.1 = none → f a j =
      a.2.checkPage 5 (0 + j / 16) 0x10000 (ringAddr (restoring.ent 5) j (leNat (a.2.hbmBytes (coreImageBase 5 j + 8) 4))) false 2 (0 + j)) →
      ∀ (l : List Nat) (a : Option Nat × World), a.1 = none → Fresh restoring.w.hbm.mem a.2 → (∀ j ∈ l, j < 16) →
      (l.foldl f a).1 = none ∧ Fresh restoring.w.hbm.mem (l.foldl f a).2 := by
    intro f hf l
    induction l with
    | nil => intro a h1 h2 _; exact ⟨h1, h2⟩
    | cons j l ih =>
      intro a h1 h2 h3
      rw [List.foldl_cons]
      have hj : ringAddr (restoring.ent 5) j (leNat (a.2.hbmBytes (coreImageBase 5 j + 8) 4)) < 0x200000 := by
        have : a.2.hbmBytes (coreImageBase 5 j + 8) 4 = restoring.w.hbmBytes (coreImageBase 5 j + 8) 4 := by
          unfold World.hbmBytes; rw [h2.mem]
        rw [this]
        have all : ∀ j < 16, ringAddr (restoring.ent 5) j (leNat (restoring.w.hbmBytes (coreImageBase 5 j + 8) 4)) < 0x200000 := by
          decide +kernel
        exact all j (h3 j (by simp))
      rw [hf a j h1]
      have hs := step _ false hj (0 + j / 16) 2 (0 + j) h2
      exact ih _ hs.1 hs.2 fun i hi => h3 i (by simp [hi])
  have hr : restoring.ent 5 = entry .restoring := rfl
  have h1 : (entry .restoring).cores = 16 := by decide
  have h2 : (entry .restoring).first = 0 := by decide
  have h3 : (entry .restoring).root = 0x10000 := by decide
  have h4 : (entry .restoring).core0 = 0 := by decide
  have h5 : (entry .restoring).comp = 0x30000 := by decide
  have h6 : (entry .restoring).compIdx = 0x40000 := by decide
  have h7 : (entry .restoring).clog = 6 := by decide
  unfold World.checkRings
  rw [hr]
  simp only [h1, h2, h3, h4, h5, h6, h7]
  generalize hx : List.foldl _ (none, restoringRead) (List.range 16) = a
  have h16 : a.1 = none ∧ Fresh restoring.w.hbm.mem a.2 := by
    rw [← hx]
    exact cores _ (fun a j h => by simp only [h]; rfl) _ _ rfl restoring_fresh fun j hj => by simpa using hj
  rw [h16.1]
  have h17 := fun x => step (0x30000 + 16 * (x % 2 ^ 6)) true (by omega) 0 3 0 h16.2
  dsimp only
  rw [(h17 _).1]
  exact (step 0x40000 true (by decide) 0 3 0 (h17 _).2).1
theorem test_restore : restoring.ctl.part = .ready ∧ (restoring.ent 5).st = .restoring ∧ restoring.w.groupRuns (restoring.ent 5) = true ∧
    (restoring.w.ctx 5).hold = 0 ∧
    (let h := restoringRead.hbmRange (slotBase 5) 64
     le h 0 2 = 1 ∧ le h 2 2 = laneCount ∧ le h 4 2 = (restoring.ent 5).cores ∧
       (∀ x ∈ controlRanges 5 (restoring.ent 5), restoringRead.badBlocks x.1 x.2 = []) ∧
       (∀ x ∈ restoreRanges 5 (restoring.ent 5), restoring.w.busRange x.1 x.2 = []) ∧ (restoringRead.checkRings 5 (restoring.ent 5)).1 = none) :=
  have h : restoringRead.hbm.mem = restoring.w.hbm.mem := restoring_fresh.mem
  ⟨rfl, rfl, by decide, rfl, by simp only [World.hbmRange, World.badBlocks, h]; exact ⟨by decide +kernel, by decide +kernel, by decide, by decide +kernel, fun _ _ => rfl, restoring_rings⟩⟩
theorem test_invalidate_completes : let s := resident .side fun w => w.setCtx 5 { w.ctx 5 with invq := [leBytes 16 0x10000] }
    (s.w.ctx 5).invq = leBytes 16 0x10000 :: [] ∧ s.w.pageInUse (s.ent 5) (leBytes 16 0x10000) = false := by decide

/-- A DMA descriptor: source, destination, next, length, one row. -/
def ddBytes (src dst next len : Nat) (sync : Nat := 0) : List Byte := leBytes 8 src ++ leBytes 8 dst ++ leBytes 8 next ++ leBytes 8 sync ++ leBytes 4 len ++ leBytes 28 0
/-- A scratchpad address of core 3 for a channel. -/
def spAt (a : Nat) : Nat := 2 ^ 61 + 3 * 2 ^ 48 + a
theorem test_descriptor_fetch :
    let s := resident .side fun w => (w.setChan 2 { st := .running, core := 3, cur := BitVec.ofNat 64 (spAt 0x100) }).setCore 3
      { w.core 3 with sp := { cells := put [(0x100, ddBytes 0x1000 (spAt 0x2000) 0 100)] } }
    let c := s.w.chan 2
    ∃ n r b w, s.chanCtx 2 = some (n, r) ∧ s.w.asleep (chanCluster 2) = false ∧ c.st = .running ∧ c.have_ = false ∧ dNextBad c.core c.cur.toNat = false ∧
      c.cur.toNat % 64 = 0 ∧ s.w.descriptorLost n 2 r c.cur.toNat = false ∧ s.w.readDescriptor n 2 r c.cur.toNat = (.ok (b, false), w) ∧
      World.busMet s.w w = false ∧ descriptorBad r (chanCluster 2) c.core b = false :=
  ⟨_, _, _, _, rfl, by decide, rfl, rfl, by decide, by decide, by decide, rfl, by decide, by decide⟩
/-- A channel that copies 100 bytes of HBM into the scratchpad of core 3. -/
def copying (st : ChanSt) (src : Nat := 0x1000) (sync next : Nat := 0) (sp : List (Nat × List Byte) := []) : State :=
  resident .side fun w =>
    { (w.setCore 3 { w.core 3 with sp := { cells := put sp } }).setChan 2 { st, core := 3, have_ := true, desc := ddBytes src (spAt 0x2000) next 100 sync, src := BitVec.ofNat 64 src, dst := BitVec.ofNat 64 (spAt 0x2000), rowLeft := 100 } with hbm := { mem := { cells := tables ++ [(0x201000, 9)] } } }
/-- Whether the plan of a run of a channel's bytes meets no fault. -/
def planClear (w : World) (c : Chan) (l : List RowRun) : Bool := match (w.planCopy 5 2 0x10000 c l).1 with | .clear _ _ => true | _ => false
/-- The descriptor after the current one, read while that one still writes. -/
theorem test_next_descriptor_fetch :
    let s := copying .running (next := spAt 0x100) (sp := [(0x100, ddBytes 0x1000 (spAt 0x3000) 0 100)])
    let c := s.w.chan 2
    s.chanCtx 2 = some (5, s.ent 5) ∧ s.w.asleep (chanCluster 2) = false ∧ c.st = .running ∧ c.have_ = true ∧ ddBar c.desc = false ∧ ddNext c.desc ≠ 0 ∧
      ddNext c.desc % 64 = 0 ∧ c.nextDesc = none ∧ s.w.chanReady c = true ∧ s.w.descriptorLost 5 2 (s.ent 5) (ddNext c.desc) = false ∧
      (match s.w.issueReads 5 2 (s.ent 5).root c with
       | some (w0, _) => (match w0.readDescriptor 5 2 (s.ent 5) (ddNext c.desc) with
         | (.ok (b, false), w) => !World.busMet w0 w && !descriptorBad (s.ent 5) (chanCluster 2) c.core b
         | _ => false)
       | none => false) = true := by decide +kernel
/-- The same bytes where the bus fails on the block of the source: nothing of them is moved. -/
theorem test_broken_copy : let s := copying .running
    let w : World := { s.w with hbm := { s.w.hbm with busBad := [0x8040] } }
    let c := w.chan 2
    (match w.planCopy 5 2 0x10000 c c.runs with
     | (.broken before dir _, v) =>
       let k := if dir = 0 then max c.aheadBytes (accessFloor (·.src) before c.runs) else accessFloor (·.dst) before c.runs
       before == 0 && dir == 0 && k == 0 && decide (before < runBytes c.runs) && decide (k < runBytes c.runs) && planClear v c (firstBytes k c.runs) &&
         w.chanReady c && !c.aborting && c.st == .running && c.have_
     | _ => false) = true := by decide +kernel
theorem test_descriptor_complete : (copying .running).chanCtx 2 = some (5, (copying .running).ent 5) ∧ ((copying .running).ent 5).root = 0x10000 ∧
    (let w := (copying .running).w
     w.asleep (chanCluster 2) = false ∧ w.chanReady (w.chan 2) = true ∧ planClear w (w.chan 2) (w.chan 2).runs = true ∧
       (match w.planCopy 5 2 0x10000 (w.chan 2) (w.chan 2).runs with | (_, v) => World.busMet w v) = false) := by decide +kernel
/-- Of 70 bytes read the first whole access, 64 bytes, has been moved. -/
theorem test_pause_drained : (let w := (copying .pausing).w
     let c := w.chan 2
     let k := max c.aheadBytes (accessFloor (·.src) 70 c.runs)
     c.st = .pausing ∧ k = 64 ∧ 70 ≤ runBytes c.runs ∧ c.have_ = true ∧ w.chanReady c = true ∧ c.aborting = false ∧ planClear w c (firstBytes k c.runs) = true) := by decide +kernel
theorem test_bus_error : (let w := (copying .running).w
     let c := w.chan 2
     99 < runBytes c.runs ∧ c.aborting = false ∧ planClear w c (firstBytes (max c.aheadBytes (accessFloor (·.src) 99 c.runs)) c.runs) = true ∧
       planClear w c (firstBytes (accessFloor (·.dst) 99 c.runs) c.runs) = true) := by decide +kernel
/-- What a read failure after 99 bytes latches: the first byte of the access that failed (R314). -/
theorem test_bus_error_latch : (let c := (copying .running).w.chan 2
    (c.moveOn (runBytes (firstBytes (accessFloor (·.src) 99 c.runs) c.runs))).src.toNat) = 0x1040 := by decide +kernel
theorem test_fetch_bus_error : let s := channelled { st := .running }
    (s.chanCtx 2).isSome = true ∧ (s.w.chan 2).st = .running ∧ (s.w.chan 2).have_ = false ∧ (s.w.chan 2).aborting = false := by decide
/-- A row whose source page has no translation. -/
theorem test_translation_halt : (let w := (copying .running 0x3FFFF0).w
     w.chanReady (w.chan 2) = true ∧ (match w.planCopy 5 2 0x10000 (w.chan 2) (w.chan 2).runs with
       | (.faulty before dir va f, v) => decide (before < runBytes (w.chan 2).runs) && dir == 0 && before == 0 &&
           planClear (v.reportFault 5 va f (chanSource 2 dir)) (w.chan 2) (firstBytes (accessFloor (·.src) before (w.chan 2).runs) (w.chan 2).runs)
       | _ => false) = true) := by decide +kernel
theorem test_wait_halt : (let s := copying .running (sync := 0x4000010000)
     (s.chanCtx 2).isSome = true ∧ (s.w.chan 2).st = .running ∧ (s.w.chan 2).have_ = true ∧ s.w.chanReady (s.w.chan 2) = false ∧ (s.w.chan 2).aborting = false) := by decide

/-! ## The Seam -/

/-- A part of rank 0 whose link 2 stands in a state, to rank 1, with frame 7 expected. -/
def linked (f : World → World := id) (st : LinkSt := .up) : State :=
  resident .side fun w => f { w.setLink 2 { st, peerRank := 1, peerLink := 5, rxSeq := 7 } with seam := { w.seam with rank := 0 } }
/-- The header of a message that arrives on link 2 from rank 1. -/
def arriving (b : FrameBody) (dst : Nat := 0) : SeamHdr :=
  { crcOk := true, typ := b.typ, vc := b.vc, last := true, lens := b.lens, seq := if b.plain then 0 else 7, ack := 1, retVc := 0, retUnits := 0, dst, src := 1, tag := b.tag }
/-- Whether a message is accepted. -/
def accepted (s : State) (b : FrameBody) (keep : Bool := false) (dst : Nat := 0) : Bool := (match s.w.receive 2 (arriving b dst) b keep with | .ok _ => true | .error _ => false)
theorem test_accepts : accepted linked .link = true ∧ accepted linked (.heartbeat 1 3 5) = true ∧ (linked.w.mine (arriving .link)) = true := by decide

theorem test_signal_detect : (linked id .waitSignal).linksOn = true ∧ ((linked id .waitSignal).w.link 2).st = .waitSignal := by decide
theorem test_link_trained : (linked id .train).linksOn = true ∧ ((linked id .train).w.link 2).st = .train := by decide
theorem test_train_timeout : ((linked id .identify).w.link 2).st = .train ∨ ((linked id .identify).w.link 2).st = .identify := by decide
theorem test_link_up : (linked.w.link 2).st = .up ∧ 1000 ≤ 1000 := by decide
/-- A message kept for replay. -/
def kept : TxMsg := { seq := 3, vc := 0, frames := 1, units := 3, dst := 1, src := 0, body := .lost 9 0, tries := [14] }
theorem test_replay_timeout : let s := linked fun w => w.setLink 2 { w.link 2 with st := .up, replay := [kept] }
    (s.w.link 2).replay = kept :: [] ∧ ∀ x ∈ (s.w.link 2).replay, ∀ n ∈ x.tries, n < 15 := by decide

theorem test_reject_crc : ({ arriving .link with crcOk := false } : SeamHdr).crcOk = false ∧ (linked.w.link 2).st = .up := by decide
theorem test_reject_order : let h : SeamHdr := { arriving (.lost 9 1) with seq := 9 }
    h.crcOk = true ∧ h.plain = false ∧ h.seq ≠ (linked.w.link 2).rxSeq ∧
      (match exec (.frameReject 2 h .order true) linked with | .next t => ((t.w.link 2).replay.length, (t.w.link 2).sent != (linked.w.link 2).sent) | _ => (9, false)) =
        (0, true) := by decide
/-- A message of a wrong VC in its order, and one whose destination has no route. -/
theorem test_reject_malformed : let h : SeamHdr := { arriving (.lost 9 1) with vc := 1 }
    h.crcOk = true ∧ h.seq = (linked.w.link 2).rxSeq ∧ h.plain = false ∧ h.malformed = true ∧
      linked.w.unroutable (arriving (.keepalive 1 2 0 1) 8) = true ∧
      (match exec (.frameReject 2 h .malformed false) linked with | .next t => ((t.w.link 2).discarded, (t.w.link 2).rxSeq) | _ => (9, 9)) = (1, 8) := by decide
/-- A numbered message in order that is not whole yet, one of a wrong length, and one whose type is none of R337's. -/
theorem test_message_parts :
    ((match linked.w.receive 2 { arriving (.lost 9 1) with last := false } (.lost 9 1) false with | .error w => ((w.link 2).rxSeq, (w.link 2).discarded) | _ => (9, 9)) = (8, 0)) ∧
    ((match linked.w.receive 2 { arriving (.lost 9 1) with lens := [17] } (.lost 9 1) false with | .error w => (w.link 2).discarded | _ => 9) = 1) ∧
    ({ arriving (.lost 9 1) with typ := 0x40 } : SeamHdr).malformed = true := by decide
/-- A WCREDIT's frame on the link, byte by byte (R336). -/
theorem test_frame_layout : (FrameBody.wcredit 3 1 0 6).onLink 7 1 0 0 0 1 = [frameBytes
    ([0x10, 0x21] ++ [7, 0] ++ [1, 0] ++ [0, 0] ++ [0, 0] ++ [1, 0] ++ [0, 0, 0, 0]) ([3, 0, 1, 0, 6, 0] ++ List.replicate 10 0)] := by decide +kernel
/-- A message for the link itself that is addressed to rank 8. -/
theorem test_other_rank : linked.w.mine (arriving .link 8) = false ∧ accepted linked .link false 8 = true ∧ accepted linked (.nak 3) false 8 = true ∧
    accepted linked (.heartbeat 1 3 5) false 8 = true ∧ accepted (linked id .identify) (.ident 77 1 5 0) false 8 = true ∧
    accepted linked (.lost 9 1) false 8 = true := by decide
theorem test_nak : accepted linked (.nak 3) = true ∧ (match linked.w.receive 2 (arriving (.nak 3)) (.nak 3) false with
    | .ok w => ((w.link 2).replayFrom 3).2 | .error _ => true) = false := by decide
theorem test_ident : accepted (linked id .identify) (.ident 77 1 5 0) = true ∧ ((linked id .identify).w.link 2).st = .identify := by decide
theorem test_lost : accepted linked (.lost 9 1) = true ∧ 9 ≠ linked.w.seam.rank ∧ accepted linked (.lost 0 1) = true ∧ 0 = linked.w.seam.rank := by decide
theorem test_forward : let s := linked fun w => w.setLink 4 { st := .up, peerRank := 8, peerLink := 0 }
    let b : FrameBody := .keepalive 1 2 0 1
    s.w.mine (arriving b 8) = false ∧ accepted s b false 8 = true ∧ b.routed = true ∧ s.w.routeLink 8 = some 4 ∧
      (match s.w.receive 2 (arriving b 8) b false with | .ok w => decide ((w.link 4).peerRank ∉ s.w.seam.lost) | .error _ => false) = true := by decide

/-- Window 1 of core 3, for rank 1 on link 2, with four slots of 4 KiB of which two are credited. -/
def taking (st : WinSt := .open_) : State :=
  linked fun w => w.setWin 3 1 { st, base := 0x4000, geom := 0x40000, sender := 0x10002, gen := 6, credited := [0, 1], held := [2], owner := 5 }
/-- A write of one F32 word into slot 1. -/
def windowWrite (gen : Nat := 6) : WinWrite :=
  { core := 3, win := 1, slot := 1, gen, sender := 9, id := 40, desc := descBytes 4 0 0x40 1 1, data := leBytes 4 0x3FC00000, bad := [] }
theorem test_window_credit : accepted linked (.wcredit 3 1 0 6) = true := by decide
theorem test_window_write : accepted taking (.wwrite windowWrite) true = true ∧ windowWrite.core < 1024 ∧ windowWrite.win < 8 ∧
    (let v := taking.w.win 3 1
     v.st ≠ .closed ∧ windowWrite.gen = v.gen ∧ v.rank = 1 ∧ v.link = 2 ∧ windowWrite.slot ∈ v.credited ∧ ownerLive taking.res v.owner = true ∧
       (taking.w.cluster (3 / 16)).power = .run ∧ winFits windowWrite v.slotSize = true ∧ ∀ j, j < 8 → (taking.w.win 3 j).freeCtr ≠ v.arrCtr) := by decide +kernel
theorem test_window_write_lands : (match exec (.wwrite 2 (arriving (.wwrite windowWrite)) windowWrite) taking with
    | .next t => leNat (Cells.read (t.w.core 3).sp.cells 0x5040 4) | _ => 0) = 0x3FC00000 := by decide +kernel
theorem test_window_discard : accepted taking (.wwrite (windowWrite 5)) true = true ∧ taking.w.commitWaits taking.res (windowWrite 5) = false ∧
    (windowWrite 5).gen ≠ (taking.w.win 3 1).gen := by decide +kernel
theorem test_window_answer : let s := linked fun w => { w with seam := { w.seam with writes :=
      [{ id := 40, link := 2, rank := 1, ocore := 3, win := 1, gen := 6, core := 3, count := 1, flags := 0, poison := false }] } }
    accepted s (.wanswer 40 0) = true ∧ (s.w.seam.writes.find? fun y => y.id == 40 && y.rank == 1).isSome = true := by decide
theorem test_window_return : accepted taking (.wreturn 3 1 0 6) = true ∧ (taking.w.win 3 1).rank = 1 ∧ (taking.w.win 3 1).st ≠ .closed ∧
    (taking.w.win 3 1).gen = 6 := by decide
theorem test_window_drained : let s := linked fun w => w.setWin 3 1 { st := .draining, sender := 0x10002, gen := 6, credited := [0] }
    accepted s (.wreturn 3 1 0 6) = true ∧ (s.w.win 3 1).st = .draining ∧
      (match exec (.wreturn 2 (arriving (.wreturn 3 1 0 6)) 3 1 0 6) s with | .next t => (t.w.win 3 1).st | _ => .open_) = .closed := by decide
theorem test_window_close_notice : accepted linked (.wclose 3 1 6) = true := by decide

/-- Group 1 of the parts of rank 0 and 1, this part's own being rank 0, with collectives. -/
def grouped (l : List Coll) (members : List Nat := [0, 1]) : State := linked fun w => { w with groups := [(1, { members, owner := 5 })], colls := l }
/-- A contribution of rank 1's leaf to an F32 ALLREDUCE of one element, or a result for this part. -/
def message (pos level node : Nat) (values : List Byte) : CollMsg :=
  { kind := 0, group := 1, pos, seq := 0, level, avg := false, poison := false, failed := false, node, print := (((grouped []).w.group 1).print), elems := 1, srcFmt := 0
    dstFmt := 0, accMode := 0, outMode := 0, stream := 0, tau := 0, crc := crc64 ([2] ++ values), digest := [], srcPos := 0, first := 0, mask := [2], values }
theorem test_contribution : let s := grouped []
    let m := message 1 0 1 (leBytes 5 0)
    s.w.mine (arriving (.contrib m)) = true ∧ s.w.seam.ownLost = false ∧ accepted s (.contrib m) = true ∧ m.group < 64 ∧
      (s.w.group m.group).members ≠ [] ∧ (s.w.ownPos m.group).isSome = true ∧ m.print = (s.w.group m.group).print ∧ s.w.collThrough m.group m.seq = none ∧ (m.level, m.node) ∉ ({ group := 1, seq := 0 } : Coll).missing ∧
      sameHdr { m with mask := [], values := [] } m = true ∧ msgIntact m = true ∧
      upCount { m with mask := [], values := [] } (maskOf 2 m.mask) ≤ (addVals [] (msgVals m false)).length := by decide +kernel
theorem test_result : let s := grouped []
    let m := message 0 0 0 (leBytes 4 0x3F800000)
    accepted s (.result m) = true ∧ msgIntact m = true ∧ m.group < 64 ∧ (s.w.group m.group).members ≠ [] ∧ (s.w.ownPos m.group).isSome = true ∧
      s.w.coll 1 0 = none ∧ s.w.collThrough 1 0 = none := by decide +kernel
/-- A collective of the group. -/
def started : Coll := { group := 1, seq := 0 }
theorem test_acceptance : let s := grouped [{ started with unacked := [{ rank := 1, msg := message 0 0 0 [] }] }]
    accepted s (.canswer 0 1 0 0 0 0) = true ∧ (match s.w.coll 1 0 with
      | some c => (c.unacked.find? fun y => y.rank == 1 && y.msg.level == 0 && y.msg.node == 0 && y.msg.first == 0).isSome | none => false) = true := by decide +kernel
theorem test_keepalive : accepted (grouped [started]) (.keepalive 1 0 0 1) = true ∧ ((grouped [started]).w.coll 1 0).isSome = true := by decide
/-- This part at position 2 of a group of four, whose first member is rank 1: it hosts node 1 of level 1, and not the root. -/
theorem test_keepalive_send : let s := grouped [started] [1, 9, 0, 8]
    s.w.coll 1 0 = some started ∧ s.w.hosts 1 1 1 = true ∧ started.ended = false ∧ cover (s.w.group 1).members.length 0 2 ≠ [] ∧
      (s.w.inputSt started 0 2 == .pending) = true ∧ started.inputs = [] ∧ 1 < treeLevels (s.w.group 1).members.length ∧ s.w.hosts 1 2 0 = false ∧
      s.w.hostPos 1 2 0 = some 0 := by decide
theorem test_input_timeout : let c : Coll := { started with inputs := [{ level := 0, node := 0 }] }
    let s := grouped [c]
    s.w.coll 1 0 = some c ∧ c.ended = false ∧ (c.hdr.any fun m => m.kind == 3) = false ∧ s.w.hosts 1 1 0 = true ∧
      (c.inputs.any fun v => v.level == 0 && v.node / 2 == 0) = true ∧ (s.w.inputSt c 0 1 == .pending) = true := by decide
/-- The source of a BROADCAST, rank 1, stays away from the root's host. -/
theorem test_broadcast_timeout : let m : CollMsg := { message 0 1 0 [] with kind := 3, srcPos := 1 }
    let c : Coll := { started with hdr := some m, inputs := [{ level := 0, node := 1 }] }
    let s := grouped [c]
    s.w.coll 1 0 = some c ∧ c.ended = false ∧ s.w.hosts 1 (treeLevels (s.w.group 1).members.length) 0 = true ∧ (s.w.inputSt c 0 m.srcPos == .pending) = true ∧
      c.inputs ≠ [] := by decide +kernel

/-- A part whose ward and buddy are rank 1, with an inbound checkpoint, an image, and a context in some standing. -/
def guarding (inbound image : Option CkImage) (f : Ctx → Ctx := id) (ward : Nat := 1) : State :=
  linked fun w => { w.setCtx 5 (f (w.ctx 5)) with buddy := { w.buddy with ward, buddy := 1, inbound, image } }
/-- The header of a checkpoint message with its data's CRC. -/
def ckHead (data : List Byte) (answer : Nat := 0) : CkptHdr := { answer, ctx := 5, step := 9, entry := 0, granule := 3, crc := crc64 data }
/-- A checkpoint of step 9 of context 5. -/
def ckImage : CkImage :=
  { ctx := 5, step := 9, table := leBytes 8 0x10000 ++ leBytes 8 0x40000 ++ leBytes 16 0, held := [{ entry := 0, gran := 2, place := 0, len := 1, crc := crc64 [0] }] }
theorem test_checkpoint_read : let s := guarding none none fun k => { k with ck := { k.ck with st := .reading } }
    let old := s.w.getCrcs 5 (if (s.w.ctx 5).ck.valid then (s.w.ctx 5).ck.baseline else [])
    let ck := { (s.w.ctx 5).ck with baseline := old.2 }
    (s.w.ctx 5).ck.st = .reading ∧ (s.ent 5).st = .resident ∧ s.ctl.part = .ready ∧ s.w.sleepers (s.ent 5).core0 ck.table = [] ∧
      ((ckEntries ck.table).foldl (fun a e => (List.range (ceCount e.2)).foldl (fun a g => a.granule 5 ck e.1 e.2 g) a)
        { s := s.withW old.1 : CkRead }).fault = none := by decide
/-- A checkpoint of one granule, which is there. -/
def wholeImage : CkImage :=
  { ctx := 5, step := 9, table := leBytes 8 0x10000 ++ leBytes 8 0x10000 ++ leBytes 16 0, held := [{ entry := 0, gran := 0, place := 0, len := 1, crc := crc64 [0] }] }
theorem test_checkpoint_end : let s := guarding (some wholeImage) none
    s.w.isWard 1 = true ∧ s.w.pulling 1 (ckHead []) = none ∧ s.w.inboundOf (ckHead []) = some wholeImage ∧
      (wholeImage.onto s.w.buddy.image).complete = true ∧ accepted s (.ckpt 3 (ckHead []) []) = true := by decide +kernel
theorem test_checkpoint_begin : let s := guarding (some ckImage) none
    s.w.isWard 1 = true ∧ s.w.pulling 1 (ckHead [1]) = none ∧ accepted s (.ckpt 0 (ckHead [1]) [1]) = true ∧ (∀ i, s.w.buddy.inbound = some i → i.ctx = 5) := by
  refine ⟨by decide, by decide, by decide +kernel, ?_⟩
  intro i h; cases h; rfl
theorem test_checkpoint_pieces : let s := guarding (some ckImage) none
    s.w.inboundOf (ckHead [1]) = some ckImage ∧ s.w.isWard 1 = true ∧ s.w.pulling 1 (ckHead [1]) = none ∧ ckNamed ckImage.table 0 3 = true ∧ ckImage.held.length < stagePlaces ∧
      accepted s (.ckpt 1 (ckHead [1]) [1]) = true ∧ accepted s (.ckpt 2 (ckHead [1]) [1]) = true ∧
      (match exec (.ckptGranule 2 (arriving (.ckpt 2 (ckHead [1]) [1])) (ckHead [1]) [1]) s with
        | .next t => Cells.get t.w.hbm.mem.cells (inboundBase + 65536) | _ => 0) = 1 := by decide +kernel
theorem test_checkpoint_replay : let s := guarding none (some ckImage)
    s.w.buddy.image = some ckImage ∧ ckImage.ctx = (ckHead [1]).ctx ∧ ckImage.step = (ckHead [1]).step ∧ accepted s (.ckpt 4 (ckHead [1]) [1]) = true := by decide +kernel
theorem test_checkpoint_pull : let s := guarding none (some ckImage)
    accepted s (.ckpt 6 (ckHead []) []) = true ∧ s.w.isWard 1 = true ∧ s.w.buddy.image = some ckImage ∧ ckImage.ctx = (ckHead []).ctx ∧ ckImage.step = (ckHead []).step ∧
      ckImage.held ≠ [] ∧ (ckImage.held.all fun p => decide (crc64 (s.w.hbmRange (imageBase + 65536 * p.place) p.len) = p.crc)) = true ∧
      ∀ b, s.w.hbm.mem.bad b = false ∧ (s.w.hbm.mem.upset b).any Upset.fatal = false :=
  ⟨by decide +kernel, by decide, rfl, rfl, rfl, by decide, by decide +kernel, fun _ => ⟨rfl, rfl⟩⟩
/-- A pulled image goes out part by part: after BEGIN is accepted there is no state block left here, so its granule, then END. -/
theorem test_pull_stages : let o : PullOut := { rank := 1, left := (ceState, gBegin) :: ckImage.held.map fun (p : CkPiece) => (p.entry, p.gran) }
    pullStage o.left = 0 ∧ pullStage (o.left.drop 1) = 2 ∧ pullStage [] = 3 ∧ pullStage [(ceState, 0), (0, 2)] = 1 := by decide
theorem test_checkpoint_answer : let s := guarding none none (fun k => { k with ck := { k.ck with st := .committing, step := 9, ending := true } }) 0xFFFF
    accepted s (.ckpt 5 (ckHead [] 4) []) = true ∧ 1 = s.w.buddy.buddy ∧ s.w.buddy.out = none ∧ s.w.isWard 1 = false ∧
      (s.w.ctx 5).ck.st = .committing ∧ (s.w.ctx 5).ck.step = (ckHead [] 4).step ∧ (s.w.ctx 5).ck.ending = true ∧ (ckHead [] 4).answer = 4 := by decide +kernel
theorem test_restore_begin : let s := guarding none none fun k => { k with rst := { k.rst with st := .checking, holder := 1, srcCtx := 5, step := 0xFFFFFFFF } }
    s.w.pulling 1 (ckHead [1]) = some 5 ∧ accepted s (.ckpt 0 (ckHead [1]) [1]) = true ∧ (s.w.ctx 5).rst.st = .checking ∧ (ckHead [1]).ctx = (s.w.ctx 5).rst.srcCtx ∧
      (s.w.ctx 5).rst.step = 0xFFFFFFFF := by decide +kernel
theorem test_restore_end : let s := guarding none none fun k => { k with rst := { k.rst with st := .transferring, holder := 1, srcCtx := 5, step := 9 } }
    s.w.pulling 1 (ckHead []) = some 5 ∧ accepted s (.ckpt 3 (ckHead []) []) = true ∧ (s.w.ctx 5).rst.st = .transferring := by decide +kernel
theorem test_restore_state : let s := guarding none none fun k => { k with rst := { k.rst with st := .checking, holder := 1, srcCtx := 5, step := 9 } }
    s.w.pulling 1 (ckHead [1]) = some 5 ∧ accepted s (.ckpt 1 (ckHead [1]) [1]) = true ∧ (s.w.ctx 5).rst.st = .checking ∧
      sumN ((((s.w.ctx 5).rst.state.filter fun (p : Nat × List Byte) => p.1 != (ckHead [1]).granule) ++ [((ckHead [1]).granule, [1])]).map fun (p : Nat × List Byte) => p.2.length) < stateBytes (s.ent 5).cores := by
  decide +kernel

/-! ## Host ports -/

theorem test_host_link_up : (with_ .side fun w => w.setPort 1 {}).portsOn = true ∧ ((with_ .side fun w => w.setPort 1 {}).w.port 1).st ≠ 2 := by decide
theorem test_port_up : ((up .side).w.port 1).st = 2 ∧ (up .side).ctl.persist.prioB ≠ (up .side).ctl.persist.prioA := by decide
/-- A part whose host port 0 has an IPv4 address in force. -/
def addressed : State := with_ .side fun w => w.setPort 0 { w.port 0 with live := (0, 0, List.replicate 16 0, [10, 0, 0, 7, 24]) }
theorem test_addresses : addressed.portUp .host0 = true ∧ addressed.owns4 .host0 [10, 0, 0, 7] = true ∧
    addressed.owns6 .host0 (linkLocal (addressed.mac .host0)) = true := by decide
/-- Queue pair 9 on port 0 for context 5, with a region of one page that may be read and written, and a region of the snapshot. -/
def paired (f : World → World := id) : State :=
  resident .side fun w => f { (((w.setQp 9 { st := .ready, ctx := 5, ring := leBytes 8 0x50000 ++ leBytes 8 2, psn := 100 }).setRegion 7
    { kind := 0, ctx := 5, base := 0x60000, len := 0x10000, word := 3 }).setRegion 8 { kind := 1, base := 0, len := 0x20000, word := 1 }) with
    hbm := { mem := { cells := tables ++ [(0x260000, 9)] } } }
/-- What lies around a RoCE frame for host port 0, in class LL-A. -/
def roceNet : NetHdr := { net with vlan := some (3, 0), udp := roceUdp, len := 98 }
/-- What such a frame leaves at the port. -/
def arrived (s : State) (net : NetHdr := roceNet) : World := match s.w.arrive s.ctl.persist 0 net with | .ok w => w | .error w => w
theorem test_queue_pair_serves : paired.Serves 0 9 roceNet (arrived paired) ∧ paired.Serves 0 9 (paired.cnpNet .host0) (arrived paired (paired.cnpNet .host0)) ∧
    (paired.w.qp 9).st = .ready ∧ paired.ctl.persist.classOf roceNet = some .llA := by
  refine ⟨⟨rfl, by decide, rfl, by decide, rfl, rfl, by decide, rfl, rfl⟩, ⟨rfl, by decide, rfl, by decide, rfl, rfl, by decide, rfl, rfl⟩, rfl, by decide⟩
/-- The only packet of a WRITE of 16 bytes, and the first of one of 5,000. -/
def writePacket (n len : Nat) (last : Bool) : WritePkt :=
  { qp := 9, psn := 100, first := some { rkey := 7, va := 0x60FF0, len }, last, data := List.replicate n 1, ce := false, net := roceNet }
set_option maxRecDepth 20000 in
theorem test_rdma_write : (paired.w.qp 9).psn = 100 ∧ (writePacket 16 16 true).to (paired.w.qp 9) = some { rkey := 7, va := 0x60FF0, len := 16 } ∧
    (writePacket 16 16 true).fits { rkey := 7, va := 0x60FF0, len := 16 } = true ∧
    (writePacket 4096 5000 false).fits { rkey := 7, va := 0x60000, len := 5000 } = true ∧
    (writePacket 4096 5000 true).fits { rkey := 7, va := 0x60000, len := 5000 } = false ∧
    paired.w.target 9 7 0x60FF0 16 1 = some (0, 5) ∧
    (match ((arrived paired).congested 0 9 true).rocePages 0 9 5 (paired.ent 5).root true 0x60FF0 16 with
      | (.ok pages, w) => !w.busHits (touchedWords 64 ((List.replicate 16 (1 : Byte)).zipIdx.map fun x => (bytesAt (0x60FF0 + x.2) [x.1]).phys pages))
      | (.error _, _) => false) = true := by decide +kernel
/-- A WRITE that meets a bus error is answered with a Remote Operational Error and places nothing (R381). -/
theorem test_rdma_write_bus_error :
    let k : WritePkt := { qp := 9, psn := 100, first := some { va := 0x60000, rkey := 7, len := 3 }, last := true, data := [1, 2, 3], ce := false, net := roceNet }
    (match exec (.rdmaWrite 0 k) paired with
    | .next t => Cells.get t.w.hbm.mem.cells 0x260000 == 1 && (t.w.qp 9).st == .ready
    | _ => false) = true ∧
    (match exec (.rdmaWrite 0 k) (paired.withW { paired.w with hbm := { paired.w.hbm with busBad := [0x9800] } }) with
    | .next t => Cells.get t.w.hbm.mem.cells 0x260000 == 9 && (t.w.qp 9).st == .error && decide (.nak 0 9 100 nakOperational ∈ t.w.outbox)
    | _ => false) = true := by decide
/-- A port whose peer was told to stop LL-A while 100 bytes of it are held, and one with no room for it but the headroom, or not even that. -/
def held (outside headroom : Nat) (xoffA : Bool) : State :=
  with_ .side fun w => w.setPort 0 { w.port 0 with inA := { outside, headroom }, xoffA }
theorem test_buffer : (held 100 0 true).ctl.persist.classOf roceNet = some .llA ∧ ((held 100 0 true).w.port 0).above .llA = true ∧
    ¬(((held 100 0 true).w.port 0).inA = {} ∧ ((held 100 0 true).w.port 0).inB = {} ∧ ((held 100 0 true).w.port 0).inOther = 0) ∧
    (((held 100 0 true).w.port 0).held .llA).outside < 65536 ∧ ((held 100 0 false).w.port 0).room .llA 98 = true ∧
    ((held 200000 0 true).w.port 0).room .llA 98 = false ∧ 0 + 98 ≤ headroomSize ∧ ¬ 327600 + 98 ≤ headroomSize := by decide
theorem test_port_takes : (match addressed.w.arrive addressed.ctl.persist 0 { mac := [], ip := [], vlan := none, udp := 0, len := 90 } with
    | .ok _ => true | .error _ => false) = true := by decide
theorem test_cnp_due : paired.w.cnpDue 0 9 = true ∧ ({ paired.w with tick := [4999, 4999, 4999, 4999] }.setQp 9 { paired.w.qp 9 with cnpAt := some 0 }).cnpDue 0 9 = false ∧
    ({ paired.w with tick := [5000, 5000, 5000, 5000] }.setQp 9 { paired.w.qp 9 with cnpAt := some 0 }).cnpDue 0 9 = true := by decide
theorem test_rdma_read_snapshot : (paired.w.qp 9).write = none ∧ ((arrived paired).congested 0 9 true).readsWaiting 9 < 16 ∧ paired.w.target 9 8 0x1FFF0 16 0 = some (1, 0) ∧ paired.w.hbm.mem.marks = [] ∧ paired.w.hbm.mem.upsets = [] ∧
    paired.w.hbm.busBad = [] := by decide
theorem test_rdma_read : paired.w.target 9 7 0x60000 16 0 = some (0, 5) ∧
    ((((arrived paired).congested 0 9 true).setQp 9 { ((arrived paired).congested 0 9 true).qp 9 with psn := 101 }).rocePages 0 9 5 (paired.ent 5).root false 0x60000 16).1.isOk = true := by decide
theorem test_send : sub32 (paired.w.qp 9).prod (paired.w.qp 9).cons < 2 ^ (paired.w.qp 9).ringLog ∧
    (((arrived paired).congested 0 9 true).rocePages 0 9 5 (paired.ent 5).root true ((paired.w.qp 9).ringBase + 4096 * ((paired.w.qp 9).prod % 2 ^ (paired.w.qp 9).ringLog)) 80).1.isOk = true ∧
    paired.w.hbm.busBad = [] := by decide

/-! ## Power and telemetry -/

/-- A part whose cluster 1 stands in a power state. -/
def powered (p : PowerSt) (f : World → World := id) (entering : Option PowerSt := none) (floor : Nat := 0) : State :=
  with_ .side fun w => f (w.setCluster 1 { power := p, entering, floor })
theorem test_descends : [(PowerSt.run, PowerSt.idle), (.idle, .doze), (.doze, .nap)].all (fun x =>
    (powered x.1).powered && (powered x.1).ctl.step != 5 && decide (depth x.2 ≤ floorDepth ((powered x.1).w.cluster 1).floor) && (powered x.1).quiet 1 && !(powered x.1).w.wakeQueued 1) = true := by decide
theorem test_entry_done : ((powered .doze id (some .nap)).w.cluster 1).entering = some .nap ∧ ((powered .nap id (some .off) 3).w.cluster 1).entering = some .off := by decide
theorem test_power_up : let s := powered .nap fun w => w.setDie 0 { w.die 0 with powerQ := [1], poweringUp := [4] }
    s.powered = true ∧ (s.w.die 0).poweringUp.length < 2 ∧ s.w.nextOf 0 (s.w.die 0).lastPower (s.w.die 0).powerQ = some 1 := by decide
theorem test_restart : let s := powered .doze fun w => w.setDie 0 { w.die 0 with restartQ := [1] }
    s.powered = true ∧ (s.w.die 0).restarting.length < 8 ∧ s.w.nextOf 0 (s.w.die 0).lastRestart (s.w.die 0).restartQ = some 1 := by decide
theorem test_runs : (let s := powered .waking fun w => w.setDie 0 { w.die 0 with poweringUp := [1] }
    s.powered = true ∧ (s.w.cluster 1).entering = none ∧ (s.w.cluster 1).power = .waking ∧ 1 ∈ (s.w.die (dieOfCluster 1)).poweringUp) ∧
    (let s := powered .idle fun w => w.setChan 8 { st := .running }
     (s.w.cluster 1).power = .idle ∧ s.quiet 1 = false) := by decide
theorem test_mgmt : (up .side).ctl.mgmt = true ∧ (up .side).ctl.part ≠ .safe := by decide

theorem test_governor_hot : let c : Ctl := (up .side).ctl
    ((c.throttle * 1000 : Nat) : Int) ≤ 105000 := by decide
theorem test_governor_mean : let c : Ctl := { (up .side).ctl with limit := 1000, throttle := 95, excursion := 1200, duration := 10 }
    (50000 : Int) < (c.throttle * 1000 : Nat) ∧ c.limit * 1000 < 1000001 ∧ 1000000 ≤ c.limit * 1000 ∧ c.excursion * 1000 < 1200001 ∧ c.duration * 1000 ≤ 10000 ∧
      (50000 : Int) < (c.throttle * 1000 : Nat) - 2000 ∧ 900000 * 100 < 95 * (c.limit * 1000) ∧ 1200000 ≤ c.excursion * 1000 ∧ 9999 < c.duration * 1000 := by decide
theorem test_current_trip : (up .side).powered = true ∧ 3600000 ≤ 3600000 := by decide
set_option maxRecDepth 4000 in
theorem test_thermal : (up .side).ctl.pins.pgAon = true ∧ (List.replicate 256 (50000 : Int)).length = 256 ∧ (∀ r ∈ List.replicate 256 (50000 : Int), r < 105000) ∧
    (105000 : Int) ∈ 105000 :: List.replicate 255 (50000 : Int) ∧ (105000 :: List.replicate 255 (50000 : Int)).length = 256 := by decide
/-- A regulator's reading. -/
def rail (fault : Bool) : RegReading := { mv := 800, ma := 100, mdeg := 50000, status := 0, fault }
theorem test_pmbus : (up .side).ctl.pins.pgAon = true ∧ (List.replicate 16 (rail false)).length = 16 ∧ (∀ r ∈ List.replicate 16 (rail false), r.fault = false) ∧
    (rail true :: List.replicate 15 (rail false)).length = 16 ∧ (rail true).fault = true ∧ (up .side).ctl.byPin = false := by decide
/-- A rail that is on: all of them once the sixth group is, the always-on rail at once; and a reset by the pin a millisecond ago. -/
theorem test_rail : (up .side).ctl.pins.pgAon = true ∧ (up .side).ctl.part ≠ .safe ∧ (List.range 16).all (fun r => (up .side).railOn r) = true ∧
    ({ up .side with ctl := { (up .side).ctl with railGroups := 0 } } : State).railOn 15 = true ∧
    (let c : Ctl := { (up .side).ctl with byPin := true, clock := 100000 }
     c.byPin = true ∧ 100000 ≤ c.clock) := by decide
/-- A trip in SAFE pulls the pin too. -/
theorem test_thermal_safe : (inSafe 0 false).ctl.part = .safe ∧ (inSafe 0 false).ctl.pins.pgAon = true ∧ (up .side).powered = true := by decide

/-! ## Bring-up, reset, the fault service -/

theorem test_power_on : State.reset.ctl.pins.pgAon = false ∧ State.reset.otp.life = .blank ∧ State.reset.otp.seed = none ∧ (up .side).otp.life ≠ .blank := by decide
theorem test_pg_aon_fall : (up .side).ctl.pins.pgAon = true ∧ (up .side).ctl.persistQ = [] := by decide
theorem test_power_on_takes_the_straps : (match exec (.powerOn 1) State.reset with
    | .next t => (t.ctl.step, t.ctl.mainPower, t.otp.seed.isSome) | _ => (0, 0, false)) = (1, 1, true) := by decide +kernel
/-- A part in a step of its bring-up with so many rail groups on and PG_MAIN as given. -/
def rising (step groups : Nat) (pgMain : Bool) (mainPower : Nat := 1) (booted : Bool := true) : State :=
  { climbing step with ctl := { (climbing step).ctl with railGroups := groups, pgMain, mainPower, booted } }
theorem test_boot_verify : (rising 1 0 false 1 false).ctl.part = .bringup ∧ (rising 1 0 false 1 false).ctl.pins.pgAon = true ∧
    (rising 1 0 false 1 false).ctl.step = 1 ∧ (rising 1 0 false 1 false).ctl.booted = false := by decide
theorem test_rail_step : (rising 3 1 false).ctl.step = 3 ∧ (rising 3 1 false).ctl.mainPower = 1 ∧ 1 ≤ (rising 3 1 false).ctl.railGroups ∧
    (rising 3 5 false).ctl.railGroups < 6 := by decide
theorem test_pg_main : (rising 3 6 false).ctl.part = .bringup ∧ (rising 3 6 false).ctl.railGroups = 6 ∧ (rising 3 6 false).ctl.pgMain = false := by decide
/-- The same with PG_MAIN high and every regulator at its setpoint, or with rail 14 away from it. -/
def agreeing (last : Nat) (ran2 : Bool := false) : State :=
  let s := rising 3 6 false
  { s with ctl := { s.ctl with pins := { s.ctl.pins with pgMain := true }, sec := { s.ctl.sec with ran2 } }
           w := { s.w with tele := { s.w.tele with regs := (List.range 16).map fun i => { rail false with mv := if i = 14 then last else railMv i } } } }
theorem test_rails_agree : (agreeing (railMv 14)).ctl.pins.pgMain = true ∧ (agreeing (railMv 14)).railsAgree = true ∧ (agreeing 0).railsAgree = false ∧
    (agreeing (railMv 14) true).secondStage = some 0 ∧ (agreeing (railMv 14)).secondStage = none := by decide +kernel
theorem test_pg_main_timeout : (rising 3 1 false).ctl.step = 3 ∧ 1 ≤ (rising 3 1 false).ctl.railGroups ∧ (rising 3 1 false).ctl.pgMain = false := by decide
/-- Every cluster runs, in the fifth step. -/
def testing : State := climbing 5 fun w => { w with clusters := (List.range 64).map fun k => (k, { power := .run }) }
set_option maxRecDepth 4000 in
theorem test_self_test : testing.ctl.part = .bringup ∧ testing.ctl.step = 5 ∧ (∀ k, k < 64 → (testing.w.cluster k).power = .run) ∧
    (∀ k, k < 64 → (badCores testing.flash.repair [(1, 3)] k).length < 2) := by decide +kernel
theorem test_self_test_fails : testing.ctl.part = .bringup ∧ testing.ctl.step = 5 ∧ 2 ≤ (badCores testing.flash.repair [(1, 3), (1, 4)] 1).length ∧
    [SharedUnit.slice 0] ≠ [] := by decide +kernel
theorem test_deadline : (climbing 6).ctl.part = .bringup ∧ (climbing 6).ctl.step = 6 := by decide
/-- The record of a topology of this one part. -/
def alone : List Byte := leBytes 2 1 ++ leBytes 2 1 ++ leBytes 60 0 ++ leBytes 16 0 ++ (List.replicate 20 (leBytes 4 0xFFFF00FF)).flatten ++ leBytes 32 0
theorem test_deadline_ends : { climbing 6 with ctl := { (climbing 6).ctl with sec := { (climbing 6).ctl.sec with record := alone } } : State }.badLinks = [] ∧
    (climbing 6).badLinks ≠ [] := by decide +kernel
theorem test_pattern_cache : let s := climbing 5 fun w => { w with hbm := { w.hbm with wipe := 2 } }
    s.ctl.part = .bringup ∧ s.w.hbm.wipe = 2 ∧ s.ctl.mgmt = true ∧ s.w.scan.cache = 0 := by decide
/-- The patterns of flash stand in HBM once they are loaded (R324). -/
theorem test_pattern_cache_bytes : let s := climbing 5 fun w => { w with hbm := { w.hbm with wipe := 2 } }
    (match exec (.patternCacheLoaded true) { s with flash := { s.flash with patterns := [7, 8, 9] } } with
    | .next t => (Cells.read t.w.hbm.mem.cells patternBase 3, t.w.scan.cache) | _ => ([], 0)) = ([7, 8, 9], 1) := by decide +kernel

/-- An error record of a class for context 5. -/
def errRec (cls : Nat) : ErrRec := { cls, unit := uHbm, status := stPoison, inst := 0, ctx := 5, die := 0, addr := 0, detail := [], seq := 7, step := 0, ctr := 0 }
/-- A part whose fault service has a record waiting. -/
def faulty (cls : Nat) : State := resident .side fun w => { w with errs := { w.errs with queue := [errRec cls], waiting := [errRec cls] } }
theorem test_fault_take : [clsCe, clsUe, clsCtx, clsFatal].all (fun cls =>
    (faulty cls).ctl.mgmt && (faulty cls).ctl.part != .safe && (faulty cls).w.errs.waiting == [errRec cls]) = true ∧ ((faulty clsCtx).ent (errRec clsCtx).ctx).st ≠ .absent := by
  decide
theorem test_fault_unqueued : let s := with_ .side fun w => { w with errs := { w.errs with unqueued := [errRec clsFatal] } }
    s.ctl.mgmt = true ∧ s.w.errs.waiting = [] ∧ s.w.errs.unqueued = [errRec clsFatal] := by decide
/-- A record that waits when SAFE is entered is in the log (R489). -/
theorem test_safe_logs : (match exec .faultServiceTake (with_ .side fun w => { w with errs := { w.errs with
      waiting := [errRec clsFatal, { errRec clsCtx with seq := 8 }, { errRec clsCe with seq := 9 }] } }) with
    | .next t => t.flash.log.length | _ => 0) = 2 := by decide
theorem test_watchdog : (faulty clsCe).ctl.mgmt = true ∧ (faulty clsCe).w.errs.waiting ≠ [] ∧ (faulty clsCe).ctl.part ≠ .safe := by decide
theorem test_scan : let s := resident .side fun w => { w with scan := { w.scan with st := 1, cluster := 1, phys := 3 } }
    s.w.scan.st = 1 ∧ s.ctl.part = .ready ∧ (s.w.cluster s.w.scan.cluster).power = .run ∧ s.flash.repair.getD s.w.scan.cluster 0xFF = 0xFF ∧
      (s.w.core (16 * 1 + 3)).phys = 3 := by decide

/-- A queue of so many records of one class. -/
def queue (n cls : Nat) : Errs := { queue := (List.range n).map fun i => { errRec cls with seq := i, addr := i, occ := 1 }, next := 300 }
theorem test_queue_merges : ((queue 1 clsCe).queue.any fun q => ((queue 1 clsCe).escalate (errRec clsCe)).merges q) = true := by decide
/-- A record that repeats none of a queue. -/
def other (cls : Nat) : ErrRec := { errRec cls with addr := 5000 }
/-- What the queue holds after a record, for queues one below and at the limit of its class. -/
theorem test_queue_limits :
    [(239, clsCe), (240, clsCe), (247, clsUe), (248, clsUe), (254, clsCtx), (255, clsCtx), (255, clsFatal)].map (fun x =>
      ((queue x.1 clsUe).queue.any (fun q => ((queue x.1 clsUe).escalate (other x.2)).merges q),
        decide ((queue x.1 clsUe).queue.length < admitLimit ((queue x.1 clsUe).escalate (other x.2)).cls))) =
    [(false, true), (false, false), (false, true), (false, false), (false, true), (false, false), (false, true)] := by decide +kernel

end Sys2Proof.Tests
end

/-! PROOFS. The layout of a command record (R63): byte strings laid out field by field, read back field by field; ring slots; the tag of a
completion record. -/
namespace Sys2Proof.Machine

/-! ## Slices of strings that are fields in a row -/

/-- A slice that the byte string is long enough for is a plain piece of it: nothing is filled with zeros. -/
theorem sl_eq_take_drop {bs : List Byte} {off n : Nat} (h : off + n ≤ bs.length) : sl bs off n = (bs.drop off).take n := by
  have hlen : ((bs.drop off).take n).length = n := by simp; omega
  simp [sl, hlen]

/-- The whole of a string, as its last field. -/
@[simp] theorem sl_leBytes (n v : Nat) : sl (leBytes n v) 0 n = leBytes n v := by
  rw [sl_eq_take_drop (by simp), List.drop_zero, List.take_of_length_le (by simp)]

/-- The field at the front. -/
@[simp] theorem sl_leBytes_append (n v : Nat) (rest : List Byte) : sl (leBytes n v ++ rest) 0 n = leBytes n v := by
  rw [sl_eq_take_drop (by simp), List.drop_zero, List.take_left' (leBytes_length n v)]

/-- A slice behind the field at the front is a slice of the rest. -/
theorem sl_leBytes_append_of_le {m off : Nat} (h : m ≤ off) (v n : Nat) (rest : List Byte) :
    sl (leBytes m v ++ rest) off n = sl rest (off - m) n := by
  have hdrop : (leBytes m v ++ rest).drop off = rest.drop (off - m) := by
    rw [List.drop_append, List.drop_of_length_le (by simpa using h), leBytes_length, List.nil_append]
  simp only [sl, hdrop]

/-- Little-endian bytes read back as the number, as far as they hold it (R6). -/
theorem leNat_leBytes (n v : Nat) : leNat (leBytes n v) = v % 256 ^ n := by
  induction n generalizing v with
  | zero => simp [leBytes, leNat, Nat.mod_one]
  | succ n ih =>
    calc leNat (leBytes (n + 1) v) = v % 256 + 256 * (v / 256 % 256 ^ n) := by simp [leBytes, leNat, ih]
      _ = v % 256 ^ (n + 1) := by rw [Nat.pow_succ', Nat.mod_mul]

/-- A field that holds the bytes of a word is read as that word. -/
theorem ofNat_le_of_sl {n : Nat} {x : BitVec (8 * n)} {bs : List Byte} {off : Nat} (h : sl bs off n = leBytes n x.toNat) :
    BitVec.ofNat (8 * n) (le bs off n) = x := by
  apply BitVec.eq_of_toNat_eq
  rw [BitVec.toNat_ofNat, le, h, leNat_leBytes, show 256 ^ n = 2 ^ (8 * n) from (Nat.pow_mul 2 8 n).symm, Nat.mod_mod,
    Nat.mod_eq_of_lt x.isLt]

/-! ## Command records (R63) -/

theorem Record.bytes_length (r : Record) : r.bytes.length = 64 := by simp [Record.bytes]

/-- The twelve fields at their offsets: the fields before each one are skipped, and it stands at the front of the rest. -/
theorem Record.sl_bytes (r : Record) :
    sl r.bytes 0 1 = leBytes 1 r.op.toNat ∧ sl r.bytes 1 1 = leBytes 1 r.flags.toNat ∧ sl r.bytes 2 2 = leBytes 2 r.tag.toNat ∧
    sl r.bytes 4 4 = leBytes 4 r.mode.toNat ∧ sl r.bytes 8 8 = leBytes 8 r.sync.toNat ∧ sl r.bytes 16 8 = leBytes 8 r.p0.toNat ∧
    sl r.bytes 24 8 = leBytes 8 r.p1.toNat ∧ sl r.bytes 32 8 = leBytes 8 r.p2.toNat ∧ sl r.bytes 40 8 = leBytes 8 r.p3.toNat ∧
    sl r.bytes 48 4 = leBytes 4 r.stream.toNat ∧ sl r.bytes 52 4 = leBytes 4 r.opflags.toNat ∧
    sl r.bytes 56 8 = leBytes 8 r.imm.toNat := by
  simp [Record.bytes, sl_leBytes_append_of_le]

/-- What is read from the bytes of a record is the record. -/
theorem Record.ofBytes_bytes (r : Record) : Record.ofBytes r.bytes = r := by
  obtain ⟨hop, hflags, htag, hmode, hsync, hp0, hp1, hp2, hp3, hstream, hopflags, himm⟩ := r.sl_bytes
  cases r
  simp only [Record.ofBytes, Record.mk.injEq]
  exact ⟨ofNat_le_of_sl hop, ofNat_le_of_sl hflags, ofNat_le_of_sl htag, ofNat_le_of_sl hmode, ofNat_le_of_sl hsync, ofNat_le_of_sl hp0,
    ofNat_le_of_sl hp1, ofNat_le_of_sl hp2, ofNat_le_of_sl hp3, ofNat_le_of_sl hstream, ofNat_le_of_sl hopflags, ofNat_le_of_sl himm⟩

/-! ## Ring slots (R284, R286) -/

/-- The ring base of a configuration that is kept is aligned to a record. -/
theorem Resid.ring_aligned {r : Resid} (h : cfgOk r.cfg = true) : 64 ∣ r.ring := by
  simp only [cfgOk, Bool.and_eq_true, beq_iff_eq] at h
  obtain ⟨⟨⟨-, hring, -⟩, -⟩, -⟩ := h
  exact Nat.dvd_of_mod_eq_zero hring

theorem ringAddr_aligned {r : Resid} (h : cfgOk r.cfg = true) (j idx : Nat) : 64 ∣ ringAddr r j idx := by
  have hcore : 64 ∣ (if r.perCore then j * 64 * 2 ^ r.rlog else 0) := by
    split
    · exact Nat.dvd_mul_right_of_dvd (Nat.dvd_mul_left 64 j) _
    · exact Nat.dvd_zero 64
  exact Nat.dvd_add (Nat.dvd_add (Resid.ring_aligned h) hcore) (Nat.dvd_mul_right 64 _)

/-! ## Completion records (R89) -/

theorem completionBytes_tag (r : Record) (st flags c step count : Nat) :
    sl (completionBytes r st flags c step count) 0 2 = leBytes 2 r.tag.toNat := by
  simp only [completionBytes, List.append_assoc, sl_leBytes_append]

/-- Settles O31: the slices of a row of fields give the layout and the round trip; each summand of a slot's address is a multiple of 64. -/
theorem recordsAreLaidOut : Obligations.RecordsAreLaidOut := by
  unfold Obligations.RecordsAreLaidOut
  exact ⟨fun r => ⟨r.bytes_length, r.ofBytes_bytes, r.sl_bytes⟩, fun _ j idx h => Nat.mod_eq_zero_of_dvd (ringAddr_aligned h j idx),
    completionBytes_tag⟩

end Sys2Proof.Machine

/-! PROOFS. The fuses over time (R459, R464, R465, R472): whatever a command is, its next state's fuses are those of its state, advanced. Each
operation on the state has one lemma: it leaves the fuses as they are (`…_otp`), or advances them (`…_advances`); the commands cite these. -/
namespace Sys2Proof.Machine

/-! ## Fuses that advance -/

@[simp] theorem Otp.Advances.refl (a : Otp) : a.Advances a :=
  ⟨⟨rfl, rfl, rfl, rfl, rfl, rfl, rfl⟩, List.prefix_rfl, .inl rfl, Nat.le_refl _, Nat.le_refl _, Nat.le_refl _, Nat.le_refl _, id⟩

/-- The next state of an outcome, where it has one, has fuses advanced from the given ones. -/
def Otp.AdvancesIn (a : Otp) : Out → Prop
  | .next t => a.Advances t.otp
  | _ => True

@[simp] theorem Otp.advancesIn_next (a : Otp) (t : State) : a.AdvancesIn (.next t) ↔ a.Advances t.otp := Iff.rfl

@[simp] theorem Otp.advancesIn_ite (a : Otp) (c : Prop) [Decidable c] (x y : Out) :
    a.AdvancesIn (if c then x else y) ↔ if c then a.AdvancesIn x else a.AdvancesIn y := by
  split <;> rfl

/-- An access leaves fuses advanced from the given ones, at once and after its answer, which leaves the fuses as they are. -/
structure Fx.Advances (a : Otp) (x : Fx) : Prop where
  now : a.Advances x.s.otp
  after : ∀ t : State, t.otp = x.s.otp → a.Advances (x.post t).otp

/-- An access with nothing to do after its answer. -/
theorem Fx.advances_of_now {a : Otp} {x : Fx} (hp : x.post = id) (h : a.Advances x.s.otp) : x.Advances a :=
  ⟨h, fun t ht => by rw [hp, id, ht]; exact h⟩

@[simp] theorem Fx.advances_plain (a : Otp) (s : State) (st : Nat) (v : List Byte) (wait : Option WaitFor) :
    Fx.Advances a { s, st, value := v, wait } ↔ a.Advances s.otp :=
  ⟨fun h => h.now, fun h => Fx.advances_of_now rfl h⟩

@[simp] theorem Fx.advances_refuse (a : Otp) (s : State) (st : Nat) : (Fx.refuse s st).Advances a ↔ a.Advances s.otp := Fx.advances_plain ..

@[simp] theorem Fx.advances_world (a : Otp) (s : State) (w : World) : (Fx.world s w).Advances a ↔ a.Advances s.otp := Fx.advances_plain ..

@[simp] theorem Fx.advances_ite (a : Otp) (c : Prop) [Decidable c] (x y : Fx) :
    Fx.Advances a (if c then x else y) ↔ if c then x.Advances a else y.Advances a := by
  split <;> rfl

/-! ## What leaves the fuses as they are: contexts -/

@[simp] theorem State.ite_otp (c : Prop) [Decidable c] (x y : State) : (if c then x else y).otp = if c then x.otp else y.otp := by
  split <;> rfl

theorem State.foldl_otp {α : Type} {f : State → α → State} (h : ∀ s x, (f s x).otp = s.otp) (l : List α) (s : State) :
    (l.foldl f s).otp = s.otp :=
  List.foldlRecOn l f (motive := fun t => t.otp = s.otp) rfl fun t ht x _ => (h t x).trans ht

@[simp] theorem State.ctxTo_otp (s : State) (n : Nat) (st : CtxSt) (after : AfterSave) : (s.ctxTo n st after).otp = s.otp := by
  simp [State.ctxTo]
@[simp] theorem State.putHeader_otp (s : State) (n : Nat) : (s.putHeader n).otp = s.otp := by simp [State.putHeader]
@[simp] theorem State.ctxField_otp (s : State) (n : Nat) (x : Ctx) : (s.ctxField n x).otp = s.otp := by simp [State.ctxField]
@[simp] theorem State.unparked_otp (s : State) : s.unparked.otp = s.otp := by simp [State.unparked]

@[simp] theorem State.stopCore_otp (s : State) (c : Nat) : (s.stopCore c).otp = s.otp := by
  unfold State.stopCore
  split
  · rfl
  · simp only [State.ite_otp]
    split
    · split <;> simp
    · simp

@[simp] theorem State.startSave_otp (s : State) (n : Nat) (after : AfterSave) : (s.startSave n after).otp = s.otp := by
  simp [State.startSave, State.foldl_otp State.stopCore_otp]

@[simp] theorem State.goResume_otp (s : State) (n : Nat) : (s.goResume n).otp = s.otp := by
  unfold State.goResume
  split <;> simp

@[simp] theorem State.dropResume_otp (s : State) (n : Nat) : (s.dropResume n).otp = s.otp := by simp [State.dropResume]
@[simp] theorem State.wipeCtx_otp (s : State) (n : Nat) : (s.wipeCtx n).otp = s.otp := by simp [State.wipeCtx]
@[simp] theorem State.saveCtx_otp (s : State) (n : Nat) : (s.saveCtx n).otp = s.otp := by simp [State.saveCtx]
@[simp] theorem State.restoreFail_otp (s : State) (n st : Nat) : (s.restoreFail n st).otp = s.otp := by simp [State.restoreFail]
@[simp] theorem State.seedAt_otp (s : State) (n epoch : Nat) : (s.seedAt n epoch).otp = s.otp := by simp [State.seedAt]
@[simp] theorem State.kill_otp (s : State) (n : Nat) : (s.kill n).otp = s.otp := by simp [State.kill]

/-! ## Checkpoints -/

@[simp] theorem ckptDestroy_otp (s : State) (n : Nat) : (ckptDestroy s n).otp = s.otp := by simp [ckptDestroy]
@[simp] theorem State.ckptStart_otp (s : State) (n : Nat) : (s.ckptStart n).otp = s.otp := by simp [State.ckptStart]

@[simp] theorem State.ckptReplay_otp (s : State) (n : Nat) : (s.ckptReplay n).otp = s.otp := by
  simp only [State.ckptReplay]
  split
  · rfl
  · split <;> simp

@[simp] theorem State.pullFail_otp (s : State) (n st : Nat) : (s.pullFail n st).otp = s.otp := by simp [State.pullFail]

@[simp] theorem State.pullCheck_otp (s : State) (n : Nat) : (s.pullCheck n).otp = s.otp := by
  simp only [State.pullCheck]
  split
  · simp
  · split
    · simp
    · split <;> simp

/-- What writing a granule of a pulled checkpoint leaves, whether it succeeds or not. -/
theorem State.putGranule_otp {s t : State} {n : Nat} {e : List Byte} {g : Nat} {data : List Byte}
    (h : s.putGranule n e g data = .ok t ∨ ∃ st, s.putGranule n e g data = .error (st, t)) : t.otp = s.otp := by
  simp only [State.putGranule] at h
  split at h
  · split at h
    · obtain h | ⟨st, h⟩ := h <;> cases h
      simp
    · split at h <;> obtain h | ⟨st, h⟩ := h <;> cases h <;> simp
  · split at h <;> obtain h | ⟨st, h⟩ := h <;> cases h <;> simp

@[simp] theorem State.pullBad_otp (s : State) (src n : Nat) (k : CkptHdr) : (s.pullBad src n k).otp = s.otp := by simp [State.pullBad]

@[simp] theorem State.pullBegin_otp (s : State) (src n : Nat) (k : CkptHdr) (table : List Byte) : (s.pullBegin src n k table).otp = s.otp := by
  simp [State.pullBegin]

@[simp] theorem State.pullState_otp (s : State) (src n : Nat) (k : CkptHdr) (data : List Byte) : (s.pullState src n k data).otp = s.otp := by
  simp [State.pullState]

@[simp] theorem State.pullGranule_otp (s : State) (src n : Nat) (k : CkptHdr) (data : List Byte) : (s.pullGranule src n k data).otp = s.otp := by
  simp only [State.pullGranule]
  split
  · simp
  · split
    · simp
    · split
      · simp
      · split
        next heq => simpa using State.putGranule_otp (.inl heq)
        next heq => simpa using State.putGranule_otp (.inr ⟨_, heq⟩)

@[simp] theorem State.pullEnd_otp (s : State) (src n : Nat) (k : CkptHdr) : (s.pullEnd src n k).otp = s.otp := by simp [State.pullEnd]
@[simp] theorem State.pullReplay_otp (s : State) (n : Nat) (k : CkptHdr) (data : List Byte) : (s.pullReplay n k data).otp = s.otp := by
  simp [State.pullReplay]

@[simp] theorem State.answered_otp (s : State) (src : Nat) (k : CkptHdr) : (s.answered src k).otp = s.otp := by
  simp only [State.answered]
  split
  · simp
  · split <;> simp

@[simp] theorem State.pullLost_otp (s : State) (rank : Nat) : (s.pullLost rank).otp = s.otp :=
  State.foldl_otp (fun s n => s.pullFail_otp n stTimeout) _ s

@[simp] theorem State.ckptLinkDown_otp (s : State) (rank : Nat) : (s.ckptLinkDown rank).otp = s.otp := by simp [State.ckptLinkDown]
@[simp] theorem State.ckptLost_otp (s : State) (rank : Nat) : (s.ckptLost rank).otp = s.otp := by simp [State.ckptLost]

/-! ## The part's state -/

@[simp] theorem State.logRec_otp (s : State) (r : ErrRec) : (s.logRec r).otp = s.otp := (s.logRec_only r).otp
@[simp] theorem State.logOwed_otp (s : State) : s.logOwed.otp = s.otp := s.logOwed_only.otp

@[simp] theorem State.raiseLogged_otp (s : State) (cls unit status inst addr : Nat) (detail : List Byte) (again : Bool) :
    (s.raiseLogged cls unit status inst addr detail again).otp = s.otp := by
  simp only [State.raiseLogged]
  split
  · simp
  · split <;> simp

@[simp] theorem State.partTo_otp (s : State) (p : PartSt) : (s.partTo p).otp = s.otp := by simp [State.partTo]
@[simp] theorem State.safe_otp (s : State) (st : Nat) : (s.safe st).otp = s.otp := by simp [State.safe]

@[simp] theorem State.fatal_otp (s : State) (unit status inst st addr : Nat) (detail : List Byte) :
    (s.fatal unit status inst st addr detail).otp = s.otp := by
  simp [State.fatal]

@[simp] theorem State.fatals_otp (s : State) (failed : List (Nat × Nat)) (st : Nat) : (s.fatals failed st).otp = s.otp := by
  rw [State.fatals, State.safe_otp, State.foldl_otp fun _ _ => State.raiseLogged_otp .., State.logOwed_otp]

@[simp] theorem State.destroyAll_otp (s : State) : s.destroyAll.otp = s.otp :=
  State.foldl_otp (fun s n => by simp) _ s

@[simp] theorem State.railsOff_otp (s : State) : s.railsOff.otp = s.otp := by simp [State.railsOff]
@[simp] theorem State.startRails_otp (s : State) : s.startRails.otp = s.otp := by simp [State.startRails]
@[simp] theorem State.restart_otp (s : State) (straps : BitVec 4) (resets : Nat) : (s.restart straps resets).otp = s.otp := by
  simp only [State.restart, State.partTo_otp, State.withW_frame, State.logOwed_otp]
@[simp] theorem State.enterReady_otp (s : State) : s.enterReady.otp = s.otp := by simp [State.enterReady]

@[simp] theorem State.enterMismatch_otp (s : State) (bad : List Nat) : (s.enterMismatch bad).otp = s.otp := by
  simp only [State.enterMismatch, State.partTo_otp]
  exact State.foldl_otp (fun _ _ => State.raiseLogged_otp ..) bad s

@[simp] theorem State.compare_otp (s : State) (deadline : Bool) : (s.compare deadline).otp = s.otp := by
  simp only [State.compare]
  split <;> simp

/-! ## Cores, power and bring-up -/

@[simp] theorem State.reawaken_otp (s : State) (c : Nat) : (s.reawaken c).otp = s.otp := by
  unfold State.reawaken
  split <;> simp

@[simp] theorem State.advanceStep_otp (s : State) (n new : Nat) : (s.advanceStep n new).otp = s.otp := by simp [State.advanceStep]

@[simp] theorem State.wakeReady_otp (s : State) (r : Resid) : (s.wakeReady r).otp = s.otp :=
  State.foldl_otp (fun s c => by split <;> simp) _ s

@[simp] theorem State.idleTick_otp (s : State) : s.idleTick.otp = s.otp := by simp [State.idleTick]
@[simp] theorem State.runs_otp (s : State) (k : Nat) : (s.runs k).otp = s.otp := by simp [State.runs]
@[simp] theorem State.railFault_otp (s : State) (rail status st : Nat) : (s.railFault rail status st).otp = s.otp := by simp [State.railFault]
@[simp] theorem State.warnSigs_otp (s : State) (left : Nat) : (s.warnSigs left).otp = s.otp := by simp [State.warnSigs]
@[simp] theorem State.takeToken_otp (s : State) : s.takeToken.otp = s.otp := by simp [State.takeToken]

@[simp] theorem State.countSkipped_otp (s : State) : s.countSkipped.otp = s.otp := by
  simp only [State.countSkipped]
  split <;> simp

@[simp] theorem State.railsUp_otp (s : State) : s.railsUp.otp = s.otp := by
  simp only [State.railsUp]
  split <;> simp

@[simp] theorem State.tryRails_otp (s : State) : s.tryRails.otp = s.otp := by simp [State.tryRails]

@[simp] theorem State.logFailures_otp (s : State) (failed : List (ClusterId × Fin 17)) : (s.logFailures failed).otp = s.otp :=
  State.foldl_otp (fun _ _ => State.raiseLogged_otp ..) _ s

/-! ## Links and reliability -/

@[simp] theorem State.markLost_otp (s : State) (before : World) (rank l reporter : Nat) (from_ : Option Nat) :
    (s.markLost before rank l reporter from_).otp = s.otp := by
  simp [State.markLost]

@[simp] theorem State.linkDown_otp (s : State) (l : Nat) : (s.linkDown l).otp = s.otp := by simp [State.linkDown]
@[simp] theorem State.replay_otp (s : State) (l seq : Nat) : (s.replay l seq).otp = s.otp := by simp [State.replay]
@[simp] theorem State.servedContexts_otp (s : State) : s.servedContexts.otp = s.otp := by simp [State.servedContexts]

@[simp] theorem State.serve_otp (s : State) (r : ErrRec) : (s.serve r).otp = s.otp := by
  unfold State.serve
  split <;> simp

/-! ## Sessions, frames and requests -/

@[simp] theorem State.answer_otp (s : State) (h : KocHdr) (a : Answer) : (s.answer h a).otp = s.otp := by simp [State.answer]
@[simp] theorem State.transmit_otp (s : State) (h : KocHdr) (l : List (Nat × KocBody)) : (s.transmit h l).otp = s.otp := by simp [State.transmit]
@[simp] theorem State.countRequest_otp (s : State) (p : KocPort) : (s.countRequest p).1.otp = s.otp := by
  simp only [State.countRequest]
  split <;> simp
@[simp] theorem State.countRead_otp (s : State) (src : Nat) : (s.countRead src).1.otp = s.otp := by
  simp only [State.countRead]
  split <;> simp
@[simp] theorem State.domainRead_otp (s : State) (idx sub off len : Nat) : (s.domainRead idx sub off len).otp = s.otp := by simp [State.domainRead]
@[simp] theorem State.knownAnswer_otp (s : State) (idx sub : Nat) : (s.knownAnswer idx sub).otp = s.otp := by simp [State.knownAnswer]
@[simp] theorem State.putPersist_otp (s : State) (p : Persist) : (s.putPersist p).otp = s.otp := by simp [State.putPersist]

/-- A frame at a port leaves the fuses as they are, taken or not. -/
theorem State.frameIn_otp {s t : State} {p : KocPort} {net : NetHdr} {udp : Nat}
    (h : s.frameIn p net udp = .ok t ∨ s.frameIn p net udp = .error t) : t.otp = s.otp := by
  obtain h | h := h
  · obtain ⟨hw, -⟩ := State.frameIn_only h
    rw [hw, (s.withW_frame _).2.2.1]
  · unfold State.frameIn at h
    split at h
    · cases h; rfl
    · split at h
      · split at h <;> cases h
        rfl
      · split at h
        · split at h <;> cases h
          simp
        · cases h
          simp

theorem State.kocArrive_otp {s t : State} {h : KocHdr} (e : s.kocArrive h = .ok t ∨ s.kocArrive h = .error t) : t.otp = s.otp :=
  State.frameIn_otp e

theorem State.kocOutside_otp {s t : State} {h : KocHdr} {sound : Bool}
    (e : s.kocOutside h sound = .ok t ∨ s.kocOutside h sound = .error t) : t.otp = s.otp := by
  unfold State.kocOutside at e
  split at e
  next ha =>
    obtain e | e := e <;> cases e
    exact State.kocArrive_otp (.inr ha)
  next ha =>
    split at e <;> obtain e | e := e <;> cases e <;> simpa using State.kocArrive_otp (.inl ha)

theorem State.kocFrame_otp {s t : State} {h : KocHdr} {type : Nat} {payload : List Byte}
    (e : (∃ k, s.kocFrame h type payload = .ok (t, k)) ∨ s.kocFrame h type payload = .error t) : t.otp = s.otp := by
  unfold State.kocFrame at e
  split at e
  next ha =>
    obtain ⟨k, e⟩ | e := e <;> cases e
    exact State.kocArrive_otp (.inr ha)
  next ha =>
    have hs := State.kocArrive_otp (.inl ha)
    split at e
    · obtain ⟨k, e⟩ | e := e <;> cases e
      simpa using hs
    · split at e
      · obtain ⟨k, e⟩ | e := e <;> cases e
        simpa using hs
      · split at e <;> obtain ⟨k, e⟩ | e := e <;> cases e <;> simpa using hs

/-- A request keeps the fuses until it runs. -/
theorem State.request_advances {s : State} {h : KocHdr} {type : Nat} {payload : List Byte} {run : State → Session → State}
    (hrun : ∀ t k, t.otp = s.otp → s.otp.Advances (run t k).otp) : s.otp.AdvancesIn (s.request h type payload run) := by
  unfold State.request
  split
  next hf => simp [State.kocFrame_otp (.inr hf)]
  next hf =>
    have hs := State.kocFrame_otp (.inl ⟨_, hf⟩)
    split
    · simp [hs]
    · split
      · simp [hs]
      · dsimp only
        split
        · exact hrun _ _ (by simp [hs])
        · simp [hs]

theorem Fx.Advances.finish {a : Otp} {x : Fx} (hx : x.Advances a) (h : KocHdr) : a.Advances (x.finish h).otp := by
  unfold Fx.finish
  split
  · simpa using hx.now
  · exact hx.after _ (by simp)

theorem State.writeValue_advances {s : State} {eff : State → Session → Fx} (he : ∀ s k, (eff s k).Advances s.otp) (k : Session) (idx sub : Nat)
    (v : List Byte) : (s.writeValue k idx sub v eff).Advances s.otp := by
  unfold State.writeValue
  split
  · simp
  · simp [he]
  · simp

/-- A WRITE does no more to the fuses than its object's rule. -/
theorem State.writeRequest_advances {s : State} {h : KocHdr} {idx sub : Nat} {v : List Byte} {eff : State → Session → Fx}
    (he : ∀ s k, (eff s k).Advances s.otp) : s.otp.AdvancesIn (s.writeRequest h idx sub v eff) :=
  State.request_advances fun _ k ht => ht ▸ (State.writeValue_advances he k idx sub v).finish h

/-- A whole staged value does no more to the fuses than its object's rule. -/
theorem State.domainRequest_advances {s : State} {h : KocHdr} {idx sub len : Nat} {eff : State → Session → Fx}
    (he : ∀ s k, (eff s k).Advances s.otp) : s.otp.AdvancesIn (s.domainRequest h idx sub len eff) :=
  State.request_advances fun t k ht => by
    rw [← ht]
    split
    · exact ((Fx.advances_refuse ..).2 (.refl _)).finish h
    · exact (he t k).finish h

/-! ## Objects that do not fuse -/

@[simp] theorem rangeFx_advances (a : Otp) (s : State) (n lo hi : Nat) (v : List Byte) (f : Nat → State) (hs : a.Advances s.otp)
    (hf : ∀ x, a.Advances (f x).otp) : (rangeFx s n lo hi v f).Advances a := by
  unfold rangeFx
  split <;> simp [hs, hf]

@[simp] theorem rangeW_advances (s : State) (n lo hi : Nat) (v : List Byte) (f : Nat → World) : (rangeW s n lo hi v f).Advances s.otp := by
  simp [rangeW]

@[simp] theorem octetsFx_advances (a : Otp) (s : State) (n : Nat) (v : List Byte) (t : State) (hs : a.Advances s.otp) (ht : a.Advances t.otp) :
    (octetsFx s n v t).Advances a := by
  simp [octetsFx, hs, ht]

@[simp] theorem cacheInvalidateFx_advances (s : State) (v : List Byte) : (cacheInvalidateFx s v).Advances s.otp := by simp [cacheInvalidateFx]
@[simp] theorem coreResumeFx_advances (s : State) (c : Nat) (v : List Byte) : (coreResumeFx s c v).Advances s.otp := by simp [coreResumeFx]

@[simp] theorem windowOpenFx_advances (s : State) (c i : Nat) : (windowOpenFx s c i).Advances s.otp := by
  unfold windowOpenFx
  split <;> simp

@[simp] theorem windowCloseFx_advances (s : State) (c i : Nat) : (windowCloseFx s c i).Advances s.otp := by simp [windowCloseFx]

@[simp] theorem dirtyClearFx_advances (s : State) (c : Nat) (v : List Byte) : (dirtyClearFx s c v).Advances s.otp := by
  unfold dirtyClearFx
  split <;> simp

@[simp] theorem chanFx_advances (s : State) (d : Nat) (f : World → Resid → Nat → Nat → Ctrl) : (chanFx s d f).Advances s.otp := by
  unfold chanFx
  split <;> simp

@[simp] theorem resumeFx_advances (s : State) (n : Nat) : (resumeFx s n).Advances s.otp := by
  unfold resumeFx
  split <;> simp

@[simp] theorem preemptFx_advances (s : State) (n : Nat) : (preemptFx s n).Advances s.otp := by
  unfold preemptFx
  split <;> simp

@[simp] theorem createFx_advances (s : State) (n : Nat) : (createFx s n).Advances s.otp := by
  simp only [createFx]
  split <;> simp

@[simp] theorem destroyFx_advances (s : State) (n : Nat) : (destroyFx s n ckptDestroy).Advances s.otp := by
  unfold destroyFx
  split <;> simp

@[simp] theorem doorbellFx_advances (s : State) (n : Nat) (v : List Byte) : (doorbellFx s n v).Advances s.otp := by
  simp only [doorbellFx]
  split
  · simp
  · split
    · simp
    · split <;> simp

@[simp] theorem invalidateFx_advances (s : State) (n : Nat) (v : List Byte) : (invalidateFx s n v).Advances s.otp := by simp [invalidateFx]

@[simp] theorem seedFx_advances (s : State) (n : Nat) (v : List Byte) : (seedFx s n v).Advances s.otp := by
  unfold seedFx
  split <;> simp

@[simp] theorem reseedFx_advances (s : State) (n : Nat) (v : List Byte) : (reseedFx s n v).Advances s.otp := by
  unfold reseedFx
  split <;> simp

@[simp] theorem predictorSlotsFx_advances (s : State) (n : Nat) (v : List Byte) : (predictorSlotsFx s n v).Advances s.otp := by
  simp [predictorSlotsFx]
@[simp] theorem importFx_advances (s : State) (n : Nat) (image : List (Nat × Byte)) : (importFx s n image).Advances s.otp := by simp [importFx]
@[simp] theorem configFx_advances (s : State) (n : Nat) (v : List Byte) : (configFx s n v).Advances s.otp := by simp [configFx]

@[simp] theorem buddyFx_advances (s : State) (v : List Byte) : (buddyFx s v).Advances s.otp := by
  unfold buddyFx
  split <;> simp

@[simp] theorem wardFx_advances (s : State) (v : List Byte) : (wardFx s v).Advances s.otp := by
  unfold wardFx
  split <;> simp

@[simp] theorem ckptConfigFx_advances (s : State) (n : Nat) (v : List Byte) : (ckptConfigFx s n v).Advances s.otp := by simp [ckptConfigFx]
@[simp] theorem ckptTableFx_advances (s : State) (n : Nat) (v : List Byte) : (ckptTableFx s n v).Advances s.otp := by simp [ckptTableFx]
@[simp] theorem restoreRequestFx_advances (s : State) (n : Nat) (v : List Byte) : (restoreRequestFx s n v).Advances s.otp := by
  simp [restoreRequestFx]
@[simp] theorem snapshotRequestFx_advances (s : State) (v : List Byte) : (snapshotRequestFx s v).Advances s.otp := by simp [snapshotRequestFx]
@[simp] theorem snapshotReleaseFx_advances (s : State) (v : List Byte) : (snapshotReleaseFx s v).Advances s.otp := by simp [snapshotReleaseFx]

@[simp] theorem clusterFloorFx_advances (s : State) (k : Nat) (v : List Byte) : (clusterFloorFx s k v).Advances s.otp := by
  simp only [clusterFloorFx]
  split <;> simp

@[simp] theorem railMarginFx_advances (s : State) (v : List Byte) : (railMarginFx s v).Advances s.otp := by simp [railMarginFx]
@[simp] theorem mainOffFx_advances (s : State) : (mainOffFx s).Advances s.otp := by simp [mainOffFx]
@[simp] theorem mainOnFx_advances (s : State) : (mainOnFx s).Advances s.otp := by simp [mainOnFx]

@[simp] theorem firmwareFx_advances (s : State) (v : List Byte) : (firmwareFx s v).Advances s.otp := by
  unfold firmwareFx
  split <;> simp

@[simp] theorem quoteFx_advances (s : State) (v : List Byte) : (quoteFx s v).Advances s.otp := by
  unfold quoteFx
  split
  · simp
  · split
    · simp
    · split <;> simp

@[simp] theorem licenceFx_advances (s : State) (v : List Byte) : (licenceFx s v).Advances s.otp := by simp [licenceFx]
@[simp] theorem qpReadyFx_advances (s : State) (q : Nat) : (qpReadyFx s q).Advances s.otp := by simp [qpReadyFx]
@[simp] theorem qpResetFx_advances (s : State) (q : Nat) : (qpResetFx s q).Advances s.otp := by simp [qpResetFx]

@[simp] theorem qpConfigFx_advances (s : State) (q sub : Nat) (v : List Byte) : (qpConfigFx s q sub v).Advances s.otp := by
  simp only [qpConfigFx]
  split
  · split <;> simp
  · split
    · simp
    · split <;> simp

@[simp] theorem regionFx_advances (s : State) (m sub : Nat) (v : List Byte) : (regionFx s m sub v).Advances s.otp := by
  simp only [regionFx]
  split
  · simp
  · split
    case h_6 => simp
    all_goals split <;> simp

@[simp] theorem linkRetrainFx_advances (s : State) (l : Nat) (v : List Byte) : (linkRetrainFx s l v).Advances s.otp := by
  unfold linkRetrainFx
  split
  · simp
  · split <;> simp

@[simp] theorem lostRankFx_advances (s : State) (v : List Byte) : (lostRankFx s v).Advances s.otp := by
  unfold lostRankFx
  split <;> simp

@[simp] theorem errorAckFx_advances (s : State) (v : List Byte) : (errorAckFx s v).Advances s.otp := by
  unfold errorAckFx
  split <;> simp

@[simp] theorem logClearFx_advances (s : State) (v : List Byte) : (logClearFx s v).Advances s.otp := by simp [logClearFx]

@[simp] theorem scanFx_advances (s : State) (v : List Byte) : (scanFx s v).Advances s.otp := by
  simp only [scanFx]
  split
  · simp
  · split <;> simp

@[simp] theorem readFx_advances (a : Otp) (s : State) (k : Option Session) (idx sub : Nat) (hs : a.Advances s.otp) :
    (readFx s k idx sub).Advances a := by
  unfold readFx
  split <;> simp [hs]

@[simp] theorem persistFx_advances (s : State) (idx sub : Nat) (v : List Byte) : (persistFx s idx sub v).Advances s.otp := by
  simp only [persistFx]
  split <;> simp

@[simp] theorem keyListFx_advances (s : State) (sub : Nat) (v : List Byte) : (keyListFx s sub v).Advances s.otp := by simp [keyListFx]

@[simp] theorem leaseFx_advances (s : State) (k : Session) (v : List Byte) : (leaseFx s k v).Advances s.otp := by
  unfold leaseFx
  split <;> simp

@[simp] theorem revokeFx_advances (s : State) (v : List Byte) : (revokeFx s v).Advances s.otp := by simp [revokeFx]

/-- The reset that follows the answer keeps the fuses (R429). -/
@[simp] theorem resetFx_advances (s : State) (v : List Byte) : (resetFx s v).Advances s.otp := by
  unfold resetFx
  split
  · exact ⟨.refl _, fun t ht => by simp [ht]⟩
  · simp

@[simp] theorem powerFx_advances (s : State) (idx sub : Nat) (v : List Byte) : (powerFx s idx sub v).Advances s.otp := by
  unfold powerFx
  split <;> simp

@[simp] theorem numsFx_advances (s : State) (sub : Nat) (v : List Byte) : (numsFx s sub v).Advances s.otp := by
  unfold numsFx
  split <;> simp

@[simp] theorem scrubFx_advances (s : State) (v : List Byte) : (scrubFx s v).Advances s.otp := by simp [scrubFx]

@[simp] theorem eventsFx_advances (s : State) (k : Session) (sub : Nat) (v : List Byte) : (eventsFx s k sub v).Advances s.otp := by
  simp only [eventsFx]
  split <;> simp

@[simp] theorem tokenFx_advances (s : State) (v : List Byte) : (tokenFx s v).Advances s.otp := by simp [tokenFx]

@[simp] theorem windowFx_advances (s : State) (c i k : Nat) (v : List Byte) : (windowFx s c i k v).Advances s.otp := by
  simp only [windowFx]
  split
  · simp
  · split
    · simp
    · split <;> simp

@[simp] theorem coreFx_advances (s : State) (c sub : Nat) (v : List Byte) : (coreFx s c sub v).Advances s.otp := by
  simp only [coreFx]
  split <;> simp

@[simp] theorem consumerFx_advances (s : State) (n : Nat) (v : List Byte) : (consumerFx s n v).Advances s.otp := by simp [consumerFx]

@[simp] theorem contextFx_advances (s : State) (n sub : Nat) (v : List Byte) : (contextFx s n sub v).Advances s.otp := by
  unfold contextFx
  split
  · split <;> simp
  all_goals simp

@[simp] theorem protectFx_advances (s : State) (n : Nat) (v : List Byte) : (protectFx s n v).Advances s.otp := by simp [protectFx]

@[simp] theorem randomFx_advances (s : State) (n sub : Nat) (v : List Byte) : (randomFx s n sub v).Advances s.otp := by
  unfold randomFx
  split <;> simp

@[simp] theorem channelFx_advances (s : State) (d : Nat) (v : List Byte) : (channelFx s d v).Advances s.otp := by
  unfold channelFx
  split <;> simp

theorem groupConfigFx_otp (s : State) (g sub : Nat) (v : List Byte) : (groupConfigFx s g sub v).1.otp = s.otp := by
  simp only [groupConfigFx]
  split
  · rfl
  · split
    case h_5 => rfl
    all_goals split <;> simp

@[simp] theorem groupFx_advances (s : State) (g sub : Nat) (v : List Byte) : (groupFx s g sub v).Advances s.otp := by
  simp [groupFx, groupConfigFx_otp]

@[simp] theorem queuePairFx_advances (s : State) (q sub : Nat) (v : List Byte) : (queuePairFx s q sub v).Advances s.otp := by
  unfold queuePairFx
  split <;> simp

@[simp] theorem checkpointFx_advances (s : State) (n sub : Nat) (v : List Byte) : (checkpointFx s n sub v).Advances s.otp := by
  unfold checkpointFx
  split <;> simp

/-! ## Objects that fuse (R460, R464, R465, R469, R472) -/

@[simp] theorem Otp.advances_blocks (a : Otp) (n : Nat) : a.Advances { a with blocks := max a.blocks n } :=
  { Otp.Advances.refl a with blocks := Nat.le_max_left .. }

/-- A signature fuses its block, where none before it did (R465). -/
@[simp] theorem State.sign_otp (s : State) (msg : List Byte) :
    (s.sign msg).1.otp = { s.otp with blocks := max s.otp.blocks (s.ctl.sec.nextSig / 256 + 1) } := by
  simp [State.sign]

/-- The floor is only raised (R464). -/
@[simp] theorem securityFloorFx_advances (s : State) (v : List Byte) : (securityFloorFx s v).Advances s.otp := by
  unfold securityFloorFx
  split
  · simp
  · split
    next hx => exact Fx.advances_of_now rfl { Otp.Advances.refl s.otp with floor := Nat.le_of_lt hx.1 }
    next => simp

/-- Topology keys are only appended (R460). -/
@[simp] theorem topologyKeyFx_advances (s : State) (v : List Byte) : (topologyKeyFx s v).Advances s.otp := by
  simp only [topologyKeyFx]
  split
  · simp
  · exact Fx.advances_of_now rfl { Otp.Advances.refl s.otp with topo := List.prefix_append .. }

/-- The licence generation only rises (R470). -/
@[simp] theorem State.bootLicence_advances (s : State) : s.otp.Advances s.bootLicence.otp := by
  simp only [State.bootLicence]
  split
  · simp
  · split
    · exact { Otp.Advances.refl s.otp with generation := Nat.le_succ _ }
    · simp

theorem lifeCode_le_scrapped (l : LifeSt) : lifeCode l ≤ lifeCode .scrapped := by cases l <;> decide

/-- An accepted transition leads to a later state of the life-cycle (R472). -/
theorem lifeCode_le_of_lifeStatus {s : State} {v keyHash : List Byte} {l : LifeSt} (h : s.lifeStatus v keyHash = stOk)
    (hl : lifeOf (leNat v) = some l) : lifeCode s.otp.life ≤ lifeCode l := by
  have hrefused : ¬ stState = stOk := by decide
  simp only [State.lifeStatus, uintOf] at h
  split at h
  · exact absurd h hrefused
  next x hx =>
    obtain ⟨-, rfl⟩ : _ ∧ leNat v = x := by simpa using hx
    rw [hl] at h
    split at h
    case h_4 | h_6 => exact absurd h hrefused
    case h_5 hto _ => cases hto; exact lifeCode_le_scrapped _
    case h_1 hfrom hto | h_2 hfrom hto | h_3 hfrom hto =>
      cases hto
      rw [hfrom]
      decide

theorem State.lifeClears_advances {s : State} {l : LifeSt} (h : lifeCode s.otp.life ≤ lifeCode l) : s.otp.Advances (s.lifeClears l).otp := by
  have hl : s.otp.Advances { s.otp with life := l } := { Otp.Advances.refl s.otp with life := h }
  unfold State.lifeClears
  split
  · exact hl
  · exact { hl with scrap := fun _ => rfl }
  · exact hl

theorem State.lifeChange_advances {s : State} {l : LifeSt} (h : lifeCode s.otp.life ≤ lifeCode l) : s.otp.Advances (s.lifeChange l).otp := by
  have hc := State.lifeClears_advances (s := s.destroyAll.withW (s.destroyAll.w.endLease 5)) (by simpa using h)
  simpa [State.lifeChange] using hc

@[simp] theorem lifecycleFx_advances (s : State) (k : Session) (v : List Byte) : (lifecycleFx s k v).Advances s.otp := by
  simp only [lifecycleFx]
  split
  next l hl =>
    split
    next hst =>
      refine ⟨.refl _, fun t ht => ?_⟩
      rw [← ht]
      exact State.lifeChange_advances (ht ▸ lifeCode_le_of_lifeStatus hst hl)
    next => simp
  next => simp

@[simp] theorem securityFx_advances (s : State) (k : Session) (idx sub : Nat) (v : List Byte) : (securityFx s k idx sub v).Advances s.otp := by
  unfold securityFx
  split <;> simp

/-- Every write of an object only advances the fuses. -/
@[simp] theorem writeFx_advances (s : State) (k : Session) (idx sub : Nat) (v : List Byte) : (writeFx s k idx sub v).Advances s.otp := by
  simp [writeFx]

theorem writeFx_withW_advances (s : State) (w : World) (k : Session) (idx sub : Nat) (v : List Byte) :
    (writeFx (s.withW w) k idx sub v).Advances s.otp := by
  simpa using writeFx_advances (s.withW w) k idx sub v

theorem State.openStaged_advances (s : State) (k : Session) (idx sub : Nat) (v : List Byte) : (s.openStaged k idx sub v).Advances s.otp := by
  simp only [State.openStaged]
  split
  · simp
  · split <;> simp

theorem State.writeAny_advances (s : State) (h : KocHdr) (idx sub : Nat) (v : List Byte) : s.otp.AdvancesIn (s.writeAny h idx sub v) :=
  State.request_advances fun t k ht => by
    rw [← ht]
    split
    · exact (t.openStaged_advances k idx sub v).finish h
    · exact (State.writeValue_advances (fun s k => writeFx_advances s k idx sub v) k idx sub v).finish h

theorem State.readValue_advances (s : State) (k : Session) (idx sub : Nat) : (s.readValue k idx sub).Advances s.otp := by
  unfold State.readValue
  split <;> simp

theorem State.landSegment_advances {a : Otp} {s : State} (hs : s.otp = a) (h : KocHdr) (k : Session) (x : SegXfer) :
    a.Advances (s.landSegment h k x).otp := by
  subst hs
  simp only [State.landSegment]
  split
  · simp
  · split
    · split
      · simp
      · exact (writeFx_withW_advances ..).after _ (by simp)
    · simp

/-! ## What commands share -/

/-- A command that acts on the world only. -/
theorem Otp.advancesIn_withW (s : State) (w : World) : s.otp.AdvancesIn (.next (s.withW w)) := by simp

theorem State.collIn_advances (s : State) (l : Nat) (h : SeamHdr) (b : FrameBody) (f : World → World) : s.otp.AdvancesIn (s.collIn l h b f) := by
  unfold State.collIn
  split
  · simp
  · split <;> simp

theorem State.chanRun_advances {s : State} {d : Nat} {f : Nat → Resid → Out} (hf : ∀ n r, s.otp.AdvancesIn (f n r)) :
    s.otp.AdvancesIn (s.chanRun d f) := by
  unfold State.chanRun
  split <;> simp [hf]

theorem State.ckptIn_advances {s : State} {l : Nat} {h : SeamHdr} {op : Nat} {k : CkptHdr} {data : List Byte} {ward : World → World}
    {pull : State → Nat → State} (hpull : ∀ s n, (pull s n).otp = s.otp) : s.otp.AdvancesIn (s.ckptIn l h op k data ward pull) := by
  unfold State.ckptIn
  split
  · simp
  · split
    · simp
    · split <;> simp [hpull]

theorem State.scalar_advances (s : State) (c : Nat) (row : Record → Bool) (f : World → Env → Nat → Record → Scalar) :
    s.otp.AdvancesIn (s.scalar c row f) := by
  unfold State.scalar
  split <;> simp

theorem State.dmago_advances (s : State) (c action : Nat) (f : World → Resid → Nat → Nat → Ctrl) : s.otp.AdvancesIn (s.dmago c action f) := by
  unfold State.dmago
  split
  · simp
  · split <;> simp

theorem State.descend_advances (s : State) (k : Nat) (from_ to_ : PowerSt) : s.otp.AdvancesIn (s.descend k from_ to_) := by
  simp [State.descend]

theorem State.neighbour_advances (s : State) (p : KocPort) (ours : Bool) (len : Nat) (m : OutMsg) :
    s.otp.AdvancesIn (s.neighbour p ours len m) := by
  simp only [State.neighbour]
  split
  · simp
  · split
    · simp
    · split
      · split <;> simp
      · simp

theorem State.roce_advances (s : State) (p q : Nat) (net : NetHdr) (f : World → World) : s.otp.AdvancesIn (s.roce p q net f) := by
  unfold State.roce
  split
  next h => simp [State.frameIn_otp (.inr h)]
  next h => simp [State.frameIn_otp (.inl h)]

theorem State.linkIn_advances {s : State} {l : Nat} {h : SeamHdr} {b : FrameBody} {f : World → State} (hf : ∀ w, (f w).otp = s.otp) :
    s.otp.AdvancesIn (s.linkIn l h b f) := by
  unfold State.linkIn
  split <;> simp [hf]

theorem State.winIn_advances (s : State) (l : Nat) (h : SeamHdr) (b : FrameBody) (f : World → World) : s.otp.AdvancesIn (s.winIn l h b f) :=
  State.linkIn_advances fun _ => by simp

/-! ## Commands of the cores -/

theorem execCorrectedWriteback_advances (c : CoreId) (s : State) : s.otp.AdvancesIn (execCorrectedWriteback c s) := by
  simp [execCorrectedWriteback]

theorem execCorePatrolScrub_advances (k : ClusterId) (s : State) : s.otp.AdvancesIn (execCorePatrolScrub k s) := by simp [execCorePatrolScrub]

theorem execWindowDrainTimeout_advances (c : CoreId) (w : WinId) (s : State) : s.otp.AdvancesIn (execWindowDrainTimeout c w s) := by
  simp [execWindowDrainTimeout]

theorem execCommandFetch_advances (c : CoreId) (s : State) : s.otp.AdvancesIn (execCommandFetch c s) := by
  simp only [execCommandFetch]
  split
  · simp
  · split
    · simp
    · split <;> simp

theorem execEngineRecordDispatch_advances (c : CoreId) (s : State) : s.otp.AdvancesIn (execEngineRecordDispatch c s) := by
  simp only [execEngineRecordDispatch]
  split
  · split <;> simp
  · simp

theorem execRecordComplete_advances (c : CoreId) (q : Queue) (s : State) : s.otp.AdvancesIn (execRecordComplete c q s) := by
  unfold execRecordComplete
  split
  · split <;> simp
  · simp

theorem execSyncSignalDelivery_advances (i : Nat) (s : State) : s.otp.AdvancesIn (execSyncSignalDelivery i s) := by
  unfold execSyncSignalDelivery
  split <;> simp

theorem execWaitTimeout_advances (c : CoreId) (at_ : WaitSite) (s : State) : s.otp.AdvancesIn (execWaitTimeout c at_ s) := by
  unfold execWaitTimeout
  split
  · simp
  · split
    · simp
    · split
      · simp
      · split
        · split <;> simp
        · split <;> simp

theorem execSignal_advances (c : CoreId) (s : State) : s.otp.AdvancesIn (execSignal c s) := by
  unfold execSignal
  split <;> simp

theorem execFence_advances (c : CoreId) (s : State) : s.otp.AdvancesIn (execFence c s) := by
  unfold execFence
  split <;> simp

theorem execDmagoStart_advances (c : CoreId) (s : State) : s.otp.AdvancesIn (execDmagoStart c s) := by
  unfold execDmagoStart
  split <;> simp

theorem execStepRec_advances (c : CoreId) (s : State) : s.otp.AdvancesIn (execStepRec c s) := by
  unfold execStepRec
  split <;> simp [State.foldl_otp State.stopCore_otp]

theorem execStore_advances (c : CoreId) (s : State) : s.otp.AdvancesIn (execStore c s) := by
  unfold execStore
  split
  · split
    · split <;> simp
    · simp
  · simp

theorem execCrownPhaseStart_advances (c : CoreId) (s : State) : s.otp.AdvancesIn (execCrownPhaseStart c s) := by
  unfold execCrownPhaseStart
  split <;> simp

theorem execCrownPhaseEnd_advances (c : CoreId) (s : State) : s.otp.AdvancesIn (execCrownPhaseEnd c s) := by
  unfold execCrownPhaseEnd
  split <;> simp

/-! ## Commands of DMA channels, snapshots and contexts -/

theorem execPredictorUpdateDone_advances (n : CtxId) (s : State) : s.otp.AdvancesIn (execPredictorUpdateDone n s) := by
  simp [execPredictorUpdateDone]

theorem execDmaDescriptorFetch_advances (d : ChanId) (s : State) : s.otp.AdvancesIn (execDmaDescriptorFetch d s) :=
  State.chanRun_advances fun _ _ => by simp

theorem execDmaDescriptorComplete_advances (d : ChanId) (s : State) : s.otp.AdvancesIn (execDmaDescriptorComplete d s) :=
  State.chanRun_advances fun _ _ => by
    dsimp only
    split
    · simp
    · split <;> simp

theorem execDmaPauseDrained_advances (d : ChanId) (moved : Nat) (s : State) : s.otp.AdvancesIn (execDmaPauseDrained d moved s) :=
  State.chanRun_advances fun _ _ => by
    dsimp only
    split
    · simp
    · split <;> simp

theorem execDmaHalt_advances (d : ChanId) (cause : HaltCause) (s : State) : s.otp.AdvancesIn (execDmaHalt d cause s) :=
  State.chanRun_advances fun _ _ => by
    dsimp only
    split
    · split
      · simp
      · split
        · simp
        · simp
        · split <;> simp
    · split
      · split <;> simp
      · simp
    · split
      · split <;> simp
      · simp
    · simp

theorem execDmaWaitTimeout_advances (d : ChanId) (s : State) : s.otp.AdvancesIn (execDmaWaitTimeout d s) := by
  unfold execDmaWaitTimeout
  split <;> simp

theorem execSnapshotCopy_advances (s : State) : s.otp.AdvancesIn (execSnapshotCopy s) := by
  simp [execSnapshotCopy]

theorem execSnapshotReady_advances (s : State) : s.otp.AdvancesIn (execSnapshotReady s) := by
  simp only [execSnapshotReady]
  split
  · split <;> simp
  · simp

theorem execPreemptSave_advances (n : CtxId) (s : State) : s.otp.AdvancesIn (execPreemptSave n s) := by
  simp only [execPreemptSave]
  split
  · split <;> simp
  · simp

theorem execContextRestore_advances (n : CtxId) (s : State) : s.otp.AdvancesIn (execContextRestore n s) := by
  simp only [execContextRestore]
  split
  · split
    · simp
    · split
      · simp
      · split
        · simp
        · split
          · simp
          · split <;> simp
  · simp

theorem execTlbInvalidateComplete_advances (n : CtxId) (s : State) : s.otp.AdvancesIn (execTlbInvalidateComplete n s) := by
  simp only [execTlbInvalidateComplete]
  split <;> simp

/-! ## Commands of checkpoints -/

theorem execCheckpointReadDone_advances (n : CtxId) (s : State) : s.otp.AdvancesIn (execCheckpointReadDone n s) := by
  simp only [execCheckpointReadDone]
  split
  · split
    · simp
    · split <;> simp
  · simp

theorem execCkptGranule_advances (l : LinkId) (h : SeamHdr) (k : CkptHdr) (data : List Byte) (s : State) :
    s.otp.AdvancesIn (execCkptGranule l h k data s) := by
  unfold execCkptGranule
  split
  · simp
  · exact State.ckptIn_advances fun s n => s.pullGranule_otp h.src n k data

theorem execCkptAnswer_advances (l : LinkId) (h : SeamHdr) (k : CkptHdr) (s : State) : s.otp.AdvancesIn (execCkptAnswer l h k s) := by
  unfold execCkptAnswer
  split <;> simp

theorem execCkptPull_advances (l : LinkId) (h : SeamHdr) (k : CkptHdr) (s : State) : s.otp.AdvancesIn (execCkptPull l h k s) := by
  unfold execCkptPull
  split <;> simp

/-! ## Commands of links, collectives and host ports -/

theorem execLinkSignalDetect_advances (l : LinkId) (s : State) : s.otp.AdvancesIn (execLinkSignalDetect l s) := by simp [execLinkSignalDetect]

theorem execLinkTrained_advances (l : LinkId) (s : State) : s.otp.AdvancesIn (execLinkTrained l s) := by simp [execLinkTrained]

theorem execLinkTrainTimeout_advances (l : LinkId) (s : State) : s.otp.AdvancesIn (execLinkTrainTimeout l s) := by simp [execLinkTrainTimeout]

theorem execIdentSend_advances (l : LinkId) (s : State) : s.otp.AdvancesIn (execIdentSend l s) := by simp [execIdentSend]

theorem execLinkFecLoss_advances (l : LinkId) (s : State) : s.otp.AdvancesIn (execLinkFecLoss l s) := by simp [execLinkFecLoss]

theorem execLinkSilenceCheck_advances (l : LinkId) (age : Nat) (s : State) : s.otp.AdvancesIn (execLinkSilenceCheck l age s) := by
  simp [execLinkSilenceCheck]

theorem execHeartbeatSend_advances (l : LinkId) (s : State) : s.otp.AdvancesIn (execHeartbeatSend l s) := by simp [execHeartbeatSend]

theorem execAckSend_advances (l : LinkId) (s : State) : s.otp.AdvancesIn (execAckSend l s) := by simp [execAckSend]

theorem execHostLinkUp_advances (p : PortId) (s : State) : s.otp.AdvancesIn (execHostLinkUp p s) := by simp [execHostLinkUp]

theorem execRateIncreaseTimer_advances (q : QpId) (s : State) : s.otp.AdvancesIn (execRateIncreaseTimer q s) := by simp [execRateIncreaseTimer]

theorem execPfcXoffRefresh_advances (p : PortId) (k : LossClass) (s : State) : s.otp.AdvancesIn (execPfcXoffRefresh p k s) := by
  simp [execPfcXoffRefresh]

theorem execHostFrameDiscard_advances (p : PortId) (s : State) : s.otp.AdvancesIn (execHostFrameDiscard p s) := by simp [execHostFrameDiscard]

theorem execHostLinkDown_advances (p : PortId) (s : State) : s.otp.AdvancesIn (execHostLinkDown p s) := by simp [execHostLinkDown]

theorem execKeepaliveSend_advances (g : GroupId) (seq level node : Nat) (s : State) : s.otp.AdvancesIn (execKeepaliveSend g seq level node s) := by
  simp only [execKeepaliveSend]
  split
  · simp
  · split
    · split <;> simp
    · simp

theorem execCollInputTimeout_advances (g : GroupId) (seq level node : Nat) (s : State) :
    s.otp.AdvancesIn (execCollInputTimeout g seq level node s) := by
  simp only [execCollInputTimeout]
  split
  · simp
  · split
    · simp
    · split
      · split <;> simp
      · simp

theorem execReplayTimeout_advances (l : LinkId) (s : State) : s.otp.AdvancesIn (execReplayTimeout l s) := by
  unfold execReplayTimeout
  split <;> simp

theorem execFrameReject_advances (l : LinkId) (h : SeamHdr) (cause : RejectCause) (nakDue : Bool) (s : State) :
    s.otp.AdvancesIn (execFrameReject l h cause nakDue s) := by
  simp only [execFrameReject]
  split
  · split <;> simp
  · simp

theorem execFrameForward_advances (l : LinkId) (h : SeamHdr) (b : FrameBody) (s : State) : s.otp.AdvancesIn (execFrameForward l h b s) := by
  simp only [execFrameForward]
  split
  · simp
  · split
    · simp
    · split <;> simp

theorem execPfc_advances (p : PortId) (priority quanta : Nat) (s : State) : s.otp.AdvancesIn (execPfc p priority quanta s) := by
  simp [execPfc]

/-! ## Commands of KOC -/

theorem execLeaseExpiry_advances (s : State) : s.otp.AdvancesIn (execLeaseExpiry s) := by simp [execLeaseExpiry]

theorem State.readOutside_advances (s : State) (h : KocHdr) (idx sub : Nat) : s.otp.AdvancesIn (s.readOutside h idx sub) := by
  simp only [State.readOutside]
  split
  next e => simp [State.kocOutside_otp (.inr e)]
  next t e =>
    rw [← State.kocOutside_otp (.inl e)]
    split
    · simp
    · simp only [Otp.advancesIn_next, State.withW_frame]
      exact Fx.Advances.now (by simp)

theorem execRead_advances (h : KocHdr) (idx sub : Nat) (s : State) : s.otp.AdvancesIn (execRead h idx sub s) := by
  unfold execRead
  split
  · exact s.readOutside_advances h idx sub
  · exact State.request_advances fun t k ht => ht ▸ (t.readValue_advances k idx sub).finish h

theorem execPmxKnownAnswer_advances (h : KocHdr) (s : State) : s.otp.AdvancesIn (execPmxKnownAnswer h s) :=
  State.request_advances fun t k ht => ht ▸ (t.readValue_advances k 0x3E00 5).finish h

theorem execSegRead_advances (h : KocHdr) (idx sub seg : Nat) (s : State) : s.otp.AdvancesIn (execSegRead h idx sub seg s) :=
  State.request_advances fun t k ht => by
    dsimp only
    split <;> simp [ht]

theorem execSegWrite_advances (h : KocHdr) (idx sub seg len : Nat) (s : State) : s.otp.AdvancesIn (execSegWrite h idx sub seg len s) :=
  State.request_advances fun t k ht => by
    dsimp only
    split <;> simp [ht]

theorem execSegData_advances (h : KocHdr) (frame : Nat) (data : List Byte) (s : State) : s.otp.AdvancesIn (execSegData h frame data s) := by
  simp only [execSegData]
  split
  next e => simp [State.kocFrame_otp (.inr e)]
  next e =>
    rw [← State.kocFrame_otp (.inl ⟨_, e⟩)]
    split
    · simp
    · split
      · simp
      · split
        · exact State.landSegment_advances (by simp) ..
        · simp

theorem execSegAck_advances (h : KocHdr) (bitmap status : Nat) (s : State) : s.otp.AdvancesIn (execSegAck h bitmap status s) := by
  unfold execSegAck
  split
  next e => simp [State.kocFrame_otp (.inr e)]
  next e =>
    have ht := State.kocFrame_otp (.inl ⟨_, e⟩)
    split
    · simp [ht]
    · split <;> simp [ht]

theorem State.makeOffer_advances (s : State) (h : KocHdr) (nonce hash : List Byte) : s.otp.Advances (s.makeOffer h nonce hash).otp := by
  simp [State.makeOffer]

theorem execOpenReq_advances (h : KocHdr) (nonce keyHash : List Byte) (s : State) : s.otp.AdvancesIn (execOpenReq h nonce keyHash s) := by
  simp only [execOpenReq]
  split
  · simp
  · split
    next e => simp [State.kocOutside_otp (.inr e)]
    next t e =>
      rw [← State.kocOutside_otp (.inl e)]
      split
      · simp
      · exact t.makeOffer_advances h nonce keyHash

theorem execOpenFinish_advances (h : KocHdr) (sid : Nat) (cipher sig : List Byte) (s : State) :
    s.otp.AdvancesIn (execOpenFinish h sid cipher sig s) := by
  simp only [execOpenFinish]
  split
  next e => simp [State.kocOutside_otp (.inr e)]
  next e =>
    have ht := State.kocOutside_otp (.inl e)
    split
    · simp [ht]
    · split <;> simp [ht]

theorem execClose_advances (h : KocHdr) (reason : Nat) (s : State) : s.otp.AdvancesIn (execClose h reason s) := by
  unfold execClose
  split
  next e => simp [State.kocFrame_otp (.inr e)]
  next e => simp [State.kocFrame_otp (.inl ⟨_, e⟩)]

theorem execPing_advances (h : KocHdr) (s : State) : s.otp.AdvancesIn (execPing h s) := by
  unfold execPing
  split
  next e => simp [State.kocFrame_otp (.inr e)]
  next e => simp [State.kocFrame_otp (.inl ⟨_, e⟩)]

theorem execEventAck_advances (h : KocHdr) (seq : Nat) (s : State) : s.otp.AdvancesIn (execEventAck h seq s) := by
  unfold execEventAck
  split
  next e => simp [State.kocFrame_otp (.inr e)]
  next e => simp [State.kocFrame_otp (.inl ⟨_, e⟩)]

theorem execEventResendTimer_advances (sid : Nat) (s : State) : s.otp.AdvancesIn (execEventResendTimer sid s) := by
  simp only [execEventResendTimer]
  split <;> simp

theorem execPersistentFlush_advances (s : State) : s.otp.AdvancesIn (execPersistentFlush s) := by
  unfold execPersistentFlush
  split <;> simp

theorem execGroupConfigWrite_advances (h : KocHdr) (g : GroupId) (sub : Nat) (v : List Byte) (s : State) :
    s.otp.AdvancesIn (execGroupConfigWrite h g sub v s) := by
  unfold execGroupConfigWrite
  split
  · exact State.domainRequest_advances fun s _ => groupFx_advances s g 1 v
  · exact State.writeRequest_advances fun s _ => groupFx_advances s g sub v

/-! ## Commands of power, bring-up and reliability -/

theorem execHbmPatrolScrub_advances (s : State) : s.otp.AdvancesIn (execHbmPatrolScrub s) := by simp [execHbmPatrolScrub]

theorem execHbmStackTrained_advances (t : StackId) (ok : Bool) (s : State) : s.otp.AdvancesIn (execHbmStackTrained t ok s) := by
  simp [execHbmStackTrained]

theorem execMgmtCoreSleep_advances (m : Fin 8) (s : State) : s.otp.AdvancesIn (execMgmtCoreSleep m s) := by simp [execMgmtCoreSleep]

theorem execGovernorPeriod_advances (powerMw meanMw excursionUs : Nat) (tj0 tj1 : Int) (s : State) :
    s.otp.AdvancesIn (execGovernorPeriod powerMw meanMw excursionUs tj0 tj1 s) := by
  simp [execGovernorPeriod]

theorem execCurrentLimitTrip_advances (currentMa : Nat) (s : State) : s.otp.AdvancesIn (execCurrentLimitTrip currentMa s) := by
  simp [execCurrentLimitTrip]

theorem execRailOutOfWindow_advances (rail status : Nat) (s : State) : s.otp.AdvancesIn (execRailOutOfWindow rail status s) := by
  simp [execRailOutOfWindow]

theorem execPgAonFall_advances (s : State) : s.otp.AdvancesIn (execPgAonFall s) := by
  unfold execPgAonFall
  split
  · exact .refl _
  · simp

theorem execResetPin_advances (straps : BitVec 4) (s : State) : s.otp.AdvancesIn (execResetPin straps s) := by simp [execResetPin]

theorem execRailSequenceStep_advances (s : State) : s.otp.AdvancesIn (execRailSequenceStep s) := by simp [execRailSequenceStep]

theorem execPgMainRise_advances (s : State) : s.otp.AdvancesIn (execPgMainRise s) := by simp [execPgMainRise]

theorem execPgMainTimeout_advances (s : State) : s.otp.AdvancesIn (execPgMainTimeout s) := by simp [execPgMainTimeout]

theorem execPllLockTimeout_advances (s : State) : s.otp.AdvancesIn (execPllLockTimeout s) := by simp [execPllLockTimeout]

theorem execTopologyDeadline_advances (s : State) : s.otp.AdvancesIn (execTopologyDeadline s) := by simp [execTopologyDeadline]

theorem execPatternCacheLoaded_advances (ok : Bool) (s : State) : s.otp.AdvancesIn (execPatternCacheLoaded ok s) := by
  simp [execPatternCacheLoaded]

theorem execAttestationTokenRefill_advances (s : State) : s.otp.AdvancesIn (execAttestationTokenRefill s) := by simp [execAttestationTokenRefill]

theorem execFaultServiceWatchdog_advances (s : State) : s.otp.AdvancesIn (execFaultServiceWatchdog s) := by simp [execFaultServiceWatchdog]

theorem execScanComplete_advances (pass : Bool) (patterns : Nat) (s : State) : s.otp.AdvancesIn (execScanComplete pass patterns s) := by
  simp [execScanComplete]

theorem execRefreshRateChange_advances (t : StackId) (celsius : Int) (s : State) : s.otp.AdvancesIn (execRefreshRateChange t celsius s) := by
  simp [execRefreshRateChange]

theorem execClusterEntryDone_advances (k : ClusterId) (s : State) : s.otp.AdvancesIn (execClusterEntryDone k s) := by
  simp only [execClusterEntryDone]
  split <;> simp

theorem execPowerUpStart_advances (d : DieId) (s : State) : s.otp.AdvancesIn (execPowerUpStart d s) := by
  simp only [execPowerUpStart]
  split <;> simp

theorem execDozeRestartStart_advances (d : DieId) (s : State) : s.otp.AdvancesIn (execDozeRestartStart d s) := by
  simp only [execDozeRestartStart]
  split <;> simp

theorem execClusterRun_advances (k : ClusterId) (s : State) : s.otp.AdvancesIn (execClusterRun k s) := by
  simp only [execClusterRun]
  split
  · simp
  · split <;> simp

theorem execThermalSample_advances (readings : List Int) (s : State) : s.otp.AdvancesIn (execThermalSample readings s) := by
  simp only [execThermalSample]
  split
  · simp
  · split <;> simp

theorem execPmbusPoll_advances (rails : List RegReading) (s : State) : s.otp.AdvancesIn (execPmbusPoll rails s) := by
  simp only [execPmbusPoll]
  split
  · simp
  · split <;> simp

/-- The attestation seed is drawn once, in BLANK (R465). -/
theorem execPowerOn_advances (straps : BitVec 4) (s : State) : s.otp.AdvancesIn (execPowerOn straps s) := by
  simp only [execPowerOn]
  split
  · simp
  · simp only [Otp.advancesIn_next]
    split
    next h =>
      obtain ⟨hlife, hseed⟩ : s.otp.life = .blank ∧ s.otp.seed = none := by simpa using h
      exact { Otp.Advances.refl s.otp with seed := .inr ⟨hseed, hlife⟩ }
    next => exact .refl _

theorem execBootVerifyDone_advances (s : State) : s.otp.AdvancesIn (execBootVerifyDone s) := by
  simp only [execBootVerifyDone]
  split
  · split <;> simp
  · simp

theorem execSelfTestDone_advances (failedCores : List (ClusterId × Fin 17)) (failedUnits : List SharedUnit) (s : State) :
    s.otp.AdvancesIn (execSelfTestDone failedCores failedUnits s) := by
  simp [execSelfTestDone]

theorem execQuoteSigned_advances (s : State) : s.otp.AdvancesIn (execQuoteSigned s) := by
  simp only [execQuoteSigned]
  split <;> simp

theorem execFaultServiceTake_advances (s : State) : s.otp.AdvancesIn (execFaultServiceTake s) := by
  simp only [execFaultServiceTake]
  split
  · simp
  · split <;> simp

theorem execHbmWipeDone_advances (failed : Option StackId) (us : Nat) (s : State) : s.otp.AdvancesIn (execHbmWipeDone failed us s) := by
  simp only [execHbmWipeDone]
  split
  · split <;> simp
  · simp

/-! ## Every command, every step -/

/-- Every command only advances the fuses: most leave them as they are; a write does what its object's rule does. -/
theorem exec_advances (i : Instr) (s : State) : s.otp.AdvancesIn (exec i s) := by
  unfold exec
  cases i with
  | load | loadwTiles | loadwPool | loadwValues | atomicCas | atomicFac | atomicCac | collAllreduce | collReduceScatter | collAllgather
  | collBroadcast | collGnorm | collDigest | matmul | spmm | spmmt | sddmm | full | pruneThresh | pruneTilek | pruneRowk | regrowGrad
  | regrowRandt | regrowRandr | probeTile | probeRow | predictPredicted | predictExact | screen | crownSum | crownMeanvar | crownMax | vewAdd
  | vewSub | vewMul | vewFma | vewMax | vewMin | vewAbs | vewNeg | vewScale | vewRecip | vewSqrt | vewRsqrt | vewExp | vewLog | vewTanh
  | vewSigmoid | vewErf | vewSelect | vewCmpgt | vewClip | vredSum | vredMax | vredMin | vredSumsq | vredMeanvar | vredAmax | vconv | vrandBits
  | vrandUniform | vrandBernoulli | sacLineFill | wwrite | openTimeout | segmentTimeout | stagedWriteTimeout | sessionIdleTimeout
  | sessionLifetimeExpiry | pfcPauseExpiry => exact Otp.advancesIn_withW ..
  | nop | seti | addi | aluAdd | aluSub | aluAnd | aluOr | aluXor | aluShl | aluShr | aluSar | aluMul | aluMin | aluMax | aluSlt | aluSltu | lds
  | sts | br | loop | wait | eventRec | endRec => exact State.scalar_advances ..
  | dmagoResume | dmagoPause | dmagoSkip | dmagoAbort => exact State.dmago_advances ..
  | clusterIdleEntry | clusterDozeEntry | clusterNapEntry => exact State.descend_advances ..
  | contrib | result | canswer | keepalive => exact State.collIn_advances ..
  | wcredit | wanswer | wreturn | wclose => exact State.winIn_advances ..
  | link | nak | heartbeat | ident | lost => exact State.linkIn_advances fun _ => by simp
  | ckptBegin | ckptState | ckptEnd | ckptReplay => exact State.ckptIn_advances fun _ _ => by simp
  | rdmaWrite | rdmaRead | send | roceInvalidRequest | cnp => exact State.roce_advances ..
  | arp | neighbourDiscovery | icmpEcho => exact State.neighbour_advances ..
  | write | domainWriteOpen => exact State.writeAny_advances ..
  | cacheInvalidateAll | coreResume | windowOpen | windowClose | dirtyMapClear | seedWrite | reseed | snapshotRequest | snapshotRelease
  | contextCreate | contextResume | contextPreempt | contextDestroy | doorbell | tlbInvalidateRequest | dmaCtrlResume | dmaCtrlPause | dmaCtrlSkip
  | dmaCtrlAbort | linkRetrain | lostRankClear | qpReady | qpReset | leaseRequest | leaseRevoke | resetWrite | clusterFloorWrite | railMarginWrite
  | mainPowerOff | mainPowerOn | securityFloorRaise | quoteRequest | lifecycleTransition | errorRecordAck | errorLogClear | scanRequest | buddySet
  | wardSet | checkpointRestoreRequest => exact State.writeRequest_advances fun _ _ => by simp
  | predictorSlotsWrite | contextImport | kocKeyListWrite | licenceInstall | topologyKeyAdd | firmwareImageWrite =>
      exact State.domainRequest_advances fun _ _ => by simp
  | commandFetch => exact execCommandFetch_advances ..
  | engineRecordDispatch => exact execEngineRecordDispatch_advances ..
  | recordComplete => exact execRecordComplete_advances ..
  | syncSignalDelivery => exact execSyncSignalDelivery_advances ..
  | waitTimeout => exact execWaitTimeout_advances ..
  | signal => exact execSignal_advances ..
  | fence => exact execFence_advances ..
  | dmagoStart => exact execDmagoStart_advances ..
  | stepRec => exact execStepRec_advances ..
  | store => exact execStore_advances ..
  | crownPhaseStart => exact execCrownPhaseStart_advances ..
  | crownPhaseEnd => exact execCrownPhaseEnd_advances ..
  | correctedWriteback => exact execCorrectedWriteback_advances ..
  | corePatrolScrub => exact execCorePatrolScrub_advances ..
  | windowDrainTimeout => exact execWindowDrainTimeout_advances ..
  | pmxKnownAnswer => exact execPmxKnownAnswer_advances ..
  | snapshotCopy => exact execSnapshotCopy_advances ..
  | snapshotReady => exact execSnapshotReady_advances ..
  | preemptSave => exact execPreemptSave_advances ..
  | contextRestore => exact execContextRestore_advances ..
  | tlbInvalidateComplete => exact execTlbInvalidateComplete_advances ..
  | dmaDescriptorFetch => exact execDmaDescriptorFetch_advances ..
  | dmaDescriptorComplete => exact execDmaDescriptorComplete_advances ..
  | dmaPauseDrained => exact execDmaPauseDrained_advances ..
  | dmaHalt => exact execDmaHalt_advances ..
  | dmaWaitTimeout => exact execDmaWaitTimeout_advances ..
  | hbmPatrolScrub => exact execHbmPatrolScrub_advances ..
  | hbmStackTrained => exact execHbmStackTrained_advances ..
  | hbmWipeDone => exact execHbmWipeDone_advances ..
  | linkSignalDetect => exact execLinkSignalDetect_advances ..
  | linkTrained => exact execLinkTrained_advances ..
  | linkTrainTimeout => exact execLinkTrainTimeout_advances ..
  | identSend => exact execIdentSend_advances ..
  | linkFecLoss => exact execLinkFecLoss_advances ..
  | linkSilenceCheck => exact execLinkSilenceCheck_advances ..
  | heartbeatSend => exact execHeartbeatSend_advances ..
  | ackSend => exact execAckSend_advances ..
  | replayTimeout => exact execReplayTimeout_advances ..
  | frameReject => exact execFrameReject_advances ..
  | frameForward => exact execFrameForward_advances ..
  | keepaliveSend => exact execKeepaliveSend_advances ..
  | collInputTimeout => exact execCollInputTimeout_advances ..
  | groupConfigWrite => exact execGroupConfigWrite_advances ..
  | hostLinkUp => exact execHostLinkUp_advances ..
  | rateIncreaseTimer => exact execRateIncreaseTimer_advances ..
  | pfc => exact execPfc_advances ..
  | pfcXoffRefresh => exact execPfcXoffRefresh_advances ..
  | hostFrameDiscard => exact execHostFrameDiscard_advances ..
  | openReq => exact execOpenReq_advances ..
  | openFinish => exact execOpenFinish_advances ..
  | close => exact execClose_advances ..
  | read => exact execRead_advances ..
  | segRead => exact execSegRead_advances ..
  | segWrite => exact execSegWrite_advances ..
  | segData => exact execSegData_advances ..
  | segAck => exact execSegAck_advances ..
  | eventAck => exact execEventAck_advances ..
  | eventResendTimer => exact execEventResendTimer_advances ..
  | ping => exact execPing_advances ..
  | leaseExpiry => exact execLeaseExpiry_advances ..
  | persistentFlush => exact execPersistentFlush_advances ..
  | clusterEntryDone => exact execClusterEntryDone_advances ..
  | powerUpStart => exact execPowerUpStart_advances ..
  | dozeRestartStart => exact execDozeRestartStart_advances ..
  | clusterRun => exact execClusterRun_advances ..
  | mgmtCoreSleep => exact execMgmtCoreSleep_advances ..
  | governorPeriod => exact execGovernorPeriod_advances ..
  | currentLimitTrip => exact execCurrentLimitTrip_advances ..
  | thermalSample => exact execThermalSample_advances ..
  | pmbusPoll => exact execPmbusPoll_advances ..
  | railOutOfWindow => exact execRailOutOfWindow_advances ..
  | powerOn => exact execPowerOn_advances ..
  | pgAonFall => exact execPgAonFall_advances ..
  | resetPin => exact execResetPin_advances ..
  | bootVerifyDone => exact execBootVerifyDone_advances ..
  | railSequenceStep => exact execRailSequenceStep_advances ..
  | pgMainRise => exact execPgMainRise_advances ..
  | pgMainTimeout => exact execPgMainTimeout_advances ..
  | pllLockTimeout => exact execPllLockTimeout_advances ..
  | selfTestDone => exact execSelfTestDone_advances ..
  | topologyDeadline => exact execTopologyDeadline_advances ..
  | patternCacheLoaded => exact execPatternCacheLoaded_advances ..
  | attestationTokenRefill => exact execAttestationTokenRefill_advances ..
  | faultServiceTake => exact execFaultServiceTake_advances ..
  | faultServiceWatchdog => exact execFaultServiceWatchdog_advances ..
  | scanComplete => exact execScanComplete_advances ..
  | checkpointReadDone => exact execCheckpointReadDone_advances ..
  | ckptGranule => exact execCkptGranule_advances ..
  | ckptAnswer => exact execCkptAnswer_advances ..
  | ckptPull => exact execCkptPull_advances ..
  | hostLinkDown => exact execHostLinkDown_advances ..
  | refreshRateChange => exact execRefreshRateChange_advances ..
  | predictorUpdateDone => exact execPredictorUpdateDone_advances ..
  | quoteSigned => exact execQuoteSigned_advances ..

/-- A step only advances the fuses, whatever the command at the front of its queue is. -/
theorem step_advances {s t : State} (h : step s = .next t) : s.otp.Advances t.otp := by
  suffices hs : s.otp.AdvancesIn (step s) by rwa [h] at hs
  unfold step
  split
  · simp
  next c rest _ => exact exec_advances c { s with pending := rest }

/-! ## The security floor (R464) -/

/-- What a write to the floor does. -/
theorem securityFloorFx_of_length {s : State} {v : List Byte} (h : v.length = 1) : securityFloorFx s v =
    if s.otp.floor < leNat v ∧ leNat v ≤ 64 ∧ leNat v ≤ fwSecurity (s.fwImage 1 s.ctl.sec.active1) ∧
        leNat v ≤ fwSecurity (s.fwImage 2 s.ctl.sec.active2) then
      { s := { s with otp := { s.otp with floor := leNat v } } }
    else .refuse s stState := by
  simp only [securityFloorFx, uintOf, if_pos h]

theorem State.not_eligible_of_lt_floor {s : State} {type ab : Nat} (h : fwSecurity (s.fwImage type ab) < s.otp.floor) :
    s.eligible type ab = false := by
  simp [State.eligible, Nat.not_le.2 h]

theorem State.eligible_of_chooseFw {s : State} {type ab : Nat} (h : s.chooseFw type = some ab) : s.eligible type ab = true := by
  unfold State.chooseFw at h
  split at h
  next h0 h1 =>
    obtain rfl := Option.some.inj h
    split
    · exact h1
    · exact h0
  next h0 _ => cases h; exact h0
  next _ h1 => cases h; exact h1
  next => cases h

/-- Settles O23: the rule of the object, what makes an image eligible, and that every step only advances the fuses. -/
theorem securityFloorOnlyRises : Obligations.SecurityFloorOnlyRises := by
  unfold Obligations.SecurityFloorOnlyRises
  refine ⟨fun s s1 h k v hw hlen => ?_, fun s type ab hlow => ?_, fun s t hstep => (step_advances hstep).floor⟩
  · have hexec : exec (.securityFloorRaise h v) s = .next ((securityFloorFx s1 v).finish h) := State.writeRequest_of_writes hw _
    rw [hexec, securityFloorFx_of_length hlen]
    refine ⟨fun hok => ?_, fun hok => ?_⟩
    · rw [if_pos hok, Fx.finish_answered]
    · rw [if_neg hok, Fx.refuse, Fx.finish_answered]
  · have hbarred := State.not_eligible_of_lt_floor hlow
    exact ⟨hbarred, fun hchosen => by simp [State.eligible_of_chooseFw hchosen] at hbarred⟩

end Sys2Proof.Machine

/-! PROOFS. Core groups that stay apart (R283, R285): what writing an entry of the context table keeps. -/
namespace Sys2Proof.Machine

/-! ## Entries of a table in order -/

/-- A table whose keys rise: an entry written takes the place of the one with its key. -/
theorem Tab.set_perm {α : Type} {t : Tab α} (h : (t.map (·.1)).Pairwise (· < ·)) (k : Nat) (v : α) :
    (t.set k v).Perm ((k, v) :: t.filter fun e => e.1 != k) := by
  induction t with
  | nil => exact .refl _
  | cons e t ih =>
    obtain ⟨j, u⟩ := e
    obtain ⟨hj, ht⟩ : (∀ e ∈ t, j < e.1) ∧ (t.map (·.1)).Pairwise (· < ·) := by simpa using h
    have hall (hk : k ≤ j) : t.filter (fun e => e.1 != k) = t :=
      List.filter_eq_self.2 fun e he => by have := hj e he; simp; omega
    simp only [Tab.set]
    split
    next hlt =>
      have hne : (j != k) = true := by simp; omega
      rw [List.filter_cons, if_pos hne, hall (by omega)]
    next =>
      split
      next heq =>
        subst heq
        simp [hall]
      next hgt hne =>
        have hjk : (j != k) = true := by simpa using Ne.symm hne
        rw [List.filter_cons, if_pos hjk]
        exact ((ih ht).cons _).trans (.swap ..)

theorem Tab.mem_set {α : Type} {t : Tab α} (h : (t.map (·.1)).Pairwise (· < ·)) {k : Nat} {v : α} {e : Nat × α} :
    e ∈ t.set k v ↔ e = (k, v) ∨ e ∈ t ∧ e.1 ≠ k := by
  simp [(Tab.set_perm h k v).mem_iff]

theorem Tab.set_sorted {α : Type} {t : Tab α} (h : (t.map (·.1)).Pairwise (· < ·)) (k : Nat) (v : α) :
    ((t.set k v).map (·.1)).Pairwise (· < ·) := by
  induction t with
  | nil => simp [Tab.set]
  | cons e t ih =>
    obtain ⟨j, u⟩ := e
    obtain ⟨hj, ht⟩ : (∀ e ∈ t, j < e.1) ∧ (t.map (·.1)).Pairwise (· < ·) := by simpa using h
    simp only [Tab.set]
    split
    next hlt =>
      refine List.pairwise_cons.2 ⟨fun x hx => ?_, h⟩
      obtain ⟨e, he, rfl⟩ := List.mem_map.1 hx
      rcases List.mem_cons.1 he with rfl | he
      · exact hlt
      · exact Nat.lt_trans hlt (hj e he)
    next =>
      split
      next heq => exact heq ▸ h
      next hgt hne =>
        refine List.pairwise_cons.2 ⟨fun x hx => ?_, ih ht⟩
        obtain ⟨e, he, rfl⟩ := List.mem_map.1 hx
        rcases (Tab.mem_set ht).1 he with rfl | ⟨he, -⟩
        · show j < k
          omega
        · exact hj e he

/-- An entry of a table whose keys rise is the one that its key finds. -/
theorem Tab.get_of_mem {α : Type} {d : α} {t : Tab α} (h : (t.map (·.1)).Pairwise (· < ·)) {e : Nat × α} (he : e ∈ t) :
    Tab.get d t e.1 = e.2 := by
  induction t with
  | nil => cases he
  | cons f t ih =>
    obtain ⟨hj, ht⟩ : (∀ e ∈ t, f.1 < e.1) ∧ (t.map (·.1)).Pairwise (· < ·) := by simpa using h
    rcases List.mem_cons.1 he with rfl | he
    · simp [Tab.get]
    · rw [Tab.get, if_neg (Nat.ne_of_lt (hj e he)), ih ht he]

/-! ## Groups that do not meet -/

theorem Resid.meets_comm (r t : Resid) : r.meets t = t.meets r := by simp [Resid.meets, Bool.and_comm]

/-- Groups are told by the configurations. -/
theorem Resid.meets_of_cfg {r t : Resid} (h : t.cfg = r.cfg) (x : Resid) : x.meets t = x.meets r := by
  unfold Resid.meets Resid.first Resid.count
  rw [h]

theorem GroupsApart.nil : GroupsApart [] := ⟨.nil, fun _ he => absurd he List.not_mem_nil, by simp⟩

/-- An entry written keeps groups apart where it lies apart from the others that occupy clusters, and those are at most 15. -/
theorem GroupsApart.set {res : Tab Resid} (h : GroupsApart res) {n : Nat} {v : Resid}
    (hv : v.st.live = true → (∀ e ∈ res, e.1 ≠ n → e.2.st.live = true → e.2.meets v = false) ∧
      (res.filter fun e => e.1 != n && e.2.st.live).length ≤ 15) : GroupsApart (res.set n v) where
  sorted := Tab.set_sorted h.sorted n v
  apart e he f hf hef hel hfl := by
    rcases (Tab.mem_set h.sorted).1 he with rfl | ⟨he, hen⟩
    · rcases (Tab.mem_set h.sorted).1 hf with rfl | ⟨hf, hfn⟩
      · exact absurd rfl hef
      · rw [Resid.meets_comm]
        exact (hv hel).1 f hf hfn hfl
    · rcases (Tab.mem_set h.sorted).1 hf with rfl | ⟨hf, hfn⟩
      · exact (hv hfl).1 e he hen hel
      · exact h.apart e he f hf hef hel hfl
  few := by
    rw [((Tab.set_perm h.sorted n v).filter _).length_eq, List.filter_cons, List.filter_filter]
    split
    next hl =>
      rw [List.length_cons, List.filter_congr fun e _ => Bool.and_comm ..]
      have := (hv hl).2
      omega
    next =>
      refine Nat.le_trans (List.Sublist.length_le ?_) h.few
      rw [← List.filter_filter]
      exact (List.filter_sublist ..).filter _

/-- A context that leaves its clusters keeps groups apart. -/
theorem GroupsApart.set_idle {res : Tab Resid} (h : GroupsApart res) {n : Nat} {v : Resid} (hv : v.st.live = false) :
    GroupsApart (res.set n v) :=
  h.set fun hl => absurd hl (by simp [hv])

/-- A context that keeps its clusters keeps groups apart. -/
theorem GroupsApart.set_live {res : Tab Resid} (h : GroupsApart res) {n : Nat} {v : Resid} (hl : (Tab.get {} res n).st.live = true)
    (hv : v.cfg = (Tab.get {} res n).cfg) : GroupsApart (res.set n v) := by
  have hmem : (n, Tab.get {} res n) ∈ res := Tab.mem_of_get _ _ _ fun he => by rw [he] at hl; exact absurd hl (by decide)
  refine h.set fun _ => ⟨fun e he hen hel => ?_, ?_⟩
  · rw [Resid.meets_of_cfg hv]
    exact h.apart e he _ hmem hen hel hl
  · have hlt : ((res.filter fun e => e.2.st.live).filter fun e => e.1 != n).length < (res.filter fun e => e.2.st.live).length :=
      List.length_filter_lt_length_iff_exists.2 ⟨_, List.mem_filter.2 ⟨hmem, hl⟩, by simp⟩
    rw [List.filter_filter] at hlt
    have := h.few
    omega

/-- A context that takes clusters on which no other one stands, while at most 15 occupy any, keeps groups apart (R285). -/
theorem GroupsApart.set_beside {s : State} (h : GroupsApart s.res) {n : Nat} {v : Resid} (hv : v.cfg = (s.ent n).cfg)
    (hway : s.inWay n = []) (hfew : s.beside n < 16) : GroupsApart (s.res.set n v) := by
  have hclear : ∀ e ∈ s.res, e.1 ≠ n → e.2.st.live = true → e.2.meets (s.ent n) = false := by
    intro e he hen hel
    have := List.filter_eq_nil_iff.1 hway e he
    simpa [hen, hel] using this
  refine h.set fun _ => ⟨fun e he hen hel => (Resid.meets_of_cfg hv e.2).trans (hclear e he hen hel), ?_⟩
  have hcount : (s.res.filter fun e => e.1 != n && e.2.st.live).length = s.beside n := by
    unfold State.beside
    congr 1
    refine List.filter_congr fun e he => ?_
    by_cases hx : e.1 ≠ n ∧ e.2.st.live = true
    · simp [hx, hclear e he hx.1 hx.2]
    · rcases Decidable.not_and_iff_not_or_not.1 hx with hx | hx
      · simp [Classical.not_not.1 hx]
      · simp [Bool.eq_false_iff.2 hx]
  omega

/-- Groups stay apart where no entry changes its state or its configuration. -/
theorem GroupsApart.map {res : Tab Resid} (h : GroupsApart res) {f : Resid → Resid} (hst : ∀ r, (f r).st = r.st) (hcfg : ∀ r, (f r).cfg = r.cfg) :
    GroupsApart (res.map fun e => (e.1, f e.2)) where
  sorted := by simpa [Function.comp_def] using h.sorted
  apart e he g hg hne hel hgl := by
    obtain ⟨x, hx, rfl⟩ := List.mem_map.1 he
    obtain ⟨y, hy, rfl⟩ := List.mem_map.1 hg
    rw [Resid.meets_of_cfg (hcfg _), Resid.meets_comm, Resid.meets_of_cfg (hcfg _)]
    exact h.apart y hy x hx (Ne.symm hne) (hst _ ▸ hgl) (hst _ ▸ hel)
  few := by simpa [List.filter_map, Function.comp_def, hst] using h.few

end Sys2Proof.Machine

/-! PROOFS. What every command keeps of the queue and of the context table (R10, R283, R285, R477): the queue stands as it was, and core groups that
were apart stay apart. Each operation on the state has one lemma: it leaves both as they are (`…_kept`), or keeps them so (`…_keeps`); the commands
cite these. -/
namespace Sys2Proof.Machine

/-! ## The queue and the context table -/

/-- What only a step and the contexts' own operations change. -/
structure Kept where
  queue : List Instr
  table : Tab Resid

theorem Kept.mk_congr {q q' : List Instr} {r r' : Tab Resid} (hq : q = q') (hr : r = r') : Kept.mk q r = Kept.mk q' r' := by rw [hq, hr]

def State.kept (s : State) : Kept := ⟨s.pending, s.res⟩

@[simp] theorem State.kept_mk (q : List Instr) (o : Otp) (f : Flash) (c : Ctl) (r : Tab Resid) (w : World) :
    State.kept { pending := q, otp := o, flash := f, ctl := c, res := r, w } = ⟨q, r⟩ := Kept.mk_congr rfl rfl

@[simp] theorem State.mk_kept (s : State) : (⟨s.pending, s.res⟩ : Kept) = s.kept := Kept.mk_congr rfl rfl

@[simp] theorem State.withW_kept (s : State) (w : World) : (s.withW w).kept = s.kept := Kept.mk_congr rfl rfl

/-- The queue stands as it was; core groups that were apart are apart. -/
structure Kept.Keeps (a b : Kept) : Prop where
  queue : b.queue = a.queue
  apart : GroupsApart a.table → GroupsApart b.table

@[simp] theorem Kept.Keeps.refl (a : Kept) : a.Keeps a := ⟨rfl, id⟩

theorem Kept.Keeps.trans {a b c : Kept} (h : a.Keeps b) (k : b.Keeps c) : a.Keeps c :=
  ⟨k.queue.trans h.queue, k.apart ∘ h.apart⟩

/-- An outcome is a next state that keeps what is given. -/
def Kept.KeepsIn (a : Kept) : Out → Prop
  | .next t => a.Keeps t.kept
  | _ => False

@[simp] theorem Kept.keepsIn_next (a : Kept) (t : State) : a.KeepsIn (.next t) ↔ a.Keeps t.kept := Iff.rfl

@[simp] theorem Kept.keepsIn_ite (a : Kept) (c : Prop) [Decidable c] (x y : Out) :
    a.KeepsIn (if c then x else y) ↔ if c then a.KeepsIn x else a.KeepsIn y := by
  split <;> rfl

/-- What is kept in an outcome is kept in its next state. -/
theorem Kept.KeepsIn.next {a : Kept} {o : Out} (h : a.KeepsIn o) : ∃ t, o = .next t ∧ a.Keeps t.kept := by
  cases o with
  | next t => exact ⟨t, rfl, h⟩
  | fault | refused => exact h.elim

/-- An access keeps what is given, at once and after its answer, which changes neither queue nor table. -/
structure Fx.Keeps (a : Kept) (x : Fx) : Prop where
  now : a.Keeps x.s.kept
  after : ∀ t : State, t.kept = x.s.kept → a.Keeps (x.post t).kept

/-- An access with nothing to do after its answer. -/
theorem Fx.keeps_of_now {a : Kept} {x : Fx} (hp : x.post = id) (h : a.Keeps x.s.kept) : x.Keeps a :=
  ⟨h, fun t ht => by rw [hp, id, ht]; exact h⟩

@[simp] theorem Fx.keeps_plain (a : Kept) (s : State) (st : Nat) (v : List Byte) (wait : Option WaitFor) :
    Fx.Keeps a { s, st, value := v, wait } ↔ a.Keeps s.kept :=
  ⟨fun h => h.now, fun h => Fx.keeps_of_now rfl h⟩

@[simp] theorem Fx.keeps_refuse (a : Kept) (s : State) (st : Nat) : (Fx.refuse s st).Keeps a ↔ a.Keeps s.kept := Fx.keeps_plain ..

@[simp] theorem Fx.keeps_world (a : Kept) (s : State) (w : World) : (Fx.world s w).Keeps a ↔ a.Keeps s.kept := Fx.keeps_plain ..

@[simp] theorem Fx.keeps_ite (a : Kept) (c : Prop) [Decidable c] (x y : Fx) :
    Fx.Keeps a (if c then x else y) ↔ if c then x.Keeps a else y.Keeps a := by
  split <;> rfl

@[simp] theorem State.ite_kept (c : Prop) [Decidable c] (x y : State) : (if c then x else y).kept = if c then x.kept else y.kept := by
  split <;> rfl

theorem State.foldl_kept {α : Type} {f : State → α → State} (h : ∀ s x, (f s x).kept = s.kept) (l : List α) (s : State) :
    (l.foldl f s).kept = s.kept :=
  List.foldlRecOn l f (motive := fun t => t.kept = s.kept) rfl fun t ht x _ => (h t x).trans ht

@[simp] theorem Kept.keeps_ite (a : Kept) (c : Prop) [Decidable c] (x y : Kept) :
    a.Keeps (if c then x else y) ↔ if c then a.Keeps x else a.Keeps y := by
  split <;> rfl

theorem State.foldl_keeps {α : Type} {f : State → α → State} (h : ∀ (s : State) x, s.kept.Keeps (f s x).kept) (l : List α) (s : State) :
    s.kept.Keeps (l.foldl f s).kept :=
  List.foldlRecOn l f (motive := fun t => s.kept.Keeps t.kept) (.refl _) fun t ht x _ => ht.trans (h t x)

/-! ## Contexts -/

@[simp] theorem CtxSt.live_absent : CtxSt.absent.live = false := rfl
@[simp] theorem CtxSt.live_saved : CtxSt.saved.live = false := rfl
@[simp] theorem CtxSt.live_resident : CtxSt.resident.live = true := rfl
@[simp] theorem CtxSt.live_saving : CtxSt.saving.live = true := rfl
@[simp] theorem CtxSt.live_restoring : CtxSt.restoring.live = true := rfl

theorem State.kept_of_eq {s t : State} (hq : t.pending = s.pending) (hr : t.res = s.res) : t.kept = s.kept := Kept.mk_congr hq hr

theorem State.pending_of_kept {s t : State} (h : t.kept = s.kept) : t.pending = s.pending := congrArg Kept.queue h

theorem State.ent_of_kept {s t : State} (h : t.kept = s.kept) (n : Nat) : t.ent n = s.ent n := by
  have hres : t.res = s.res := congrArg Kept.table h
  simp only [State.ent, hres]

theorem State.setEnt_kept (s : State) (n : Nat) (v : Resid) : (s.setEnt n v).kept = ⟨s.pending, s.res.set n v⟩ :=
  Kept.mk_congr rfl rfl

theorem State.ctxTo_kept (s : State) (n : Nat) (st : CtxSt) (after : AfterSave) :
    (s.ctxTo n st after).kept = (s.setEnt n { s.ent n with st, after }).kept := by
  simp only [State.ctxTo, State.withW_kept]

@[simp] theorem State.putHeader_kept (s : State) (n : Nat) : (s.putHeader n).kept = s.kept := by simp [State.putHeader]
@[simp] theorem State.ctxField_kept (s : State) (n : Nat) (x : Ctx) : (s.ctxField n x).kept = s.kept := by simp [State.ctxField]
@[simp] theorem State.unparked_kept (s : State) : s.unparked.kept = s.kept := by simp [State.unparked]
@[simp] theorem State.saveCtx_kept (s : State) (n : Nat) : (s.saveCtx n).kept = s.kept := by simp [State.saveCtx]

/-- A context that stands on no cluster after a write of its entry. -/
@[simp] theorem State.setEnt_keeps_of_idle {a : Kept} {s : State} (h : a.Keeps s.kept) (n : Nat) {v : Resid} (hv : v.st.live = false) :
    a.Keeps (s.setEnt n v).kept :=
  h.trans ⟨rfl, fun hs => hs.set_idle hv⟩

/-- A context that stands on its clusters before and after a write of its entry. -/
theorem State.setEnt_keeps_of_live {a : Kept} {s : State} (h : a.Keeps s.kept) {n : Nat} {v : Resid} (hl : (s.ent n).st.live = true)
    (hv : v.cfg = (s.ent n).cfg) : a.Keeps (s.setEnt n v).kept :=
  h.trans ⟨rfl, fun hs => hs.set_live hl hv⟩

@[simp] theorem State.ctxTo_saved_keeps {a : Kept} {s : State} (h : a.Keeps s.kept) (n : Nat) (after : AfterSave) :
    a.Keeps (s.ctxTo n .saved after).kept := by
  rw [State.ctxTo_kept]
  exact State.setEnt_keeps_of_idle h n rfl

@[simp] theorem State.ctxTo_absent_keeps {a : Kept} {s : State} (h : a.Keeps s.kept) (n : Nat) (after : AfterSave) :
    a.Keeps (s.ctxTo n .absent after).kept := by
  rw [State.ctxTo_kept]
  exact State.setEnt_keeps_of_idle h n rfl

theorem State.ctxTo_keeps_of_live {a : Kept} {s : State} (h : a.Keeps s.kept) {n : Nat} (hl : (s.ent n).st.live = true) (st : CtxSt)
    (after : AfterSave) : a.Keeps (s.ctxTo n st after).kept := by
  rw [State.ctxTo_kept]
  exact State.setEnt_keeps_of_live h hl rfl

@[simp] theorem State.stopCore_kept (s : State) (c : Nat) : (s.stopCore c).kept = s.kept := by
  unfold State.stopCore
  split
  · rfl
  · simp only [State.ite_kept]
    split
    · split <;> simp
    · simp

/-- A save of a context that stands on its clusters, as far as the table is in order. -/
theorem State.startSave_keeps_of_apart {s : State} {n : Nat} (hl : GroupsApart s.res → (s.ent n).st.live = true) (after : AfterSave) :
    s.kept.Keeps (s.startSave n after).kept := by
  have hstop := State.foldl_kept State.stopCore_kept (s.ent n).coreList s
  obtain ⟨hq, hr⟩ := Kept.mk.inj hstop
  rw [State.startSave, State.withW_kept, State.ctxTo_kept]
  refine ⟨hq, fun hs => ?_⟩
  change GroupsApart (Tab.set (State.res _) n _)
  rw [hr, State.ent_of_kept hstop]
  exact hs.set_live (hl hs) rfl

theorem State.startSave_keeps {a : Kept} {s : State} (h : a.Keeps s.kept) {n : Nat} (hl : (s.ent n).st.live = true) (after : AfterSave) :
    a.Keeps (s.startSave n after).kept :=
  h.trans (State.startSave_keeps_of_apart (fun _ => hl) after)

/-- A context in the way stands on clusters, and is the one that the table lists under its number. -/
theorem State.ent_of_inWay {s : State} (hs : GroupsApart s.res) {n : Nat} {e : Nat × Resid} (he : e ∈ s.inWay n) :
    (s.ent e.1).st.live = true := by
  obtain ⟨hmem, hl⟩ : e ∈ s.res ∧ e.2.st.live = true := by
    have := List.mem_filter.1 he
    simp only [Bool.and_eq_true] at this
    exact ⟨this.1, this.2.1.2⟩
  rw [State.ent, Tab.get_of_mem hs.sorted hmem, hl]

/-- A RESUME pre-empts a context that occupies clusters, or takes free ones (R285). -/
@[simp] theorem State.goResume_keeps {a : Kept} {s : State} (h : a.Keeps s.kept) (n : Nat) : a.Keeps (s.goResume n).kept := by
  refine h.trans ?_
  unfold State.goResume
  split
  next e he => exact State.startSave_keeps_of_apart (fun hs => State.ent_of_inWay hs (List.mem_of_find?_eq_some he)) _
  next =>
    split
    · simp
    · split
      · simp
      next hway hfew =>
        have hbeside : s.beside n < 16 := Nat.lt_of_not_le fun hle => hfew (.inl hle)
        rw [State.withW_kept, State.ctxTo_kept]
        exact ⟨rfl, fun hs => hs.set_beside rfl (by simpa using hway) hbeside⟩

/-- An entry whose save no longer serves a RESUME of context n. -/
def Resid.unresumed (n : Nat) (r : Resid) : Resid := if r.after = .resume n then { r with after := .stay } else r

theorem Resid.unresumed_st (n : Nat) (r : Resid) : (r.unresumed n).st = r.st := by
  unfold Resid.unresumed
  split <;> rfl

theorem Resid.unresumed_cfg (n : Nat) (r : Resid) : (r.unresumed n).cfg = r.cfg := by
  unfold Resid.unresumed
  split <;> rfl

@[simp] theorem State.dropResume_keeps {a : Kept} {s : State} (h : a.Keeps s.kept) (n : Nat) : a.Keeps (s.dropResume n).kept := by
  unfold State.dropResume
  split
  · refine h.trans ?_
    rw [State.withW_kept]
    exact ⟨rfl, fun hs => hs.map (f := Resid.unresumed n) (Resid.unresumed_st n) (Resid.unresumed_cfg n)⟩
  · exact h

@[simp] theorem State.wipeCtx_keeps {a : Kept} {s : State} (h : a.Keeps s.kept) (n : Nat) : a.Keeps (s.wipeCtx n).kept :=
  State.ctxTo_absent_keeps (State.setEnt_keeps_of_idle (by simpa using h) n rfl) n .stay

@[simp] theorem State.restoreFail_keeps {a : Kept} {s : State} (h : a.Keeps s.kept) (n st : Nat) : a.Keeps (s.restoreFail n st).kept := by
  simp only [State.restoreFail, State.unparked_kept, State.withW_kept]
  exact State.ctxTo_saved_keeps (by simpa using h) ..

@[simp] theorem State.seedAt_kept (s : State) (n epoch : Nat) : (s.seedAt n epoch).kept = s.kept := by simp [State.seedAt]

@[simp] theorem State.kill_keeps {a : Kept} {s : State} (h : a.Keeps s.kept) (n : Nat) : a.Keeps (s.kill n).kept := by
  have ht : a.Keeps (if (s.ent n).st = .resident then s.startSave n .stay else s).kept := by
    split
    next hr => exact State.startSave_keeps h (by rw [hr]; rfl) .stay
    next => exact h
  simp only [State.kill, State.ite_kept, State.withW_kept, ite_self]
  simpa using ht

/-! ## Checkpoints -/

@[simp] theorem ckptDestroy_kept (s : State) (n : Nat) : (ckptDestroy s n).kept = s.kept := by simp [ckptDestroy]
@[simp] theorem State.ckptStart_kept (s : State) (n : Nat) : (s.ckptStart n).kept = s.kept := by simp [State.ckptStart]

@[simp] theorem State.ckptReplay_kept (s : State) (n : Nat) : (s.ckptReplay n).kept = s.kept := by
  simp only [State.ckptReplay]
  split
  · rfl
  · split <;> simp

@[simp] theorem State.pullFail_kept (s : State) (n st : Nat) : (s.pullFail n st).kept = s.kept := by simp [State.pullFail]

@[simp] theorem State.pullCheck_kept (s : State) (n : Nat) : (s.pullCheck n).kept = s.kept := by
  simp only [State.pullCheck]
  split
  · simp
  · split
    · simp
    · split <;> simp

/-- What writing a granule of a pulled checkpoint leaves, whether it succeeds or not. -/
theorem State.putGranule_kept {s t : State} {n : Nat} {e : List Byte} {g : Nat} {data : List Byte}
    (h : s.putGranule n e g data = .ok t ∨ ∃ st, s.putGranule n e g data = .error (st, t)) : t.kept = s.kept := by
  simp only [State.putGranule] at h
  split at h
  · split at h
    · obtain h | ⟨st, h⟩ := h <;> cases h
      simp
    · split at h <;> obtain h | ⟨st, h⟩ := h <;> cases h <;> simp
  · split at h <;> obtain h | ⟨st, h⟩ := h <;> cases h <;> simp

@[simp] theorem State.pullBad_kept (s : State) (src n : Nat) (k : CkptHdr) : (s.pullBad src n k).kept = s.kept := by simp [State.pullBad]

@[simp] theorem State.pullBegin_kept (s : State) (src n : Nat) (k : CkptHdr) (table : List Byte) : (s.pullBegin src n k table).kept = s.kept := by
  simp [State.pullBegin]

@[simp] theorem State.pullState_kept (s : State) (src n : Nat) (k : CkptHdr) (data : List Byte) : (s.pullState src n k data).kept = s.kept := by
  simp [State.pullState]

@[simp] theorem State.pullGranule_kept (s : State) (src n : Nat) (k : CkptHdr) (data : List Byte) : (s.pullGranule src n k data).kept = s.kept := by
  simp only [State.pullGranule]
  split
  · simp
  · split
    · simp
    · split
      · simp
      · split
        next heq => simpa using State.putGranule_kept (.inl heq)
        next heq => simpa using State.putGranule_kept (.inr ⟨_, heq⟩)

@[simp] theorem State.pullEnd_kept (s : State) (src n : Nat) (k : CkptHdr) : (s.pullEnd src n k).kept = s.kept := by simp [State.pullEnd]
@[simp] theorem State.pullReplay_kept (s : State) (n : Nat) (k : CkptHdr) (data : List Byte) : (s.pullReplay n k data).kept = s.kept := by
  simp [State.pullReplay]

@[simp] theorem State.answered_kept (s : State) (src : Nat) (k : CkptHdr) : (s.answered src k).kept = s.kept := by
  simp only [State.answered]
  split
  · simp
  · split <;> simp

@[simp] theorem State.pullLost_kept (s : State) (rank : Nat) : (s.pullLost rank).kept = s.kept :=
  State.foldl_kept (fun s n => s.pullFail_kept n stTimeout) _ s

@[simp] theorem State.ckptLinkDown_kept (s : State) (rank : Nat) : (s.ckptLinkDown rank).kept = s.kept := by simp [State.ckptLinkDown]
@[simp] theorem State.ckptLost_kept (s : State) (rank : Nat) : (s.ckptLost rank).kept = s.kept := by simp [State.ckptLost]

/-! ## The part's state -/

@[simp] theorem State.logRec_kept (s : State) (r : ErrRec) : (s.logRec r).kept = s.kept := State.kept_of_eq (s.logRec_only r).pending (s.logRec_only r).res
@[simp] theorem State.logOwed_kept (s : State) : s.logOwed.kept = s.kept := State.kept_of_eq s.logOwed_only.pending s.logOwed_only.res

@[simp] theorem State.raiseLogged_kept (s : State) (cls unit status inst addr : Nat) (detail : List Byte) (again : Bool) :
    (s.raiseLogged cls unit status inst addr detail again).kept = s.kept := by
  simp only [State.raiseLogged]
  split
  · simp
  · split <;> simp

@[simp] theorem State.partTo_kept (s : State) (p : PartSt) : (s.partTo p).kept = s.kept := by simp [State.partTo]
@[simp] theorem State.safe_kept (s : State) (st : Nat) : (s.safe st).kept = s.kept := by simp [State.safe]

@[simp] theorem State.fatal_kept (s : State) (unit status inst st addr : Nat) (detail : List Byte) :
    (s.fatal unit status inst st addr detail).kept = s.kept := by
  simp [State.fatal]

@[simp] theorem State.fatals_kept (s : State) (failed : List (Nat × Nat)) (st : Nat) : (s.fatals failed st).kept = s.kept := by
  rw [State.fatals, State.safe_kept, State.foldl_kept fun _ _ => State.raiseLogged_kept .., State.logOwed_kept]

/-- A context destroyed where it stands. -/
theorem State.destroy_keeps (s : State) (n : Nat) :
    s.kept.Keeps (if (s.ent n).st = .absent then s else ((s.withW (s.w.cancelSnap n)).setEnt n {}).ctxTo n .absent .stay).kept := by
  split
  · simp
  · exact State.ctxTo_absent_keeps (State.setEnt_keeps_of_idle (by simp) n rfl) n .stay

@[simp] theorem State.destroyAll_keeps {a : Kept} {s : State} (h : a.Keeps s.kept) : a.Keeps s.destroyAll.kept :=
  h.trans ⟨(State.foldl_keeps State.destroy_keeps _ s).queue, fun _ => .nil⟩

@[simp] theorem State.railsOff_keeps {a : Kept} {s : State} (h : a.Keeps s.kept) : a.Keeps s.railsOff.kept := by
  simp [State.railsOff, h]

@[simp] theorem State.startRails_kept (s : State) : s.startRails.kept = s.kept := by simp [State.startRails]
@[simp] theorem State.restart_keeps {a : Kept} {s : State} (h : a.Keeps s.kept) (straps : BitVec 4) (resets : Nat) :
    a.Keeps (s.restart straps resets).kept := by
  simp only [State.restart, State.kept_mk]
  refine h.trans ⟨State.pending_of_kept ?_, fun _ => .nil⟩
  simp

@[simp] theorem State.enterReady_kept (s : State) : s.enterReady.kept = s.kept := by simp [State.enterReady]

@[simp] theorem State.enterMismatch_kept (s : State) (bad : List Nat) : (s.enterMismatch bad).kept = s.kept := by
  simp only [State.enterMismatch, State.partTo_kept]
  exact State.foldl_kept (fun _ _ => State.raiseLogged_kept ..) bad s

@[simp] theorem State.compare_kept (s : State) (deadline : Bool) : (s.compare deadline).kept = s.kept := by
  simp only [State.compare]
  split <;> simp

/-! ## Cores, power and bring-up -/

@[simp] theorem State.reawaken_kept (s : State) (c : Nat) : (s.reawaken c).kept = s.kept := by
  unfold State.reawaken
  split <;> simp

@[simp] theorem State.advanceStep_kept (s : State) (n new : Nat) : (s.advanceStep n new).kept = s.kept := by simp [State.advanceStep]

@[simp] theorem State.wakeReady_kept (s : State) (r : Resid) : (s.wakeReady r).kept = s.kept :=
  State.foldl_kept (fun s c => by split <;> simp) _ s

@[simp] theorem State.idleTick_kept (s : State) : s.idleTick.kept = s.kept := by simp [State.idleTick]
@[simp] theorem State.runs_kept (s : State) (k : Nat) : (s.runs k).kept = s.kept := by simp [State.runs]
@[simp] theorem State.railFault_kept (s : State) (rail status st : Nat) : (s.railFault rail status st).kept = s.kept := by simp [State.railFault]
@[simp] theorem State.warnSigs_kept (s : State) (left : Nat) : (s.warnSigs left).kept = s.kept := by simp [State.warnSigs]
@[simp] theorem State.takeToken_kept (s : State) : s.takeToken.kept = s.kept := by simp [State.takeToken]

@[simp] theorem State.countSkipped_kept (s : State) : s.countSkipped.kept = s.kept := by
  simp only [State.countSkipped]
  split <;> simp

@[simp] theorem State.railsUp_kept (s : State) : s.railsUp.kept = s.kept := by
  simp only [State.railsUp]
  split <;> simp

@[simp] theorem State.tryRails_kept (s : State) : s.tryRails.kept = s.kept := by simp [State.tryRails]

@[simp] theorem State.logFailures_kept (s : State) (failed : List (ClusterId × Fin 17)) : (s.logFailures failed).kept = s.kept :=
  State.foldl_kept (fun _ _ => State.raiseLogged_kept ..) _ s

/-! ## Links and reliability -/

@[simp] theorem State.markLost_kept (s : State) (before : World) (rank l reporter : Nat) (from_ : Option Nat) :
    (s.markLost before rank l reporter from_).kept = s.kept := by
  simp [State.markLost]

@[simp] theorem State.linkDown_kept (s : State) (l : Nat) : (s.linkDown l).kept = s.kept := by simp [State.linkDown]
@[simp] theorem State.replay_kept (s : State) (l seq : Nat) : (s.replay l seq).kept = s.kept := by simp [State.replay]
@[simp] theorem State.servedContexts_kept (s : State) : s.servedContexts.kept = s.kept := by simp [State.servedContexts]

@[simp] theorem State.serve_keeps {a : Kept} {s : State} (h : a.Keeps s.kept) (r : ErrRec) : a.Keeps (s.serve r).kept := by
  unfold State.serve
  split <;> simp [h]

/-! ## Sessions, frames and requests -/

@[simp] theorem State.answer_kept (s : State) (h : KocHdr) (a : Answer) : (s.answer h a).kept = s.kept := by simp [State.answer]
@[simp] theorem State.transmit_kept (s : State) (h : KocHdr) (l : List (Nat × KocBody)) : (s.transmit h l).kept = s.kept := by simp [State.transmit]
@[simp] theorem State.countRequest_kept (s : State) (p : KocPort) : (s.countRequest p).1.kept = s.kept := by
  simp only [State.countRequest]
  split <;> simp
@[simp] theorem State.countRead_kept (s : State) (src : Nat) : (s.countRead src).1.kept = s.kept := by
  simp only [State.countRead]
  split <;> simp
@[simp] theorem State.domainRead_kept (s : State) (idx sub off len : Nat) : (s.domainRead idx sub off len).kept = s.kept := by simp [State.domainRead]
@[simp] theorem State.knownAnswer_kept (s : State) (idx sub : Nat) : (s.knownAnswer idx sub).kept = s.kept := by simp [State.knownAnswer]
@[simp] theorem State.putPersist_kept (s : State) (p : Persist) : (s.putPersist p).kept = s.kept := by simp [State.putPersist]

/-- A frame at a port leaves queue and table as they are, taken or not. -/
theorem State.frameIn_kept {s t : State} {p : KocPort} {net : NetHdr} {udp : Nat}
    (h : s.frameIn p net udp = .ok t ∨ s.frameIn p net udp = .error t) : t.kept = s.kept := by
  obtain h | h := h
  · obtain ⟨hw, -⟩ := State.frameIn_only h
    rw [hw, State.withW_kept]
  · unfold State.frameIn at h
    split at h
    · cases h; rfl
    · split at h
      · split at h <;> cases h
        rfl
      · split at h
        · split at h <;> cases h
          simp
        · cases h
          simp

theorem State.kocArrive_kept {s t : State} {h : KocHdr} (e : s.kocArrive h = .ok t ∨ s.kocArrive h = .error t) : t.kept = s.kept :=
  State.frameIn_kept e

theorem State.kocOutside_kept {s t : State} {h : KocHdr} {sound : Bool}
    (e : s.kocOutside h sound = .ok t ∨ s.kocOutside h sound = .error t) : t.kept = s.kept := by
  unfold State.kocOutside at e
  split at e
  next ha =>
    obtain e | e := e <;> cases e
    exact State.kocArrive_kept (.inr ha)
  next ha =>
    split at e <;> obtain e | e := e <;> cases e <;> simpa using State.kocArrive_kept (.inl ha)

theorem State.kocFrame_kept {s t : State} {h : KocHdr} {type : Nat} {payload : List Byte}
    (e : (∃ k, s.kocFrame h type payload = .ok (t, k)) ∨ s.kocFrame h type payload = .error t) : t.kept = s.kept := by
  unfold State.kocFrame at e
  split at e
  next ha =>
    obtain ⟨k, e⟩ | e := e <;> cases e
    exact State.kocArrive_kept (.inr ha)
  next ha =>
    have hs := State.kocArrive_kept (.inl ha)
    split at e
    · obtain ⟨k, e⟩ | e := e <;> cases e
      simpa using hs
    · split at e
      · obtain ⟨k, e⟩ | e := e <;> cases e
        simpa using hs
      · split at e <;> obtain ⟨k, e⟩ | e := e <;> cases e <;> simpa using hs

/-- A request keeps queue and table until it runs. -/
theorem State.request_keeps {s : State} {h : KocHdr} {type : Nat} {payload : List Byte} {run : State → Session → State}
    (hrun : ∀ t k, t.kept = s.kept → s.kept.Keeps (run t k).kept) : s.kept.KeepsIn (s.request h type payload run) := by
  unfold State.request
  split
  next hf => simp [State.kocFrame_kept (.inr hf)]
  next hf =>
    have hs := State.kocFrame_kept (.inl ⟨_, hf⟩)
    split
    · simp [hs]
    · split
      · simp [hs]
      · dsimp only
        split
        · exact hrun _ _ (by simp [hs])
        · simp [hs]

theorem Fx.Keeps.finish {a : Kept} {x : Fx} (hx : x.Keeps a) (h : KocHdr) : a.Keeps (x.finish h).kept := by
  unfold Fx.finish
  split
  · simpa using hx.now
  · exact hx.after _ (by simp)

theorem State.writeValue_keeps {s : State} {eff : State → Session → Fx} (he : ∀ s k, (eff s k).Keeps s.kept) (k : Session) (idx sub : Nat)
    (v : List Byte) : (s.writeValue k idx sub v eff).Keeps s.kept := by
  unfold State.writeValue
  split
  · simp
  · simp [he]
  · simp

/-- A WRITE does no more to queue and table than its object's rule. -/
theorem State.writeRequest_keeps {s : State} {h : KocHdr} {idx sub : Nat} {v : List Byte} {eff : State → Session → Fx}
    (he : ∀ s k, (eff s k).Keeps s.kept) : s.kept.KeepsIn (s.writeRequest h idx sub v eff) :=
  State.request_keeps fun _ k ht => ht ▸ (State.writeValue_keeps he k idx sub v).finish h

/-- A whole staged value does no more to queue and table than its object's rule. -/
theorem State.domainRequest_keeps {s : State} {h : KocHdr} {idx sub len : Nat} {eff : State → Session → Fx}
    (he : ∀ s k, (eff s k).Keeps s.kept) : s.kept.KeepsIn (s.domainRequest h idx sub len eff) :=
  State.request_keeps fun t k ht => by
    rw [← ht]
    split
    · exact ((Fx.keeps_refuse ..).2 (.refl _)).finish h
    · exact (he t k).finish h

/-! ## Objects -/

@[simp] theorem rangeFx_keeps (a : Kept) (s : State) (n lo hi : Nat) (v : List Byte) (f : Nat → State) (hs : a.Keeps s.kept)
    (hf : ∀ x, a.Keeps (f x).kept) : (rangeFx s n lo hi v f).Keeps a := by
  unfold rangeFx
  split <;> simp [hs, hf]

@[simp] theorem rangeW_keeps (s : State) (n lo hi : Nat) (v : List Byte) (f : Nat → World) : (rangeW s n lo hi v f).Keeps s.kept := by
  simp [rangeW]

@[simp] theorem octetsFx_keeps (a : Kept) (s : State) (n : Nat) (v : List Byte) (t : State) (hs : a.Keeps s.kept) (ht : a.Keeps t.kept) :
    (octetsFx s n v t).Keeps a := by
  simp [octetsFx, hs, ht]

@[simp] theorem cacheInvalidateFx_keeps (s : State) (v : List Byte) : (cacheInvalidateFx s v).Keeps s.kept := by simp [cacheInvalidateFx]
@[simp] theorem coreResumeFx_keeps (s : State) (c : Nat) (v : List Byte) : (coreResumeFx s c v).Keeps s.kept := by simp [coreResumeFx]

@[simp] theorem windowOpenFx_keeps (s : State) (c i : Nat) : (windowOpenFx s c i).Keeps s.kept := by
  unfold windowOpenFx
  split <;> simp

@[simp] theorem windowCloseFx_keeps (s : State) (c i : Nat) : (windowCloseFx s c i).Keeps s.kept := by simp [windowCloseFx]

@[simp] theorem dirtyClearFx_keeps (s : State) (c : Nat) (v : List Byte) : (dirtyClearFx s c v).Keeps s.kept := by
  unfold dirtyClearFx
  split <;> simp

@[simp] theorem chanFx_keeps (s : State) (d : Nat) (f : World → Resid → Nat → Nat → Ctrl) : (chanFx s d f).Keeps s.kept := by
  unfold chanFx
  split <;> simp

@[simp] theorem resumeFx_keeps (s : State) (n : Nat) : (resumeFx s n).Keeps s.kept := by
  unfold resumeFx
  split <;> simp

@[simp] theorem preemptFx_keeps (s : State) (n : Nat) : (preemptFx s n).Keeps s.kept := by
  unfold preemptFx
  split
  next hr => simpa using State.startSave_keeps (.refl _) (by simp [hr]) .stay
  all_goals simp

@[simp] theorem createFx_keeps (s : State) (n : Nat) : (createFx s n).Keeps s.kept := by
  simp only [createFx]
  split <;> simp

@[simp] theorem destroyFx_keeps (s : State) (n : Nat) : (destroyFx s n ckptDestroy).Keeps s.kept := by
  unfold destroyFx
  split
  next hr => simpa using State.startSave_keeps (by simp) (by simp [State.ent_of_kept (ckptDestroy_kept s n), hr]) .destroy
  all_goals simp

@[simp] theorem doorbellFx_keeps (s : State) (n : Nat) (v : List Byte) : (doorbellFx s n v).Keeps s.kept := by
  simp only [doorbellFx]
  split
  · simp
  · split
    · simp
    · split <;> simp

@[simp] theorem invalidateFx_keeps (s : State) (n : Nat) (v : List Byte) : (invalidateFx s n v).Keeps s.kept := by simp [invalidateFx]

@[simp] theorem seedFx_keeps (s : State) (n : Nat) (v : List Byte) : (seedFx s n v).Keeps s.kept := by
  unfold seedFx
  split <;> simp

@[simp] theorem reseedFx_keeps (s : State) (n : Nat) (v : List Byte) : (reseedFx s n v).Keeps s.kept := by
  unfold reseedFx
  split <;> simp

@[simp] theorem predictorSlotsFx_keeps (s : State) (n : Nat) (v : List Byte) : (predictorSlotsFx s n v).Keeps s.kept := by
  simp [predictorSlotsFx]
@[simp] theorem importFx_keeps (s : State) (n : Nat) (image : List (Nat × Byte)) : (importFx s n image).Keeps s.kept := by
  simp only [importFx]
  split
  · simp
  · split
    · simp
    next hst =>
      have hsaved : (s.ent n).st = .saved := Decidable.byContradiction fun hne => hst (.inl hne)
      split
      · simp
      · simpa using State.setEnt_keeps_of_idle (by simp) n (by simp [hsaved])

@[simp] theorem configFx_keeps (s : State) (n : Nat) (v : List Byte) : (configFx s n v).Keeps s.kept := by
  unfold configFx
  split
  · simp
  next hst =>
    split
    · simp
    · simpa using State.setEnt_keeps_of_idle (.refl _) n (by simp [Classical.not_not.1 hst])

@[simp] theorem buddyFx_keeps (s : State) (v : List Byte) : (buddyFx s v).Keeps s.kept := by
  unfold buddyFx
  split <;> simp

@[simp] theorem wardFx_keeps (s : State) (v : List Byte) : (wardFx s v).Keeps s.kept := by
  unfold wardFx
  split <;> simp

@[simp] theorem ckptConfigFx_keeps (s : State) (n : Nat) (v : List Byte) : (ckptConfigFx s n v).Keeps s.kept := by simp [ckptConfigFx]
@[simp] theorem ckptTableFx_keeps (s : State) (n : Nat) (v : List Byte) : (ckptTableFx s n v).Keeps s.kept := by simp [ckptTableFx]
@[simp] theorem restoreRequestFx_keeps (s : State) (n : Nat) (v : List Byte) : (restoreRequestFx s n v).Keeps s.kept := by
  simp [restoreRequestFx]
@[simp] theorem snapshotRequestFx_keeps (s : State) (v : List Byte) : (snapshotRequestFx s v).Keeps s.kept := by simp [snapshotRequestFx]
@[simp] theorem snapshotReleaseFx_keeps (s : State) (v : List Byte) : (snapshotReleaseFx s v).Keeps s.kept := by simp [snapshotReleaseFx]

@[simp] theorem clusterFloorFx_keeps (s : State) (k : Nat) (v : List Byte) : (clusterFloorFx s k v).Keeps s.kept := by
  simp only [clusterFloorFx]
  split <;> simp

@[simp] theorem railMarginFx_keeps (s : State) (v : List Byte) : (railMarginFx s v).Keeps s.kept := by simp [railMarginFx]
@[simp] theorem mainOffFx_keeps (s : State) : (mainOffFx s).Keeps s.kept := by simp [mainOffFx]
@[simp] theorem mainOnFx_keeps (s : State) : (mainOnFx s).Keeps s.kept := by simp [mainOnFx]

@[simp] theorem firmwareFx_keeps (s : State) (v : List Byte) : (firmwareFx s v).Keeps s.kept := by
  unfold firmwareFx
  split <;> simp

@[simp] theorem quoteFx_keeps (s : State) (v : List Byte) : (quoteFx s v).Keeps s.kept := by
  unfold quoteFx
  split
  · simp
  · split
    · simp
    · split <;> simp

@[simp] theorem licenceFx_keeps (s : State) (v : List Byte) : (licenceFx s v).Keeps s.kept := by simp [licenceFx]
@[simp] theorem qpReadyFx_keeps (s : State) (q : Nat) : (qpReadyFx s q).Keeps s.kept := by simp [qpReadyFx]
@[simp] theorem qpResetFx_keeps (s : State) (q : Nat) : (qpResetFx s q).Keeps s.kept := by simp [qpResetFx]

@[simp] theorem qpConfigFx_keeps (s : State) (q sub : Nat) (v : List Byte) : (qpConfigFx s q sub v).Keeps s.kept := by
  simp only [qpConfigFx]
  split
  · split <;> simp
  · split
    · simp
    · split <;> simp

@[simp] theorem regionFx_keeps (s : State) (m sub : Nat) (v : List Byte) : (regionFx s m sub v).Keeps s.kept := by
  simp only [regionFx]
  split
  · simp
  · split
    case h_6 => simp
    all_goals split <;> simp

@[simp] theorem linkRetrainFx_keeps (s : State) (l : Nat) (v : List Byte) : (linkRetrainFx s l v).Keeps s.kept := by
  unfold linkRetrainFx
  split
  · simp
  · split <;> simp

@[simp] theorem lostRankFx_keeps (s : State) (v : List Byte) : (lostRankFx s v).Keeps s.kept := by
  unfold lostRankFx
  split <;> simp

@[simp] theorem errorAckFx_keeps (s : State) (v : List Byte) : (errorAckFx s v).Keeps s.kept := by
  unfold errorAckFx
  split <;> simp

@[simp] theorem logClearFx_keeps (s : State) (v : List Byte) : (logClearFx s v).Keeps s.kept := by simp [logClearFx]

@[simp] theorem scanFx_keeps (s : State) (v : List Byte) : (scanFx s v).Keeps s.kept := by
  simp only [scanFx]
  split
  · simp
  · split <;> simp

@[simp] theorem readFx_keeps (a : Kept) (s : State) (k : Option Session) (idx sub : Nat) (hs : a.Keeps s.kept) :
    (readFx s k idx sub).Keeps a := by
  unfold readFx
  split <;> simp [hs]

@[simp] theorem persistFx_keeps (s : State) (idx sub : Nat) (v : List Byte) : (persistFx s idx sub v).Keeps s.kept := by
  simp only [persistFx]
  split <;> simp

@[simp] theorem keyListFx_keeps (s : State) (sub : Nat) (v : List Byte) : (keyListFx s sub v).Keeps s.kept := by simp [keyListFx]

@[simp] theorem leaseFx_keeps (s : State) (k : Session) (v : List Byte) : (leaseFx s k v).Keeps s.kept := by
  unfold leaseFx
  split <;> simp

@[simp] theorem revokeFx_keeps (s : State) (v : List Byte) : (revokeFx s v).Keeps s.kept := by simp [revokeFx]

/-- The reset that follows the answer keeps the queue (R429). -/
@[simp] theorem resetFx_keeps (s : State) (v : List Byte) : (resetFx s v).Keeps s.kept := by
  unfold resetFx
  split
  · exact ⟨.refl _, fun t ht => by simp [ht]⟩
  · simp

@[simp] theorem powerFx_keeps (s : State) (idx sub : Nat) (v : List Byte) : (powerFx s idx sub v).Keeps s.kept := by
  unfold powerFx
  split <;> simp

@[simp] theorem numsFx_keeps (s : State) (sub : Nat) (v : List Byte) : (numsFx s sub v).Keeps s.kept := by
  unfold numsFx
  split <;> simp

@[simp] theorem scrubFx_keeps (s : State) (v : List Byte) : (scrubFx s v).Keeps s.kept := by simp [scrubFx]

@[simp] theorem eventsFx_keeps (s : State) (k : Session) (sub : Nat) (v : List Byte) : (eventsFx s k sub v).Keeps s.kept := by
  simp only [eventsFx]
  split <;> simp

@[simp] theorem tokenFx_keeps (s : State) (v : List Byte) : (tokenFx s v).Keeps s.kept := by simp [tokenFx]

@[simp] theorem windowFx_keeps (s : State) (c i k : Nat) (v : List Byte) : (windowFx s c i k v).Keeps s.kept := by
  simp only [windowFx]
  split
  · simp
  · split
    · simp
    · split <;> simp

@[simp] theorem coreFx_keeps (s : State) (c sub : Nat) (v : List Byte) : (coreFx s c sub v).Keeps s.kept := by
  simp only [coreFx]
  split <;> simp

@[simp] theorem consumerFx_keeps (s : State) (n : Nat) (v : List Byte) : (consumerFx s n v).Keeps s.kept := by simp [consumerFx]

@[simp] theorem contextFx_keeps (s : State) (n sub : Nat) (v : List Byte) : (contextFx s n sub v).Keeps s.kept := by
  unfold contextFx
  split
  · split <;> simp
  all_goals simp

@[simp] theorem protectFx_keeps (s : State) (n : Nat) (v : List Byte) : (protectFx s n v).Keeps s.kept := by simp [protectFx]

@[simp] theorem randomFx_keeps (s : State) (n sub : Nat) (v : List Byte) : (randomFx s n sub v).Keeps s.kept := by
  unfold randomFx
  split <;> simp

@[simp] theorem channelFx_keeps (s : State) (d : Nat) (v : List Byte) : (channelFx s d v).Keeps s.kept := by
  unfold channelFx
  split <;> simp

theorem groupConfigFx_kept (s : State) (g sub : Nat) (v : List Byte) : (groupConfigFx s g sub v).1.kept = s.kept := by
  simp only [groupConfigFx]
  split
  · rfl
  · split
    case h_5 => rfl
    all_goals split <;> simp

@[simp] theorem groupFx_keeps (s : State) (g sub : Nat) (v : List Byte) : (groupFx s g sub v).Keeps s.kept := by
  simp [groupFx, groupConfigFx_kept]

@[simp] theorem queuePairFx_keeps (s : State) (q sub : Nat) (v : List Byte) : (queuePairFx s q sub v).Keeps s.kept := by
  unfold queuePairFx
  split <;> simp

@[simp] theorem checkpointFx_keeps (s : State) (n sub : Nat) (v : List Byte) : (checkpointFx s n sub v).Keeps s.kept := by
  unfold checkpointFx
  split <;> simp

@[simp] theorem State.sign_kept (s : State) (msg : List Byte) : (s.sign msg).1.kept = s.kept := by simp [State.sign]

@[simp] theorem securityFloorFx_keeps (s : State) (v : List Byte) : (securityFloorFx s v).Keeps s.kept := by
  unfold securityFloorFx
  split
  · simp
  · split <;> simp

@[simp] theorem topologyKeyFx_keeps (s : State) (v : List Byte) : (topologyKeyFx s v).Keeps s.kept := by simp [topologyKeyFx]

@[simp] theorem State.bootLicence_kept (s : State) : s.bootLicence.kept = s.kept := by
  simp only [State.bootLicence]
  split
  · simp
  · split <;> simp

@[simp] theorem State.lifeClears_kept (s : State) (l : LifeSt) : (s.lifeClears l).kept = s.kept := by
  unfold State.lifeClears
  split <;> simp

@[simp] theorem State.lifeChange_keeps {a : Kept} {s : State} (h : a.Keeps s.kept) (l : LifeSt) : a.Keeps (s.lifeChange l).kept := by
  simp [State.lifeChange, h]

@[simp] theorem lifecycleFx_keeps (s : State) (k : Session) (v : List Byte) : (lifecycleFx s k v).Keeps s.kept := by
  simp only [lifecycleFx]
  split
  · split
    · exact ⟨.refl _, fun t ht => by simp [ht]⟩
    · simp
  · simp

@[simp] theorem securityFx_keeps (s : State) (k : Session) (idx sub : Nat) (v : List Byte) : (securityFx s k idx sub v).Keeps s.kept := by
  unfold securityFx
  split <;> simp

/-- Every write of an object keeps queue and table. -/
@[simp] theorem writeFx_keeps (s : State) (k : Session) (idx sub : Nat) (v : List Byte) : (writeFx s k idx sub v).Keeps s.kept := by
  simp [writeFx]

theorem writeFx_withW_keeps (s : State) (w : World) (k : Session) (idx sub : Nat) (v : List Byte) :
    (writeFx (s.withW w) k idx sub v).Keeps s.kept := by
  simpa using writeFx_keeps (s.withW w) k idx sub v

theorem State.openStaged_keeps (s : State) (k : Session) (idx sub : Nat) (v : List Byte) : (s.openStaged k idx sub v).Keeps s.kept := by
  simp only [State.openStaged]
  split
  · simp
  · split <;> simp

theorem State.writeAny_keeps (s : State) (h : KocHdr) (idx sub : Nat) (v : List Byte) : s.kept.KeepsIn (s.writeAny h idx sub v) :=
  State.request_keeps fun t k ht => by
    rw [← ht]
    split
    · exact (t.openStaged_keeps k idx sub v).finish h
    · exact (State.writeValue_keeps (fun s k => writeFx_keeps s k idx sub v) k idx sub v).finish h

theorem State.readValue_keeps (s : State) (k : Session) (idx sub : Nat) : (s.readValue k idx sub).Keeps s.kept := by
  unfold State.readValue
  split <;> simp

theorem State.landSegment_keeps {a : Kept} {s : State} (hs : s.kept = a) (h : KocHdr) (k : Session) (x : SegXfer) :
    a.Keeps (s.landSegment h k x).kept := by
  subst hs
  simp only [State.landSegment]
  split
  · simp
  · split
    · split
      · simp
      · exact (writeFx_withW_keeps ..).after _ (by simp)
    · simp

/-! ## What commands share -/

/-- A command that acts on the world only. -/
theorem Kept.keepsIn_withW (s : State) (w : World) : s.kept.KeepsIn (.next (s.withW w)) := by simp

theorem State.collIn_keeps (s : State) (l : Nat) (h : SeamHdr) (b : FrameBody) (f : World → World) : s.kept.KeepsIn (s.collIn l h b f) := by
  unfold State.collIn
  split
  · simp
  · split <;> simp

theorem State.chanRun_keeps {s : State} {d : Nat} {f : Nat → Resid → Out} (hf : ∀ n r, s.kept.KeepsIn (f n r)) :
    s.kept.KeepsIn (s.chanRun d f) := by
  unfold State.chanRun
  split <;> simp [hf]

theorem State.ckptIn_keeps {s : State} {l : Nat} {h : SeamHdr} {op : Nat} {k : CkptHdr} {data : List Byte} {ward : World → World}
    {pull : State → Nat → State} (hpull : ∀ s n, (pull s n).kept = s.kept) : s.kept.KeepsIn (s.ckptIn l h op k data ward pull) := by
  unfold State.ckptIn
  split
  · simp
  · split
    · simp
    · split <;> simp [hpull]

theorem State.scalar_keeps (s : State) (c : Nat) (row : Record → Bool) (f : World → Env → Nat → Record → Scalar) :
    s.kept.KeepsIn (s.scalar c row f) := by
  unfold State.scalar
  split <;> simp

theorem State.dmago_keeps (s : State) (c action : Nat) (f : World → Resid → Nat → Nat → Ctrl) : s.kept.KeepsIn (s.dmago c action f) := by
  unfold State.dmago
  split
  · simp
  · split <;> simp

theorem State.descend_keeps (s : State) (k : Nat) (from_ to_ : PowerSt) : s.kept.KeepsIn (s.descend k from_ to_) := by
  simp [State.descend]

theorem State.neighbour_keeps (s : State) (p : KocPort) (ours : Bool) (len : Nat) (m : OutMsg) :
    s.kept.KeepsIn (s.neighbour p ours len m) := by
  simp only [State.neighbour]
  split
  · simp
  · split
    · simp
    · split
      · split <;> simp
      · simp

theorem State.roce_keeps (s : State) (p q : Nat) (net : NetHdr) (f : World → World) : s.kept.KeepsIn (s.roce p q net f) := by
  unfold State.roce
  split
  next h => simp [State.frameIn_kept (.inr h)]
  next h => simp [State.frameIn_kept (.inl h)]

theorem State.linkIn_keeps {s : State} {l : Nat} {h : SeamHdr} {b : FrameBody} {f : World → State} (hf : ∀ w, (f w).kept = s.kept) :
    s.kept.KeepsIn (s.linkIn l h b f) := by
  unfold State.linkIn
  split <;> simp [hf]

theorem State.winIn_keeps (s : State) (l : Nat) (h : SeamHdr) (b : FrameBody) (f : World → World) : s.kept.KeepsIn (s.winIn l h b f) :=
  State.linkIn_keeps fun _ => by simp

/-! ## Commands of the cores -/

theorem execCorrectedWriteback_keeps (c : CoreId) (s : State) : s.kept.KeepsIn (execCorrectedWriteback c s) := by
  simp [execCorrectedWriteback]

theorem execCorePatrolScrub_keeps (k : ClusterId) (s : State) : s.kept.KeepsIn (execCorePatrolScrub k s) := by simp [execCorePatrolScrub]

theorem execWindowDrainTimeout_keeps (c : CoreId) (w : WinId) (s : State) : s.kept.KeepsIn (execWindowDrainTimeout c w s) := by
  simp [execWindowDrainTimeout]

theorem execCommandFetch_keeps (c : CoreId) (s : State) : s.kept.KeepsIn (execCommandFetch c s) := by
  simp only [execCommandFetch]
  split
  · simp
  · split
    · simp
    · split <;> simp

theorem execEngineRecordDispatch_keeps (c : CoreId) (s : State) : s.kept.KeepsIn (execEngineRecordDispatch c s) := by
  simp only [execEngineRecordDispatch]
  split
  · split <;> simp
  · simp

theorem execRecordComplete_keeps (c : CoreId) (q : Queue) (s : State) : s.kept.KeepsIn (execRecordComplete c q s) := by
  unfold execRecordComplete
  split
  · split <;> simp
  · simp

theorem execSyncSignalDelivery_keeps (i : Nat) (s : State) : s.kept.KeepsIn (execSyncSignalDelivery i s) := by
  unfold execSyncSignalDelivery
  split <;> simp

theorem execWaitTimeout_keeps (c : CoreId) (at_ : WaitSite) (s : State) : s.kept.KeepsIn (execWaitTimeout c at_ s) := by
  unfold execWaitTimeout
  split
  · simp
  · split
    · simp
    · split
      · simp
      · split
        · split <;> simp
        · split <;> simp

theorem execSignal_keeps (c : CoreId) (s : State) : s.kept.KeepsIn (execSignal c s) := by
  unfold execSignal
  split <;> simp

theorem execFence_keeps (c : CoreId) (s : State) : s.kept.KeepsIn (execFence c s) := by
  unfold execFence
  split <;> simp

theorem execDmagoStart_keeps (c : CoreId) (s : State) : s.kept.KeepsIn (execDmagoStart c s) := by
  unfold execDmagoStart
  split <;> simp

theorem execStepRec_keeps (c : CoreId) (s : State) : s.kept.KeepsIn (execStepRec c s) := by
  unfold execStepRec
  split <;> simp [State.foldl_kept State.stopCore_kept]

theorem execStore_keeps (c : CoreId) (s : State) : s.kept.KeepsIn (execStore c s) := by
  unfold execStore
  split
  · split
    · split <;> simp
    · simp
  · simp

theorem execCrownPhaseStart_keeps (c : CoreId) (s : State) : s.kept.KeepsIn (execCrownPhaseStart c s) := by
  unfold execCrownPhaseStart
  split <;> simp

theorem execCrownPhaseEnd_keeps (c : CoreId) (s : State) : s.kept.KeepsIn (execCrownPhaseEnd c s) := by
  unfold execCrownPhaseEnd
  split <;> simp

/-! ## Commands of DMA channels, snapshots and contexts -/

theorem execPredictorUpdateDone_keeps (n : CtxId) (s : State) : s.kept.KeepsIn (execPredictorUpdateDone n s) := by
  simp [execPredictorUpdateDone]

theorem execDmaDescriptorFetch_keeps (d : ChanId) (s : State) : s.kept.KeepsIn (execDmaDescriptorFetch d s) :=
  State.chanRun_keeps fun _ _ => by simp

theorem execDmaDescriptorComplete_keeps (d : ChanId) (s : State) : s.kept.KeepsIn (execDmaDescriptorComplete d s) :=
  State.chanRun_keeps fun _ _ => by
    dsimp only
    split
    · simp
    · split <;> simp

theorem execDmaPauseDrained_keeps (d : ChanId) (moved : Nat) (s : State) : s.kept.KeepsIn (execDmaPauseDrained d moved s) :=
  State.chanRun_keeps fun _ _ => by
    dsimp only
    split
    · simp
    · split <;> simp

theorem execDmaHalt_keeps (d : ChanId) (cause : HaltCause) (s : State) : s.kept.KeepsIn (execDmaHalt d cause s) :=
  State.chanRun_keeps fun _ _ => by
    dsimp only
    split
    · split
      · simp
      · split
        · simp
        · simp
        · split <;> simp
    · split
      · split <;> simp
      · simp
    · split
      · split <;> simp
      · simp
    · simp

theorem execDmaWaitTimeout_keeps (d : ChanId) (s : State) : s.kept.KeepsIn (execDmaWaitTimeout d s) := by
  unfold execDmaWaitTimeout
  split <;> simp

theorem execSnapshotCopy_keeps (s : State) : s.kept.KeepsIn (execSnapshotCopy s) := by
  simp [execSnapshotCopy]

theorem execSnapshotReady_keeps (s : State) : s.kept.KeepsIn (execSnapshotReady s) := by
  simp only [execSnapshotReady]
  split
  · split <;> simp
  · simp

theorem execPreemptSave_keeps (n : CtxId) (s : State) : s.kept.KeepsIn (execPreemptSave n s) := by
  simp only [execPreemptSave]
  split
  · split
    · simp
    · simp
    · simp
  · simp

/-- A restored context stands on its clusters, also where it is pre-empted at once. -/
theorem State.restored_keeps {s t : State} {n : Nat} (hl : (s.ent n).st.live = true)
    (ht : t.kept = (s.setEnt n { s.ent n with st := .resident, after := .stay }).kept) (c : Prop) [Decidable c] :
    s.kept.Keeps (if c then t.startSave n .stay else t).kept := by
  have hkeeps : s.kept.Keeps t.kept := ht ▸ State.setEnt_keeps_of_live (.refl _) hl rfl
  split
  · exact State.startSave_keeps hkeeps (by simp [State.ent_of_kept ht]) .stay
  · exact hkeeps

theorem execContextRestore_keeps (n : CtxId) (s : State) : s.kept.KeepsIn (execContextRestore n s) := by
  simp only [execContextRestore]
  split
  next hr =>
    obtain ⟨-, hst, -⟩ := hr
    split
    · simp
    · split
      · simp
      · split
        · simp
        · split
          · simp
          · split
            · simp
            · exact State.restored_keeps (by simp [hst]) (by simp [State.ctxTo_kept, State.setEnt_kept]) _
  · simp

theorem execTlbInvalidateComplete_keeps (n : CtxId) (s : State) : s.kept.KeepsIn (execTlbInvalidateComplete n s) := by
  simp only [execTlbInvalidateComplete]
  split <;> simp

/-! ## Commands of checkpoints -/

theorem execCheckpointReadDone_keeps (n : CtxId) (s : State) : s.kept.KeepsIn (execCheckpointReadDone n s) := by
  simp only [execCheckpointReadDone]
  split
  · split
    · simp
    · split <;> simp
  · simp

theorem execCkptGranule_keeps (l : LinkId) (h : SeamHdr) (k : CkptHdr) (data : List Byte) (s : State) :
    s.kept.KeepsIn (execCkptGranule l h k data s) := by
  unfold execCkptGranule
  split
  · simp
  · exact State.ckptIn_keeps fun s n => s.pullGranule_kept h.src n k data

theorem execCkptAnswer_keeps (l : LinkId) (h : SeamHdr) (k : CkptHdr) (s : State) : s.kept.KeepsIn (execCkptAnswer l h k s) := by
  unfold execCkptAnswer
  split <;> simp

theorem execCkptPull_keeps (l : LinkId) (h : SeamHdr) (k : CkptHdr) (s : State) : s.kept.KeepsIn (execCkptPull l h k s) := by
  unfold execCkptPull
  split <;> simp

/-! ## Commands of links, collectives and host ports -/

theorem execLinkSignalDetect_keeps (l : LinkId) (s : State) : s.kept.KeepsIn (execLinkSignalDetect l s) := by simp [execLinkSignalDetect]

theorem execLinkTrained_keeps (l : LinkId) (s : State) : s.kept.KeepsIn (execLinkTrained l s) := by simp [execLinkTrained]

theorem execLinkTrainTimeout_keeps (l : LinkId) (s : State) : s.kept.KeepsIn (execLinkTrainTimeout l s) := by simp [execLinkTrainTimeout]

theorem execIdentSend_keeps (l : LinkId) (s : State) : s.kept.KeepsIn (execIdentSend l s) := by simp [execIdentSend]

theorem execLinkFecLoss_keeps (l : LinkId) (s : State) : s.kept.KeepsIn (execLinkFecLoss l s) := by simp [execLinkFecLoss]

theorem execLinkSilenceCheck_keeps (l : LinkId) (age : Nat) (s : State) : s.kept.KeepsIn (execLinkSilenceCheck l age s) := by
  simp [execLinkSilenceCheck]

theorem execHeartbeatSend_keeps (l : LinkId) (s : State) : s.kept.KeepsIn (execHeartbeatSend l s) := by simp [execHeartbeatSend]

theorem execAckSend_keeps (l : LinkId) (s : State) : s.kept.KeepsIn (execAckSend l s) := by simp [execAckSend]

theorem execHostLinkUp_keeps (p : PortId) (s : State) : s.kept.KeepsIn (execHostLinkUp p s) := by simp [execHostLinkUp]

theorem execRateIncreaseTimer_keeps (q : QpId) (s : State) : s.kept.KeepsIn (execRateIncreaseTimer q s) := by simp [execRateIncreaseTimer]

theorem execPfcXoffRefresh_keeps (p : PortId) (k : LossClass) (s : State) : s.kept.KeepsIn (execPfcXoffRefresh p k s) := by
  simp [execPfcXoffRefresh]

theorem execHostFrameDiscard_keeps (p : PortId) (s : State) : s.kept.KeepsIn (execHostFrameDiscard p s) := by simp [execHostFrameDiscard]

theorem execHostLinkDown_keeps (p : PortId) (s : State) : s.kept.KeepsIn (execHostLinkDown p s) := by simp [execHostLinkDown]

theorem execKeepaliveSend_keeps (g : GroupId) (seq level node : Nat) (s : State) : s.kept.KeepsIn (execKeepaliveSend g seq level node s) := by
  simp only [execKeepaliveSend]
  split
  · simp
  · split
    · split <;> simp
    · simp

theorem execCollInputTimeout_keeps (g : GroupId) (seq level node : Nat) (s : State) :
    s.kept.KeepsIn (execCollInputTimeout g seq level node s) := by
  simp only [execCollInputTimeout]
  split
  · simp
  · split
    · simp
    · split
      · split <;> simp
      · simp

theorem execReplayTimeout_keeps (l : LinkId) (s : State) : s.kept.KeepsIn (execReplayTimeout l s) := by
  unfold execReplayTimeout
  split <;> simp

theorem execFrameReject_keeps (l : LinkId) (h : SeamHdr) (cause : RejectCause) (nakDue : Bool) (s : State) :
    s.kept.KeepsIn (execFrameReject l h cause nakDue s) := by
  simp only [execFrameReject]
  split
  · split <;> simp
  · simp

theorem execFrameForward_keeps (l : LinkId) (h : SeamHdr) (b : FrameBody) (s : State) : s.kept.KeepsIn (execFrameForward l h b s) := by
  simp only [execFrameForward]
  split
  · simp
  · split
    · simp
    · split <;> simp

theorem execPfc_keeps (p : PortId) (priority quanta : Nat) (s : State) : s.kept.KeepsIn (execPfc p priority quanta s) := by
  simp [execPfc]

/-! ## Commands of KOC -/

theorem execLeaseExpiry_keeps (s : State) : s.kept.KeepsIn (execLeaseExpiry s) := by simp [execLeaseExpiry]

theorem State.readOutside_keeps (s : State) (h : KocHdr) (idx sub : Nat) : s.kept.KeepsIn (s.readOutside h idx sub) := by
  simp only [State.readOutside]
  split
  next e => simp [State.kocOutside_kept (.inr e)]
  next t e =>
    rw [← State.kocOutside_kept (.inl e)]
    split
    · simp
    · simp only [Kept.keepsIn_next, State.withW_kept]
      exact Fx.Keeps.now (by simp)

theorem execRead_keeps (h : KocHdr) (idx sub : Nat) (s : State) : s.kept.KeepsIn (execRead h idx sub s) := by
  unfold execRead
  split
  · exact s.readOutside_keeps h idx sub
  · exact State.request_keeps fun t k ht => ht ▸ (t.readValue_keeps k idx sub).finish h

theorem execPmxKnownAnswer_keeps (h : KocHdr) (s : State) : s.kept.KeepsIn (execPmxKnownAnswer h s) :=
  State.request_keeps fun t k ht => ht ▸ (t.readValue_keeps k 0x3E00 5).finish h

theorem execSegRead_keeps (h : KocHdr) (idx sub seg : Nat) (s : State) : s.kept.KeepsIn (execSegRead h idx sub seg s) :=
  State.request_keeps fun t k ht => by
    dsimp only
    split <;> simp [ht]

theorem execSegWrite_keeps (h : KocHdr) (idx sub seg len : Nat) (s : State) : s.kept.KeepsIn (execSegWrite h idx sub seg len s) :=
  State.request_keeps fun t k ht => by
    dsimp only
    split <;> simp [ht]

theorem execSegData_keeps (h : KocHdr) (frame : Nat) (data : List Byte) (s : State) : s.kept.KeepsIn (execSegData h frame data s) := by
  simp only [execSegData]
  split
  next e => simp [State.kocFrame_kept (.inr e)]
  next e =>
    rw [← State.kocFrame_kept (.inl ⟨_, e⟩)]
    split
    · simp
    · split
      · simp
      · split
        · exact State.landSegment_keeps (by simp) ..
        · simp

theorem execSegAck_keeps (h : KocHdr) (bitmap status : Nat) (s : State) : s.kept.KeepsIn (execSegAck h bitmap status s) := by
  unfold execSegAck
  split
  next e => simp [State.kocFrame_kept (.inr e)]
  next e =>
    have ht := State.kocFrame_kept (.inl ⟨_, e⟩)
    split
    · simp [ht]
    · split <;> simp [ht]

theorem State.makeOffer_keeps (s : State) (h : KocHdr) (nonce hash : List Byte) : s.kept.Keeps (s.makeOffer h nonce hash).kept := by
  simp [State.makeOffer]

theorem execOpenReq_keeps (h : KocHdr) (nonce keyHash : List Byte) (s : State) : s.kept.KeepsIn (execOpenReq h nonce keyHash s) := by
  simp only [execOpenReq]
  split
  · simp
  · split
    next e => simp [State.kocOutside_kept (.inr e)]
    next t e =>
      rw [← State.kocOutside_kept (.inl e)]
      split
      · simp
      · exact t.makeOffer_keeps h nonce keyHash

theorem execOpenFinish_keeps (h : KocHdr) (sid : Nat) (cipher sig : List Byte) (s : State) :
    s.kept.KeepsIn (execOpenFinish h sid cipher sig s) := by
  simp only [execOpenFinish]
  split
  next e => simp [State.kocOutside_kept (.inr e)]
  next e =>
    have ht := State.kocOutside_kept (.inl e)
    split
    · simp [ht]
    · split <;> simp [ht]

theorem execClose_keeps (h : KocHdr) (reason : Nat) (s : State) : s.kept.KeepsIn (execClose h reason s) := by
  unfold execClose
  split
  next e => simp [State.kocFrame_kept (.inr e)]
  next e => simp [State.kocFrame_kept (.inl ⟨_, e⟩)]

theorem execPing_keeps (h : KocHdr) (s : State) : s.kept.KeepsIn (execPing h s) := by
  unfold execPing
  split
  next e => simp [State.kocFrame_kept (.inr e)]
  next e => simp [State.kocFrame_kept (.inl ⟨_, e⟩)]

theorem execEventAck_keeps (h : KocHdr) (seq : Nat) (s : State) : s.kept.KeepsIn (execEventAck h seq s) := by
  unfold execEventAck
  split
  next e => simp [State.kocFrame_kept (.inr e)]
  next e => simp [State.kocFrame_kept (.inl ⟨_, e⟩)]

theorem execEventResendTimer_keeps (sid : Nat) (s : State) : s.kept.KeepsIn (execEventResendTimer sid s) := by
  simp only [execEventResendTimer]
  split <;> simp

theorem execPersistentFlush_keeps (s : State) : s.kept.KeepsIn (execPersistentFlush s) := by
  unfold execPersistentFlush
  split <;> simp

theorem execGroupConfigWrite_keeps (h : KocHdr) (g : GroupId) (sub : Nat) (v : List Byte) (s : State) :
    s.kept.KeepsIn (execGroupConfigWrite h g sub v s) := by
  unfold execGroupConfigWrite
  split
  · exact State.domainRequest_keeps fun s _ => groupFx_keeps s g 1 v
  · exact State.writeRequest_keeps fun s _ => groupFx_keeps s g sub v

/-! ## Commands of power, bring-up and reliability -/

theorem execHbmPatrolScrub_keeps (s : State) : s.kept.KeepsIn (execHbmPatrolScrub s) := by simp [execHbmPatrolScrub]

theorem execHbmStackTrained_keeps (t : StackId) (ok : Bool) (s : State) : s.kept.KeepsIn (execHbmStackTrained t ok s) := by
  simp [execHbmStackTrained]

theorem execMgmtCoreSleep_keeps (m : Fin 8) (s : State) : s.kept.KeepsIn (execMgmtCoreSleep m s) := by simp [execMgmtCoreSleep]

theorem execGovernorPeriod_keeps (powerMw meanMw excursionUs : Nat) (tj0 tj1 : Int) (s : State) :
    s.kept.KeepsIn (execGovernorPeriod powerMw meanMw excursionUs tj0 tj1 s) := by
  simp [execGovernorPeriod]

theorem execCurrentLimitTrip_keeps (currentMa : Nat) (s : State) : s.kept.KeepsIn (execCurrentLimitTrip currentMa s) := by
  simp [execCurrentLimitTrip]

theorem execRailOutOfWindow_keeps (rail status : Nat) (s : State) : s.kept.KeepsIn (execRailOutOfWindow rail status s) := by
  simp [execRailOutOfWindow]

theorem execPgAonFall_keeps (s : State) : s.kept.KeepsIn (execPgAonFall s) := by
  unfold execPgAonFall
  split
  · exact ⟨rfl, fun _ => .nil⟩
  · simp

theorem execResetPin_keeps (straps : BitVec 4) (s : State) : s.kept.KeepsIn (execResetPin straps s) := by simp [execResetPin]

theorem execRailSequenceStep_keeps (s : State) : s.kept.KeepsIn (execRailSequenceStep s) := by simp [execRailSequenceStep]

theorem execPgMainRise_keeps (s : State) : s.kept.KeepsIn (execPgMainRise s) := by simp [execPgMainRise]

theorem execPgMainTimeout_keeps (s : State) : s.kept.KeepsIn (execPgMainTimeout s) := by simp [execPgMainTimeout]

theorem execPllLockTimeout_keeps (s : State) : s.kept.KeepsIn (execPllLockTimeout s) := by simp [execPllLockTimeout]

theorem execTopologyDeadline_keeps (s : State) : s.kept.KeepsIn (execTopologyDeadline s) := by simp [execTopologyDeadline]

theorem execPatternCacheLoaded_keeps (ok : Bool) (s : State) : s.kept.KeepsIn (execPatternCacheLoaded ok s) := by
  simp [execPatternCacheLoaded]

theorem execAttestationTokenRefill_keeps (s : State) : s.kept.KeepsIn (execAttestationTokenRefill s) := by simp [execAttestationTokenRefill]

theorem execFaultServiceWatchdog_keeps (s : State) : s.kept.KeepsIn (execFaultServiceWatchdog s) := by simp [execFaultServiceWatchdog]

theorem execScanComplete_keeps (pass : Bool) (patterns : Nat) (s : State) : s.kept.KeepsIn (execScanComplete pass patterns s) := by
  simp [execScanComplete]

theorem execRefreshRateChange_keeps (t : StackId) (celsius : Int) (s : State) : s.kept.KeepsIn (execRefreshRateChange t celsius s) := by
  simp [execRefreshRateChange]

theorem execClusterEntryDone_keeps (k : ClusterId) (s : State) : s.kept.KeepsIn (execClusterEntryDone k s) := by
  simp only [execClusterEntryDone]
  split <;> simp

theorem execPowerUpStart_keeps (d : DieId) (s : State) : s.kept.KeepsIn (execPowerUpStart d s) := by
  simp only [execPowerUpStart]
  split <;> simp

theorem execDozeRestartStart_keeps (d : DieId) (s : State) : s.kept.KeepsIn (execDozeRestartStart d s) := by
  simp only [execDozeRestartStart]
  split <;> simp

theorem execClusterRun_keeps (k : ClusterId) (s : State) : s.kept.KeepsIn (execClusterRun k s) := by
  simp only [execClusterRun]
  split
  · simp
  · split <;> simp

theorem execThermalSample_keeps (readings : List Int) (s : State) : s.kept.KeepsIn (execThermalSample readings s) := by
  simp only [execThermalSample]
  split
  · simp
  · split <;> simp

theorem execPmbusPoll_keeps (rails : List RegReading) (s : State) : s.kept.KeepsIn (execPmbusPoll rails s) := by
  simp only [execPmbusPoll]
  split
  · simp
  · split <;> simp

theorem execPowerOn_keeps (straps : BitVec 4) (s : State) : s.kept.KeepsIn (execPowerOn straps s) := by
  simp only [execPowerOn]
  split
  · simp
  · simp

theorem execBootVerifyDone_keeps (s : State) : s.kept.KeepsIn (execBootVerifyDone s) := by
  simp only [execBootVerifyDone]
  split
  · split <;> simp
  · simp

theorem execSelfTestDone_keeps (failedCores : List (ClusterId × Fin 17)) (failedUnits : List SharedUnit) (s : State) :
    s.kept.KeepsIn (execSelfTestDone failedCores failedUnits s) := by
  simp [execSelfTestDone]

theorem execQuoteSigned_keeps (s : State) : s.kept.KeepsIn (execQuoteSigned s) := by
  simp only [execQuoteSigned]
  split <;> simp

theorem execFaultServiceTake_keeps (s : State) : s.kept.KeepsIn (execFaultServiceTake s) := by
  simp only [execFaultServiceTake]
  split
  · simp
  · split <;> simp

theorem execHbmWipeDone_keeps (failed : Option StackId) (us : Nat) (s : State) : s.kept.KeepsIn (execHbmWipeDone failed us s) := by
  simp only [execHbmWipeDone]
  split
  · split <;> simp
  · simp

/-! ## Every command, every step -/

/-- Every command goes on and keeps the queue and the groups: most leave both as they are; a write does what its object's rule does. -/
theorem exec_keeps (i : Instr) (s : State) : s.kept.KeepsIn (exec i s) := by
  unfold exec
  cases i with
  | load | loadwTiles | loadwPool | loadwValues | atomicCas | atomicFac | atomicCac | collAllreduce | collReduceScatter | collAllgather
  | collBroadcast | collGnorm | collDigest | matmul | spmm | spmmt | sddmm | full | pruneThresh | pruneTilek | pruneRowk | regrowGrad
  | regrowRandt | regrowRandr | probeTile | probeRow | predictPredicted | predictExact | screen | crownSum | crownMeanvar | crownMax | vewAdd
  | vewSub | vewMul | vewFma | vewMax | vewMin | vewAbs | vewNeg | vewScale | vewRecip | vewSqrt | vewRsqrt | vewExp | vewLog | vewTanh
  | vewSigmoid | vewErf | vewSelect | vewCmpgt | vewClip | vredSum | vredMax | vredMin | vredSumsq | vredMeanvar | vredAmax | vconv | vrandBits
  | vrandUniform | vrandBernoulli | sacLineFill | wwrite | openTimeout | segmentTimeout | stagedWriteTimeout | sessionIdleTimeout
  | sessionLifetimeExpiry | pfcPauseExpiry => exact Kept.keepsIn_withW ..
  | nop | seti | addi | aluAdd | aluSub | aluAnd | aluOr | aluXor | aluShl | aluShr | aluSar | aluMul | aluMin | aluMax | aluSlt | aluSltu | lds
  | sts | br | loop | wait | eventRec | endRec => exact State.scalar_keeps ..
  | dmagoResume | dmagoPause | dmagoSkip | dmagoAbort => exact State.dmago_keeps ..
  | clusterIdleEntry | clusterDozeEntry | clusterNapEntry => exact State.descend_keeps ..
  | contrib | result | canswer | keepalive => exact State.collIn_keeps ..
  | wcredit | wanswer | wreturn | wclose => exact State.winIn_keeps ..
  | link | nak | heartbeat | ident | lost => exact State.linkIn_keeps fun _ => by simp
  | ckptBegin | ckptState | ckptEnd | ckptReplay => exact State.ckptIn_keeps fun _ _ => by simp
  | rdmaWrite | rdmaRead | send | roceInvalidRequest | cnp => exact State.roce_keeps ..
  | arp | neighbourDiscovery | icmpEcho => exact State.neighbour_keeps ..
  | write | domainWriteOpen => exact State.writeAny_keeps ..
  | cacheInvalidateAll | coreResume | windowOpen | windowClose | dirtyMapClear | seedWrite | reseed | snapshotRequest | snapshotRelease
  | contextCreate | contextResume | contextPreempt | contextDestroy | doorbell | tlbInvalidateRequest | dmaCtrlResume | dmaCtrlPause | dmaCtrlSkip
  | dmaCtrlAbort | linkRetrain | lostRankClear | qpReady | qpReset | leaseRequest | leaseRevoke | resetWrite | clusterFloorWrite | railMarginWrite
  | mainPowerOff | mainPowerOn | securityFloorRaise | quoteRequest | lifecycleTransition | errorRecordAck | errorLogClear | scanRequest | buddySet
  | wardSet | checkpointRestoreRequest => exact State.writeRequest_keeps fun _ _ => by simp
  | predictorSlotsWrite | contextImport | kocKeyListWrite | licenceInstall | topologyKeyAdd | firmwareImageWrite =>
      exact State.domainRequest_keeps fun _ _ => by simp
  | commandFetch => exact execCommandFetch_keeps ..
  | engineRecordDispatch => exact execEngineRecordDispatch_keeps ..
  | recordComplete => exact execRecordComplete_keeps ..
  | syncSignalDelivery => exact execSyncSignalDelivery_keeps ..
  | waitTimeout => exact execWaitTimeout_keeps ..
  | signal => exact execSignal_keeps ..
  | fence => exact execFence_keeps ..
  | dmagoStart => exact execDmagoStart_keeps ..
  | stepRec => exact execStepRec_keeps ..
  | store => exact execStore_keeps ..
  | crownPhaseStart => exact execCrownPhaseStart_keeps ..
  | crownPhaseEnd => exact execCrownPhaseEnd_keeps ..
  | correctedWriteback => exact execCorrectedWriteback_keeps ..
  | corePatrolScrub => exact execCorePatrolScrub_keeps ..
  | windowDrainTimeout => exact execWindowDrainTimeout_keeps ..
  | pmxKnownAnswer => exact execPmxKnownAnswer_keeps ..
  | snapshotCopy => exact execSnapshotCopy_keeps ..
  | snapshotReady => exact execSnapshotReady_keeps ..
  | preemptSave => exact execPreemptSave_keeps ..
  | contextRestore => exact execContextRestore_keeps ..
  | tlbInvalidateComplete => exact execTlbInvalidateComplete_keeps ..
  | dmaDescriptorFetch => exact execDmaDescriptorFetch_keeps ..
  | dmaDescriptorComplete => exact execDmaDescriptorComplete_keeps ..
  | dmaPauseDrained => exact execDmaPauseDrained_keeps ..
  | dmaHalt => exact execDmaHalt_keeps ..
  | dmaWaitTimeout => exact execDmaWaitTimeout_keeps ..
  | hbmPatrolScrub => exact execHbmPatrolScrub_keeps ..
  | hbmStackTrained => exact execHbmStackTrained_keeps ..
  | hbmWipeDone => exact execHbmWipeDone_keeps ..
  | linkSignalDetect => exact execLinkSignalDetect_keeps ..
  | linkTrained => exact execLinkTrained_keeps ..
  | linkTrainTimeout => exact execLinkTrainTimeout_keeps ..
  | identSend => exact execIdentSend_keeps ..
  | linkFecLoss => exact execLinkFecLoss_keeps ..
  | linkSilenceCheck => exact execLinkSilenceCheck_keeps ..
  | heartbeatSend => exact execHeartbeatSend_keeps ..
  | ackSend => exact execAckSend_keeps ..
  | replayTimeout => exact execReplayTimeout_keeps ..
  | frameReject => exact execFrameReject_keeps ..
  | frameForward => exact execFrameForward_keeps ..
  | keepaliveSend => exact execKeepaliveSend_keeps ..
  | collInputTimeout => exact execCollInputTimeout_keeps ..
  | groupConfigWrite => exact execGroupConfigWrite_keeps ..
  | hostLinkUp => exact execHostLinkUp_keeps ..
  | rateIncreaseTimer => exact execRateIncreaseTimer_keeps ..
  | pfc => exact execPfc_keeps ..
  | pfcXoffRefresh => exact execPfcXoffRefresh_keeps ..
  | hostFrameDiscard => exact execHostFrameDiscard_keeps ..
  | openReq => exact execOpenReq_keeps ..
  | openFinish => exact execOpenFinish_keeps ..
  | close => exact execClose_keeps ..
  | read => exact execRead_keeps ..
  | segRead => exact execSegRead_keeps ..
  | segWrite => exact execSegWrite_keeps ..
  | segData => exact execSegData_keeps ..
  | segAck => exact execSegAck_keeps ..
  | eventAck => exact execEventAck_keeps ..
  | eventResendTimer => exact execEventResendTimer_keeps ..
  | ping => exact execPing_keeps ..
  | leaseExpiry => exact execLeaseExpiry_keeps ..
  | persistentFlush => exact execPersistentFlush_keeps ..
  | clusterEntryDone => exact execClusterEntryDone_keeps ..
  | powerUpStart => exact execPowerUpStart_keeps ..
  | dozeRestartStart => exact execDozeRestartStart_keeps ..
  | clusterRun => exact execClusterRun_keeps ..
  | mgmtCoreSleep => exact execMgmtCoreSleep_keeps ..
  | governorPeriod => exact execGovernorPeriod_keeps ..
  | currentLimitTrip => exact execCurrentLimitTrip_keeps ..
  | thermalSample => exact execThermalSample_keeps ..
  | pmbusPoll => exact execPmbusPoll_keeps ..
  | railOutOfWindow => exact execRailOutOfWindow_keeps ..
  | powerOn => exact execPowerOn_keeps ..
  | pgAonFall => exact execPgAonFall_keeps ..
  | resetPin => exact execResetPin_keeps ..
  | bootVerifyDone => exact execBootVerifyDone_keeps ..
  | railSequenceStep => exact execRailSequenceStep_keeps ..
  | pgMainRise => exact execPgMainRise_keeps ..
  | pgMainTimeout => exact execPgMainTimeout_keeps ..
  | pllLockTimeout => exact execPllLockTimeout_keeps ..
  | selfTestDone => exact execSelfTestDone_keeps ..
  | topologyDeadline => exact execTopologyDeadline_keeps ..
  | patternCacheLoaded => exact execPatternCacheLoaded_keeps ..
  | attestationTokenRefill => exact execAttestationTokenRefill_keeps ..
  | faultServiceTake => exact execFaultServiceTake_keeps ..
  | faultServiceWatchdog => exact execFaultServiceWatchdog_keeps ..
  | scanComplete => exact execScanComplete_keeps ..
  | checkpointReadDone => exact execCheckpointReadDone_keeps ..
  | ckptGranule => exact execCkptGranule_keeps ..
  | ckptAnswer => exact execCkptAnswer_keeps ..
  | ckptPull => exact execCkptPull_keeps ..
  | hostLinkDown => exact execHostLinkDown_keeps ..
  | refreshRateChange => exact execRefreshRateChange_keeps ..
  | predictorUpdateDone => exact execPredictorUpdateDone_keeps ..
  | quoteSigned => exact execQuoteSigned_keeps ..

/-- A step goes on and keeps core groups apart, whatever the command at the front of its queue is. -/
theorem step_goes (s : State) : ∃ t, step s = .next t ∧ (GroupsApart s.res → GroupsApart t.res) := by
  unfold step
  split
  · exact ⟨s.idleTick, rfl, (Kept.Keeps.apart (a := s.kept) (b := s.idleTick.kept) (by simp))⟩
  next c rest _ =>
    obtain ⟨t, ht, hkeeps⟩ := (exec_keeps c { s with pending := rest }).next
    exact ⟨t, ht, hkeeps.apart⟩

/-- Settles O3: every command's lemma says what its next state keeps of the queue. -/
theorem everyCommandGoesOn : Obligations.EveryCommandGoesOn := by
  unfold Obligations.EveryCommandGoesOn
  refine ⟨fun i s => ?_, fun s => ?_⟩
  · obtain ⟨t, ht, hkeeps⟩ := (exec_keeps i s).next
    exact ⟨t, ht, hkeeps.queue⟩
  · obtain ⟨t, ht, -⟩ := step_goes s
    exact ⟨t, ht⟩

/-- Settles O5: every command's lemma says what its next state keeps of the context table. -/
theorem coreGroupsStayApart : Obligations.CoreGroupsStayApart := by
  unfold Obligations.CoreGroupsStayApart
  intro s t hs hstep
  obtain ⟨u, hu, hkeeps⟩ := step_goes s
  cases hstep.symm.trans hu
  exact hkeeps hs

/-- Settles O4: every step only advances the fuses. -/
theorem fusesOnlyAdvance : Obligations.FusesOnlyAdvance := by
  unfold Obligations.FusesOnlyAdvance
  exact fun _ _ => step_advances

end Sys2Proof.Machine

/-! PROOFS. The block and its idle step, the values after reset, the governor's rules, the error queue. -/
namespace Sys2Proof.Machine

/-! ## The block (R420) -/

theorem step_of_cons {s : State} {c : Instr} {rest : List Instr} (h : s.pending = c :: rest) : step s = exec c { s with pending := rest } := by
  rw [step, h]

theorem step_of_nil {s : State} (h : s.pending = []) : step s = .next s.idleTick := by rw [step, h]

/-- Settles O1: the definition of a step, on a queue that is not empty. -/
theorem stepRunsTheFrontCommand : Obligations.StepRunsTheFrontCommand := by
  unfold Obligations.StepRunsTheFrontCommand
  exact fun _ _ _ => step_of_cons

/-- What a cycle of the idle part can change. -/
theorem State.idleTick_frame (s : State) :
    s.idleTick = { s with ctl := { s.ctl with clock := s.idleTick.ctl.clock }, w := { s.w with tick := s.idleTick.w.tick } } := by
  unfold State.idleTick
  split <;> (dsimp only; split <;> rfl)

theorem State.idleTick_clock {s : State} (ha : s.ctl.pins.pgAon = true) : s.idleTick.ctl.clock = s.ctl.clock + 1 := by
  cases h : s.ctl.pgMain <;> simp [State.idleTick, h, ha]

theorem State.idleTick_off {s : State} (ha : s.ctl.pins.pgAon = false) (hm : s.ctl.pgMain = false) : s.idleTick = s := by
  simp [State.idleTick, ha, hm]

theorem State.idleTick_tick {s : State} (hm : s.ctl.pgMain = true) : s.idleTick.w.tick = s.w.tick.map fun t => (t + 1) % 2 ^ 64 := by
  cases ha : s.ctl.pins.pgAon <;> simp [State.idleTick, ha, hm]

/-- Settles O2: clock and die counters are all that an idle cycle writes. -/
theorem idleStepOnlyCounts : Obligations.IdleStepOnlyCounts := by
  unfold Obligations.IdleStepOnlyCounts
  refine fun s hq => ⟨s.idleTick, step_of_nil hq, s.idleTick_frame, State.idleTick_clock, State.idleTick_off, ?_⟩
  intro _ hm hlen d hd
  simp [State.idleTick_tick hm, List.getD_eq_getElem?_getD, show d < s.w.tick.length by omega]

/-! ## The governor (R439) -/

theorem dutyStep_hot {c : Ctl} {p x d : Nat} {a : Rat} {tj : Int} (h : ((c.throttle * 1000 : Nat) : Int) ≤ tj) :
    dutyStep c p a x tj d = (max 1 (d - 2), 2) := by simp only [dutyStep, if_pos h]

theorem dutyStep_mean {c : Ctl} {p x d : Nat} {a : Rat} {tj : Int} (h : tj < ((c.throttle * 1000 : Nat) : Int)) (ha : c.limit * 1000 < a) :
    dutyStep c p a x tj d = (max 1 (d - 1), 0) := by simp only [dutyStep, if_neg (Int.not_le.2 h), if_pos ha]

theorem dutyStep_excursion {c : Ctl} {p x d : Nat} {a : Rat} {tj : Int} (h : tj < ((c.throttle * 1000 : Nat) : Int)) (ha : a ≤ c.limit * 1000)
    (hx : c.excursion * 1000 < p ∨ c.duration * 1000 ≤ x) : dutyStep c p a x tj d = (max 1 (d - 1), 1) := by
  simp only [dutyStep, if_neg (Int.not_le.2 h), if_neg (Rat.not_lt.2 ha), if_pos hx]

theorem dutyStep_cool {c : Ctl} {p x d : Nat} {a : Rat} {tj : Int} (h : tj < ((c.throttle * 1000 : Nat) : Int) - 2000)
    (ha : a * 100 < 95 * (c.limit * 1000)) (hp : p ≤ c.excursion * 1000) (hx : x < c.duration * 1000) (hd : d < 8) :
    dutyStep c p a x tj d = (d + 1, 4) := by
  have hlimit : (0 : Rat) ≤ (c.limit : Rat) := Rat.natCast_nonneg
  have hmean : ¬ (c.limit * 1000 : Rat) < a := by grind
  have hhot : ¬ ((c.throttle * 1000 : Nat) : Int) ≤ tj := by omega
  have hcalm : ¬ (c.excursion * 1000 < p ∨ c.duration * 1000 ≤ x) := by omega
  simp only [dutyStep, if_neg hhot, if_neg hmean, if_neg hcalm, if_pos (And.intro ha h), Nat.min_eq_right (show d + 1 ≤ 8 by omega)]

theorem dutyStep_range {c : Ctl} {p x d : Nat} {a : Rat} {tj : Int} (h1 : 1 ≤ d) (h8 : d ≤ 8) :
    1 ≤ (dutyStep c p a x tj d).1 ∧ (dutyStep c p a x tj d).1 ≤ 8 := by
  unfold dutyStep
  split
  · dsimp only; omega
  · split
    · dsimp only; omega
    · split
      · dsimp only; omega
      · split <;> (dsimp only; omega)

/-- Settles O54: one lemma per rule of R439. -/
theorem governorFollowsItsRules : Obligations.GovernorFollowsItsRules := by
  unfold Obligations.GovernorFollowsItsRules
  exact fun _ _ _ _ _ _ => ⟨dutyStep_hot, dutyStep_mean, dutyStep_excursion, dutyStep_cool, dutyStep_range⟩

/-! ## Reset -/

/-- Settles O58: each field's default; the tables list nothing, so that every entry reads as its default. -/
theorem resetHoldsDefaults : Obligations.ResetHoldsDefaults := by
  unfold Obligations.ResetHoldsDefaults
  refine ⟨.nil, rfl, rfl, rfl, rfl, rfl, rfl, rfl, rfl, rfl, rfl, rfl, rfl, rfl, rfl, rfl, rfl, rfl, rfl, rfl, fun c => ⟨rfl, rfl, rfl, fun m => ?_⟩,
    fun _ => rfl, fun _ => rfl, fun _ => ⟨rfl, rfl, rfl⟩, rfl, rfl, rfl, rfl, rfl, rfl, rfl, fun _ => ⟨rfl, rfl⟩, fun _ => rfl, fun _ => rfl, rfl, rfl, rfl, rfl⟩
  cases m <;> rfl

/-! ## The error queue (R481, R482) -/

/-- The queue once the class of a record and its escalation are counted: nothing else has changed. -/
def Errs.counted (e : Errs) (r : ErrRec) : Errs :=
  let e := { e with raised := e.raised.set r.cls (bump 64 (nth e.raised r.cls) 1) }
  if r.escalated then { e with escalations := bump 64 e.escalations 1 } else e

theorem Errs.counted_frame (e : Errs) (r : ErrRec) :
    (e.counted r).queue = e.queue ∧ (e.counted r).waiting = e.waiting ∧ (e.counted r).next = e.next ∧ (e.counted r).dropped = e.dropped ∧
      (e.counted r).notQueued = e.notQueued := by
  unfold Errs.counted
  split <;> simp

theorem Errs.takeIn_eq (e : Errs) (r0 : ErrRec) : e.takeIn r0 =
    let r := e.escalate r0
    let c := e.counted r
    if c.queue.any fun q => r.merges q then
      ({ c with queue := c.queue.map fun q => if r.merges q then { q with occ := min 65535 (q.occ + 1) } else q }, none)
    else if c.queue.length < admitLimit r.cls then (c.push r, some { r with seq := c.next })
    else if r.cls = clsCe then ({ c with dropped := bump 64 c.dropped 1 }, none)
    else if r.cls = clsUe then ({ c with notQueued := bump 64 c.notQueued 1 }, none)
    else
      let f := { r with cls := clsFatal, escalated := r.escalated || r.cls != clsFatal }
      let e := if r.cls = clsFatal then c else { c with escalations := bump 64 c.escalations 1 }
      if e.queue.length < 256 then (e.push f, some { f with seq := e.next })
      else ({ e with unqueued := e.unqueued ++ [{ f with seq := e.next }], next := add32 e.next 1 }, none) := rfl

section
variable {e : Errs} {r : ErrRec}

theorem Errs.takeIn_merged (h : (e.queue.any fun q => (e.escalate r).merges q) = true) :
    (e.takeIn r).2 = none ∧ (e.takeIn r).1.next = e.next ∧
      (e.takeIn r).1.queue = e.queue.map fun q => if (e.escalate r).merges q then { q with occ := min 65535 (q.occ + 1) } else q := by
  obtain ⟨hq, -, hn, -, -⟩ := e.counted_frame (e.escalate r)
  simp [Errs.takeIn_eq, hq, hn, h]

theorem Errs.takeIn_room (h : (e.queue.any fun q => (e.escalate r).merges q) = false) (hroom : e.queue.length < admitLimit (e.escalate r).cls) :
    (e.takeIn r).2 = some { e.escalate r with seq := e.next } ∧ (e.takeIn r).1.queue = e.queue ++ [{ e.escalate r with seq := e.next }] ∧
      (e.takeIn r).1.waiting = e.waiting ++ [{ e.escalate r with seq := e.next }] ∧ (e.takeIn r).1.next = add32 e.next 1 := by
  obtain ⟨hq, hw, hn, -, -⟩ := e.counted_frame (e.escalate r)
  simp [Errs.takeIn_eq, hq, hw, hn, h, hroom, Errs.push]

theorem Errs.takeIn_full_ce (h : (e.queue.any fun q => (e.escalate r).merges q) = false) (hfull : admitLimit (e.escalate r).cls ≤ e.queue.length)
    (hc : (e.escalate r).cls = clsCe) :
    (e.takeIn r).2 = none ∧ (e.takeIn r).1.queue = e.queue ∧ (e.takeIn r).1.dropped = (e.dropped + 1) % 2 ^ 64 := by
  obtain ⟨hq, -, -, hd, -⟩ := e.counted_frame (e.escalate r)
  rw [hc] at hfull
  simp [Errs.takeIn_eq, hq, hd, h, Nat.not_lt.2 hfull, hc, bump]

theorem Errs.takeIn_full_ue (h : (e.queue.any fun q => (e.escalate r).merges q) = false) (hfull : admitLimit (e.escalate r).cls ≤ e.queue.length)
    (hc : (e.escalate r).cls = clsUe) :
    (e.takeIn r).2 = none ∧ (e.takeIn r).1.queue = e.queue ∧ (e.takeIn r).1.notQueued = (e.notQueued + 1) % 2 ^ 64 := by
  obtain ⟨hq, -, -, -, hd⟩ := e.counted_frame (e.escalate r)
  rw [hc] at hfull
  simp [Errs.takeIn_eq, hq, hd, h, Nat.not_lt.2 hfull, hc, bump, clsUe, clsCe]

/-- A UE-context record that finds no room goes in as a FATAL one. -/
theorem Errs.takeIn_full_ctx (h : (e.queue.any fun q => (e.escalate r).merges q) = false) (hfull : admitLimit (e.escalate r).cls ≤ e.queue.length)
    (hc : (e.escalate r).cls = clsCtx) (hroom : e.queue.length < 256) :
    ∃ q, (e.takeIn r).2 = some q ∧ q.cls = clsFatal ∧ q.escalated = true := by
  obtain ⟨hq, -, -, -, -⟩ := e.counted_frame (e.escalate r)
  rw [hc] at hfull
  simp [Errs.takeIn_eq, hq, h, Nat.not_lt.2 hfull, hc, hroom, clsCtx, clsUe, clsCe, clsFatal]

theorem admitLimit_le (n : Nat) : admitLimit n ≤ 256 := by
  unfold admitLimit
  split <;> omega

/-- The queue holds 256 records at most, where it did. -/
theorem Errs.takeIn_length : (e.takeIn r).1.queue.length ≤ max 256 e.queue.length := by
  obtain ⟨hq, -, -, -, -⟩ := e.counted_frame (e.escalate r)
  have hlim := admitLimit_le (e.escalate r).cls
  rw [Errs.takeIn_eq]
  dsimp only
  split
  · simp only [List.length_map, hq, Nat.le_max_right]
  · split
    next hlt => simp only [Errs.push, List.length_append, List.length_singleton, hq] at hlt ⊢; omega
    · split
      · simp only [hq, Nat.le_max_right]
      · split
        · simp only [hq, Nat.le_max_right]
        · split
          · split
            next hlt => simp only [Errs.push, List.length_append, List.length_singleton, hq] at hlt ⊢; omega
            · simp only [hq, Nat.le_max_right]
          · split
            next hlt => simp only [Errs.push, List.length_append, List.length_singleton, hq] at hlt ⊢; omega
            · simp only [hq, Nat.le_max_right]
end

/-- Settles O60: what taking a record in does, case by case. -/
theorem errorQueueAdmitsByClass : Obligations.ErrorQueueAdmitsByClass := by
  unfold Obligations.ErrorQueueAdmitsByClass
  refine fun e r => ⟨fun h => ?_, fun h => ⟨Errs.takeIn_room h, Errs.takeIn_full_ce h, Errs.takeIn_full_ue h, Errs.takeIn_full_ctx h⟩, Errs.takeIn_length⟩
  obtain ⟨hnone, hnext, hqueue⟩ := Errs.takeIn_merged h
  refine ⟨hnone, by simp [hqueue], hnext, fun i q hq => by simp [hqueue, hq]⟩

end Sys2Proof.Machine

/-! PROOFS. Frames and requests of a session, timers of KOC, the lease, resets and key lists (R386–R397, R405–R417). -/
namespace Sys2Proof.Machine

/-! ## Who a session is -/

/-- The same session at two times: its id, its port and the key it was opened with. -/
def Session.SameAs (k x : Session) : Prop := k.sid = x.sid ∧ k.port = x.port ∧ k.keyHash = x.keyHash

theorem Session.SameAs.refl (k : Session) : k.SameAs k := ⟨rfl, rfl, rfl⟩

theorem Session.SameAs.trans {k x y : Session} (h : k.SameAs x) (g : x.SameAs y) : k.SameAs y :=
  ⟨h.1.trans g.1, h.2.1.trans g.2.1, h.2.2.trans g.2.2⟩

theorem Session.take_sameAs (k : Session) (e : EventRec) : (k.take e).SameAs k := by
  unfold Session.take
  split <;> exact ⟨rfl, rfl, rfl⟩

/-! ## Where the sessions of a world come from -/

theorem World.mem_setSession {w : World} {sid : Nat} {f : Session → Session} (hf : ∀ k, (f k).SameAs k) {k : Session}
    (h : k ∈ (w.setSession sid f).koc.sessions) : ∃ x ∈ w.koc.sessions, k.SameAs x := by
  obtain ⟨x, hx, rfl⟩ := List.mem_map.1 h
  refine ⟨x, hx, ?_⟩
  split
  · exact hf x
  · exact .refl x

theorem World.mem_event {w : World} {code idx sub die : Nat} {ctx : Option Nat} {st : Nat} {p : List Byte} {k : Session}
    (h : k ∈ (w.event code idx sub die ctx st p).koc.sessions) : ∃ x ∈ w.koc.sessions, k.SameAs x := by
  obtain ⟨x, hx, rfl⟩ := List.mem_map.1 h
  refine ⟨x, hx, ?_⟩
  split
  · exact x.take_sameAs _
  · exact .refl x

theorem World.mem_endLease {w : World} {reason : Nat} {k : Session} (h : k ∈ (w.endLease reason).koc.sessions) :
    ∃ x ∈ w.koc.sessions, k.SameAs x := by
  simp only [World.endLease] at h
  split at h
  · exact ⟨k, h, .refl k⟩
  · exact World.mem_event h

theorem World.mem_closeSession {w : World} {sid : Nat} {notice : Option Nat} {k : Session} (h : k ∈ (w.closeSession sid notice).koc.sessions) :
    ∃ x ∈ w.koc.sessions, k.SameAs x ∧ x.sid ≠ sid := by
  unfold World.closeSession at h
  split at h
  next hnone => exact ⟨k, h, .refl k, fun hk => by simpa [hk] using List.find?_eq_none.1 hnone k h⟩
  next =>
    have hkept : ∃ x ∈ w.koc.sessions.filter (fun k => k.sid != sid), k.SameAs x := by
      dsimp only at h
      split at h
      · exact World.mem_endLease h
      · exact ⟨k, h, .refl k⟩
    obtain ⟨x, hx, hkx⟩ := hkept
    obtain ⟨hx, hne⟩ := List.mem_filter.1 hx
    exact ⟨x, hx, hkx, by simpa using hne⟩

theorem World.sid_ne_of_mem_closeSession {w : World} {sid : Nat} {notice : Option Nat} {k : Session}
    (h : k ∈ (w.closeSession sid notice).koc.sessions) : k.sid ≠ sid := by
  obtain ⟨x, -, hkx, hne⟩ := World.mem_closeSession h
  exact hkx.1 ▸ hne

/-- Sessions closed one after another: those that are left were there before, and none of them was named. -/
theorem World.mem_foldl_closeSession {notice : Option Nat} (l : List Session) {w : World} {k : Session}
    (h : k ∈ (l.foldl (fun w k => w.closeSession k.sid notice) w).koc.sessions) :
    ∃ x ∈ w.koc.sessions, k.SameAs x ∧ ∀ y ∈ l, x.sid ≠ y.sid := by
  induction l generalizing w with
  | nil => exact ⟨k, h, .refl k, by simp⟩
  | cons y l ih =>
    obtain ⟨x, hx, hkx, hrest⟩ := ih h
    obtain ⟨z, hz, hxz, hne⟩ := World.mem_closeSession hx
    refine ⟨z, hz, hkx.trans hxz, fun u hu => ?_⟩
    rcases List.mem_cons.1 hu with rfl | hu
    · exact hne
    · exact hxz.1 ▸ hrest u hu

theorem World.mem_closeSessions {w : World} {p : Session → Bool} {notice : Option Nat} {k : Session}
    (h : k ∈ (w.closeSessions p notice).koc.sessions) : ∃ x ∈ w.koc.sessions, k.SameAs x ∧ p x = false := by
  obtain ⟨x, hx, hkx, hne⟩ := World.mem_foldl_closeSession _ h
  refine ⟨x, hx, hkx, Bool.eq_false_iff.2 fun hp => ?_⟩
  exact hne x (List.mem_filter.2 ⟨hx, hp⟩) rfl

theorem World.mem_send {w : World} {port : KocPort} {dst sid : Nat} {l : List (Nat × KocBody)} {k : Session}
    (h : k ∈ (w.send port dst sid l).koc.sessions) : ∃ x ∈ w.koc.sessions, k.SameAs x := by
  unfold World.send at h
  split at h
  next => exact ⟨k, h, .refl k⟩
  next y _ => exact World.mem_setSession (sid := sid) (f := fun x => { x with tx := y.tx + l.length }) (fun _ => ⟨rfl, rfl, rfl⟩) h

theorem State.mem_answer {s : State} {h : KocHdr} {a : Answer} {k : Session} (hk : k ∈ (s.answer h a).w.koc.sessions) :
    ∃ x ∈ s.w.koc.sessions, k.SameAs x := by
  obtain ⟨y, hy, hky⟩ := World.mem_setSession (f := fun k => k.answered a) (fun _ => ⟨rfl, rfl, rfl⟩) hk
  obtain ⟨x, hx, hyx⟩ := World.mem_send hy
  exact ⟨x, hx, hky.trans hyx⟩

/-! ## A session by its id -/

/-- A session changed is found under its id, where the change leaves the id. -/
theorem World.session_setSession {w : World} {sid : Nat} {f : Session → Session} (hf : ∀ k, k.sid = sid → (f k).sid = sid) :
    (w.setSession sid f).session sid = (w.session sid).map f := by
  simp only [World.session, World.setSession]
  induction w.koc.sessions with
  | nil => rfl
  | cons k l ih =>
    by_cases hk : k.sid = sid
    · simp [hk, hf]
    · simpa [hk] using ih

theorem World.sid_of_session {w : World} {sid : Nat} {k : Session} (h : w.session sid = some k) : k.sid = sid := by
  simpa using List.find?_some h

theorem World.send_of_session {w : World} {sid : Nat} {k : Session} (h : w.session sid = some k) (port : KocPort) (dst : Nat)
    (l : List (Nat × KocBody)) :
    w.send port dst sid l = { w.setSession sid fun x => { x with tx := k.tx + l.length } with outbox := w.outbox ++ k.frames port dst l } := by
  simp only [World.send, h]

theorem World.pumped_of_session {w : World} {sid : Nat} {k : Session} (h : w.session sid = some k) (f : Session → Session × List OutMsg) :
    w.pumped sid f = { w.setSession sid fun _ => (f k).1 with outbox := w.outbox ++ (f k).2 } := by
  simp only [World.pumped, h]

theorem World.session_setSession_const {w : World} {sid : Nat} {k x : Session} (h : w.session sid = some k) (hx : x.sid = sid) :
    (w.setSession sid fun _ => x).session sid = some x :=
  (World.session_setSession fun _ _ => hx).trans (congrArg (Option.map fun _ => x) h)

/-- The session that a pumping leaves. -/
theorem World.session_pumped {w : World} {sid : Nat} {k : Session} (h : w.session sid = some k) {f : Session → Session × List OutMsg}
    (hf : (f k).1.sid = sid) : (w.pumped sid f).session sid = some (f k).1 := by
  rw [World.pumped_of_session h]
  exact World.session_setSession_const h hf

theorem World.pumped_frame (w : World) (sid : Nat) (f : Session → Session × List OutMsg) :
    w.pumped sid f = { w with outbox := (w.pumped sid f).outbox, koc := { w.koc with sessions := (w.pumped sid f).koc.sessions } } := by
  unfold World.pumped
  split <;> rfl

/-! ## Queued events (R395) -/

theorem sendEvents_length (n : Nat) (l : List QueuedEvent) : (sendEvents n l).1.length = l.length := by
  induction l generalizing n with
  | nil => cases n <;> rfl
  | cons q l ih =>
    cases n with
    | zero => rfl
    | succ n =>
      simp only [sendEvents]
      split <;> simp [ih]

/-- Sending changes no event's number. -/
theorem exists_seq_of_mem_sendEvents {n : Nat} {l : List QueuedEvent} {q : QueuedEvent} (h : q ∈ (sendEvents n l).1) :
    ∃ p ∈ l, p.seq = q.seq := by
  induction l generalizing n with
  | nil => cases n <;> cases h
  | cons p l ih =>
    cases n with
    | zero => exact ⟨q, h, rfl⟩
    | succ n =>
      simp only [sendEvents] at h
      have hcase : q.seq = p.seq ∨ ∃ m, q ∈ (sendEvents m l).1 := by
        split at h
        · exact (List.mem_cons.1 h).imp (by rintro rfl; rfl) fun h => ⟨n, h⟩
        · exact (List.mem_cons.1 h).imp (by rintro rfl; rfl) fun h => ⟨n + 1, h⟩
      rcases hcase with hseq | ⟨m, hm⟩
      · exact ⟨p, List.mem_cons_self, hseq.symm⟩
      · obtain ⟨x, hx, hseq⟩ := ih hm
        exact ⟨x, List.mem_cons_of_mem _ hx, hseq⟩

/-- An event that was sent before stays as it is. -/
theorem mem_sendEvents {n : Nat} {l : List QueuedEvent} {q : QueuedEvent} (h : q ∈ l) (ht : q.tries ≠ 0) : q ∈ (sendEvents n l).1 := by
  induction l generalizing n with
  | nil => cases h
  | cons p l ih =>
    cases n with
    | zero => exact h
    | succ n =>
      simp only [sendEvents]
      rcases List.mem_cons.1 h with rfl | h
      · simp [ht]
      · split <;> exact List.mem_cons_of_mem _ (ih h)

/-- Each frame of a row of frames goes out under a sequence number above the session's last. -/
theorem Session.mem_frames {k : Session} {port : KocPort} {dst : Nat} {l : List (Nat × KocBody)} {x : Nat × KocBody} (h : x ∈ l) :
    ∃ n, k.tx < n ∧ k.frame port dst n x.1 x.2 ∈ k.frames port dst l := by
  obtain ⟨i, hi, rfl⟩ := List.mem_iff_getElem.1 h
  exact ⟨k.tx + 1 + i, by omega, List.mem_map.2 ⟨(l[i], i), List.mem_zipIdx_iff_getElem?.2 (by simp), rfl⟩⟩

/-! ## Admission (R386, R392, R393, R397) -/

/-- A request within its port's rate is counted. -/
theorem State.countRequest_of_room {s : State} {p : KocPort} (h : (recent s.w.koc.reqs (portNo p) s.ctl.clock).length < 20000) :
    s.countRequest p =
      (s.withW { s.w with koc := { s.w.koc with
        reqs := s.w.koc.reqs.set (portNo p) (recent s.w.koc.reqs (portNo p) s.ctl.clock ++ [s.ctl.clock]) } }, true) :=
  if_pos h

/-- Settles O6: the frame is taken, the request is counted, and both touch the bookkeeping only. -/
theorem intactRequestIsAdmitted : Obligations.IntactRequestIsAdmitted := by
  unfold Obligations.IntactRequestIsAdmitted
  intro s s0 h type payload k harrive hsession hsid hlen hsingle htag haccepts hspent hans hbusy hgiven hrid hrate
  obtain ⟨hs0, hw⟩ := State.frameIn_only harrive
  obtain ⟨w0, rfl⟩ : ∃ w, s0 = s.withW w := ⟨_, hs0⟩
  replace hw : w0 = { s.w with ports := w0.ports, outbox := w0.outbox, free := w0.free } := hw
  have hreqs : w0.koc.reqs = s.w.koc.reqs := by rw [hw]
  have hframe : s.kocFrame h type payload =
      .ok ((s.withW w0).withW { w0.setSession k.sid (fun x => x.heard h) with koc := { (w0.setSession k.sid fun x => x.heard h).koc with asleep := [] } },
        k.heard h) := by
    simp only [State.kocFrame, harrive, hsession, hsid, hsingle, htag, haccepts, hspent, Nat.not_lt.2 hlen]
    simp
  refine ⟨_, ⟨_, _, hframe, hans, hbusy, hgiven, hrid, State.countRequest_of_room ?_, rfl⟩, ?_⟩
  · dsimp only [State.withW, World.setSession]
    rwa [hreqs]
  · dsimp only [State.withW, World.setSession]
    rw [hw]

/-- Settles O8: the kept answer is found before anything runs. -/
theorem repeatedWriteIsAnsweredAgain : Obligations.RepeatedWriteIsAnsweredAgain := by
  unfold Obligations.RepeatedWriteIsAnsweredAgain
  intro s s0 h k x a idx sub v hframe hkept hkind hsession
  refine ⟨s0.transmit h a.bodies, by simp [exec, execWrite, State.writeAny, State.request, hframe, hkept], ?_, ?_⟩
  · simp [State.transmit, World.send_of_session hsession, Answer.bodies, hkind, Session.frames]
  · simp only [State.transmit, World.send_of_session hsession]
    rfl

/-! ## Rights (R405, R406, R414) -/

theorem State.openRefusal_of_rights {s : State} {k : Session} {idx sub st : Nat} (h : s.rights k idx sub true = some st) (len : Nat) :
    s.openRefusal k idx sub len = some st := by
  simp only [State.openRefusal, h]

theorem State.openStaged_of_rights {s : State} {k : Session} {idx sub st : Nat} (h : s.rights k idx sub true = some st) (v : List Byte) :
    s.openStaged k idx sub v = .refuse s st := by
  simp only [State.openStaged, State.openRefusal_of_rights h, h, Option.getD_some, ite_self]

theorem State.writeValue_of_rights {s : State} {k : Session} {idx sub st : Nat} (h : s.rights k idx sub true = some st) (v : List Byte)
    (eff : State → Session → Fx) : s.writeValue k idx sub v eff = .refuse s st := by
  simp only [State.writeValue, h]

theorem State.readValue_of_rights {s : State} {k : Session} {idx sub st : Nat} (h : s.rights k idx sub false = some st) :
    s.readValue k idx sub = .refuse s st := by
  simp only [State.readValue, h]

theorem exec_write (h : KocHdr) (idx sub : Nat) (v : List Byte) (s : State) : exec (.write h idx sub v) s = s.writeAny h idx sub v := rfl
theorem exec_read (h : KocHdr) (idx sub : Nat) (s : State) : exec (.read h idx sub) s = execRead h idx sub s := rfl

theorem execWrite_of_rights {s s1 : State} {h : KocHdr} {k : Session} {idx sub : Nat} {v : List Byte} {st : Nat}
    (ha : s.Admits h ftWrite (objBytes idx sub ++ v) s1 k) (hr : s1.rights k idx sub true = some st) :
    exec (.write h idx sub v) s = .next (s1.replied h st) := by
  rw [exec_write, State.writeAny, State.request_of_admits ha, State.openStaged_of_rights hr, State.writeValue_of_rights hr, ite_self]
  rfl

theorem execRead_of_rights {s s1 : State} {h : KocHdr} {k : Session} {idx sub : Nat} {st : Nat} (hsid : h.sid ≠ 0)
    (ha : s.Admits h ftRead (objBytes idx sub) s1 k) (hr : s1.rights k idx sub false = some st) :
    exec (.read h idx sub) s = .next (s1.replied h st) := by
  rw [exec_read, execRead, if_neg hsid, State.request_of_admits ha, State.readValue_of_rights hr]
  rfl

@[simp] theorem firstRefusal_nil : firstRefusal [] = none := rfl
@[simp] theorem firstRefusal_cons (c : Bool) (st : Nat) (l : List (Bool × Nat)) :
    firstRefusal ((c, st) :: l) = if c = true then some st else firstRefusal l := by cases c <;> rfl

@[simp] theorem Access.beq_iff (a b : Access) : (a == b) = decide (a = b) := by cases a <;> cases b <;> rfl
@[simp] theorem WClass.beq_iff (a b : WClass) : (a == b) = decide (a = b) := by cases a <;> cases b <;> rfl
@[simp] theorem KocPort.beq_iff (a b : KocPort) : (a == b) = decide (a = b) := by cases a <;> cases b <;> rfl

/-- What is left to refuse where the object exists, the part has its unit, and its states allow the access. -/
theorem State.rights_of_allowed {s : State} {k : Session} {idx sub : Nat} {wr : Bool} {d : ObjDef} (hobj : objAt idx sub = some d)
    (hpresent : s.unitAbsent idx = false) (hlife : lifeAllows s.otp.life idx wr (d.cls == .mgmt) = true)
    (hpart : s.partAllows (k.port == .side) idx sub = true) :
    s.rights k idx sub wr = firstRefusal
      [ ((wr && d.acc == .ro) || (!wr && d.acc == .wo) || (wr && d.cls == .mgmt && !(k.port == .side)) ||
          (wr && idx == 0x1020 && sub == 1 && k.port == .side), stFaultPerm),
        (wr && d.cls == .run && !(k.port == .side) && s.w.lease.holder != k.sid, stState) ] := by
  simp only [State.rights, hobj, hpresent, hlife, hpart, Bool.not_true, Bool.or_self, firstRefusal]

/-- Settles O9: what an object refuses is said by `rights`, whose list of refusals stands in the order of R414. -/
theorem refusalsComeInOrderAndChangeNothing : Obligations.RefusalsComeInOrderAndChangeNothing := by
  unfold Obligations.RefusalsComeInOrderAndChangeNothing
  refine ⟨fun s s1 h k idx sub v st hsid => ⟨execWrite_of_rights, execRead_of_rights hsid⟩, fun s k idx sub wr => ⟨fun hobj => ?_, fun d hobj => ?_⟩⟩
  · simp only [State.rights, hobj]
  · refine ⟨fun habsent => ?_, fun hpresent => ⟨fun hstate => ?_, fun hlife hpart => ⟨fun hperm => ?_, ?_, ?_, ?_⟩⟩⟩
    · simp only [State.rights, hobj, habsent, firstRefusal]
    · rcases hstate with hl | hp
      · simp only [State.rights, hobj, hpresent, hl, firstRefusal, Bool.not_false, Bool.true_or]
      · simp only [State.rights, hobj, hpresent, hp, firstRefusal, Bool.not_false, Bool.or_true]
    · rw [State.rights_of_allowed hobj hpresent hlife hpart]
      rcases hperm with ⟨rfl, hacc⟩ | ⟨rfl, hacc⟩ | ⟨rfl, hcls, hport⟩ <;> simp [*]
    · rintro rfl hacc hcls hport hholder
      rw [State.rights_of_allowed hobj hpresent hlife hpart]
      simp [hacc, hcls, hport, hholder]
    · rintro rfl hacc hcls hport hholder
      rw [State.rights_of_allowed hobj hpresent hlife hpart]
      simp [hacc, hcls, hport, hholder]
    · rintro rfl hacc
      rw [State.rights_of_allowed hobj hpresent hlife hpart]
      simp [hacc]

end Sys2Proof.Machine

/-! PROOFS. What requests and frames of a session do (R387, R394–R396, R405–R410), what time ends in KOC, the lease, resets and key lists. -/
namespace Sys2Proof.Machine

/-! ## Requests (R405–R410) -/

theorem pmx_known : pmx 0 0 0 0 = 0x348372C1FAC61AEF := by decide

/-- The known answer is right, so that reading it changes nothing (R254). -/
theorem State.knownAnswer_eq (s : State) (idx sub : Nat) : s.knownAnswer idx sub = s :=
  if_neg fun h => h.2.2 pmx_known

theorem pmx_toNat : (pmx 0 0 0 0).toNat = 0x348372C1FAC61AEF := congrArg BitVec.toNat pmx_known

theorem readObj_knownAnswer (s : State) (k : Option Session) : s.readObj k 0x3E00 5 = .bytes (leBytes 8 0x348372C1FAC61AEF) := by
  have hread : s.readObj k 0x3E00 5 = s.w.readNums 0x3E00 5 := rfl
  rw [hread, ← pmx_toNat]
  rfl

theorem State.readValue_of_bytes {s : State} {k : Session} {idx sub : Nat} {v : List Byte} (hr : s.rights k idx sub false = none)
    (hv : s.readObj (some k) idx sub = .bytes v) : s.readValue k idx sub = { s, value := v } := by
  simp only [State.readValue, hr, readFx, hv, State.knownAnswer_eq]

theorem State.readValue_of_dom {s : State} {k : Session} {idx sub len : Nat} {range : Nat → Nat → List Byte}
    (hr : s.rights k idx sub false = none) (hv : s.readObj (some k) idx sub = .dom len range) :
    s.readValue k idx sub = { s, value := leBytes 8 len } := by
  simp only [State.readValue, hr, readFx, hv]

theorem execRead_of_reads {s s1 : State} {h : KocHdr} {k : Session} {idx sub : Nat} (hsid : h.sid ≠ 0) (hr : s.Reads h idx sub s1 k) :
    exec (.read h idx sub) s = .next ((s1.readValue k idx sub).finish h) := by
  rw [exec_read, execRead, if_neg hsid, State.request_of_admits hr.1]

theorem isDomain_of_openRefusal {s : State} {k : Session} {idx sub len : Nat} (h : s.openRefusal k idx sub len = none) :
    isDomain idx sub = true := by
  unfold State.openRefusal at h
  unfold isDomain
  split at h
  · cases h
  · cases h
  next d hd =>
    rw [hd]
    split at h
    next hty => simp only [hty]
    next => cases h

theorem World.send_hbm (w : World) (port : KocPort) (dst sid : Nat) (l : List (Nat × KocBody)) : (w.send port dst sid l).hbm = w.hbm := by
  unfold World.send
  split <;> rfl

@[simp] theorem State.answer_hbm (s : State) (h : KocHdr) (a : Answer) : (s.answer h a).w.hbm.mem.cells = s.w.hbm.mem.cells :=
  congrArg (·.mem.cells) (World.send_hbm ..)

theorem World.onlyRead_ranges (w : World) (n : Option Nat) (l : List (Nat × Nat)) (f g : Nat × Nat → Nat) :
    w.OnlyRead (l.foldl (fun w x => w.readRange n (f x) (g x)) w) :=
  .foldl _ (fun w x => World.onlyRead_readRange w n (f x) (g x)) l w

/-- Reading bytes of a DOMAIN changes no byte of HBM. -/
theorem State.domainRead_cells (s : State) (idx sub off len : Nat) : (s.domainRead idx sub off len).w.hbm.mem.cells = s.w.hbm.mem.cells :=
  (World.onlyRead_ranges s.w none _ _ _).cells

/-- What an answer of segment frames sends (R394). -/
theorem State.answer_segData_outbox {s : State} {h : KocHdr} {x : Session} (hx : s.w.session h.sid = some x) (st : Nat) (v : List Byte) :
    (s.answer h { rid := h.rid, status := st, value := v, kind := .segData }).w.outbox =
      s.w.outbox ++ x.frames h.port h.src ((segFrames v).map fun f => (h.rid, .segData f.1 f.2)) := by
  change (World.send ..).outbox = _
  rw [World.send_of_session hx]
  rfl

/-- Settles O10: an admitted request runs its object's rule and is answered. -/
theorem sessionRequestsComplete : Obligations.SessionRequestsComplete := by
  unfold Obligations.SessionRequestsComplete
  intro s s1 h k idx sub hsid
  refine ⟨fun v hr hv _ => ?_, fun len range hr hv => ?_, fun hr => ?_, fun v hw hdom hwait => ?_, fun len hpos hlen hst => ?_,
    fun seg len range ha hr hv hseg hroom => ?_, fun seg len x ha hfind hseg hlen hroom => ?_⟩
  · rw [execRead_of_reads hsid hr, State.readValue_of_bytes hr.2 hv, Fx.finish_answered]
  · rw [execRead_of_reads hsid hr, State.readValue_of_dom hr.2 hv, Fx.finish_answered]
  · change execPmxKnownAnswer h s = _
    rw [execPmxKnownAnswer, State.request_of_admits hr.1, State.readValue_of_bytes hr.2 (readObj_knownAnswer s1 _), Fx.finish_answered]
  · obtain ⟨ha, hr, d, hd, hv⟩ := hw
    rw [exec_write, State.writeAny, State.request_of_admits ha, hdom]
    simp only [State.writeValue, hr, hd, hv, Fx.finish, hwait, if_true, Bool.false_eq_true, if_false]
  · change s.writeAny h idx sub (leBytes 8 len) = _
    rw [State.writeAny, State.request_of_admits hst.1, if_pos (isDomain_of_openRefusal hst.2)]
    have hnat : leNat (leBytes 8 len) = len := by rw [leNat_leBytes, Nat.mod_eq_of_lt (by omega)]
    simp only [State.openStaged, leBytes_length, hnat, hst.2, Nat.ne_of_gt hpos]
    rfl
  · intro v hbus
    change ∃ t, execSegRead h idx sub seg s = _ ∧ _
    have hsegment : s1.segment k idx sub seg = .ok v := by simp only [State.segment, hr, hv, if_pos hseg]; rfl
    rw [execSegRead, State.request_of_admits ha]
    simp only [hsegment, hbus, Nat.not_le.2 hroom]
    refine ⟨_, rfl, fun a => ?_, fun x hx => ?_⟩
    · exact congrArg (Cells.get · a) ((State.answer_hbm ..).trans (State.domainRead_cells ..))
    · refine State.answer_segData_outbox 
        (x := { x with segs := x.segs ++ [{ rid := h.rid, idx, sub, seg, len := v.length, out := true, frames := segFrames v }] }) ?_ ..
      exact (World.session_setSession (f := fun k => { k with segs := k.segs ++ [_] }) fun _ hk => hk).trans (congrArg (Option.map _) hx)
  · change execSegWrite h idx sub seg len s = _
    rw [execSegWrite, State.request_of_admits ha]
    simp only [hfind, hlen, Nat.not_le.2 hseg, Nat.not_le.2 hroom]
    simp

/-! ## Frames that are no requests (R387, R394–R396) -/

/-- A frame of an incoming transfer that fits is put among its frames. -/
theorem execSegData_of_fits {s s1 : State} {h : KocHdr} {k : Session} {frame : Nat} {data : List Byte} {x : SegXfer}
    (hf : s.kocFrame h ftSegData (leBytes 2 frame ++ leBytes 2 data.length ++ data) = .ok (s1, k))
    (hfind : k.segs.find? (fun x => x.rid == h.rid && !x.out) = some x) (hfit : x.fits frame data = true) :
    exec (.segData h frame data) s =
      let t : SegXfer := { x with frames := x.frames.set frame data }
      let others := k.segs.filter fun x => !(x.rid == h.rid && !x.out)
      if t.bitmap = fullMap t.len then
        .next ((s1.withW (s1.w.setSession h.sid fun k => { k with segs := others })).landSegment h k t)
      else
        let s := s1.withW (s1.w.setSession h.sid fun k => { k with segs := others ++ [t] })
        .next (if frame + 1 = cdiv t.len 1024 then s.transmit h [(h.rid, .segAck t.bitmap stOk)] else s) := by
  change execSegData h frame data s = _
  simp only [execSegData, hf, hfind, hfit, Bool.true_eq_false, if_false]

theorem execSegAck_of_found {s s1 : State} {h : KocHdr} {k : Session} {bitmap status : Nat} {x : SegXfer}
    (hf : s.kocFrame h ftSegAck (leBytes 8 bitmap ++ leBytes 2 status) = .ok (s1, k))
    (hfind : k.segs.find? (fun x => x.rid == h.rid && x.out) = some x) :
    exec (.segAck h bitmap status) s =
      if x.frames.filter (fun f => !bit bitmap f.1) = [] then
        .next (s1.withW (s1.w.setSession h.sid fun k => { k with segs := k.segs.filter fun x => !(x.rid == h.rid && x.out) }))
      else .next (s1.transmit h ((x.frames.filter fun f => !bit bitmap f.1).map fun f => (h.rid, .segData f.1 f.2))) := by
  change execSegAck h bitmap status s = _
  simp only [execSegAck, hf, hfind]
  split
  next hnil => rw [if_pos hnil]
  next hlack => rw [if_neg fun hnil => hlack hnil]

/-- An event acknowledged is in the queue no more. -/
theorem World.seq_ne_of_acked {w : World} {sid seq : Nat} {x : Session}
    (hx : (w.pumped sid fun k => ({ k with events := k.events.filter fun q => q.seq != seq } : Session).pump []).session sid = some x) :
    ∀ q ∈ x.events, q.seq ≠ seq := by
  cases hs : w.session sid with
  | none =>
    rw [World.pumped, hs] at hx
    exact absurd (hs.symm.trans hx) (by simp)
  | some k =>
    obtain rfl := Option.some.inj ((World.session_pumped (f := fun k => Session.pump { k with events := _ } []) hs (World.sid_of_session (k := k) hs)).symm.trans hx)
    intro q hq
    obtain ⟨p, hp, hseq⟩ := exists_seq_of_mem_sendEvents hq
    have hne := (List.mem_filter.1 hp).2
    exact hseq ▸ by simpa using hne

/-- Settles O11: each frame does what its session holds for it. -/
theorem sessionFramesComplete : Obligations.SessionFramesComplete := by
  unfold Obligations.SessionFramesComplete
  intro s s1 h k
  refine ⟨fun frame data x hf hfind hfit hpart hlast => ?_, fun frame data x hf hfind hfit hlast => ?_,
    fun frame data x hf hfind hfit hfull => ?_, fun bitmap status x hf hfind => ⟨fun hall => ?_, fun hlack => ?_⟩, fun seq hf => ?_, fun hf => ?_,
    fun reason hf => ?_⟩
  · rw [execSegData_of_fits hf hfind hfit]
    dsimp only
    rw [if_neg hpart, if_neg hlast]
  · intro y hpart
    rw [execSegData_of_fits hf hfind hfit]
    dsimp only
    rw [if_neg hpart, if_pos hlast]
  · rw [execSegData_of_fits hf hfind hfit]
    dsimp only
    rw [if_pos hfull]
  · rw [execSegAck_of_found hf hfind, if_pos]
    simpa [List.filter_eq_nil_iff, bit] using hall
  · rw [execSegAck_of_found hf hfind, if_neg]
    · rfl
    · simpa [List.filter_eq_nil_iff, bit] using hlack
  · change ∃ t, execEventAck h seq s = _ ∧ _
    simp only [execEventAck, hf]
    refine ⟨_, rfl, ?_, fun x hx => World.seq_ne_of_acked hx⟩
    exact congrArg s1.withW (World.pumped_frame ..)
  · change execPing h s = _
    simp only [execPing, hf]
  · change execClose h reason s = _
    simp only [execClose, hf]

/-! ## Timers (R394–R396, R409, R417, R424) -/

/-- An event that was sent before its last attempt goes out again. -/
theorem Session.mem_pump_again {k : Session} {again : List QueuedEvent} {q : QueuedEvent} (h : q ∈ again) :
    ∃ n, k.tx < n ∧ k.frame k.port k.addr n 0 (.event q.seq q.ev) ∈ (k.pump again).2 :=
  Session.mem_frames (x := q.body) (List.mem_map.2 ⟨q, List.mem_append_left _ h, rfl⟩)

/-- A session's queue after its timer: an event past its last attempt is dropped, one that was sent is sent once more. -/
def Session.resent (k : Session) : Session :=
  { k with events := (k.events.filter fun q => decide (q.tries < eventTries)).map fun q => if q.tries = 0 then q else { q with tries := q.tries + 1 } }

theorem Session.mem_resent {k : Session} {q : QueuedEvent} (h : q ∈ k.events) (h1 : 1 ≤ q.tries) (h9 : q.tries < 9) :
    { q with tries := q.tries + 1 } ∈ k.resent.events :=
  List.mem_map.2 ⟨q, List.mem_filter.2 ⟨h, by simpa using h9⟩, by simp; omega⟩

theorem execEventResendTimer_of_session {s : State} {sid : Nat} {k : Session} (hk : s.w.session sid = some k) :
    exec (.eventResendTimer sid) s =
      let again := k.events.filter fun q => decide (1 ≤ q.tries) && decide (q.tries < eventTries)
      let x := k.resent.pump again
      let w := s.w.setSession sid fun _ => x.1
      .next (s.withW { w with
        outbox := s.w.outbox ++ x.2
        koc := { w.koc with evDropped := bump 64 s.w.koc.evDropped (k.events.filter fun q => decide (eventTries ≤ q.tries)).length } }) := by
  change execEventResendTimer sid s = _
  simp only [execEventResendTimer, hk, World.pumped_of_session hk]
  rfl

/-- What a change of a session leaves it with, where the change leaves its id. -/
theorem World.of_mem_setSession {w : World} {sid : Nat} {f : Session → Session} {k : Session} (hk : k ∈ (w.setSession sid f).koc.sessions)
    (hsid : k.sid = sid) {p : Session → Prop} (hf : ∀ k, (f k).sid = k.sid ∧ p (f k)) : p k := by
  obtain ⟨y, -, rfl⟩ := List.mem_map.1 hk
  by_cases hy : y.sid = sid
  · rw [if_pos hy]
    exact (hf y).2
  · exact absurd hsid (by rwa [if_neg hy])

/-- A session without a transfer that was left incomplete. -/
theorem segmentGone_spec (rid : Nat) (k : Session) :
    (if k.segs.any (fun x => x.rid == rid) then
        { k with segs := k.segs.filter (fun x => x.rid != rid), busy := k.busy.filter (· != rid) } else k).sid = k.sid ∧
      ∀ x ∈ (if k.segs.any (fun x => x.rid == rid) then
        { k with segs := k.segs.filter (fun x => x.rid != rid), busy := k.busy.filter (· != rid) } else k).segs, x.rid ≠ rid := by
  split
  · exact ⟨rfl, fun x hx => by simpa using (List.mem_filter.1 hx).2⟩
  next hnone => exact ⟨rfl, fun x hx hrid => hnone (List.any_eq_true.2 ⟨x, hx, by simpa using hrid⟩)⟩

/-- The lease of a holder that ends (R417). -/
theorem World.endLease_lease {w : World} (h : w.lease.holder ≠ 0) (reason : Nat) :
    (w.endLease reason).lease = { w.lease with
      holder := 0, term := 0, start := 0, ended := if reason = 1 ∨ reason = 3 then bump 32 w.lease.ended 1 else w.lease.ended } := by
  simp only [World.endLease, if_neg h]
  rfl

/-- Settles O13: each timer's effect on the sessions it names. -/
theorem kocTimersComplete : Obligations.KocTimersComplete := by
  unfold Obligations.KocTimersComplete
  intro s sid
  refine ⟨fun rid => ⟨_, rfl, ?_, rfl⟩, fun idx sub => ⟨_, rfl, ?_, rfl⟩, ⟨_, rfl, ?_, rfl⟩, ⟨_, rfl, ?_, rfl⟩, fun k hk => ?_, fun hheld hleft => ?_,
    fun p rest hq => ?_⟩
  · exact fun k hk hsid => World.of_mem_setSession hk hsid (p := fun k => ∀ x ∈ k.segs, x.rid ≠ rid) (segmentGone_spec rid)
  · refine fun k hk hsid => World.of_mem_setSession hk hsid (p := fun k => ∀ x ∈ k.staged, ¬ (x.idx = idx ∧ x.sub = sub))
      fun y => ⟨rfl, fun x hx => ?_⟩
    exact Decidable.not_and_iff_not_or_not.2 (by simpa using (List.mem_filter.1 hx).2)
  · exact fun k hk => World.sid_ne_of_mem_closeSession hk
  · exact fun k hk => World.sid_ne_of_mem_closeSession hk
  · have hsid := World.sid_of_session hk
    refine ⟨_, _, execEventResendTimer_of_session hk, World.session_setSession_const hk hsid, fun q hq h1 h9 => ⟨?_, ?_⟩, ?_, rfl⟩
    · exact mem_sendEvents (Session.mem_resent hq h1 h9) (Nat.succ_ne_zero _)
    · have hagain : q ∈ k.events.filter fun q => decide (1 ≤ q.tries) && decide (q.tries < eventTries) :=
        List.mem_filter.2 ⟨hq, by simp [h1, h9]⟩
      obtain ⟨n, hn, hmem⟩ := Session.mem_pump_again (k := k.resent) hagain
      exact ⟨n, hn, List.mem_append_right _ hmem⟩
    · exact (sendEvents_length ..).trans (List.length_map ..)
  · refine ⟨s.withW (s.w.endLease 1), if_pos ⟨hheld, hleft⟩, ?_⟩
    rw [State.withW, World.endLease_lease hheld]
    exact ⟨rfl, rfl, rfl⟩
  · change execPersistentFlush s = _
    simp only [execPersistentFlush, hq]

/-! ## The lease, resets and key lists (R396, R416, R417, R424, R429) -/

@[simp] theorem uintOf_one : uintOf 1 [1] = some 1 := by decide

theorem uintOf_of_length {n : Nat} {v : List Byte} (h : v.length = n) : uintOf n v = some (leNat v) := if_pos h

theorem World.reply_lease (w : World) (port : KocPort) (dst sid : Nat) (a : Answer) : (w.reply port dst sid a).lease = w.lease := by
  change (w.send port dst sid a.bodies).lease = w.lease
  unfold World.send
  split <;> rfl

@[simp] theorem State.replied_lease (s : State) (h : KocHdr) (st : Nat) (v : List Byte) : (s.replied h st v).w.lease = s.w.lease :=
  World.reply_lease ..

theorem leaseFx_grant {s : State} {k : Session} {v : List Byte} (hlen : v.length = 4) (hlo : 100 ≤ leNat v) (hhi : leNat v ≤ 60000)
    (hbar : s.ctl.persist.barred = false) (hfree : s.w.lease.holder = 0) :
    leaseFx s k v = .world s
      (World.event { s.w with lease := { s.w.lease with
        holder := k.sid, term := leNat v, start := s.ctl.clock, granted := bump 32 s.w.lease.granted 1 } }
        0x0901 0x1020 2 dieNone none stOk (leBytes 4 k.sid)) := by
  have hterm : ¬ (leNat v ≠ 0 ∧ (leNat v < 100 ∨ 60000 < leNat v)) := by omega
  have hsome : leNat v ≠ 0 := by omega
  simp only [leaseFx, uintOf_of_length hlen, if_neg hterm, hbar, hfree, if_neg hsome]
  rfl

theorem leaseFx_held {s : State} {k : Session} {v : List Byte} (hlen : v.length = 4)
    (hterm : leNat v = 0 ∨ (100 ≤ leNat v ∧ leNat v ≤ 60000)) (hbar : s.ctl.persist.barred = false) (hheld : s.w.lease.holder = k.sid) (hk : k.sid ≠ 0) :
    leaseFx s k v = .world s (if leNat v = 0 then s.w.endLease 0
      else { s.w with lease := { s.w.lease with term := leNat v, start := s.ctl.clock } }) := by
  have hok : ¬ (leNat v ≠ 0 ∧ (leNat v < 100 ∨ 60000 < leNat v)) := by omega
  simp only [leaseFx, uintOf_of_length hlen, if_neg hok, hbar, hheld, if_neg hk]
  rfl

theorem execLeaseRequest_of_writes {s s1 : State} {h : KocHdr} {k : Session} {v : List Byte} (hw : s.Writes h 0x1020 1 v s1 k) :
    exec (.leaseRequest h v) s = .next ((leaseFx s1 k v).finish h) := State.writeRequest_of_writes hw _

/-- A key list in force closes each session that it no longer lets in (R396). -/
theorem keyListFx_eq {s : State} {sub : Nat} {v : List Byte} (h32 : v.length % 32 = 0) (h512 : v.length ≤ 512) :
    keyListFx s sub v =
      let t := s.putPersist (if sub = 4 then { s.ctl.persist with hostKeys := v } else { s.ctl.persist with mgmtKeys := v })
      .world t (t.w.closeSessions (fun k => !t.authorised k.port k.keyHash) (some stState)) := by
  have hok : ¬ (v.length % 32 ≠ 0 ∨ 512 < v.length) := by omega
  simp only [keyListFx, if_neg hok]

theorem State.authorised_congr {s t : State} (hc : t.ctl.persist = s.ctl.persist) (ho : t.otp = s.otp) : t.authorised = s.authorised := by
  funext p hash
  unfold State.authorised
  rw [hc, ho]

/-- Settles O14: the rules of the lease, of resets and of key lists, each after an admitted write. -/
theorem leaseResetAndKeyListWrites : Obligations.LeaseResetAndKeyListWrites := by
  unfold Obligations.LeaseResetAndKeyListWrites
  intro s s1 h k v
  refine ⟨fun hw hlen hlo hhi hbar hfree _ => ?_, fun hw hlen hlo hhi hbar hheld hk => ?_, fun hw hv hbar hheld hk => ?_, fun hw hv hheld => ?_,
    fun hw hv => ?_, fun sub hsub hst h32 h512 => ?_⟩
  · rw [execLeaseRequest_of_writes hw, leaseFx_grant hlen hlo hhi hbar hfree]
    refine ⟨_, rfl, ?_⟩
    rw [Fx.world, Fx.finish_answered, State.replied_lease]
    exact ⟨rfl, rfl, rfl⟩
  · rw [execLeaseRequest_of_writes hw, leaseFx_held hlen (.inr ⟨hlo, hhi⟩) hbar hheld hk, if_neg (by omega)]
    rfl
  · have h0 : leNat v = 0 := by rw [hv]; decide
    rw [execLeaseRequest_of_writes hw, leaseFx_held (by rw [hv]; rfl) (.inl h0) hbar hheld hk, if_pos h0]
    rfl
  · have hexec : exec (.leaseRevoke h v) s = .next ((revokeFx s1 v).finish h) := State.writeRequest_of_writes hw _
    rw [hexec, revokeFx, if_pos ⟨by rw [hv]; exact uintOf_one, hheld⟩]
    refine ⟨_, rfl, ?_⟩
    rw [Fx.world, Fx.finish_answered, State.replied_lease]
    exact congrArg Lease.holder (World.endLease_lease hheld 3)
  · have hexec : exec (.resetWrite h v) s = .next ((resetFx s1 v).finish h) := State.writeRequest_of_writes hw _
    rw [hexec, resetFx, if_pos (by rw [hv]; exact uintOf_one)]
    rfl
  · have hexec : exec (.kocKeyListWrite h sub v) s = .next ((keyListFx s1 sub v).finish h) := State.domainRequest_of_stages hst fun s _ => keyListFx s sub v
    rw [hexec, keyListFx_eq h32 h512]
    refine ⟨_, rfl, rfl, rfl, rfl, fun x hx => ?_⟩
    obtain ⟨y, hy, hxy⟩ := State.mem_answer hx
    obtain ⟨z, -, hyz, hauth⟩ := World.mem_closeSessions hy
    obtain ⟨-, hport, hkey⟩ := hxy.trans hyz
    rw [hport, hkey]
    rw [Bool.not_eq_false'] at hauth
    refine Eq.trans (congrFun (congrFun (State.authorised_congr ?_ ?_) _) _) hauth
    · rfl
    · rfl

end Sys2Proof.Machine

/-! PROOFS. What goes on beside the cores: records, events, answers, wakes, frames for links and accesses to HBM leave the cores, the
clusters, the contexts, the channels, the snapshot, the groups and the ports as they are. -/
namespace Sys2Proof.Machine

/-- The world differs in one part only. -/
def World.Only {α : Type} (put : World → α → World) (w u : World) : Prop := ∃ a, u = put w a

theorem World.Only.foldl {α β : Type} {put : World → α → World} (hself : ∀ w, World.Only put w w) (htwice : ∀ w a b, put (put w a) b = put w b)
    {f : World → β → World} (h : ∀ (w : World) (x : β), World.Only put w (f w x)) : ∀ (l : List β) (w : World), World.Only put w (l.foldl f w)
  | [], w => hself w
  | x :: l, w => by
    obtain ⟨a, ha⟩ := h w x
    obtain ⟨b, hb⟩ := World.Only.foldl hself htwice h l (f w x)
    exact ⟨b, hb.trans (by rw [ha, htwice])⟩

abbrev World.putLinks (w : World) (links : Tab Link) : World := { w with links }
abbrev World.putDies (w : World) (dies : Tab Die) : World := { w with dies }

theorem World.only_wakes (l : List Nat) (w : World) : World.Only World.putDies w (l.foldl World.wake w) :=
  .foldl (put := World.putDies) (fun w => ⟨w.dies, rfl⟩) (fun _ _ _ => rfl) (fun w k => ⟨_, World.wake_only w k⟩) l w

theorem World.sendLink_only (w : World) (l dst : Nat) (b : FrameBody) : World.Only World.putLinks w (w.sendLink l dst b) := by
  unfold World.sendLink
  dsimp only
  generalize (_ && _ : Bool) = p
  cases p
  · exact ⟨w.links, rfl⟩
  · exact ⟨_, rfl⟩

theorem World.only_sends {β : Type} (l : List β) (link dst : World → β → Nat) (b : World → β → FrameBody) (w : World) :
    World.Only World.putLinks w (l.foldl (fun w x => w.sendLink (link w x) (dst w x) (b w x)) w) :=
  .foldl (put := World.putLinks) (fun w => ⟨w.links, rfl⟩) (fun _ _ _ => rfl) (fun w _ => World.sendLink_only w ..) l w

/-- The world differs in HBM, KOC, error records, what is sent, the dies' queues and caches, number counters, links and waiting answers only. -/
def World.Side (w u : World) : Prop :=
  ∃ hbm koc errs outbox dies nums links waiters, u = { w with hbm, koc, errs, outbox, dies, nums, links, waiters }

namespace World.Side

theorem refl (w : World) : w.Side w := ⟨_, _, _, _, _, _, _, _, rfl⟩

theorem trans {w u x : World} (a : w.Side u) (b : u.Side x) : w.Side x := by
  obtain ⟨_, _, _, _, _, _, _, _, rfl⟩ := a
  obtain ⟨_, _, _, _, _, _, _, _, rfl⟩ := b
  exact ⟨_, _, _, _, _, _, _, _, rfl⟩

theorem foldl {α : Type} {f : World → α → World} (h : ∀ (w : World) (x : α), w.Side (f w x)) :
    ∀ (l : List α) (w : World), w.Side (l.foldl f w)
  | [], w => .refl w
  | x :: l, w => (h w x).trans (foldl h l (f w x))

theorem ite {w u x : World} {c : Prop} [Decidable c] (a : w.Side u) (b : w.Side x) : w.Side (if c then u else x) := by
  split
  · exact a
  · exact b

theorem at_ {w u : World} (a : w.Side u) (i : Nat) :
    u.core i = w.core i ∧ u.cluster i = w.cluster i ∧ u.ctx i = w.ctx i ∧ u.chan i = w.chan i ∧ u.group i = w.group i ∧ u.port i = w.port i ∧
      u.region i = w.region i ∧ u.qp i = w.qp i := by
  obtain ⟨_, _, _, _, _, _, _, _, rfl⟩ := a
  exact ⟨rfl, rfl, rfl, rfl, rfl, rfl, rfl, rfl⟩

theorem fields {w u : World} (a : w.Side u) :
    u.cores = w.cores ∧ u.clusters = w.clusters ∧ u.ctxs = w.ctxs ∧ u.dma = w.dma ∧ u.seam = w.seam ∧ u.groups = w.groups ∧ u.colls = w.colls ∧
      u.ports = w.ports ∧ u.qps = w.qps ∧ u.lease = w.lease ∧ u.snap = w.snap ∧ u.scan = w.scan ∧ u.buddy = w.buddy ∧ u.tele = w.tele ∧
      u.tick = w.tick ∧ u.free = w.free := by
  obtain ⟨_, _, _, _, _, _, _, _, rfl⟩ := a
  exact ⟨rfl, rfl, rfl, rfl, rfl, rfl, rfl, rfl, rfl, rfl, rfl, rfl, rfl, rfl, rfl, rfl⟩

theorem core {w u : World} (a : w.Side u) (c : Nat) : u.core c = w.core c := (a.at_ c).1
theorem cluster {w u : World} (a : w.Side u) (k : Nat) : u.cluster k = w.cluster k := (a.at_ k).2.1
theorem ctx {w u : World} (a : w.Side u) (n : Nat) : u.ctx n = w.ctx n := (a.at_ n).2.2.1
theorem chan {w u : World} (a : w.Side u) (d : Nat) : u.chan d = w.chan d := (a.at_ d).2.2.2.1
theorem snap {w u : World} (a : w.Side u) : u.snap = w.snap := by
  obtain ⟨_, _, _, _, _, _, _, _, rfl⟩ := a
  rfl

end World.Side

/-! ## Records, events, wakes, links and answers -/

theorem World.event_side (w : World) (code idx sub die : Nat) (ctx : Option Nat) (st : Nat) (p : List Byte) : w.Side (w.event code idx sub die ctx st p) :=
  ⟨_, _, _, _, _, _, _, _, World.event_frame ..⟩

theorem World.raise_side (w : World) (cls unit status inst : Nat) (ctx : Option Nat) (die addr : Nat) (detail : List Byte) (peer : Bool) :
    w.Side (w.raise cls unit status inst ctx die addr detail peer) :=
  ⟨_, _, _, _, _, _, _, _, World.raise_frame ..⟩

theorem World.wake_side (w : World) (k : Nat) : w.Side (w.wake k) := ⟨_, _, _, _, _, _, _, _, World.wake_only ..⟩

theorem World.wakeGroup_side (w : World) (r : Resid) : w.Side (w.wakeGroup r) := .foldl (fun w _ => World.wake_side w _) _ w

theorem World.setLink_side (w : World) (l : Nat) (k : Link) : w.Side (w.setLink l k) := ⟨_, _, _, _, _, _, _, _, rfl⟩

theorem World.sendLink_side (w : World) (l dst : Nat) (b : FrameBody) : w.Side (w.sendLink l dst b) := by
  unfold World.sendLink
  exact .ite (World.setLink_side ..) (.refl w)

theorem World.setSession_side (w : World) (sid : Nat) (f : Session → Session) : w.Side (w.setSession sid f) := ⟨_, _, _, _, _, _, _, _, rfl⟩

theorem World.send_side (w : World) (port : KocPort) (dst sid : Nat) (l : List (Nat × KocBody)) : w.Side (w.send port dst sid l) := by
  unfold World.send
  split
  · exact .refl w
  · exact ⟨_, _, _, _, _, _, _, _, rfl⟩

theorem World.reply_side (w : World) (port : KocPort) (dst sid : Nat) (a : Answer) : w.Side (w.reply port dst sid a) :=
  (World.send_side ..).trans (World.setSession_side ..)

theorem World.resolve_side (w : World) (what : WaitFor) (st : Nat) (value : List Byte) : w.Side (w.resolve what st value) :=
  .trans ⟨_, _, _, _, _, _, _, _, rfl⟩ (.foldl (fun w _ => World.reply_side w ..) _ _)

/-! ## Accesses to HBM -/

theorem World.setHbm_side (w : World) (hbm : Hbm) : w.Side { w with hbm } := ⟨_, _, _, _, _, _, _, _, rfl⟩

theorem World.setStack_side (w : World) (t : Nat) (x : Stack) : w.Side (w.setStack t x) := World.setHbm_side ..

theorem World.touchBlock_side (w : World) (n : Option Nat) (b : Nat) : w.Side (w.touchBlock n b) := by
  unfold World.touchBlock
  dsimp only
  split
  · exact .refl w
  split
  · exact .ite (.trans (World.setHbm_side ..) (World.raise_side ..)) (World.setHbm_side ..)
  · exact .trans (World.setHbm_side ..) (World.raise_side ..)

theorem World.readBlocks_side (w : World) (n : Option Nat) (bs : List Nat) : w.Side (w.readBlocks n bs) :=
  .foldl (fun w _ => (World.touchBlock_side w ..).trans (World.setStack_side ..)) _ _

theorem World.countHbm_side (w : World) (lo n : Nat) (wr : Bool) : w.Side (w.countHbm lo n wr) := .foldl (fun w _ => World.setStack_side w ..) _ _

theorem World.readRange_side (w : World) (n : Option Nat) (lo k : Nat) : w.Side (w.readRange n lo k) :=
  (World.Side.foldl (fun w _ => World.touchBlock_side w ..) _ _).trans (World.countHbm_side ..)

theorem World.meetBus_side (w : World) (n : Option Nat) (l : List Nat) : w.Side (w.meetBus n l) := by
  obtain ⟨_, _, _, _, _, h⟩ := World.meetBus_frame w n l
  exact ⟨_, _, _, _, _, _, _, _, h⟩

theorem World.Wrote.side {w u : World} {bs : List BitWrite} (h : w.Wrote u bs) : w.Side u := by
  have hrest := h.rest
  rw [h.cores] at hrest
  exact ⟨_, _, _, _, _, _, _, _, hrest⟩

theorem World.writeHbm_side (w : World) (n : Option Nat) (bs : List BitWrite) : w.Side (w.writeHbm n bs) := (World.writeHbm_wrote ..).side

theorem World.hbmPut_side (w : World) (a : Nat) (bs : List Byte) : w.Side (w.hbmPut a bs) := .ite (.refl w) (World.writeHbm_side ..)

theorem World.blit_side (w : World) (lo n : Nat) (new : List Host.Cell) (bad : List Nat) : w.Side (w.blit lo n new bad) :=
  (World.setHbm_side ..).trans (World.countHbm_side ..)

end Sys2Proof.Machine

/-! PROOFS. Answers change only KOC and the outbox; writes of cores, windows, caches, contexts, seeds, predictors and snapshots. -/
namespace Sys2Proof.Machine

/-! ## What an answer leaves -/

theorem World.send_frame (w : World) (port : KocPort) (dst sid : Nat) (l : List (Nat × KocBody)) :
    w.send port dst sid l = { w with koc := (w.send port dst sid l).koc, outbox := (w.send port dst sid l).outbox } := by
  unfold World.send
  split <;> rfl

/-- An answer reaches the session and the outbox, and nothing else (R392, R393). -/
theorem World.reply_frame (w : World) (port : KocPort) (dst sid : Nat) (a : Answer) :
    w.reply port dst sid a = { w with koc := (w.reply port dst sid a).koc, outbox := (w.reply port dst sid a).outbox } := by
  unfold World.reply
  rw [World.send_frame]
  rfl

theorem State.replied_frame (s : State) (h : KocHdr) (st : Nat) (v : List Byte) :
    s.replied h st v = s.withW { s.w with koc := (s.replied h st v).w.koc, outbox := (s.replied h st v).w.outbox } :=
  congrArg s.withW (World.reply_frame ..)

@[simp] theorem State.replied_fields (s : State) (h : KocHdr) (st : Nat) (v : List Byte) :
    let t := s.replied h st v
    t.otp = s.otp ∧ t.flash = s.flash ∧ t.res = s.res ∧ t.ctl = s.ctl ∧ t.w.cores = s.w.cores ∧ t.w.clusters = s.w.clusters ∧
      t.w.dies = s.w.dies ∧ t.w.ctxs = s.w.ctxs ∧ t.w.hbm = s.w.hbm ∧ t.w.links = s.w.links ∧ t.w.seam = s.w.seam ∧ t.w.groups = s.w.groups ∧
      t.w.colls = s.w.colls ∧ t.w.qps = s.w.qps ∧ t.w.errs = s.w.errs ∧ t.w.snap = s.w.snap ∧ t.w.scan = s.w.scan ∧ t.w.buddy = s.w.buddy ∧
      t.w.tele = s.w.tele ∧ t.w.waiters = s.w.waiters ∧ t.w.lease = s.w.lease ∧ t.w.dma = s.w.dma ∧ t.w.nums = s.w.nums := by
  dsimp only
  rw [State.replied_frame]
  exact ⟨rfl, rfl, rfl, rfl, rfl, rfl, rfl, rfl, rfl, rfl, rfl, rfl, rfl, rfl, rfl, rfl, rfl, rfl, rfl, rfl, rfl, rfl, rfl⟩

@[simp] theorem State.replied_at (s : State) (h : KocHdr) (st : Nat) (v : List Byte) (i : Nat) :
    let t := s.replied h st v
    t.ent i = s.ent i ∧ t.w.core i = s.w.core i ∧ t.w.cluster i = s.w.cluster i ∧ t.w.die i = s.w.die i ∧ t.w.ctx i = s.w.ctx i ∧
      t.w.chan i = s.w.chan i ∧ t.w.link i = s.w.link i ∧ t.w.group i = s.w.group i ∧ t.w.qp i = s.w.qp i := by
  dsimp only
  rw [State.replied_frame]
  exact ⟨rfl, rfl, rfl, rfl, rfl, rfl, rfl, rfl, rfl⟩

@[simp] theorem Fx.finish_world (s : State) (w : World) (h : KocHdr) : (Fx.world s w).finish h = (s.withW w).replied h stOk := rfl

/-! ## Cores, windows and caches -/

theorem SacSet.holds_empty (line : Nat) : (List.replicate 16 (none : Option SacLine)).any (holdsLine line) = false := by
  simp [holdsLine]

theorem Die.invalidateAll_holds (d : Die) (line : Nat) : d.invalidateAll.holds line = false := by
  have hmap := Tab.get_map (fun e : SacSet => { e with ways := List.replicate 16 none }) ({} : SacSet) d.sets (sacIndex line)
  have hset : ((Tab.get {} d.invalidateAll.sets (sacIndex line) : SacSet)) = _ := hmap
  rw [Die.holds, hset]
  exact SacSet.holds_empty line

theorem World.sendCredits_only (w : World) (c i : Nat) (slots : List Nat) : World.Only World.putLinks w (w.sendCredits c i slots) :=
  World.only_sends slots (fun w _ => (w.win c i).link) (fun w _ => (w.win c i).rank) (fun w s => .wcredit c i s (w.win c i).gen) w

/-- What OPEN makes of a window (R122): its next generation, with every slot credited. -/
def Window.opened (v : Window) (owner : Nat) : Window :=
  { v with st := .open_, gen := nextGen v.gen, credited := List.range v.slots, held := [], owner }

theorem World.openWin_frame (w : World) (c i owner : Nat) :
    (w.openWin c i owner).win c i = (w.win c i).opened owner ∧ (w.openWin c i owner).hbm = w.hbm := by
  obtain ⟨l, hl⟩ := World.sendCredits_only (w.setWin c i ((w.win c i).opened owner)) c i (List.range (w.win c i).slots)
  have hopened : w.openWin c i owner = { w.setWin c i ((w.win c i).opened owner) with links := l } := hl
  rw [hopened]
  exact ⟨World.win_setWin .., rfl⟩

/-- Settles O15. -/
theorem coreObjectWritesComplete : Obligations.CoreObjectWritesComplete := by
  unfold Obligations.CoreObjectWritesComplete
  intro s s1 h k c i v
  refine ⟨fun hw hv => ?_, fun hw hv hst => ?_, fun n hw hopen hb => ?_, fun hw hst => ?_, fun hw hlen => ?_⟩
  · have hexec : exec (.cacheInvalidateAll h v) s = .next ((cacheInvalidateFx s1 v).finish h) := State.writeRequest_of_writes hw _
    rw [hexec, cacheInvalidateFx, if_pos (by rw [hv]; exact uintOf_one), Fx.finish_world]
    have hdies : ∀ d, d < 2 → (State.replied (s1.withW ((s1.w.setDie 0 (s1.w.die 0).invalidateAll).setDie 1 (s1.w.die 1).invalidateAll)) h stOk).w.die d =
        (s1.w.die d).invalidateAll := by
      intro d hd
      obtain rfl | rfl : d = 0 ∨ d = 1 := by omega
      · simp [World.die_setDie_ne]
      · simp
    refine ⟨_, rfl, fun d line hd => ?_, fun d hd f hf => ?_, ?_⟩
    · rw [hdies d hd]
      exact Die.invalidateAll_holds ..
    · rw [hdies d hd] at hf
      obtain ⟨g, -, rfl⟩ := List.mem_map.1 hf
      rfl
    · have hsame : ∀ u : World, (State.replied (s1.withW u) h stOk).w.dies = u.dies := by simp
      rw [hsame]
      rfl
  · have hexec : exec (.coreResume h c v) s = .next ((coreResumeFx s1 c v).finish h) := State.writeRequest_of_writes hw _
    rw [hexec, coreResumeFx, if_pos ⟨by rw [hv]; exact uintOf_one, hst⟩]
    rfl
  · have hexec : exec (.windowOpen h c i) s = .next ((windowOpenFx s1 c i).finish h) := State.writeRequest_of_writes hw _
    rw [hexec, windowOpenFx, hopen, hb]
    obtain ⟨hwin, hhbm⟩ := World.openWin_frame s1.w c i n
    have hreply : ((Fx.world s1 (s1.w.openWin c i n)).finish h).w.win c i = (s1.w.openWin c i n).win c i :=
      congrArg (Core.win · i) (State.replied_at ..).2.1
    refine ⟨_, rfl, by simp, by simp, by simp, by simpa using hhbm, ?_⟩
    rw [hreply, hwin]
    exact ⟨rfl, rfl, rfl, rfl, rfl⟩
  · have hexec : exec (.windowClose h c i) s = .next ((windowCloseFx s1 c i).finish h) := State.writeRequest_of_writes hw _
    rw [hexec, windowCloseFx, if_pos hst, World.closeWin, if_pos hst]
    rfl
  · have hexec : exec (.dirtyMapClear h c v) s = .next ((dirtyClearFx s1 c v).finish h) := State.writeRequest_of_writes hw _
    rw [hexec, dirtyClearFx, uintOf_of_length hlen]
    rfl

/-! ## Contexts (R283–R286, R298) -/

@[simp] theorem State.ctxTo_ent (s : State) (n : Nat) (st : CtxSt) (after : AfterSave) : (s.ctxTo n st after).ent n = { s.ent n with st, after } :=
  State.ent_setEnt ..

theorem State.ctxTo_side (s : State) (n : Nat) (st : CtxSt) (after : AfterSave) : s.w.Side (s.ctxTo n st after).w := World.event_side ..

theorem State.startSave_st (s : State) (n : Nat) (after : AfterSave) : ((s.startSave n after).ent n).st = .saving := by
  rw [State.startSave]
  exact congrArg Resid.st (State.ctxTo_ent ..)

theorem State.held_waits (s : State) (h : KocHdr) (what : WaitFor) :
    (s.held h what).w.waiters.any (fun x => x.what == what && x.rid == h.rid) = true := by
  simp [State.held]

theorem firstRefusal_none_of_mem {l : List (Bool × Nat)} (h : firstRefusal l = none) : ∀ x ∈ l, x.1 = false := by
  induction l with
  | nil => simp
  | cons x l ih =>
    obtain ⟨b, st⟩ := x
    cases b with
    | true => exact absurd h (by simp)
    | false =>
      rw [firstRefusal_cons] at h
      simpa using ih (by simpa using h)

/-- Nothing in the way and nothing held back, a context goes to RESTORING (R284). -/
theorem State.goResume_free {s : State} {n : Nat} (hr : resumeRefusal s n = none) (hway : s.inWay n = []) :
    s.goResume n = (s.ctxTo n .restoring .stay).withW ((s.ctxTo n .restoring .stay).w.wakeGroup ((s.ctxTo n .restoring .stay).ent n)) := by
  have hheld := firstRefusal_none_of_mem hr _ (.tail _ (.tail _ (.tail _ (.head _))))
  have hok : ¬ (16 ≤ s.beside n ∨ (s.w.ctx n).hold ≠ 0) := by
    simp only [Bool.or_eq_false_iff, decide_eq_false_iff_not, bne_eq_false_iff_eq] at hheld
    omega
  simp only [State.goResume, hway, List.find?_nil, List.isEmpty_nil, if_neg hok]
  rfl

theorem State.putHeader_side (s : State) (n : Nat) : s.w.Side (s.putHeader n).w := by
  simp only [State.putHeader, State.withW_frame]
  exact World.hbmPut_side ..

/-- A context is created with its seed and nothing run, and its slot of HBM is written (R283). -/
theorem createFx_absent {s : State} {n : Nat} (hst : (s.ent n).st = .absent) (hcfg : cfgOk (s.ent n).cfg = true) :
    ∃ u, (s.w.setCtx n { wsRefused := (s.w.ctx n).wsRefused, seed := BitVec.ofNat 64 (s.ent n).seed }).Side u ∧
      createFx s n = { s := (s.withW u).ctxTo n .saved .stay } := by
  simp only [createFx, hst, hcfg, Bool.true_eq_false, if_false]
  refine ⟨_, ?_, rfl⟩
  exact (((World.blit_side ..).trans (World.hbmPut_side ..)).trans (World.hbmPut_side ..)).trans ⟨_, _, _, _, _, _, _, _, rfl⟩

@[simp] theorem State.wipeCtx_ent (s : State) (n : Nat) : (s.wipeCtx n).ent n = {} := by
  rw [State.wipeCtx, State.ctxTo_ent, State.ent_setEnt]

/-- A doorbell that is in order moves the tail, in the slot of a SAVED context too, and wakes the group of a RESIDENT one. -/
theorem doorbellFx_ok {s : State} {n : Nat} {v : List Byte} (hlen : v.length = 4) (hst : (s.ent n).st ≠ .absent)
    (htail : sub32 (leNat v) (s.w.ctx n).tail ≤ 2 ^ (s.ent n).rlog) :
    ∃ u, (s.w.setCtx n { s.w.ctx n with tail := leNat v }).Side u ∧ doorbellFx s n v = .world s u := by
  simp only [doorbellFx, uintOf_of_length hlen, if_neg (not_or.2 ⟨hst, Nat.not_lt.2 htail⟩)]
  split
  · exact ⟨_, World.hbmPut_side .., rfl⟩
  · exact ⟨_, .ite (.refl _) (World.wakeGroup_side ..), rfl⟩
  · exact ⟨_, .refl _, rfl⟩

/-- Settles O16. -/
theorem contextWritesComplete : Obligations.ContextWritesComplete := by
  unfold Obligations.ContextWritesComplete
  intro s s1 h k n v
  refine ⟨fun hw hst hcfg => ?_, fun hw hr hway => ?_, fun hw hst => ?_, fun hw hst => ?_, fun hw hst => ?_, fun hw hlen hst htail => ?_,
    fun hw hst hlen h0 hz => ?_, fun image hst hsaved hfree => ?_⟩
  · have hexec : exec (.contextCreate h n) s = .next ((createFx s1 n).finish h) := State.writeRequest_of_writes hw _
    obtain ⟨u, hu, hfx⟩ := createFx_absent hst hcfg
    have hctx : (((s1.withW u).ctxTo n .saved .stay).w.ctx n) = _ := (State.ctxTo_side ..).ctx n |>.trans (hu.ctx n)
    rw [hexec, hfx, Fx.finish_answered]
    refine ⟨_, rfl, ?_⟩
    simp only [State.replied_at, State.replied_fields, State.ctxTo_ent, hctx, World.ctx_setCtx]
    exact ⟨trivial, rfl, trivial, trivial, trivial, rfl, rfl⟩
  · have hexec : exec (.contextResume h n) s = .next ((resumeFx s1 n).finish h) := State.writeRequest_of_writes hw _
    rw [hexec, resumeFx, hr]
    refine ⟨_, rfl, ?_, State.held_waits ..⟩
    have hent : (State.held (s1.goResume n) h (.ctx n)).ent n = (s1.goResume n).ent n := rfl
    exact (congrArg Resid.st (hent.trans (congrArg (State.ent · n) (State.goResume_free hr hway)))).trans (congrArg Resid.st (State.ctxTo_ent ..))
  · have hexec : exec (.contextPreempt h n) s = .next ((preemptFx s1 n).finish h) := State.writeRequest_of_writes hw _
    rw [hexec, preemptFx, hst]
    exact ⟨rfl, State.startSave_st ..⟩
  · have hexec : exec (.contextDestroy h n) s = .next ((destroyFx s1 n ckptDestroy).finish h) := State.writeRequest_of_writes hw _
    rw [hexec, destroyFx, hst]
    rfl
  · have hexec : exec (.contextDestroy h n) s = .next ((destroyFx s1 n ckptDestroy).finish h) := State.writeRequest_of_writes hw _
    rw [hexec, destroyFx, hst]
    refine ⟨_, rfl, ?_⟩
    rw [Fx.finish_answered]
    simp
  · have hexec : exec (.doorbell h n v) s = .next ((doorbellFx s1 n v).finish h) := State.writeRequest_of_writes hw _
    obtain ⟨u, hu, hfx⟩ := doorbellFx_ok hlen hst htail
    rw [hexec, hfx, Fx.finish_world]
    refine ⟨_, rfl, ?_⟩
    simp [hu.ctx]
  · have hexec : exec (.tlbInvalidateRequest h n v) s = .next ((invalidateFx s1 n v).finish h) := State.writeRequest_of_writes hw _
    rw [hexec, invalidateFx, if_neg (by simp [hst, hlen, h0, hz])]
    rfl
  · intro cells hd hone hok hcores
    have hexec : exec (.contextImport h n image) s = .next ((importFx s1 n image).finish h) := State.domainRequest_of_stages hst fun s _ => importFx s n image
    have hin : (s1.ent n).st ≠ .absent := by simp [hsaved]
    have hidle : ¬ ((s1.ent n).st ≠ .saved ∨ (s1.w.ctx n).rst.busy = true) := by simp [hsaved, hfree]
    have hgood : ¬ (le hd 0 2 ≠ 1 ∨ cfgOk (sl hd 64 64) = false ∨ le hd 4 2 ≠ 16 * le (sl hd 64 64) 1 1) := by simp [hone, hok, hcores]
    rw [hexec, importFx, if_neg hin, if_neg hidle]
    dsimp only
    rw [if_neg hgood, Fx.finish_answered]
    refine ⟨_, rfl, ?_⟩
    simp only [State.replied_at, State.setEnt_frame, State.withW_frame, State.ent_setEnt, World.ctx_setCtx]
    exact ⟨rfl, hsaved, trivial, rfl⟩

/-- Settles O17. -/
theorem seedAndPredictorWritesComplete : Obligations.SeedAndPredictorWritesComplete := by
  unfold Obligations.SeedAndPredictorWritesComplete
  intro s s1 h k n v hst hidle
  refine ⟨fun hw hlen => ?_, fun hw hlen => ?_, fun hw hlen hslots => ?_⟩
  · have hexec : exec (.seedWrite h n v) s = .next ((seedFx s1 n v).finish h) := State.writeRequest_of_writes hw _
    rw [hexec, seedFx, uintOf_of_length hlen]
    simp only [if_neg hst, hidle, Bool.false_eq_true, if_false]
    rfl
  · have hexec : exec (.reseed h n v) s = .next ((reseedFx s1 n v).finish h) := State.writeRequest_of_writes hw _
    rw [hexec, reseedFx, uintOf_of_length hlen]
    simp only [if_neg hst, hidle, Bool.false_eq_true, if_false]
    rfl
  · have hexec : exec (.predictorSlotsWrite h n v) s = .next ((predictorSlotsFx s1 n v).finish h) :=
      State.domainRequest_of_stages hw fun s _ => predictorSlotsFx s n v
    have hall : ((List.range 256).all fun i => predSlotOk (sl v (64 * i) 64)) = true := by
      simpa [List.all_eq_true] using hslots
    have hok : ¬ (v.length ≠ 16384 ∨ ((List.range 256).all fun i => predSlotOk (sl v (64 * i) 64)) = false) := by
      rw [hall]
      simp [hlen]
    rw [hexec, predictorSlotsFx, if_neg hst, if_neg (by simp [hidle]), if_neg hok, Fx.finish_world]

end Sys2Proof.Machine

/-! PROOFS. Writes to the control of DMA channels, to links, groups, queue pairs, power, security and reliability objects. -/
namespace Sys2Proof.Machine

/-! ## The control of a DMA channel (R301) -/

/-- What a write of the control object does in the cluster of a context, which it wakes. -/
theorem chanFx_of_chanCtx {s : State} {d n : Nat} {r : Resid} (hd : s.chanCtx d = some (n, r)) (f : World → Resid → Nat → Nat → Ctrl) :
    chanFx s d f =
      { s := s.withW (f (s.w.wake (chanCluster d)) r n d).w
        st := (f (s.w.wake (chanCluster d)) r n d).st
        wait := if (f (s.w.wake (chanCluster d)) r n d).draining then some (.dma d) else none } := by
  simp only [chanFx, hd]

/-- A chain dropped from a channel that has no descriptor under way (R301). -/
theorem World.chanAbort_stopped {w : World} {r : Resid} {n d : Nat} (h : (w.chan d).st = .paused ∨ (w.chan d).st = .halted) :
    w.chanAbort r n d =
      { w := w.endDescriptor r n d (w.chan d) (if (w.chan d).latStatus = 0 then stState else (w.chan d).latStatus) true, st := stOk } := by
  obtain h | h := h <;> simp only [World.chanAbort, h]

/-- Settles O19. -/
theorem dmaControlWritesComplete : Obligations.DmaControlWritesComplete := by
  unfold Obligations.DmaControlWritesComplete
  intro s s1 h k d n r hd
  dsimp only
  have hfx := chanFx_of_chanCtx hd
  refine ⟨fun hw hst => ?_, fun hw hst hq => ?_, fun hw hst hq => ?_, fun hw hst => ?_, fun hw hst => ?_⟩
  · have hexec : exec (.dmaCtrlResume h d) s = .next ((chanFx s1 d fun w _ => w.chanResume).finish h) := State.writeRequest_of_writes hw _
    rw [hexec, hfx, World.chanResume, if_pos hst]
    rfl
  · have hexec : exec (.dmaCtrlPause h d) s = .next ((chanFx s1 d fun w _ => w.chanPause).finish h) := State.writeRequest_of_writes hw _
    rw [hexec, hfx, World.chanPause, if_pos hst, if_pos hq]
    rfl
  · have hexec : exec (.dmaCtrlPause h d) s = .next ((chanFx s1 d fun w _ => w.chanPause).finish h) := State.writeRequest_of_writes hw _
    rw [hexec, hfx, World.chanPause, if_pos hst, if_neg (by simp [hq])]
    rfl
  · have hexec : exec (.dmaCtrlSkip h d) s = .next ((chanFx s1 d World.chanSkip).finish h) := State.writeRequest_of_writes hw _
    rw [hexec, hfx, World.chanSkip, if_pos hst]
    rfl
  · have hexec : exec (.dmaCtrlAbort h d) s = .next ((chanFx s1 d World.chanAbort).finish h) := State.writeRequest_of_writes hw _
    rw [hexec, hfx, World.chanAbort_stopped hst]
    rfl

/-! ## Links, groups and queue pairs -/

theorem mem_insertNat {x k : Nat} : ∀ {l : List Nat}, x ∈ insertNat k l ↔ x = k ∨ x ∈ l
  | [] => by simp [insertNat]
  | j :: js => by
    unfold insertNat
    split
    · simp
    split
    · next hkj => simp [hkj]
    · simp [mem_insertNat (l := js), or_left_comm]

theorem insertNat_length {k : Nat} : ∀ {l : List Nat}, k ∉ l → (insertNat k l).length = l.length + 1
  | [], _ => rfl
  | j :: js, h => by
    have hj : k ≠ j := fun he => h (he ▸ List.mem_cons_self ..)
    have hjs : k ∉ js := fun hk => h (.tail _ hk)
    unfold insertNat
    split
    · rfl
    · rw [List.length_cons, insertNat_length hjs, List.length_cons]

theorem foldl_insertNat_length : ∀ {l acc : List Nat}, l.Nodup → (∀ x ∈ l, x ∉ acc) →
    (l.foldl (fun acc k => insertNat k acc) acc).length = acc.length + l.length
  | [], acc, _, _ => rfl
  | k :: l, acc, hl, hacc => by
    obtain ⟨hk, hl⟩ := List.nodup_cons.1 hl
    rw [List.foldl_cons, foldl_insertNat_length hl, insertNat_length (hacc k (List.mem_cons_self ..)), List.length_cons]
    · omega
    · intro x hx
      rw [mem_insertNat, not_or]
      exact ⟨fun he => hk (he ▸ hx), hacc x (.tail _ hx)⟩

theorem distinct_length {l : List Nat} (h : l.Nodup) : (distinct l).length = l.length := by
  rw [distinct, foldl_insertNat_length h (by simp), List.length_nil, Nat.zero_add]

theorem World.wakeColls_only (w : World) : World.Only World.putDies w w.wakeColls := by
  refine .foldl (put := World.putDies) (fun w => ⟨w.dies, rfl⟩) (fun _ _ _ => rfl) (fun w e => ?_) _ w
  split
  · split
    · exact ⟨_, World.wake_only ..⟩
    · exact ⟨w.dies, rfl⟩
  · exact ⟨w.dies, rfl⟩

/-- Settles O20. -/
theorem linkGroupAndQueuePairWritesComplete : Obligations.LinkGroupAndQueuePairWritesComplete := by
  unfold Obligations.LinkGroupAndQueuePairWritesComplete
  intro s s1 h k v
  refine ⟨fun l hw hv hst => ?_, fun l hw hv hst => ?_, fun hw hlen hlost hopen => ?_, fun g hopen => ?_, fun q hw hst hc => ?_, fun q hw => ?_⟩
  · have hexec : exec (.linkRetrain h l v) s = .next ((linkRetrainFx s1 l v).finish h) := State.writeRequest_of_writes hw _
    rw [hexec, linkRetrainFx, if_neg (by rw [hv]; exact Classical.not_not.2 uintOf_one), hst]
    rfl
  · have hexec : exec (.linkRetrain h l v) s = .next ((linkRetrainFx s1 l v).finish h) := State.writeRequest_of_writes hw _
    rw [hexec, linkRetrainFx, if_neg (by rw [hv]; exact Classical.not_not.2 uintOf_one), hst]
    have hlinks : ∀ u : World, (State.replied (s1.withW u) h stOk).w.links = u.links := by simp
    refine ⟨_, rfl, ?_, ?_⟩
    · rw [Fx.finish_world]
      simp [Link.silent, hst]
    · rw [Fx.finish_world, hlinks]
      rfl
  · have hexec : exec (.lostRankClear h v) s = .next ((lostRankFx s1 v).finish h) := State.writeRequest_of_writes hw _
    have hfree : ¬ (s1.w.collsOpen.any fun c => decide (leNat v ∈ (s1.w.group c.group).members)) = true := by simpa using hopen
    have hin : ¬ (leNat v ∉ s1.w.seam.lost ∧ (s1.w.seam.ownLost && leNat v == s1.w.seam.rank) = false) := fun hn => hn.1 hlost
    rw [hexec, lostRankFx, uintOf_of_length hlen]
    dsimp only
    rw [if_neg hin, if_neg hfree, Fx.finish_world]
    obtain ⟨dies, hw'⟩ := World.wakeColls_only { s1.w with seam := { s1.w.seam with
      lost := s1.w.seam.lost.filter (· != leNat v), ownLost := s1.w.seam.ownLost && !(s1.w.seam.ownLost && leNat v == s1.w.seam.rank) } }
    have hseam : ∀ u : World, (State.replied (s1.withW u) h stOk).w.seam = u.seam := by simp
    have hdies : ∀ u : World, (State.replied (s1.withW u) h stOk).w.dies = u.dies := by simp
    rw [hw']
    refine ⟨_, rfl, ?_, fun x hx hne => ?_, ?_⟩
    · rw [hseam]
      simp
    · rw [hseam]
      simp [hx, hne]
    · rw [hseam, hdies]
      rfl
  · intro G set l
    have hnone : ¬ (s1.w.collsOpen.any fun c => c.group == (g : Nat)) = true := by
      simpa using hopen
    refine ⟨fun hst heven hlen hranks hdup hown => ?_, fun hw hlen hlo hhi => ?_, fun hw hlen => ?_, fun hw hlen hctx hst => ?_⟩
    · have hexec : exec (.groupConfigWrite h g 1 v) s = .next ((groupFx s1 g 1 v).finish h) := State.domainRequest_of_stages hst fun s _ => groupFx s g 1 v
      have hgood : (v.length % 2 != 0 || decide (8192 < v.length) || l.any (fun r => decide (4095 < r)) || (distinct l).length != l.length
          || !decide (s1.w.seam.rank ∈ l)) = false := by
        have hall : l.any (fun r => decide (4095 < r)) = false := by simpa using hranks
        simp [heven, Nat.not_lt.2 hlen, hall, distinct_length hdup, hown]
      rw [hexec, groupFx, groupConfigFx, if_neg hnone]
      simp only [l] at hgood
      simp only [hgood]
      rfl
    · have hexec : exec (.groupConfigWrite h g 2 v) s = .next ((groupFx s1 g 2 v).finish h) := State.writeRequest_of_writes hw _
      rw [hexec, groupFx, groupConfigFx, if_neg hnone]
      simp only [if_pos (And.intro hlen (And.intro hlo hhi))]
      rfl
    · have hexec : exec (.groupConfigWrite h g 3 v) s = .next ((groupFx s1 g 3 v).finish h) := State.writeRequest_of_writes hw _
      rw [hexec, groupFx, groupConfigFx, if_neg hnone]
      simp only [if_pos hlen]
      rfl
    · have hexec : exec (.groupConfigWrite h g 4 v) s = .next ((groupFx s1 g 4 v).finish h) := State.writeRequest_of_writes hw _
      rw [hexec, groupFx, groupConfigFx, if_neg hnone]
      simp only [if_pos (And.intro hlen (And.intro hctx hst))]
      rfl
  · have hexec : exec (.qpReady h q) s = .next ((qpReadyFx s1 q).finish h) := State.writeRequest_of_writes hw _
    rw [hexec, qpReadyFx, if_pos ⟨hst, hc⟩]
    rfl
  · exact State.writeRequest_of_writes hw _

/-! ## Power (R435, R442, R443, R448, R457) -/

theorem clusterFloorFx_low {s : State} {c : Nat} {v : List Byte} (hlen : v.length = 1) (hlow : leNat v < 3) :
    clusterFloorFx s c v = .world s (if floorDepth (leNat v) < depth (s.w.cluster c).settled
      then (s.w.setCluster c { s.w.cluster c with floor := leNat v }).wake c else s.w.setCluster c { s.w.cluster c with floor := leNat v }) := by
  rw [clusterFloorFx, uintOf_of_length hlen]
  dsimp only
  split
  · next h3 => rw [Option.some_inj] at h3; omega
  · next hf =>
    obtain rfl := Option.some_inj.1 hf
    rw [if_neg (by omega)]
  · next hn => cases hn

theorem clusterFloorFx_off {s : State} {c : Nat} (hfree : ∀ e ∈ s.res, e.2.st.live = true → e.2.holds c = false) :
    clusterFloorFx s c [3] = .world s ((s.w.setDie (dieOfCluster c) { s.w.die (dieOfCluster c) with
        powerQ := (s.w.die (dieOfCluster c)).powerQ.filter (· != c), restartQ := (s.w.die (dieOfCluster c)).restartQ.filter (· != c) }).setCluster c
      ({ s.w.cluster c with floor := 3 } : Cluster).toFloor) := by
  have hnone : ¬ (s.res.any fun e => e.2.st.live && e.2.holds c) = true := by
    simpa using hfree
  have h3 : uintOf 1 [3] = some 3 := rfl
  simp only [clusterFloorFx, h3, if_neg hnone]

theorem Cluster.toFloor_power (x : Cluster) : x.toFloor.floor = x.floor := by
  unfold Cluster.toFloor
  split <;> rfl

@[simp] theorem State.partTo_ctl (s : State) (p : PartSt) : (s.partTo p).ctl = { s.ctl with part := p } := by
  unfold State.partTo
  split
  · next h => rw [← h]
  · rfl

@[simp] theorem State.partTo_res (s : State) (p : PartSt) : (s.partTo p).res = s.res := by
  unfold State.partTo
  split <;> rfl

theorem State.partTo_side (s : State) (p : PartSt) : s.w.Side (s.partTo p).w := by
  unfold State.partTo
  split
  · exact .refl _
  · exact World.event_side ..

/-- The destruction of every context leaves what is no context, and the clusters. -/
theorem State.destroyAll_frame (s : State) : ∃ w, w.clusters = s.w.clusters ∧ s.destroyAll = { s with res := [], w } := by
  have hfold : ∀ (l : List Nat) (s : State), ∃ res w, w.clusters = s.w.clusters ∧ l.foldl (fun s n =>
      if (s.ent n).st = .absent then s else ((s.withW (s.w.cancelSnap n)).setEnt n {}).ctxTo n .absent .stay) s = { s with res, w } := by
    intro l
    induction l with
    | nil => exact fun s => ⟨s.res, s.w, rfl, rfl⟩
    | cons n l ih =>
      intro s
      rw [List.foldl_cons]
      split
      · exact ih s
      · obtain ⟨res, w, hw, h⟩ := ih (((s.withW (s.w.cancelSnap n)).setEnt n {}).ctxTo n .absent .stay)
        refine ⟨res, w, hw.trans ?_, h⟩
        have hsnap : (s.w.cancelSnap n).clusters = s.w.clusters := by
          unfold World.cancelSnap
          split <;> rfl
        exact hsnap
  obtain ⟨res, w, hw, h⟩ := hfold (s.res.map (·.1)) s
  exact ⟨w, hw, by rw [State.destroyAll, h]⟩

@[simp] theorem World.endLease_clusters (w : World) (reason : Nat) : (w.endLease reason).clusters = w.clusters := by
  unfold World.endLease
  dsimp only
  split <;> rfl

@[simp] theorem World.setDuty_clusters (w : World) (d new cause : Nat) : (w.setDuty d new cause).clusters = w.clusters := by
  unfold World.setDuty
  dsimp only
  split
  · rfl
  split <;> rfl

@[simp] theorem World.closeSession_clusters (w : World) (sid : Nat) (notice : Option Nat) : (w.closeSession sid notice).clusters = w.clusters := by
  unfold World.closeSession
  split
  · rfl
  dsimp only
  split
  · exact World.endLease_clusters ..
  · rfl

@[simp] theorem World.closeSessions_clusters (w : World) (p : Session → Bool) (notice : Option Nat) :
    (w.closeSessions p notice).clusters = w.clusters := by
  unfold World.closeSessions
  generalize w.koc.sessions.filter p = l
  induction l generalizing w with
  | nil => rfl
  | cons k l ih => rw [List.foldl_cons, ih, World.closeSession_clusters]

theorem World.allOff_floor (w : World) (i : Nat) : (w.allOff.cluster i).floor = (w.cluster i).floor := by
  unfold World.allOff
  generalize List.range 64 = l
  induction l generalizing w with
  | nil => rfl
  | cons k l ih =>
    rw [List.foldl_cons, ih]
    dsimp only
    split
    · rfl
    · rw [World.offEvent, (World.event_side ..).cluster]
      by_cases hik : i = k
      · rw [hik, World.cluster_setCluster]
      · rw [World.cluster_setCluster_ne _ _ hik]

theorem World.setDuty_cluster (w : World) (d new cause i : Nat) : (w.setDuty d new cause).cluster i = w.cluster i :=
  congrArg (Tab.get _ · i) (World.setDuty_clusters ..)

theorem World.endLease_cluster (w : World) (reason i : Nat) : (w.endLease reason).cluster i = w.cluster i :=
  congrArg (Tab.get _ · i) (World.endLease_clusters ..)

theorem World.quieted_floor (w : World) (i : Nat) :
    ((((w.endLease 5).allOff.setDuty 0 8 4).setDuty 1 8 4).cluster i).floor = (w.cluster i).floor := by
  rw [World.setDuty_cluster, World.setDuty_cluster, World.allOff_floor, World.endLease_cluster]

/-- What the dark leaves of a cluster. -/
def Cluster.darkened (c : Cluster) : Cluster := { floor := c.floor, powerUps := c.powerUps }

/-- In the dark every cluster is off, with its floor. -/
theorem World.dark_cluster (w : World) (i : Nat) : (w.dark.cluster i).power = .off ∧ (w.dark.cluster i).floor = (w.cluster i).floor := by
  have hsame : (((w.closeSessions (fun k => k.port != .side) none).portDown 0).portDown 1).clusters = w.clusters := World.closeSessions_clusters ..
  have hmap : w.dark.cluster i = (w.cluster i).darkened :=
    (Tab.get_map Cluster.darkened {} (((w.closeSessions (fun k => k.port != .side) none).portDown 0).portDown 1).clusters i).trans
      (congrArg (fun t => (Tab.get {} t i).darkened) hsame)
  rw [hmap]
  exact ⟨rfl, rfl⟩

/-- Main power off (R448, R457): no context is left, and what the settings of the clusters are stays. -/
theorem State.railsOff_off (s : State) :
    s.railsOff.ctl.mainPower = 0 ∧ s.railsOff.ctl.railGroups = 0 ∧ s.railsOff.ctl.pgMain = false ∧ s.railsOff.res = [] ∧
      (s.ctl.part = .safe → s.railsOff.ctl.part = .safe ∧ s.railsOff.ctl.safeOff = s.ctl.safeOff) ∧
      ∀ i, (s.railsOff.w.cluster i).power = .off ∧ (s.railsOff.w.cluster i).floor = (s.w.cluster i).floor := by
  have hlog := s.logOwed_only
  obtain ⟨w, hw, hall⟩ := s.logOwed.destroyAll_frame
  have hpart : s.logOwed.ctl.part = s.ctl.part := congrArg Ctl.part hlog.ctl
  have hsafeOff : s.logOwed.ctl.safeOff = s.ctl.safeOff := congrArg Ctl.safeOff hlog.ctl
  have hclusters : s.logOwed.w.clusters = s.w.clusters := by rw [hlog.world]
  have hdark : ∀ i, ((((w.endLease 5).allOff.setDuty 0 8 4).setDuty 1 8 4).dark.cluster i).power = .off ∧
      ((((w.endLease 5).allOff.setDuty 0 8 4).setDuty 1 8 4).dark.cluster i).floor = (s.w.cluster i).floor := by
    intro i
    obtain ⟨hoff, hfloor⟩ := World.dark_cluster ((((w.endLease 5).allOff.setDuty 0 8 4)).setDuty 1 8 4) i
    exact ⟨hoff, hfloor.trans ((World.quieted_floor w i).trans (congrArg (fun t => (Tab.get {} t i : Cluster).floor) (hw.trans hclusters)))⟩
  unfold State.railsOff
  simp only [hall, State.withW_frame]
  generalize (((w.endLease 5).allOff.setDuty 0 8 4).setDuty 1 8 4).dark = x at hdark ⊢
  split
  · next hsafe =>
    have hs : s.ctl.part = .safe := hpart ▸ hsafe
    exact ⟨rfl, rfl, rfl, rfl, fun _ => ⟨hsafe, hsafeOff⟩, hdark⟩
  · next hsafe =>
    refine ⟨by rw [State.partTo_ctl], by rw [State.partTo_ctl], by rw [State.partTo_ctl], State.partTo_res .., fun hs => absurd (hpart.trans hs) hsafe, fun i => ?_⟩
    rw [(State.partTo_side ..).cluster]
    exact hdark i

/-- Settles O21. -/
theorem powerWritesComplete : Obligations.PowerWritesComplete := by
  unfold Obligations.PowerWritesComplete
  intro s s1 h k v
  refine ⟨fun c hw hlen hlow => ?_, fun c hw hv hfree => ?_, fun hw hlen hall hidle => ?_, fun hw hon => ?_, fun hw hoff => ?_,
    fun hw hoff hgo => ?_, fun hw hoff hstay => ?_, fun hw hon => ?_⟩
  · have hexec : exec (.clusterFloorWrite h c v) s = .next ((clusterFloorFx s1 c v).finish h) := State.writeRequest_of_writes hw _
    have hcore : ∀ u : World, World.Only World.putDies (s1.w.setCluster c { s1.w.cluster c with floor := leNat v }) u →
        ((s1.withW u).replied h stOk).w.cluster c = { s1.w.cluster c with floor := leNat v } ∧
        (s1.withW u).replied h stOk = ({ s1 with w := { s1.w with
          clusters := ((s1.withW u).replied h stOk).w.clusters, dies := ((s1.withW u).replied h stOk).w.dies } } : State).replied h stOk := by
      rintro u ⟨dies, rfl⟩
      have hclusters : ∀ u : World, (State.replied (s1.withW u) h stOk).w.clusters = u.clusters := by simp
      have hdies : ∀ u : World, (State.replied (s1.withW u) h stOk).w.dies = u.dies := by simp
      rw [hclusters, hdies]
      exact ⟨by simp [World.cluster, World.setCluster], rfl⟩
    rw [hexec, clusterFloorFx_low hlen hlow, Fx.finish_world]
    split
    · next hdeep =>
      obtain ⟨hat, heq⟩ := hcore _ ⟨_, World.wake_only ..⟩
      refine ⟨_, rfl, by rw [hat], by rw [hat], heq, fun _ => ?_⟩
      exact congrArg State.w (State.replied_frame ..)
    · next hdeep =>
      obtain ⟨hat, heq⟩ := hcore (s1.w.setCluster c { s1.w.cluster c with floor := leNat v }) ⟨s1.w.dies, rfl⟩
      exact ⟨_, rfl, by rw [hat], by rw [hat], heq, fun h => absurd h hdeep⟩
  · have hexec : exec (.clusterFloorWrite h c v) s = .next ((clusterFloorFx s1 c v).finish h) := State.writeRequest_of_writes hw _
    intro x
    rw [hexec, hv, clusterFloorFx_off hfree, Fx.finish_world]
    generalize hu : World.setCluster _ _ _ = u
    have hcluster : ((s1.withW u).replied h stOk).w.cluster c = ({ s1.w.cluster c with floor := 3 } : Cluster).toFloor := by
      simp [← hu]
    have hdie : ((s1.withW u).replied h stOk).w.die (dieOfCluster c) = { s1.w.die (dieOfCluster c) with
        powerQ := (s1.w.die (dieOfCluster c)).powerQ.filter (· != c), restartQ := (s1.w.die (dieOfCluster c)).restartQ.filter (· != c) } := by
      simp only [State.replied_at, ← hu]
      exact World.die_setDie ..
    have hclusters : ((s1.withW u).replied h stOk).w.clusters = u.clusters := by simp
    have hdies : ((s1.withW u).replied h stOk).w.dies = u.dies := by simp
    refine ⟨_, rfl, ?_, ?_, ?_, fun hon hwake hent => ?_, fun hno => ?_, ?_⟩
    · rw [hcluster, Cluster.toFloor_power]
    · rw [hdie]
      simp
    · rw [hdie]
      simp
    · rw [hcluster, Cluster.toFloor, if_pos ⟨rfl, hon, hwake, hent⟩]
    · rw [hcluster, Cluster.toFloor, if_neg fun ⟨_, hoff, hwaking, hentering⟩ => hno.elim hoff fun h => h.elim hwaking fun h => h hentering]
    · rw [hclusters, hdies, ← hu]
      rfl
  · have hexec : exec (.railMarginWrite h v) s = .next ((railMarginFx s1 v).finish h) := State.writeRequest_of_writes hw _
    have hgood : ¬ (v.length ≠ 16 ∨ (v.all fun b => decide (-10 ≤ b.toInt) && decide (b.toInt ≤ 10)) = false) := by
      have h10 : (v.all fun b => decide (-10 ≤ b.toInt) && decide (b.toInt ≤ 10)) = true := by simpa using hall
      simp [hlen, h10]
    rw [hexec, railMarginFx, if_neg hgood, if_neg (by simpa using hidle)]
    rfl
  · have hexec : exec (.mainPowerOff h) s = .next ((mainOffFx s1).finish h) := State.writeRequest_of_writes hw _
    rw [hexec, mainOffFx]
    dsimp only
    rw [if_neg hon, Fx.finish_answered]
    obtain ⟨hmain, hgroups, hpg, hres, hsafe, hclusters⟩ :=
      State.railsOff_off { s1 with ctl := { s1.ctl with safeOff := s1.ctl.safeOff || s1.ctl.part == .safe } }
    refine ⟨_, rfl, ?_⟩
    simp only [State.replied_fields, State.replied_at]
    exact ⟨hmain, hgroups, hpg, hres, fun hs => ⟨(hsafe hs).1, (hsafe hs).2.trans (by simp [hs])⟩, fun i _ => hclusters i⟩
  · have hexec : exec (.mainPowerOff h) s = .next ((mainOffFx s1).finish h) := State.writeRequest_of_writes hw _
    rw [hexec, mainOffFx]
    dsimp only
    rw [if_pos hoff]
    rfl
  · have hexec : exec (.mainPowerOn h) s = .next ((mainOnFx s1).finish h) := State.writeRequest_of_writes hw _
    rw [hexec, mainOnFx, if_neg hoff]
    dsimp only
    have hon : ∀ t : State, t.ctl.mainPower = 1 → ∃ u, Host.Outcome.next (Fx.finish { s := t.startRails } h) = (.next u : Out) ∧
        u.ctl.mainPower = 1 ∧ u.ctl.step = 3 ∧ u.ctl.railGroups = 1 ∧ u.ctl.part = .bringup := by
      intro t ht
      refine ⟨_, rfl, ?_⟩
      rw [Fx.finish_answered, State.startRails]
      simp [ht]
    obtain ⟨hpart, hstep⟩ | ⟨hpart, hsafe⟩ := hgo
    · rw [if_neg fun hn => hpart hn.1, if_pos (.inr hstep)]
      exact hon _ rfl
    · rw [if_neg fun hn => by simp [hsafe] at hn, if_pos (.inl hpart)]
      exact hon _ rfl
  · have hexec : exec (.mainPowerOn h) s = .next ((mainOnFx s1).finish h) := State.writeRequest_of_writes hw _
    rw [hexec, mainOnFx, if_neg hoff]
    dsimp only
    obtain ⟨hpart, hstep⟩ | ⟨hpart, hsafe⟩ := hstay
    · rw [if_neg fun hn => hpart hn.1, if_neg fun hn => hn.elim hpart (Nat.not_le.2 hstep)]
      rfl
    · rw [if_pos ⟨hpart, hsafe⟩]
      rfl
  · have hexec : exec (.mainPowerOn h) s = .next ((mainOnFx s1).finish h) := State.writeRequest_of_writes hw _
    rw [hexec, mainOnFx, if_pos hon]
    rfl

end Sys2Proof.Machine

/-! PROOFS. Writes of security and reliability objects, and what the security service does of itself. -/
namespace Sys2Proof.Machine

/-! ## What was sent stays sent (R372, R465) -/

/-- What waits to go out in one world waits in the other too. -/
structure World.StillSends (w u : World) : Prop where
  sent : ∀ m ∈ w.outbox, m.lossless = none → m ∈ u.outbox

theorem World.StillSends.refl (w : World) : w.StillSends w := ⟨fun _ hm _ => hm⟩

theorem World.StillSends.trans {w u x : World} (a : w.StillSends u) (b : u.StillSends x) : w.StillSends x :=
  ⟨fun m hm hl => b.sent m (a.sent m hm hl) hl⟩

theorem World.StillSends.of_append {w u : World} {l : List OutMsg} (h : u.outbox = w.outbox ++ l) : w.StillSends u :=
  ⟨fun _ hm _ => h ▸ List.mem_append_left l hm⟩

theorem World.event_sends (w : World) (code idx sub die : Nat) (ctx : Option Nat) (st : Nat) (p : List Byte) :
    w.StillSends (w.event code idx sub die ctx st p) := .of_append rfl

theorem World.endLease_sends (w : World) (reason : Nat) : w.StillSends (w.endLease reason) := by
  unfold World.endLease
  dsimp only
  split
  · exact .refl _
  · exact .of_append rfl

theorem World.closeSession_sends (w : World) (sid : Nat) (notice : Option Nat) : w.StillSends (w.closeSession sid notice) := by
  unfold World.closeSession
  split
  · exact .refl _
  dsimp only
  split
  · exact .trans (.of_append rfl) (World.endLease_sends ..)
  · exact .of_append rfl

theorem World.closeSessions_sends (w : World) (p : Session → Bool) (notice : Option Nat) : w.StillSends (w.closeSessions p notice) := by
  unfold World.closeSessions
  generalize w.koc.sessions.filter p = l
  induction l generalizing w with
  | nil => exact .refl _
  | cons k l ih => exact (World.closeSession_sends ..).trans (ih _)

/-- A port that goes down loses only what waits on it in a lossless class. -/
theorem World.portDown_sends (w : World) (p : Nat) : w.StillSends (w.portDown p) := by
  refine ⟨fun m hm hl => ?_⟩
  obtain ⟨i, hi, hget⟩ := List.getElem_of_mem hm
  refine List.mem_map.2 ⟨(m, i), List.mem_filter.2 ⟨?_, ?_⟩, rfl⟩
  · rw [List.mem_zipIdx_iff_getElem?]
    simp [hi, hget]
  · simp [hl]

theorem State.partTo_sends (s : State) (p : PartSt) : s.w.StillSends (s.partTo p).w := by
  unfold State.partTo
  split
  · exact .refl _
  · exact World.event_sends ..

/-- A reset keeps what was sent, but for what a host port holds back. -/
theorem State.restart_sends (s : State) (straps : BitVec 4) (resets : Nat) : s.w.StillSends (s.restart straps resets).w := by
  have hlog : s.w.StillSends s.logOwed.w := by
    rw [s.logOwed_only.world]
    exact .of_append (List.append_nil _).symm
  have hpart := (World.endLease_sends s.logOwed.w 4).trans
    (State.partTo_sends { s.logOwed with ctl := { s.logOwed.ctl with endStatus := stOk }, w := s.logOwed.w.endLease 4 } .bringup)
  have hdown : ∀ w : World, w.StillSends (((w.closeSessions (fun _ => true) (some stState)).portDown 0).portDown 1) := fun w =>
    ((World.closeSessions_sends w (fun _ => true) (some stState)).trans (World.portDown_sends _ 0)).trans (World.portDown_sends _ 1)
  exact hlog.trans (hpart.trans ⟨(hdown _).sent⟩)

theorem State.lifeChange_sends (s : State) (l : LifeSt) : s.destroyAll.w.StillSends (s.lifeChange l).w := by
  have hclears : ∀ t : State, (t.lifeClears l).w = t.w := by
    intro t
    cases l <;> rfl
  have hend : s.destroyAll.w.StillSends ((s.destroyAll.withW (s.destroyAll.w.endLease 5)).lifeClears l).w := by
    rw [hclears]
    exact World.endLease_sends ..
  have hevent := World.event_sends ((s.destroyAll.withW (s.destroyAll.w.endLease 5)).lifeClears l).w 0x0A02 0x0100 2 dieNone none stOk (leBytes 1 (lifeCode l))
  exact hend.trans (hevent.trans (State.restart_sends (((s.destroyAll.withW (s.destroyAll.w.endLease 5)).lifeClears l).withW _) ..))

theorem World.cancelSnap_sends (w : World) (n : Nat) : w.StillSends (w.cancelSnap n) := by
  unfold World.cancelSnap
  split
  · exact .of_append rfl
  · exact .refl _

theorem State.destroyAll_sends (s : State) : s.w.StillSends s.destroyAll.w := by
  have hfold : ∀ (l : List Nat) (s : State), s.w.StillSends (l.foldl (fun s n =>
      if (s.ent n).st = .absent then s else ((s.withW (s.w.cancelSnap n)).setEnt n {}).ctxTo n .absent .stay) s).w := by
    intro l
    induction l with
    | nil => exact fun s => .refl _
    | cons n l ih =>
      intro s
      rw [List.foldl_cons]
      refine .trans ?_ (ih _)
      split
      · exact .refl _
      · exact ⟨((World.cancelSnap_sends s.w n).trans (World.event_sends ..)).sent⟩
  exact hfold _ s

/-- The session of a frame is one of the side-band port exactly where the frame comes over it. -/
theorem State.kocFrame_port {s t : State} {h : KocHdr} {type : Nat} {payload : List Byte} {k : Session}
    (hf : s.kocFrame h type payload = .ok (t, k)) : k.port = .side ↔ h.port = .side := by
  unfold State.kocFrame at hf
  split at hf
  · cases hf
  next s0 _ =>
  split at hf
  · cases hf
  next x hx =>
  split at hf
  · cases hf
  split at hf
  · cases hf
  · obtain ⟨-, rfl⟩ := Prod.mk.inj (Except.ok.inj hf)
    have hfound := List.find?_some hx
    rw [Bool.and_eq_true, beq_iff_eq, beq_iff_eq] at hfound
    exact ⟨fun hk => by simpa [show x.port = .side from hk] using hfound.2.symm, fun hk => by simpa [hk, Session.heard] using hfound.2⟩

/-- An admitted WRITE of a class S object comes over the side-band port (R405, R414). -/
theorem State.Writes.side {s s1 : State} {h : KocHdr} {idx sub : Nat} {v : List Byte} {k : Session} {d : ObjDef}
    (hw : s.Writes h idx sub v s1 k) (hd : objAt idx sub = some d) (hcls : d.cls = .mgmt) : h.port = .side := by
  obtain ⟨⟨s0, k0, hf, -, -, -, -, -, rfl⟩, hr, -⟩ := hw
  have hport : k0.port = .side := by
    refine Decidable.byContradiction fun hne => ?_
    simp only [State.rights, hd] at hr
    have hperm := firstRefusal_none_of_mem hr _ (.tail _ (.tail _ (.head _)))
    simp [hcls, hne] at hperm
  exact (State.kocFrame_port hf).1 hport

/-! ## Security (R460, R463–R467, R469, R472, R473) -/

@[simp] theorem World.resolve_waiters (w : World) (what : WaitFor) (st : Nat) (value : List Byte) :
    (w.resolve what st value).waiters = w.waiters.filter fun x => x.what != what := by
  have hfold : ∀ (l : List Waiter) (u : World),
      (l.foldl (fun w x => w.reply x.port x.src x.sid { rid := x.rid, status := st, value }) u).waiters = u.waiters := by
    intro l
    induction l with
    | nil => exact fun u => rfl
    | cons x l ih => intro u; rw [List.foldl_cons, ih, World.reply_frame]
  exact hfold _ _

/-- A signature takes the next index, whose block is fused before, and is warned of once (R467). -/
theorem State.sign_warned (s : State) (msg : List Byte) :
    let t := (s.sign msg).1
    t.otp = { s.otp with blocks := max s.otp.blocks (s.ctl.sec.nextSig / 256 + 1) } ∧
      t.ctl = { s.ctl with sec := { s.ctl.sec with nextSig := s.ctl.sec.nextSig + 1 } } ∧
      t.flash = { s.flash with mirror := some s.ctl.sec.nextSig, sigWarned := t.flash.sigWarned } ∧
      (s.ctl.sec.nextSig + 1 + 65536 ≠ sigTotal → t.flash.sigWarned = s.flash.sigWarned) ∧
      (s.ctl.sec.nextSig + 1 + 65536 = sigTotal → t.flash.sigWarned = true) ∧ t.res = s.res := by
  dsimp only [State.sign]
  by_cases hend : s.ctl.sec.nextSig + 1 + 65536 = sigTotal
  · rw [if_pos (by omega)]
    unfold State.warnSigs
    dsimp only
    split
    · next hwarned => exact ⟨rfl, rfl, rfl, fun hne => absurd hend hne, fun _ => hwarned, rfl⟩
    · exact ⟨rfl, rfl, rfl, fun hne => absurd hend hne, fun _ => rfl, rfl⟩
  · rw [if_neg (by omega)]
    exact ⟨rfl, rfl, rfl, fun _ => rfl, fun he => absurd he hend, rfl⟩

theorem objAt_lifecycle : ∃ d, objAt 0x1800 1 = some d ∧ d.cls = .mgmt := by
  exact ⟨_, rfl, rfl⟩

theorem State.restart_resets (s : State) (straps : BitVec 4) (resets : Nat) :
    (s.restart straps resets).ctl.step = 1 ∧ (s.restart straps resets).ctl.part = .bringup ∧ (s.restart straps resets).res = [] :=
  ⟨rfl, rfl, rfl⟩

theorem State.lifeChange_resets (s : State) (l : LifeSt) :
    (s.lifeChange l).ctl.step = 1 ∧ (s.lifeChange l).ctl.part = .bringup ∧ (s.lifeChange l).res = [] := by
  rw [State.lifeChange]
  exact State.restart_resets ..

@[simp] theorem State.lifeChange_life (s : State) (l : LifeSt) : (s.lifeChange l).otp.life = l := by
  have hclears : ∀ t : State, (t.lifeClears l).otp.life = l := by
    intro t
    cases l <;> rfl
  rw [State.lifeChange, State.restart_otp]
  exact hclears _

/-- The answer to a request of an open session goes out. -/
theorem State.mem_replied_outbox {s : State} {h : KocHdr} {x : Session} (hx : s.w.session h.sid = some x) (st : Nat) (v : List Byte) :
    x.frame h.port h.src (x.tx + 1) h.rid (.reply st v) ∈ (s.replied h st v).w.outbox := by
  have hsend := World.send_of_session hx h.port h.src [(h.rid, .reply st v)]
  have hout : (s.replied h st v).w.outbox = (s.w.send h.port h.src h.sid [(h.rid, .reply st v)]).outbox := rfl
  rw [hout, hsend]
  simp [Session.frames]

/-- Settles O22. -/
theorem securityCommandsComplete : Obligations.SecurityCommandsComplete := by
  unfold Obligations.SecurityCommandsComplete
  refine ⟨fun s s1 h k v => ⟨fun hst => ?_, fun hst hlen hfew hnew hret hscr => ?_, fun hst hhdr hfloor => ?_, fun hw hlen hsign href => ?_,
    fun l hw hl hok => ?_⟩, fun s => ⟨fun hpg => ?_, fun nonce hsign => ?_⟩⟩
  · have hexec : exec (.licenceInstall h v) s = .next ((licenceFx s1 v).finish h) := State.domainRequest_of_stages hst fun s _ => licenceFx s v
    rw [hexec, licenceFx]
    split <;> rfl
  · have hexec : exec (.topologyKeyAdd h v) s = .next ((topologyKeyFx s1 v).finish h) := State.domainRequest_of_stages hst fun s _ => topologyKeyFx s v
    rw [hexec, topologyKeyFx]
    dsimp only
    rw [if_neg (by simp [hlen, Nat.not_le.2 hfew, hnew, hret, hscr])]
    rfl
  · have hexec : exec (.firmwareImageWrite h v) s = .next ((firmwareFx s1 v).finish h) := State.domainRequest_of_stages hst fun s _ => firmwareFx s v
    rw [hexec, firmwareFx]
    by_cases hsigned : s1.fwSigned v = true
    · simp only [hhdr, hsigned, Nat.not_lt.2 hfloor, firstRefusal_cons, firstRefusal_nil, Bool.not_true, decide_false, Bool.false_eq_true, if_false, if_true]
      rfl
    · rw [Bool.not_eq_true] at hsigned
      simp only [hhdr, hsigned, firstRefusal_cons, Bool.not_true, Bool.not_false, Bool.false_eq_true, if_false, if_true]
      rfl
  · have hexec : exec (.quoteRequest h v) s = .next ((quoteFx s1 v).finish h) := State.writeRequest_of_writes hw _
    rw [hexec, quoteFx, if_neg (Classical.not_not.2 hlen), if_neg (by simp [hsign]), href]
    rfl
  · have hexec : exec (.lifecycleTransition h v) s = .next ((lifecycleFx s1 k v).finish h) := State.writeRequest_of_writes hw _
    rw [hexec, lifecycleFx, hl]
    dsimp only
    rw [if_pos hok, Fx.finish_post]
    obtain ⟨hstep, hpart, hres⟩ := State.lifeChange_resets (s1.replied h stOk) l
    refine ⟨_, rfl, State.lifeChange_life .., hstep, hpart, hres, fun x hx => ?_⟩
    have hside : h.port = .side := by
      obtain ⟨d, hd, hcls⟩ := objAt_lifecycle
      exact hw.side hd hcls
    have hkept := (State.destroyAll_sends (s1.replied h stOk)).trans (State.lifeChange_sends (s1.replied h stOk) l)
    exact hkept.sent _ (State.mem_replied_outbox hx ..) (by rw [hside]; rfl)
  · change execAttestationTokenRefill s = _
    rw [execAttestationTokenRefill, if_pos hpg]
  · obtain ⟨hotp, hctl, hflash, hsame, hwarned, hres⟩ := s.sign_warned (s.quoteBody nonce)
    have hexec : exec .quoteSigned s = execQuoteSigned s := rfl
    have hsig : (s.sign (s.quoteBody nonce)).2.2 =
        Config.xmssSign (if s.otp.scrap then [] else s.otp.seed.getD []) s.ctl.sec.nextSig (s.quoteBody nonce) := rfl
    rw [hexec, execQuoteSigned, hsign]
    dsimp only at hotp hctl hflash hsame hwarned hres ⊢
    rw [hsig]
    generalize (s.sign (s.quoteBody nonce)).1 = u at hotp hctl hflash hsame hwarned hres ⊢
    refine ⟨_, rfl, rfl, congrArg (fun c : Ctl => c.sec.nextSig) hctl, rfl, hotp, hflash, hsame, hwarned, hres, fun x hx => ?_⟩
    have hw : x ∈ (u.w.resolve .quote stOk []).waiters := hx
    rw [World.resolve_waiters] at hw
    simpa using (List.mem_filter.1 hw).2

/-! ## Reliability (R483, R489, R494, R497, R505) -/

theorem World.ckptSend_side (w : World) (rank i op : Nat) (k : CkptHdr) (data : List Byte) : w.Side (w.ckptSend rank i op k data) := by
  unfold World.ckptSend
  dsimp only
  split
  · exact World.sendLink_side ..
  · exact .refl w

/-- Settles O24. -/
theorem reliabilityWritesComplete : Obligations.ReliabilityWritesComplete := by
  unfold Obligations.ReliabilityWritesComplete
  intro s s1 h k v
  refine ⟨fun r rest hw hlen hq hseq => ?_, fun hw hv => ?_, fun hw hlen href => ?_, fun hw hlen hpeer hidle => ?_, fun hw hlen hpeer hin => ?_,
    fun n hw hst hlen hres hfree hway hnone hlinks hlost hz => ?_⟩
  · have hexec : exec (.errorRecordAck h v) s = .next ((errorAckFx s1 v).finish h) := State.writeRequest_of_writes hw _
    rw [hexec, errorAckFx, hq, uintOf_of_length hlen]
    dsimp only
    rw [if_pos hseq]
    rfl
  · have hexec : exec (.errorLogClear h v) s = .next ((logClearFx s1 v).finish h) := State.writeRequest_of_writes hw _
    rw [hexec, logClearFx, if_pos (by rw [hv]; exact uintOf_one)]
    rfl
  · have hexec : exec (.scanRequest h v) s = .next ((scanFx s1 v).finish h) := State.writeRequest_of_writes hw _
    rw [hexec, scanFx]
    dsimp only
    rw [if_neg (Classical.not_not.2 hlen), href]
    rfl
  · have hexec : exec (.buddySet h v) s = .next ((buddyFx s1 v).finish h) := State.writeRequest_of_writes hw _
    have hbusy : ¬ (s1.w.ctxs.any fun e => e.2.ck.busy) = true := by simpa using hidle
    rw [hexec, buddyFx, uintOf_of_length hlen]
    dsimp only
    rw [if_neg (by simp [hpeer]), if_neg hbusy, Fx.finish_world]
    generalize hc : (if leNat v = s1.w.buddy.buddy then s1.w.ctxs else _) = ctxs
    have hbuddy : ∀ u : World, ((s1.withW u).replied h stOk).w.buddy = u.buddy := by simp
    have hctxs : ∀ u : World, ((s1.withW u).replied h stOk).w.ctxs = u.ctxs := by simp
    refine ⟨_, rfl, hbuddy _, fun hne e he => ?_, ?_⟩
    · rw [hctxs, ← hc, if_neg hne] at he
      obtain ⟨x, -, rfl⟩ := List.mem_map.1 he
      rfl
    · rw [hbuddy, hctxs]
      rfl
  · have hexec : exec (.wardSet h v) s = .next ((wardFx s1 v).finish h) := State.writeRequest_of_writes hw _
    rw [hexec, wardFx, uintOf_of_length hlen]
    dsimp only
    rw [if_neg (by simp [hpeer]), if_neg (by simp [hin])]
    rfl
  · have hexec : exec (.checkpointRestoreRequest h n v) s = .next ((restoreRequestFx s1 n v).finish h) := State.writeRequest_of_writes hw _
    simp only [Restore.busy, Bool.or_eq_false_iff, beq_eq_false_iff_ne] at hfree
    have hlive : ¬ ((s1.ent n).st = .absent ∨ v.length ≠ 16) := by simp [hst, hlen]
    have hidle : ¬ ((s1.ent n).st ≠ .saved ∨ s1.resuming n = true ∨ (s1.w.ctx n).rst.st = .checking ∨ (s1.w.ctx n).rst.st = .transferring
        ∨ (s1.inWay n).isEmpty = false) := by
      simp [hst, hres, hfree, hway]
    have hholder : ¬ (le v 0 2 = 0xFFFF ∨ (s1.w.directLinks (le v 0 2)).isEmpty = true ∨ allZero (sl v 8 8) = false) := by
      simp [hnone, hlinks, hz]
    rw [hexec, restoreRequestFx]
    dsimp only
    rw [if_neg hlive, if_neg hidle, if_neg hholder]
    split
    · next hl => exact absurd hl hlost
    · refine ⟨_, rfl, ?_, ?_⟩
      · rw [Fx.finish_world]
        simp only [State.replied_at, State.withW_frame]
        rw [(World.ckptSend_side ..).ctx, World.ctx_setCtx]
      · simp

end Sys2Proof.Machine

/-! PROOFS. The sequencer: what the end of a scalar record leaves, and the flow records. -/
namespace Sys2Proof.Machine

/-! ## What a completion leaves (R83, R87, R89) -/

/-- Cores, channels, signals, snapshot and step numbers are as they were. -/
structure World.Quiet (w u : World) : Prop where
  cores : u.cores = w.cores
  dma : u.dma = w.dma
  signals : u.signals = w.signals
  snap : u.snap = w.snap
  step : ∀ n, (u.ctx n).step = (w.ctx n).step

namespace World.Quiet

theorem refl (w : World) : w.Quiet w := ⟨rfl, rfl, rfl, rfl, fun _ => rfl⟩

theorem trans {w u x : World} (a : w.Quiet u) (b : u.Quiet x) : w.Quiet x :=
  ⟨b.cores.trans a.cores, b.dma.trans a.dma, b.signals.trans a.signals, b.snap.trans a.snap, fun n => (b.step n).trans (a.step n)⟩

theorem core {w u : World} (h : w.Quiet u) (c : Nat) : u.core c = w.core c := by
  rw [World.core, h.cores, World.core]

end World.Quiet

theorem World.Side.quiet {w u : World} (h : w.Side u) : w.Quiet u := by
  obtain ⟨_, _, _, _, _, _, _, _, rfl⟩ := h
  exact ⟨rfl, rfl, rfl, rfl, fun _ => rfl⟩

theorem World.setCtx_quiet (w : World) (n : Nat) (x : Ctx) (h : x.step = (w.ctx n).step) : w.Quiet (w.setCtx n x) := by
  refine ⟨rfl, rfl, rfl, rfl, fun m => ?_⟩
  by_cases hm : m = n
  · rw [hm, World.ctx_setCtx, h]
  · rw [World.ctx_setCtx_ne _ _ hm]

/-- A cluster's caches as a walk leaves them, before the blocks that it read are accounted for. -/
def World.cached (w : World) (k : Nat) (x : Walker) : World :=
  { w.setCluster k { w.cluster k with tlb := x.tlb.take 2048, walks := x.walks.take 128 } with
    free := x.free, ctxCtr := { w.ctxCtr with tlbMisses := bump 64 w.ctxCtr.tlbMisses x.misses } }

theorem World.putWalker_side (w : World) (k n : Nat) (x : Walker) : (w.cached k x).Side (w.putWalker k n x) :=
  (World.meetBus_side (w.cached k x) (some n) x.blocks).trans (World.readBlocks_side ..)

theorem World.putWalker_quiet (w : World) (k n : Nat) (x : Walker) : w.Quiet (w.putWalker k n x) :=
  .trans (u := w.cached k x) ⟨rfl, rfl, rfl, rfl, fun _ => rfl⟩ (World.putWalker_side ..).quiet

theorem World.reportFault_quiet (w : World) (n va : Nat) (f : XFault) (q : XSource) : w.Quiet (w.reportFault n va f q) := by
  unfold World.reportFault
  dsimp only
  generalize faultBytes va f q (w.ctx n).step (add32 (w.ctx n).faults 1) = bs
  have hctx : w.Quiet { w.setCtx n { w.ctx n with faults := add32 (w.ctx n).faults 1, lastFault := bs } with
      ctxCtr := { w.ctxCtr with xlateFaults := bump 64 w.ctxCtr.xlateFaults 1 } } :=
    (World.setCtx_quiet w n { w.ctx n with faults := add32 (w.ctx n).faults 1, lastFault := bs } rfl).trans ⟨rfl, rfl, rfl, rfl, fun _ => rfl⟩
  exact hctx.trans (World.Side.quiet (.trans (.ite (World.raise_side ..) (.refl _)) (World.event_side ..)))

theorem World.loseEntry_quiet (w : World) (n : Nat) : w.Quiet (w.loseEntry n) :=
  (World.setCtx_quiet w n { w.ctx n with lost := add32 (w.ctx n).lost 1 } rfl).trans (World.event_side ..).quiet

theorem World.ringWrite_quiet (w : World) (e : Env) (va : Nat) (bs : List Byte) :
    (∀ u, (w.ringWrite e va bs).1 = some u → w.Quiet u) ∧ w.Quiet (w.ringWrite e va bs).2 := by
  have hw := World.putWalker_quiet w (e.c / 16) e.n ((w.walker (e.c / 16)).xlate w.hbm.mem e.r.root e.n va true).2
  unfold World.ringWrite
  dsimp only
  split
  · split
    · exact ⟨fun u hu => (nomatch hu), hw.trans (World.meetBus_side ..).quiet⟩
    · refine ⟨fun u hu => ?_, hw⟩
      obtain rfl := Option.some.inj hu
      exact hw.trans (World.writeHbm_side ..).quiet
  · exact ⟨fun u hu => (nomatch hu), hw.trans (World.reportFault_quiet ..)⟩

theorem World.complete_quiet (w : World) (e : Env) (bs : List Byte) : w.Quiet (w.complete e bs) := by
  unfold World.complete
  dsimp only
  split
  · exact World.loseEntry_quiet ..
  have hring := World.ringWrite_quiet w e (e.r.comp + 16 * ((w.ctx e.n).prod % 2 ^ e.r.clog)) bs
  split
  · next u hu => exact (show w.Quiet u by rw [hu] at hring; exact hring.2).trans (World.loseEntry_quiet ..)
  · next u v hu =>
    have hq : w.Quiet (u.setCtx e.n { u.ctx e.n with prod := add32 (u.ctx e.n).prod 1 }) := (hring.1 u (by rw [hu])).trans (World.setCtx_quiet _ _ { u.ctx e.n with prod := add32 (u.ctx e.n).prod 1 } rfl)
    have hidx := World.ringWrite_quiet (u.setCtx e.n { u.ctx e.n with prod := add32 (u.ctx e.n).prod 1 }) e e.r.compIdx
      (leBytes 4 (add32 (u.ctx e.n).prod 1))
    split
    · next x y hx => exact hq.trans (hidx.1 x (by rw [hx]))
    · next x hx => exact hq.trans (by rw [hx] at hidx; exact hidx.2)

theorem World.recordEvent_quiet (w : World) (e : Env) (r : Record) (st : Nat) : w.Quiet (w.recordEvent e r st) := (World.event_side ..).quiet

theorem signalOk_false {e : Env} {r : Record} (h : r.sigEn = false) : signalOk e r = false := by
  simp [signalOk, h]

/-- A record's signal, completion record and event (R83, R87, R89). -/
def World.reported (w : World) (e : Env) (r : Record) (st count flags : Nat) : World :=
  let w := w.raiseSignal e r
  let w := if r.cr || !continuing st then w.complete e (completionBytes r st flags e.c (w.ctx e.n).step count) else w
  if r.evt then w.recordEvent e r st else w

theorem World.completeRec_of_continuing {st : Nat} (h : continuing st = true) (w : World) (e : Env) (r : Record) (idx count flags : Nat) :
    w.completeRec e r idx st count flags = w.reported e r st count flags := by
  unfold World.completeRec
  dsimp only
  rw [if_neg (by simp [h])]
  rfl

/-- Where a record ends with a status that lets the core go on, its completion leaves the cores. -/
theorem World.completeRec_quiet {e : Env} {r : Record} {st : Nat} (h : continuing st = true) (w : World) (idx count flags : Nat) :
    (w.raiseSignal e r).Quiet (w.completeRec e r idx st count flags) ∧
      (r.cr = false → (w.completeRec e r idx st count flags).hbm = w.hbm) := by
  have hsame : (w.raiseSignal e r).hbm = w.hbm := by
    unfold World.raiseSignal
    split <;> rfl
  rw [World.completeRec_of_continuing h, World.reported, h, Bool.not_true, Bool.or_false]
  have hdone := World.complete_quiet (w.raiseSignal e r) e (completionBytes r st flags e.c ((w.raiseSignal e r).ctx e.n).step count)
  generalize World.complete (w.raiseSignal e r) e _ = x at hdone ⊢
  generalize w.raiseSignal e r = v at hsame hdone ⊢
  cases hcr : r.cr
  · rw [if_neg Bool.false_ne_true]
    split
    · exact ⟨World.recordEvent_quiet .., fun _ => hsame⟩
    · exact ⟨.refl _, fun _ => hsame⟩
  · rw [if_pos rfl]
    split
    · exact ⟨hdone.trans (World.recordEvent_quiet ..), nofun⟩
    · exact ⟨hdone, nofun⟩

/-- What settling leaves of a core: its registers, next index, counters, queues and memories. -/
structure Core.Settles (k x : Core) : Prop where
  regs : x.regs = k.regs
  next : x.nextIdx = k.nextIdx
  ctrs : x.ctrs = k.ctrs
  queue : ∀ q, x.queue q = k.queue q
  mem : ∀ m, x.mem m = k.mem m
  windows : x.windows = k.windows
  buf : x.buf = k.buf
  stepWait : x.stepWait = k.stepWait

theorem Core.Settles.refl (k : Core) : k.Settles k := ⟨rfl, rfl, rfl, fun _ => rfl, fun _ => rfl, rfl, rfl, rfl⟩

theorem Core.Settles.trans {k x y : Core} (a : k.Settles x) (b : x.Settles y) : k.Settles y :=
  ⟨b.regs.trans a.regs, b.next.trans a.next, b.ctrs.trans a.ctrs, fun q => (b.queue q).trans (a.queue q), fun m => (b.mem m).trans (a.mem m),
    b.windows.trans a.windows, b.buf.trans a.buf, b.stepWait.trans a.stepWait⟩

/-- Where a core dispatches nothing further, it comes to its end (R69, R88); nothing else moves. -/
theorem World.settle_settles (w : World) (c n : Nat) :
    ((w.core c).Settles ((w.settle c n).core c)) ∧ (∀ d, d ≠ c → (w.settle c n).core d = w.core d) ∧ (w.settle c n).dma = w.dma ∧
      (w.settle c n).hbm = w.hbm ∧ (w.settle c n).signals = w.signals ∧ (w.settle c n).ctxs = w.ctxs ∧ (w.settle c n).snap = w.snap := by
  unfold World.settle
  dsimp only
  split
  · exact ⟨.refl _, fun _ _ => rfl, rfl, rfl, rfl, rfl, rfl⟩
  split
  · refine ⟨?_, fun d hd => ?_, rfl, rfl, rfl, rfl, rfl⟩
    · rw [(World.event_side ..).core, World.core_setCore]
      exact ⟨rfl, rfl, rfl, fun q => by cases q <;> rfl, fun m => by cases m <;> rfl, rfl, rfl, rfl⟩
    · rw [(World.event_side ..).core, World.core_setCore_ne _ _ hd]
  split
  · refine ⟨?_, fun d hd => World.core_setCore_ne _ _ hd, rfl, rfl, rfl, rfl, rfl⟩
    rw [World.core_setCore]
    exact ⟨rfl, rfl, rfl, fun q => by cases q <;> rfl, fun m => by cases m <;> rfl, rfl, rfl, rfl⟩
  · exact ⟨.refl _, fun _ _ => rfl, rfl, rfl, rfl, rfl, rfl⟩

/-- What the end of a scalar record with a continuing status leaves: the next index, and of its core only what settling changes beside. -/
theorem World.endScalar_ends {st : Nat} (h : continuing st = true) (w : World) (e : Env) (idx : Nat) (r : Record) (next : Nat) :
    (((w.core e.c).advance idx next).Settles ((w.endScalar e idx r st next).core e.c)) ∧
      (∀ d, d ≠ e.c → (w.endScalar e idx r st next).core d = w.core d) ∧ (w.endScalar e idx r st next).dma = w.dma ∧
      (r.cr = false → (w.endScalar e idx r st next).hbm = w.hbm) ∧ (w.endScalar e idx r st next).signals = (w.raiseSignal e r).signals ∧
      (∀ n, ((w.endScalar e idx r st next).ctx n).step = (w.ctx n).step) ∧ (w.endScalar e idx r st next).snap = w.snap := by
  unfold World.endScalar
  have hraise : ∀ u : World, (u.raiseSignal e r).cores = u.cores ∧ (u.raiseSignal e r).dma = u.dma ∧ (∀ n, (u.raiseSignal e r).ctx n = u.ctx n) ∧
      (u.raiseSignal e r).snap = u.snap := by
    intro u
    unfold World.raiseSignal
    split <;> exact ⟨rfl, rfl, fun _ => rfl, rfl⟩
  generalize hu : w.setCore e.c ((w.core e.c).advance idx next) = u
  obtain ⟨hq, hhbm⟩ := World.completeRec_quiet h u idx 0 0 (e := e) (r := r)
  obtain ⟨hcores, hdma, hctx, hsnap⟩ := hraise u
  generalize u.completeRec e r idx st 0 0 = v at hq hhbm ⊢
  obtain ⟨hset, hothers, hdma', hhbm', hsig, hctxs, hsnap'⟩ := World.settle_settles v e.c e.n
  have hcore : ∀ d, v.core d = u.core d := fun d => by rw [World.core, hq.cores, hcores, World.core]
  refine ⟨?_, fun d hd => ?_, ?_, fun hcr => ?_, ?_, fun n => ?_, ?_⟩
  · rw [hcore, ← hu, World.core_setCore] at hset
    exact hset
  · rw [hothers d hd, hcore, ← hu, World.core_setCore_ne _ _ hd]
  · rw [hdma', hq.dma, hdma, ← hu]
    rfl
  · rw [hhbm', hhbm hcr, ← hu]
    rfl
  · rw [hsig, hq.signals, ← hu]
    unfold World.raiseSignal
    split <;> rfl
  · rw [World.ctx, hctxs]
    exact (hq.step n).trans (by rw [hctx, ← hu]; rfl)
  · rw [hsnap', hq.snap, hsnap, ← hu]
    rfl

theorem Core.advance_settles (k : Core) (idx next : Nat) :
    (k.advance idx next).nextIdx = next ∧ (k.advance idx next).regs = k.regs ∧ (k.advance idx next).ctrs = k.ctrs ∧
      (∀ q, (k.advance idx next).queue q = k.queue q) ∧ (∀ m, (k.advance idx next).mem m = k.mem m) :=
  ⟨rfl, rfl, rfl, fun q => by cases q <;> rfl, fun m => by cases m <;> rfl⟩

/-- A record whose row changes registers only, and no more than that, has run once it has ended. -/
theorem scalarRan_endScalar {s : State} {w : World} {e : Env} {r : Record} {regs : List Word} {st : Nat} (h : continuing st = true)
    (hcore : w.core e.c = { s.w.core e.c with regs }) (hothers : ∀ d, d ≠ e.c → w.core d = s.w.core d) (hdma : w.dma = s.w.dma)
    (hhbm : w.hbm = s.w.hbm) (idx next : Nat) : ScalarRan s (s.withW (w.endScalar e idx r st next)) e.c r regs next := by
  obtain ⟨hset, hrest, hd, hb, -, -, -⟩ := World.endScalar_ends h w e idx r next
  obtain ⟨hnext, hregs, hctrs, hqueue, hmem⟩ := Core.advance_settles (w.core e.c) idx next
  have hq : ∀ q, ((w.endScalar e idx r st next).core e.c).queue q = (s.w.core e.c).queue q := fun q => by
    rw [hset.queue, hqueue, hcore]
    cases q <;> rfl
  exact {
    outside := rfl
    regs := hset.regs.trans (by rw [hregs, hcore])
    next := hset.next.trans hnext
    ctrs := hset.ctrs.trans (by rw [hctrs, hcore])
    queues := ⟨hq .load, hq .matrix, hq .vector, hq .store⟩
    mems := fun m => (hset.mem m).trans (by rw [hmem, hcore]; cases m <;> rfl)
    others := fun d hne => (hrest d hne).trans (hothers d hne)
    chans := hd.trans hdma
    hbm := fun hcr => (hb hcr).trans hhbm }

/-! ## Flow records (R71) -/

theorem State.env_core {s : State} {c : Nat} {e : Env} (h : s.env c = some e) : e.c = c := by
  unfold State.env at h
  split at h
  · obtain ⟨n, -, rfl⟩ := Option.map_eq_some_iff.1 h
    rfl
  · cases h

theorem State.env_of_dispatching {s : State} {c : Nat} {e : Env} (h : s.dispatching c = some e) : s.env c = some e := by
  unfold State.dispatching at h
  split at h
  · cases h
  · next x hx =>
    dsimp only at h
    split at h
    · exact hx.trans h
    · cases h

/-- What the record at the head of a core's fetch buffer is. -/
theorem State.head_of_scalarHead {s : State} {c : Nat} {row : Record → Bool} {e : Env} {idx : Nat} {r : Record}
    (h : s.scalarHead c row = some (e, idx, r)) :
    s.dispatching c = some e ∧ (∃ rest, (s.w.core c).buf = (idx, r) :: rest) ∧ row r = true ∧ e.c = c := by
  unfold State.scalarHead at h
  split at h
  · next e' idx' r' rest hd hbuf =>
    split at h
    · next hrow =>
      obtain ⟨rfl, rfl, rfl⟩ : e' = e ∧ idx' = idx ∧ r' = r := by simpa using h
      simp only [Bool.and_eq_true] at hrow
      exact ⟨hd, ⟨rest, hbuf⟩, hrow.1.1, State.env_core (State.env_of_dispatching hd)⟩
    · cases h
  · cases h

/-- A scalar record that nothing refuses runs and completes. -/
theorem State.scalar_runs {s : State} {c : Nat} {row : Record → Bool} {e : Env} {idx : Nat} {r : Record}
    (h : s.scalarHead c row = some (e, idx, r)) (hok : scalarBad e r = false) (f : World → Env → Nat → Record → Scalar) :
    s.scalar c row f = .next (s.withW ((f s.w e idx r).w.endScalar e idx r (f s.w e idx r).st (f s.w e idx r).next)) := by
  simp only [State.scalar, h, hok, Bool.false_eq_true, if_false]

/-- A scalar record that changes nothing but registers. -/
theorem State.scalar_ran {s : State} {c : Nat} {row : Record → Bool} {e : Env} {idx : Nat} {r : Record}
    (h : s.scalarHead c row = some (e, idx, r)) (hok : scalarBad e r = false) {f : World → Env → Nat → Record → Scalar} {regs : List Word} {next : Nat}
    (hf : f s.w e idx r = { w := s.w.setCore e.c { s.w.core e.c with regs }, next }) :
    ∃ t, s.scalar c row f = .next t ∧ ScalarRan s t c r regs next := by
  obtain ⟨-, -, -, hc⟩ := State.head_of_scalarHead h
  refine ⟨_, State.scalar_runs h hok f, ?_⟩
  rw [hf]
  exact hc ▸ scalarRan_endScalar rfl (World.core_setCore ..) (fun d hd => World.core_setCore_ne _ _ hd) rfl rfl ..

/-- A scalar record that changes nothing. -/
theorem State.scalar_passes {s : State} {c : Nat} {row : Record → Bool} {e : Env} {idx : Nat} {r : Record}
    (h : s.scalarHead c row = some (e, idx, r)) (hok : scalarBad e r = false) {f : World → Env → Nat → Record → Scalar} {next : Nat}
    (hf : f s.w e idx r = { w := s.w, next }) :
    ∃ t, s.scalar c row f = .next t ∧ ScalarRan s t c r (s.w.core c).regs next := by
  obtain ⟨-, -, -, hc⟩ := State.head_of_scalarHead h
  refine ⟨_, State.scalar_runs h hok f, ?_⟩
  rw [hf]
  exact hc ▸ scalarRan_endScalar rfl rfl (fun d _ => rfl) rfl rfl ..

theorem condHolds_iff (code : Nat) (a : Word) (h : code ≤ 4) :
    condHolds code a = true ↔ code = 0 ∨ (code = 1 ∧ a.toInt = 0) ∨ (code = 2 ∧ a.toInt ≠ 0) ∨ (code = 3 ∧ a.toInt < 0) ∨ (code = 4 ∧ 0 ≤ a.toInt) := by
  have hzero : a = 0 ↔ a.toInt = 0 := ⟨fun h => by rw [h]; rfl, fun h => BitVec.eq_of_toInt_eq (by rw [h]; rfl)⟩
  have hneg : a.slt 0 = true ↔ a.toInt < 0 := by simp [BitVec.slt]
  obtain rfl | rfl | rfl | rfl | rfl : code = 0 ∨ code = 1 ∨ code = 2 ∨ code = 3 ∨ code = 4 := by omega
  · simp [condHolds]
  · simpa [condHolds] using hzero
  · simpa [condHolds] using not_congr hzero
  · simpa [condHolds] using hneg
  · simpa [condHolds] using (not_congr hneg).trans Int.not_lt

theorem State.sub_of_br {s : State} {c : Nat} {e : Env} {idx : Nat} {r : Record}
    (h : s.scalarHead c (fun r => r.op == 6 && decide (r.sub ≤ 4)) = some (e, idx, r)) : r.sub ≤ 4 := by
  obtain ⟨-, -, hrow, -⟩ := State.head_of_scalarHead h
  simpa using (Bool.and_eq_true_iff.1 hrow).2

theorem add32_mod (a b : Nat) : add32 a b = (a + b) % 2 ^ 32 := rfl

theorem core_setReg_eq (k : Core) (i : Nat) (v : Word) : k.setReg i v = { k with regs := setReg k.regs i v } := by
  unfold Core.setReg setReg
  split <;> rfl

/-- Settles O26. -/
theorem flowRecordsComplete : Obligations.FlowRecordsComplete := by
  unfold Obligations.FlowRecordsComplete
  intro s c e idx r hok
  refine ⟨fun h => ?_, fun h => ?_, fun h => ⟨fun htaken => ?_, fun hnot => ?_⟩, fun h => ?_⟩
  · exact State.scalar_passes h hok rfl
  · exact State.scalar_passes h hok rfl
  · have hc : condHolds r.sub ((s.w.core c).reg r.ra) = true := (condHolds_iff _ _ (State.sub_of_br h)).2 htaken
    exact State.scalar_passes h hok (by rw [runBr, (State.head_of_scalarHead h).2.2.2, if_pos hc, branchTo, add32_mod])
  · have hc : ¬ condHolds r.sub ((s.w.core c).reg r.ra) = true := fun hc => hnot ((condHolds_iff _ _ (State.sub_of_br h)).1 hc)
    exact State.scalar_passes h hok (by rw [runBr, (State.head_of_scalarHead h).2.2.2, if_neg hc, add32_mod])
  · refine State.scalar_ran h hok ?_
    rw [runLoop, (State.head_of_scalarHead h).2.2.2]
    dsimp only
    rw [core_setReg_eq, branchTo, add32_mod]
    rfl

end Sys2Proof.Machine

/-! PROOFS. Waits, fetch, dispatch, completion and the delivery of signals; DMAGO; the synchronising records. -/
namespace Sys2Proof.Machine

/-! ## Waits (R84, R86) -/

theorem waitHolds_iff {ctr thr : Nat} (hctr : ctr < 2 ^ 16) (hthr : thr < 2 ^ 16) :
    waitHolds ctr thr = true ↔ ∃ n, n < 2 ^ 15 ∧ (thr + n) % 2 ^ 16 = ctr := by
  have hmod : thr % 2 ^ 16 = thr := Nat.mod_eq_of_lt hthr
  rw [waitHolds, decide_eq_true_iff, sub16, hmod]
  constructor
  · intro h
    exact ⟨(ctr + 2 ^ 16 - thr) % 2 ^ 16, h, by omega⟩
  · rintro ⟨n, hn, rfl⟩
    omega

/-- Settles O30. -/
theorem waitsHoldAndExpire : Obligations.WaitsHoldAndExpire := by
  unfold Obligations.WaitsHoldAndExpire
  refine ⟨fun s c e henv hres hawake => ⟨fun q x harr hfirst hready hunit => ?_, fun idx r rest hd hbuf hop hready => ?_⟩, fun ctr thr => waitHolds_iff⟩
  · have hc := State.env_core henv
    have hexp : s.expiring e q = some (x, stTimeout) := by
      unfold State.expiring
      rw [hc, harr]
      simp [hfirst, hunit, hready]
    have hexec : exec (.waitTimeout c (.queue q)) s = execWaitTimeout c (.queue q) s := rfl
    rw [hexec, execWaitTimeout, henv]
    dsimp only
    rw [if_neg (Classical.not_not.2 hres), if_neg (by simp [hawake]), hexp]
  · have hexec : exec (.waitTimeout c .sequencer) s = execWaitTimeout c .sequencer s := rfl
    rw [hexec, execWaitTimeout, henv]
    dsimp only
    rw [if_neg (Classical.not_not.2 hres), if_neg (by simp [hawake]), hd, hbuf]
    dsimp only
    rw [if_pos ⟨hop, hready⟩]

/-! ## DMAGO (R301, R308) -/

theorem dmagoChan_eq (c : Nat) (r : Record) : dmagoChan c r = 8 * (c / 16) + r.imm.toNat % 8 := by
  simp [dmagoChan, fld]

theorem World.moveChan_chan (w : World) (n d : Nat) (x : Chan) (st : Nat) : (w.moveChan n d x st).chan d = x := by
  unfold World.moveChan
  dsimp only
  split
  · exact World.chan_setChan ..
  · exact ((World.event_side ..).chan d).trans (World.chan_setChan ..)

/-- A record at the head of the fetch buffer waits for no drain. -/
theorem State.dmagoDrained_of_scalarHead {s : State} {c : Nat} {row : Record → Bool} {x : Env × Nat × Record} (h : s.scalarHead c row = some x)
    (p : Record → Bool) : s.dmagoDrained c p = none := by
  have hwait : (s.w.core c).dmaWait = none := by
    unfold State.scalarHead at h
    split at h
    · split at h
      · next hrow => simpa using (Bool.and_eq_true_iff.1 hrow).2
      · cases h
    · cases h
  unfold State.dmagoDrained
  dsimp only
  split
  · next hw _ => cases hwait.symm.trans hw
  · rfl

/-- A DMAGO that nothing refuses does what its action does, and waits where that drains. -/
theorem State.dmago_runs {s : State} {c a : Nat} {e : Env} {idx : Nat} {r : Record} (h : s.scalarHead c (isDmago a) = some (e, idx, r))
    (hok : dmagoBad e r false = false) (f : World → Resid → Nat → Nat → Ctrl) :
    s.dmago c a f =
      if (f s.w e.r e.n (dmagoChan c r)).draining then
        .next (s.withW ((f s.w e.r e.n (dmagoChan c r)).w.setCore c
          { (f s.w e.r e.n (dmagoChan c r)).w.core c with dmaWait := some (dmagoChan c r, none) }))
      else .next (s.withW ((f s.w e.r e.n (dmagoChan c r)).w.endScalar e idx r (f s.w e.r e.n (dmagoChan c r)).st (add32 idx 1))) := by
  simp only [State.dmago, State.dmagoDrained_of_scalarHead h, h, hok, Bool.false_eq_true, if_false]

/-- The address of a chain's first descriptor is that which P0 locates. -/
theorem firstDescriptor_addr {sp c a : Nat} (hsp : sp ≤ 1) :
    (BitVec.ofNat 64 (sp * 2 ^ 61 + (if sp = 1 then c * 2 ^ 48 else 0) + a)).toNat % 2 ^ 48 = a % 2 ^ 48 := by
  rw [BitVec.toNat_ofNat, Nat.mod_mod_of_dvd _ (Nat.pow_dvd_pow 2 (by decide))]
  obtain rfl | rfl : sp = 0 ∨ sp = 1 := by omega
  · simp
  · rw [if_pos rfl]
    omega

/-- Settles O28. -/
theorem dmagoRecordsComplete : Obligations.DmagoRecordsComplete := by
  unfold Obligations.DmagoRecordsComplete
  intro s c e idx r d ch row fin reg
  have hd : dmagoChan c r = d := dmagoChan_eq c r
  refine ⟨fun h hok hp0 hsp href hidle => ?_, fun h hok hst => ?_, fun h hok hst hq => ?_, fun h hok hst hq => ?_, fun h hok hst => ?_, fun h hok hst => ?_⟩
  · have hgood : ¬ (dmagoBad e r true || r.p0 == 0 || decide (1 < refSpace r.p0) || !refOk r.p0 reg 64) = true := by
      have hp : (r.p0 == 0) = false := beq_eq_false_iff_ne.2 hp0
      rw [hok, hp, href, decide_eq_false (Nat.not_lt.2 hsp)]
      exact Bool.false_ne_true
    have hfree : ¬ (ch.st ≠ .idle ∨ (ch.st == .paused && ch.by_ == .part) = true) := by simp [hidle]
    have hexec : exec (.dmagoStart c) s = execDmagoStart c s := rfl
    rw [hexec, execDmagoStart, h]
    dsimp only
    rw [if_neg hgood, hd, World.chanStart]
    dsimp only
    rw [if_neg hfree]
    refine ⟨_, rfl, ?_⟩
    rw [World.moveChan_chan]
    exact ⟨rfl, rfl, rfl, firstDescriptor_addr hsp⟩
  · have hexec : exec (.dmagoResume c) s = s.dmago c 1 fun w _ => w.chanResume := rfl
    rw [hexec, State.dmago_runs h hok, hd, World.chanResume]
    dsimp only
    rw [if_pos hst]
    rfl
  · have hexec : exec (.dmagoPause c) s = s.dmago c 2 fun w _ => w.chanPause := rfl
    rw [hexec, State.dmago_runs h hok, hd, World.chanPause]
    dsimp only
    rw [if_pos hst, if_pos hq]
    rfl
  · have hexec : exec (.dmagoPause c) s = s.dmago c 2 fun w _ => w.chanPause := rfl
    rw [hexec, State.dmago_runs h hok, hd, World.chanPause]
    dsimp only
    rw [if_pos hst]
    simp only [ch] at hq
    simp only [hq, Bool.false_eq_true, if_false, if_true]
    refine ⟨_, rfl, ?_, ?_⟩
    · exact congrArg Chan.st (World.moveChan_chan ..)
    · exact congrArg Core.dmaWait (World.core_setCore ..)
  · have hexec : exec (.dmagoSkip c) s = s.dmago c 3 World.chanSkip := rfl
    rw [hexec, State.dmago_runs h hok, hd, World.chanSkip]
    dsimp only
    rw [if_pos hst]
    rfl
  · have hexec : exec (.dmagoAbort c) s = s.dmago c 4 World.chanAbort := rfl
    rw [hexec, State.dmago_runs h hok, hd, World.chanAbort_stopped hst]
    rfl

/-! ## Fetch, dispatch and completion (R80, R82, R83, R286) -/

theorem Core.queue_setQueue (k : Core) (q : Queue) (l : List Entry) : (k.setQueue q l).queue q = l := by cases q <;> rfl
theorem Core.queue_setQueue_ne (k : Core) {p q : Queue} (l : List Entry) (h : p ≠ q) : (k.setQueue q l).queue p = k.queue p := by
  cases q <;> cases p <;> simp [Core.queue, Core.setQueue] at h ⊢

theorem Core.queue_nextId (k : Core) (n : Nat) (q : Queue) : ({ k with nextId := n } : Core).queue q = k.queue q := by cases q <;> rfl

/-- What a change of one queue leaves of a core. -/
theorem Core.setQueue_frame (k : Core) (q : Queue) (l : List Entry) :
    (k.setQueue q l).regs = k.regs ∧ (k.setQueue q l).nextIdx = k.nextIdx ∧ (k.setQueue q l).buf = k.buf ∧ (∀ m, (k.setQueue q l).mem m = k.mem m) ∧
      (k.setQueue q l).ctrs = k.ctrs ∧ (k.setQueue q l).windows = k.windows ∧ (k.setQueue q l).stepWait = k.stepWait := by
  cases q <;> exact ⟨rfl, rfl, rfl, fun m => by cases m <;> rfl, rfl, rfl, rfl⟩

theorem World.Quiet.settles {w u : World} (h : w.Quiet u) (d : Nat) : (w.core d).Settles (u.core d) := by
  rw [h.core]
  exact .refl _

theorem World.setCore_settles (w : World) (c d : Nat) {x : Core} (h : (w.core c).Settles x) : (w.core d).Settles ((w.setCore c x).core d) := by
  by_cases hd : d = c
  · rw [hd, World.core_setCore]
    exact h
  · rw [World.core_setCore_ne _ _ hd]
    exact .refl _

theorem World.raiseSignal_settles (w : World) (e : Env) (r : Record) (d : Nat) : (w.core d).Settles ((w.raiseSignal e r).core d) := by
  unfold World.raiseSignal
  split <;> exact .refl _

/-- A completion moves no register, no queue and no memory of a core. -/
theorem World.completeRec_settles (w : World) (e : Env) (r : Record) (idx st count flags d : Nat) :
    (w.core d).Settles ((w.completeRec e r idx st count flags).core d) := by
  unfold World.completeRec
  dsimp only
  have hdone := World.complete_quiet (w.raiseSignal e r) e (completionBytes r st flags e.c ((w.raiseSignal e r).ctx e.n).step count)
  have hraise := w.raiseSignal_settles e r d
  generalize World.complete (w.raiseSignal e r) e _ = x at hdone ⊢
  generalize w.raiseSignal e r = v at hraise hdone ⊢
  have hreport : (w.core d).Settles ((if (r.cr || !continuing st) = true then x else v).core d) := by
    split
    · exact hraise.trans (hdone.settles d)
    · exact hraise
  generalize (if (r.cr || !continuing st) = true then x else v) = y at hreport ⊢
  have hevent : (w.core d).Settles ((if r.evt = true then y.recordEvent e r st else y).core d) := by
    split
    · exact hreport.trans ((World.recordEvent_quiet ..).settles d)
    · exact hreport
  generalize (if r.evt = true then y.recordEvent e r st else y) = z at hevent ⊢
  split
  · exact hevent.trans (World.setCore_settles _ _ _ ⟨rfl, rfl, rfl, fun q => by cases q <;> rfl, fun m => by cases m <;> rfl, rfl, rfl, rfl⟩)
  · exact hevent

theorem World.releaseDeferred_settles (w : World) (e : Env) (d : Nat) : (w.core d).Settles ((w.releaseDeferred e).core d) := by
  have hfold : ∀ (l : List Deferred) (u : World), (u.core d).Settles ((l.foldl (fun w x => w.completeRec e x.cmd x.idx stOk 0 0) u).core d) := by
    intro l
    induction l with
    | nil => exact fun u => .refl _
    | cons x l ih => exact fun u => (World.completeRec_settles ..).trans (ih _)
  unfold World.releaseDeferred
  dsimp only
  refine .trans (World.setCore_settles w e.c d ?_) (hfold _ _)
  exact ⟨rfl, rfl, rfl, fun q => by cases q <;> rfl, fun m => by cases m <;> rfl, rfl, rfl, rfl⟩

/-- An entry leaves its queue, and what it leaves of the core is as it was. -/
theorem World.retire_settles (w : World) (e : Env) (q : Queue) (t : Entry) (st count flags : Nat) :
    ((w.core e.c).setQueue q (((w.core e.c).queue q).filter fun x => x.id != t.id)).Settles ((w.retire e q t st count flags).core e.c) := by
  unfold World.retire
  refine .trans ?_ (World.settle_settles ..).1
  refine .trans ?_ (World.releaseDeferred_settles ..)
  refine .trans ?_ (World.completeRec_settles ..)
  rw [World.core_setCore]
  exact .refl _

theorem State.reawaken_of_dispatching {s : State} {c : Nat} {e : Env} (h : s.dispatching c = some e) : s.reawaken c = s := by
  have henv := State.env_of_dispatching h
  have hrun : (s.w.core c).state = .running := by
    unfold State.dispatching at h
    rw [henv] at h
    dsimp only at h
    split at h
    · next hall => exact hall.2.2.2.2.1
    · cases h
  unfold State.reawaken
  rw [henv]
  dsimp only
  rw [if_neg (by simp [hrun])]

theorem World.readBlocks_cells (w : World) (n : Option Nat) (l : List Nat) : (w.readBlocks n l).hbm.mem.cells = w.hbm.mem.cells :=
  (World.onlyRead_readBlocks ..).cells

theorem World.meetBus_cells (w : World) (n : Option Nat) (l : List Nat) : (w.meetBus n l).hbm.mem.cells = w.hbm.mem.cells := by
  obtain ⟨_, _, _, _, _, h⟩ := World.meetBus_frame w n l
  rw [h]

theorem World.putWalker_cells (w : World) (k n : Nat) (x : Walker) : (w.putWalker k n x).hbm.mem.cells = w.hbm.mem.cells :=
  (World.readBlocks_cells ..).trans (World.meetBus_cells (w.cached k x) ..)

/-! ## Signals (R85) -/

/-- A window with its oldest held slots freed and credited again (R126). -/
def Window.freed (v : Window) (inc : Nat) : Window :=
  { v with held := v.held.drop inc, credited := v.credited ++ v.held.take inc, ignored := bump 32 v.ignored (inc - (v.held.take inc).length) }

theorem World.setWin_ctrs (w : World) (c i : Nat) (v : Window) : ((w.setWin c i v).core c).ctrs = (w.core c).ctrs := by
  rw [World.setWin, World.core_setCore]
  rfl

theorem World.freeWin_core (w : World) (c i inc : Nat) :
    ((w.freeWin c i inc).core c).ctrs = (w.core c).ctrs ∧ (∀ d, d ≠ c → (w.freeWin c i inc).core d = w.core d) ∧
      (w.freeWin c i inc).signals = w.signals := by
  obtain ⟨l, hl⟩ := World.sendCredits_only (w.setWin c i ((w.win c i).freed inc)) c i ((w.win c i).held.take inc)
  have hfree : w.freeWin c i inc = (w.setWin c i ((w.win c i).freed inc)).putLinks l := hl
  rw [hfree]
  exact ⟨World.setWin_ctrs w c i ((w.win c i).freed inc), fun d hd => World.core_setCore_ne _ _ hd, rfl⟩

theorem World.raiseCtr_core (w : World) (res : Tab Resid) (c ctr inc : Nat) :
    ((w.raiseCtr res c ctr inc).core c).ctrs = ((w.core c).addCtr ctr inc).ctrs ∧ (∀ d, d ≠ c → (w.raiseCtr res c ctr inc).core d = w.core d) ∧
      (w.raiseCtr res c ctr inc).signals = w.signals := by
  have hfold : ∀ (l : List Nat) (u : World), let v := l.foldl (fun w i =>
      if (w.win c i).st = .open_ ∧ (w.win c i).freeCtr = ctr ∧ ownerLive res (w.win c i).owner = true then w.freeWin c i inc else w) u
      (v.core c).ctrs = (u.core c).ctrs ∧ (∀ d, d ≠ c → v.core d = u.core d) ∧ v.signals = u.signals := by
    intro l
    induction l with
    | nil => exact fun u => ⟨rfl, fun _ _ => rfl, rfl⟩
    | cons i l ih =>
      intro u
      dsimp only [List.foldl_cons]
      split
      · obtain ⟨hsame, hothers, hsig⟩ := World.freeWin_core u c i inc
        obtain ⟨hsame', hothers', hsig'⟩ := ih (u.freeWin c i inc)
        exact ⟨hsame'.trans hsame, fun d hd => (hothers' d hd).trans (hothers d hd), hsig'.trans hsig⟩
      · exact ih u
  obtain ⟨hsame, hothers, hsig⟩ := hfold (List.range 8) (w.setCore c ((w.core c).addCtr ctr inc))
  exact ⟨hsame.trans (by rw [World.core_setCore]), fun d hd => (hothers d hd).trans (World.core_setCore_ne _ _ hd), hsig⟩

theorem foldl_raiseCtr_core (res : Tab Resid) (ctr inc : Nat) (l : List Nat) (w : World) (hl : l.Nodup) :
    (∀ d ∈ l, ((l.foldl (fun w c => w.raiseCtr res c ctr inc) w).core d).ctrs = ((w.core d).addCtr ctr inc).ctrs) ∧
      (∀ d, d ∉ l → (l.foldl (fun w c => w.raiseCtr res c ctr inc) w).core d = w.core d) ∧
      (l.foldl (fun w c => w.raiseCtr res c ctr inc) w).signals = w.signals := by
  induction l generalizing w with
  | nil => exact ⟨nofun, fun _ _ => rfl, rfl⟩
  | cons c l ih =>
    obtain ⟨hc, hl⟩ := List.nodup_cons.1 hl
    obtain ⟨hctrs, hothers, hsig⟩ := World.raiseCtr_core w res c ctr inc
    obtain ⟨hin, hout, hsig'⟩ := ih (w.raiseCtr res c ctr inc) hl
    rw [List.foldl_cons]
    refine ⟨fun d hd => ?_, fun d hd => ?_, hsig'.trans hsig⟩
    · obtain rfl | hd := List.mem_cons.1 hd
      · rw [hout d hc]
        exact hctrs
      · have hne : d ≠ c := fun he => hc (he ▸ hd)
        rw [hin d hd, hothers d hne]
    · rw [List.mem_cons, not_or] at hd
      rw [hout d hd.2, hothers d hd.1]

/-- Settles O29. -/
theorem fetchDispatchAndCompletionComplete : Obligations.FetchDispatchAndCompletionComplete := by
  unfold Obligations.FetchDispatchAndCompletionComplete
  intro s c e
  refine ⟨fun pa x hd hbuf => ?_, fun idx r rest q hd hbuf hq hroom hfly => ?_,
    fun q t0 rest st count flags henv hqueue hdone hids => ?_, fun i x hx hearlier hawake hnodup => ?_⟩
  · intro idx hnew hold hxlate hpoison hbus
    have hexec : exec (.commandFetch c) s = execCommandFetch c s := rfl
    have hidx : add32 (s.w.core c).nextIdx (s.w.core c).buf.length = idx := by rw [hbuf]; rfl
    have hgo : ¬ (sub32 (s.w.ctx e.n).tail idx = 0 ∨ 2 ^ 31 < sub32 (s.w.ctx e.n).tail idx ∨ 64 ≤ (s.w.core c).buf.length) := by
      simp only [hbuf, List.length_nil]
      omega
    rw [hexec, execCommandFetch]
    dsimp only
    rw [State.reawaken_of_dispatching hd, hd]
    dsimp only
    rw [hidx, if_neg hgo, hxlate]
    dsimp only
    rw [hpoison, hbus, hbuf]
    refine ⟨_, rfl, ?_, rfl⟩
    have hcells : ((s.w.putWalker (c / 16) e.n x).readBlocks (some e.n) [pa / 64]).hbm.mem.cells = s.w.hbm.mem.cells :=
      (World.readBlocks_cells ..).trans (World.putWalker_cells ..)
    refine (congrArg Core.buf (World.core_setCore ..)).trans ?_
    simp only [World.hbmBytes, hcells, List.nil_append]
  · have hexec : exec (.engineRecordDispatch c) s = execEngineRecordDispatch c s := rfl
    rw [hexec, execEngineRecordDispatch, hd, hbuf]
    dsimp only
    rw [hq]
    dsimp only
    rw [if_pos ⟨hroom, hfly⟩]
    obtain ⟨hnext, hregs, -, hqueue, -⟩ := Core.advance_settles (s.w.core c) idx (add32 idx 1)
    have hrest : ((s.w.core c).advance idx (add32 idx 1)).buf = rest := by
      simp only [Core.advance, hbuf, if_true, List.drop_one, List.tail_cons]
    generalize (s.w.core c).advance idx (add32 idx 1) = k at hnext hregs hqueue hrest ⊢
    obtain ⟨hregs', hnext', hbuf', -, -, -, -⟩ := Core.setQueue_frame k q (k.queue q ++
      [{ id := (s.w.core c).nextId, cmd := r, ind := (s.w.core c).captures r, thr := (s.w.core c).threshold r, idx }])
    refine ⟨_, rfl, ?_, fun p hp => ?_, ?_, ?_, ?_, rfl⟩
    · refine (congrArg (Core.queue · q) (World.core_setCore ..)).trans ((Core.queue_nextId ..).trans ?_)
      rw [Core.queue_setQueue, hqueue]
    · refine (congrArg (Core.queue · p) (World.core_setCore ..)).trans ((Core.queue_nextId ..).trans ?_)
      rw [Core.queue_setQueue_ne _ _ hp, hqueue]
    · exact (congrArg Core.nextIdx (World.core_setCore ..)).trans (hnext'.trans hnext)
    · exact (congrArg Core.buf (World.core_setCore ..)).trans (hbuf'.trans hrest)
    · exact (congrArg Core.regs (World.core_setCore ..)).trans (hregs'.trans hregs)
  · have hexec : exec (.recordComplete c q) s = execRecordComplete c q s := rfl
    rw [hexec, execRecordComplete, henv, hqueue]
    dsimp only
    rw [hdone]
    have hc := State.env_core henv
    have hset := World.retire_settles s.w e q t0 st count flags
    obtain ⟨hregs, -, -, hmem, -, -, -⟩ := Core.setQueue_frame (s.w.core e.c) q (((s.w.core e.c).queue q).filter fun x => x.id != t0.id)
    rw [hc] at hset hregs hmem
    have hrest : ((s.w.core c).queue q).filter (fun x => x.id != t0.id) = rest := by
      rw [hqueue, List.filter_cons_of_neg (by simp), List.filter_eq_self.2 (by simpa using hids)]
    refine ⟨_, rfl, ?_, hset.regs.trans hregs, fun m => (hset.mem m).trans (hmem m)⟩
    exact (hset.queue q).trans ((Core.queue_setQueue ..).trans hrest)
  · have hexec : exec (.syncSignalDelivery i) s = execSyncSignalDelivery i s := rfl
    have hnone : (x.cores.filter fun c => s.w.asleep (c / 16)) = [] := by
      rw [List.filter_eq_nil_iff]
      exact fun d hd => by simp [hawake d hd]
    rw [hexec, execSyncSignalDelivery, hx]
    dsimp only
    rw [if_neg (by rw [hearlier]; exact Bool.false_ne_true), hnone, if_neg (by simp)]
    obtain ⟨hin, hout, hsig⟩ := foldl_raiseCtr_core s.res x.ctr x.inc x.cores { s.w with signals := s.w.signals.eraseIdx i } hnodup
    exact ⟨_, rfl, hsig, hin, hout⟩

end Sys2Proof.Machine

/-! PROOFS. Byte strings and the memories they are written into: numbers and their bytes, slices, whole writes, and what an update of HBM leaves. -/
namespace Sys2Proof.Machine

/-! ## Numbers and bytes (R6) -/

theorem leNat_lt (bs : List Byte) : leNat bs < 256 ^ bs.length := by
  induction bs with
  | nil => decide
  | cons b bs ih =>
    have hb : b.toNat < 256 := b.isLt
    rw [leNat, List.length_cons, Nat.pow_succ]
    omega

theorem leBytes_leNat (bs : List Byte) : leBytes bs.length (leNat bs) = bs := by
  induction bs with
  | nil => rfl
  | cons b bs ih =>
    have hb : b.toNat < 256 := b.isLt
    have hhead : BitVec.ofNat 8 (leNat (b :: bs)) = b := by
      apply BitVec.eq_of_toNat_eq
      rw [BitVec.toNat_ofNat, leNat]
      omega
    have htail : leNat (b :: bs) / 256 = leNat bs := by
      rw [leNat]
      omega
    rw [List.length_cons, leBytes, hhead, htail, ih]

@[simp] theorem sl_length (bs : List Byte) (off n : Nat) : (sl bs off n).length = n := by
  simp only [sl, List.length_append, List.length_replicate, List.length_take]
  omega

/-- A slice within the first part of a string. -/
theorem sl_append_left {x : List Byte} {off n : Nat} (y : List Byte) (h : off + n ≤ x.length) : sl (x ++ y) off n = sl x off n := by
  rw [sl_eq_take_drop (by rw [List.length_append]; omega), sl_eq_take_drop h, List.drop_append_of_le_length (by omega),
    List.take_append_of_le_length (by rw [List.length_drop]; omega)]

/-- A slice behind the first part of a string. -/
theorem sl_append_right {x : List Byte} {off : Nat} (y : List Byte) (n : Nat) (h : x.length ≤ off) : sl (x ++ y) off n = sl y (off - x.length) n := by
  have hdrop : (x ++ y).drop off = y.drop (off - x.length) := by
    rw [List.drop_append, List.drop_of_length_le h, List.nil_append]
  simp only [sl, hdrop]

/-- A slice of a slice. -/
theorem sl_sl {bs : List Byte} {a m off n : Nat} (hm : off + n ≤ m) (ha : a + m ≤ bs.length) : sl (sl bs a m) off n = sl bs (a + off) n := by
  rw [sl_eq_take_drop (by rw [sl_length]; omega), sl_eq_take_drop ha, sl_eq_take_drop (by omega), List.drop_take, List.drop_drop,
    List.take_take, Nat.min_eq_left (by omega)]

theorem leNat_sl_lt (bs : List Byte) (off n : Nat) : leNat (sl bs off n) < 256 ^ n := by
  have h := leNat_lt (sl bs off n)
  rwa [sl_length] at h

theorem le_lt (bs : List Byte) (off n : Nat) : le bs off n < 256 ^ n := leNat_sl_lt ..

/-! ## Whole bytes written (R141) -/

theorem Cells.read_length (m : List Host.Cell) (a n : Nat) : (Cells.read m a n).length = n := by simp [Cells.read]

theorem Cells.write_append (m : List Host.Cell) (a : Nat) (x y : List Byte) : Cells.write m a (x ++ y) = Cells.write (Cells.write m a x) (a + x.length) y := by
  induction x generalizing m a with
  | nil => rfl
  | cons b x ih =>
    rw [List.cons_append, Cells.write, Cells.write, ih, List.length_cons]
    congr 1
    omega

/-- A byte string written as bits is the byte string written. -/
theorem Cells.setBits_bytesAt (m : List Host.Cell) (a : Nat) (bs : List Byte) (p : Bool) : Cells.setBits m (bytesAt a bs p) = Cells.write m a bs := by
  have hn : (8 * a % 8 + 8 * bs.length + 7) / 8 = bs.length := by omega
  have hlo : 8 * a % 8 = 0 := by omega
  have ha : 8 * a / 8 = a := by omega
  have hpow : 2 ^ (8 * bs.length) = 256 ^ bs.length := Nat.pow_mul 2 8 _
  have hold : leNat (Cells.read m a bs.length) < 256 ^ bs.length := by
    have h := leNat_lt (Cells.read m a bs.length)
    rwa [Cells.read_length] at h
  have hnew : leNat bs % 2 ^ (8 * bs.length) = leNat bs := Nat.mod_eq_of_lt (hpow ▸ leNat_lt bs)
  unfold Cells.setBits bytesAt
  dsimp only
  rw [hn, hlo, ha, hnew, Nat.zero_add, Nat.shiftRight_eq_div_pow, hpow, Nat.div_eq_of_lt hold, Nat.pow_zero, Nat.mod_one, Nat.zero_mul,
    Nat.zero_add, Nat.mul_one, Nat.add_zero, leBytes_leNat]

/-- A byte string written piece by piece is the byte string written. -/
theorem Cells.foldl_pieces (m : List Host.Cell) (a : Nat) (bs : List Byte) (poison : Nat → Bool) (k : Nat) (hk : 64 * k ≤ bs.length) :
    ((List.range k).map fun i => bytesAt (a + 64 * i) ((bs.drop (64 * i)).take 64) (poison i)).foldl Cells.setBits m = Cells.write m a (bs.take (64 * k)) := by
  induction k with
  | zero => rfl
  | succ k ih =>
    have hpiece : bs.take (64 * (k + 1)) = bs.take (64 * k) ++ (bs.drop (64 * k)).take 64 := by
      rw [Nat.mul_succ, List.take_add]
    have hlen : (bs.take (64 * k)).length = 64 * k := by
      rw [List.length_take]
      omega
    rw [List.range_succ, List.map_append, List.foldl_append, ih (by omega), hpiece, Cells.write_append, hlen]
    exact Cells.setBits_bytesAt ..

theorem Cells.get_read (m : List Host.Cell) (a n i : Nat) (h : i < n) : (Cells.read m a n).getD i 0 = Cells.get m (a + i) := by
  simp [Cells.read, h]

/-- A string read from a range that a write does not reach is as before. -/
theorem Cells.read_write_apart {m : List Host.Cell} {a b n : Nat} {bs : List Byte} (h : a + bs.length ≤ b ∨ b + n ≤ a) :
    Cells.read (Cells.write m a bs) b n = Cells.read m b n := by
  refine List.map_congr_left fun i hi => ?_
  have hi : i < n := List.mem_range.1 hi
  rw [Cells.get_write, if_neg (by omega)]

/-! ## Updates of HBM by the part itself -/

theorem World.touchBlock_busBad (w : World) (n : Option Nat) (b : Nat) : (w.touchBlock n b).hbm.busBad = w.hbm.busBad := by
  rw [(World.onlyRead_touchBlock w n b).hbm]

theorem World.readBlocks_busBad (w : World) (n : Option Nat) (l : List Nat) : (w.readBlocks n l).hbm.busBad = w.hbm.busBad := by
  rw [(World.onlyRead_readBlocks w n l).hbm]

theorem World.writeHbm_busBad (w : World) (n : Option Nat) (bs : List BitWrite) : (w.writeHbm n bs).hbm.busBad = w.hbm.busBad := by
  have htouch : ∀ (l : List Nat) (w : World), (l.foldl (fun w b => w.touchBlock n b) w).hbm.busBad = w.hbm.busBad := by
    intro l
    induction l with
    | nil => exact fun _ => rfl
    | cons b l ih => exact fun w => (ih _).trans (World.touchBlock_busBad ..)
  have hstack : ∀ (f : World → Nat → Stack) (l : List Nat) (w : World),
      (l.foldl (fun w b => w.setStack (stackOf (64 * b)) (f w b)) w).hbm.busBad = w.hbm.busBad := by
    intro f l
    induction l with
    | nil => exact fun _ => rfl
    | cons b l ih => exact fun w => ih _
  have hlines : ∀ (l : List Nat) (w : World), (l.foldl (fun w k => w.invalidateLine k) w).hbm.busBad = w.hbm.busBad := by
    intro l
    induction l with
    | nil => exact fun _ => rfl
    | cons b l ih => exact fun w => ih _
  unfold World.writeHbm
  dsimp only
  rw [hlines]
  refine (hstack (fun w b => { w.stack (stackOf (64 * b)) with
    bytesW := bump 64 (w.stack (stackOf (64 * b))).bytesW ((List.range 64).filter fun i => bs.any fun x => x.touches (64 * b + i)).length }) _ _).trans ?_
  exact htouch _ w

theorem World.writeHbm_cells (w : World) (n : Option Nat) (bs : List BitWrite) : (w.writeHbm n bs).hbm.mem.cells = bs.foldl Cells.setBits w.hbm.mem.cells :=
  (World.writeHbm_wrote w n bs).cells

/-- An update of whole blocks that none of them fails on the bus writes what it makes of their bytes. -/
theorem World.hbmUpdate_cells {w : World} {n : Option Nat} {a len : Nat} {f : List Byte → List Byte} (hbus : w.hbm.busBad = [])
    (h64 : len % 64 = 0) (hf : (f (w.hbmBytes a len)).length = len) :
    (w.hbmUpdate n a len f).hbm.mem.cells = Cells.write w.hbm.mem.cells a (f (w.hbmBytes a len)) ∧ (w.hbmUpdate n a len f).hbm.busBad = [] := by
  have hmiss : ∀ l, w.busHits l = false := fun l => by simp [World.busHits, hbus]
  have hlen : 64 * (len / 64) = len := by omega
  unfold World.hbmUpdate
  rw [hmiss, if_neg Bool.false_ne_true]
  refine ⟨?_, ?_⟩
  · rw [World.writeHbm_cells, Cells.foldl_pieces _ a (f (w.hbmBytes a len)) _ _ (by omega), hlen, List.take_of_length_le (Nat.le_of_eq hf),
      World.readBlocks_cells]
  · rw [World.writeHbm_busBad, World.readBlocks_busBad, hbus]

end Sys2Proof.Machine

/-! PROOFS. The synchronising records: SIGNAL, FENCE, EVENT, END and STEP. -/
namespace Sys2Proof.Machine

theorem signalOk_of_scalarBad {e : Env} {r : Record} (h : scalarBad e r = false) (hen : r.sigEn = true) : signalOk e r = true := by
  have hcommon : commonBad e r = false := by
    simp only [scalarBad, Bool.or_eq_false_iff] at h
    exact h.1.1
  simp only [commonBad, hen, Bool.true_and, Bool.or_eq_false_iff, bne_eq_false_iff_eq] at hcommon
  obtain ⟨-, ⟨⟨htgt, hinc⟩, hlog⟩, hall⟩ := hcommon
  simp only [beq_eq_false_iff_ne] at htgt hinc
  simp only [Bool.not_eq_false'] at hall
  simp [signalOk, hen, htgt, hinc, hlog, hall]

/-- A record whose fields are good raises its signal as it ends (R83). -/
theorem endScalar_signals {s : State} {e : Env} {idx next : Nat} {r : Record} (hok : scalarBad e r = false) (hen : r.sigEn = true) :
    (s.w.endScalar e idx r stOk next).signals = s.w.signals ++ [{ src := e.c, cores := sigCores r e.c, ctr := r.sigCtr, inc := r.sigInc }] := by
  obtain ⟨-, -, -, -, hsig, -, -⟩ := World.endScalar_ends (st := stOk) rfl s.w e idx r next
  rw [hsig, World.raiseSignal, if_pos (signalOk_of_scalarBad hok hen)]

/-- A record that ends has run, whatever went out before its end. -/
theorem scalarRan_side {s : State} {c : Nat} {row : Record → Bool} {e : Env} {idx : Nat} {r : Record} (h : s.scalarHead c row = some (e, idx, r))
    {w : World} (hw : s.w.Side w) (hhbm : w.hbm = s.w.hbm) (next : Nat) :
    ScalarRan s (s.withW (w.endScalar e idx r stOk next)) c r (s.w.core c).regs next := by
  obtain ⟨-, -, -, hc⟩ := State.head_of_scalarHead h
  subst hc
  exact scalarRan_endScalar rfl (hw.core _) (fun d _ => hw.core d) hw.quiet.dma hhbm ..

theorem scalarRan_done {s : State} {c : Nat} {row : Record → Bool} {e : Env} {idx : Nat} {r : Record} (h : s.scalarHead c row = some (e, idx, r))
    (next : Nat) : ScalarRan s (s.withW (s.w.endScalar e idx r stOk next)) c r (s.w.core c).regs next :=
  scalarRan_side h (.refl _) rfl next

/-- A core whose END has been dispatched stays so, or is DONE. -/
theorem World.settle_ended (w : World) (c n : Nat) (h : (w.core c).ended = true) :
    (((w.settle c n).core c).ended = true ∨ ((w.settle c n).core c).state = .done) ∧ ((w.settle c n).core c).endTail = (w.core c).endTail := by
  unfold World.settle
  dsimp only
  split
  · exact ⟨.inl h, rfl⟩
  split
  · rw [(World.event_side ..).core, World.core_setCore]
    exact ⟨.inl h, rfl⟩
  · rw [World.core_setCore]
    exact ⟨.inr rfl, rfl⟩

theorem World.core_completeRec {st : Nat} (h : continuing st = true) (w : World) (e : Env) (r : Record) (idx count flags d : Nat) :
    (w.completeRec e r idx st count flags).core d = w.core d := by
  have hraise : (w.raiseSignal e r).core d = w.core d := by
    unfold World.raiseSignal
    split <;> rfl
  rw [(World.completeRec_quiet h w idx count flags).1.core, hraise]

theorem World.endScalar_ended {w : World} {e : Env} {idx next : Nat} {r : Record} (h : (w.core e.c).ended = true) :
    (((w.endScalar e idx r stOk next).core e.c).ended = true ∨ ((w.endScalar e idx r stOk next).core e.c).state = .done) ∧
      ((w.endScalar e idx r stOk next).core e.c).endTail = (w.core e.c).endTail ∧
      ((w.endScalar e idx r stOk next).core e.c).regs = (w.core e.c).regs := by
  have hcore : ((w.setCore e.c ((w.core e.c).advance idx next)).completeRec e r idx stOk 0 0).core e.c = (w.core e.c).advance idx next := by
    rw [World.core_completeRec rfl, World.core_setCore]
  obtain ⟨hstop, htail⟩ := World.settle_ended ((w.setCore e.c ((w.core e.c).advance idx next)).completeRec e r idx stOk 0 0) e.c e.n
    (by rw [hcore]; exact h)
  have hset := (World.endScalar_ends (st := stOk) rfl w e idx r next).1
  exact ⟨hstop, htail.trans (by rw [hcore]; rfl), hset.regs⟩

/-- Where the group's matrix records stand at a boundary and the slots have moved on, the core waits for the snapshot. -/
def World.snapDrained (w : World) (c new : Nat) (e : Env) : World :=
  let w := w.setCore c { w.core c with stepWait := true }
  let w := { w with snap := { w.snap with draining := true, core := c, newStep := new } }
  w.pauseChans e.n e.r

theorem World.moveChan_frame (w : World) (n d : Nat) (x : Chan) (st : Nat) :
    (w.moveChan n d x st).cores = w.cores ∧ (w.moveChan n d x st).hbm = w.hbm ∧ (w.moveChan n d x st).ctxs = w.ctxs ∧
      (w.moveChan n d x st).snap = w.snap := by
  unfold World.moveChan
  dsimp only
  split <;> exact ⟨rfl, rfl, rfl, rfl⟩

theorem World.pauseChans_frame (w : World) (n : Nat) (r : Resid) :
    (w.pauseChans n r).cores = w.cores ∧ (w.pauseChans n r).hbm = w.hbm ∧ (w.pauseChans n r).ctxs = w.ctxs ∧ (w.pauseChans n r).snap = w.snap := by
  unfold World.pauseChans
  generalize r.chans = l
  induction l generalizing w with
  | nil => exact ⟨rfl, rfl, rfl, rfl⟩
  | cons d l ih =>
    rw [List.foldl_cons]
    dsimp only
    split
    · obtain ⟨h1, h2, h3, h4⟩ := World.moveChan_frame w n d
        { w.chan d with st := if w.chanQuiet (w.chan d) then .paused else .pausing, by_ := .part } (w.chan d).lastStatus
      obtain ⟨k1, k2, k3, k4⟩ := ih (w.moveChan n d _ (w.chan d).lastStatus)
      exact ⟨k1.trans h1, k2.trans h2, k3.trans h3, k4.trans h4⟩
    · exact ih w

theorem World.snapDrained_frame (w : World) (c new : Nat) (e : Env) :
    (w.snapDrained c new e).core c = { w.core c with stepWait := true } ∧ (w.snapDrained c new e).hbm = w.hbm ∧
      (w.snapDrained c new e).ctxs = w.ctxs ∧ (w.snapDrained c new e).snap = { w.snap with draining := true, core := c, newStep := new } := by
  unfold World.snapDrained
  dsimp only
  generalize hu : ({ w.setCore c { w.core c with stepWait := true } with snap := { (w.setCore c { w.core c with stepWait := true }).snap with
    draining := true, core := c, newStep := new } } : World) = u
  obtain ⟨hcores, hhbm, hctxs, hsnap⟩ := World.pauseChans_frame u e.n e.r
  refine ⟨?_, ?_, ?_, ?_⟩
  · rw [World.core, hcores, ← hu]
    exact World.core_setCore ..
  · rw [hhbm, ← hu]
    rfl
  · rw [hctxs, ← hu]
    rfl
  · rw [hsnap, ← hu]
    rfl

theorem World.hbmUpdate_side (w : World) (n : Option Nat) (a len : Nat) (f : List Byte → List Byte) : w.Side (w.hbmUpdate n a len f) := by
  unfold World.hbmUpdate
  split
  · exact World.meetBus_side ..
  · exact (World.readBlocks_side ..).trans (World.writeHbm_side ..)

/-- The history of a statistics slot at an advance (R54). -/
def World.statAdvance (n : Nat) (w : World) (k : Nat) : World :=
  if le (w.hbmBytes (statBase n k) 320) 0 4 = 0 then w else w.hbmUpdate (some n) (statBase n k) 320 shiftSlot

/-- A predictor slot at an advance (R234). -/
def World.predAdvance (n new : Nat) (w : World) (k : Nat) : World :=
  (if (le (w.hbmBytes (predBase n k) 64) 56 4 != le (slotAdvance (w.hbmBytes (predBase n k) 64) new) 56 4) = true
    then { w with nums := { w.nums with thrChanges := bump 64 w.nums.thrChanges 1 } } else w).hbmUpdate (some n) (predBase n k) 64 fun b => slotAdvance b new

/-- The slots of a context once both kinds have moved on. -/
def World.slotsMoved (w : World) (n new : Nat) : World :=
  (List.range 256).foldl (World.predAdvance n new) ((w.liveSlots n).foldl (World.statAdvance n) w)

theorem World.statAdvance_eq (n : Nat) : (fun (w : World) k =>
    let b := w.hbmBytes (statBase n k) 320
    if le b 0 4 = 0 then w else w.hbmUpdate (some n) (statBase n k) 320 shiftSlot) = World.statAdvance n := rfl

theorem World.predAdvance_eq (n new : Nat) : (fun (w : World) k =>
    let b := w.hbmBytes (predBase n k) 64
    let b' := slotAdvance b new
    let changed := le b 56 4 != le b' 56 4
    let w := if changed then { w with nums := { w.nums with thrChanges := bump 64 w.nums.thrChanges 1 } } else w
    w.hbmUpdate (some n) (predBase n k) 64 fun b => slotAdvance b new) = World.predAdvance n new := rfl

theorem World.advanceSlots_eq (w : World) (n new : Nat) :
    w.advanceSlots n new = (w.slotsMoved n new).setCtx n { (w.slotsMoved n new).ctx n with predWait := true } := by
  rw [World.advanceSlots, World.predAdvance_eq, World.statAdvance_eq, World.slotsMoved]

theorem World.statAdvance_side (n : Nat) (w : World) (k : Nat) : w.Side (World.statAdvance n w k) := .ite (.refl w) (World.hbmUpdate_side ..)

theorem World.predAdvance_side (n new : Nat) (w : World) (k : Nat) : w.Side (World.predAdvance n new w k) :=
  .trans (.ite ⟨_, _, _, _, _, _, _, _, rfl⟩ (.refl w)) (World.hbmUpdate_side ..)

theorem World.slotsMoved_side (w : World) (n new : Nat) : w.Side (w.slotsMoved n new) := by
  unfold World.slotsMoved
  generalize List.range 256 = l
  exact (World.Side.foldl (World.statAdvance_side n) (w.liveSlots n) w).trans (World.Side.foldl (World.predAdvance_side n new) l _)

theorem World.Side.quiet_predWait {w u : World} (h : w.Side u) (n : Nat) : w.Quiet (u.setCtx n { u.ctx n with predWait := true }) :=
  h.quiet.trans (World.setCtx_quiet u n { u.ctx n with predWait := true } rfl)

/-- An advance of the slots writes HBM, and lets the predictors wait. -/
theorem World.advanceSlots_quiet (w : World) (n new : Nat) : w.Quiet (w.advanceSlots n new) := by
  rw [World.advanceSlots_eq]
  exact (World.slotsMoved_side w n new).quiet_predWait n

/-- STEP with a number that is none of the reserved values (R258). -/
theorem execStepRec_of_head {s : State} {c : CoreId} {e : Env} {idx : Nat} {r : Record}
    (h : s.scalarHead c (fun r => r.op.toNat == 0x0C) = some (e, idx, r)) (hok : scalarBad e r = false) (hlt : r.imm.toNat < 0xFFFFFFFF) :
    exec (.stepRec c) s =
      if r.imm.toNat < (s.w.ctx e.n).step then .next (s.withW (s.w.endScalar e idx r stState (add32 idx 1)))
      else if r.imm.toNat = (s.w.ctx e.n).step then .next (s.withW (s.w.endScalar e idx r stOk (add32 idx 1)))
      else if (s.w.ctx e.n).ck.st = .reading then .next s
      else if s.w.snap.st = .armed ∧ s.w.snap.ctx = e.n ∧ s.w.snap.step ≤ r.imm.toNat then
        .next ((e.r.coreList.foldl State.stopCore s).withW (((e.r.coreList.foldl State.stopCore s).w.advanceSlots e.n r.imm.toNat).snapDrained c r.imm.toNat e))
      else
        .next (((s.withW (s.w.advanceSlots e.n r.imm.toNat)).advanceStep e.n r.imm.toNat).withW
          (((s.withW (s.w.advanceSlots e.n r.imm.toNat)).advanceStep e.n r.imm.toNat).w.endScalar e idx r stOk (add32 idx 1))) := by
  have hrow : s.scalarHead c (isOp 0x0C) = some (e, idx, r) := h
  have hlow : fld r.imm.toNat 31 0 = r.imm.toNat := by
    simp only [fld, Nat.shiftRight_zero]
    omega
  have hhigh : fld r.imm.toNat 63 32 = 0 := by
    simp only [fld, Nat.shiftRight_eq_div_pow]
    omega
  have hexec : exec (.stepRec c) s = execStepRec c s := rfl
  rw [hexec, execStepRec, hrow]
  dsimp only
  rw [hlow, hhigh, hok]
  have hmax : (r.imm.toNat == 0xFFFFFFFF) = false := beq_eq_false_iff_ne.2 (by omega)
  rw [hmax, bne_self_eq_false, Bool.or_false, Bool.or_false, Bool.false_or]
  simp only [decide_eq_true_eq]
  rfl

/-! ## Statistics slots (R54) -/

theorem shiftSlot_length {b : List Byte} (h : b.length = 320) : (shiftSlot b).length = 320 := by
  unfold shiftSlot
  dsimp only
  split
  · exact h
  · simp only [List.length_append, leBytes_length, sl_length]

theorem foldSlot_length (b : List Byte) (retries sat clamped : Nat) (last : Option Int) (amaxs : List Dy) :
    (foldSlot b retries sat clamped last amaxs).length = 320 := by
  unfold foldSlot
  cases last <;> simp only [List.length_append, leBytes_length, sl_length]

theorem putAt_length {b v : List Byte} {off : Nat} (h : off + v.length ≤ b.length) : (putAt b off v).length = b.length := by
  simp only [putAt, List.length_append, List.length_take, List.length_drop]
  omega

theorem putAt_leBytes_length {b : List Byte} {off x : Nat} (h : off + 4 ≤ b.length) : (putAt b off (leBytes 4 x)).length = b.length :=
  putAt_length (by rwa [leBytes_length])

theorem ite_length {c : Prop} [Decidable c] {x y : List Byte} {n : Nat} (hx : x.length = n) (hy : y.length = n) : (if c then x else y).length = n := by
  split
  · exact hx
  · exact hy

theorem slotAdvance_length {b : List Byte} (new : Nat) (h : b.length = 64) : (slotAdvance b new).length = 64 := by
  have h4 : ∀ {c : List Byte} (off x : Nat), off + 4 ≤ 64 → c.length = 64 → (putAt c off (leBytes 4 x)).length = 64 :=
    fun off x ho hc => (putAt_leBytes_length (by omega)).trans hc
  have hstamp : ∀ (d : Prop) [Decidable d] (theta : Nat), (putAt (if d then putAt (putAt (putAt b 0 (leBytes 4 theta)) 32 (leBytes 4 0)) 36 (leBytes 4 0)
      else putAt b 0 (leBytes 4 theta)) 28 (leBytes 4 new)).length = 64 := fun d _ theta =>
    h4 28 new (by omega) (ite_length (h4 36 0 (by omega) (h4 32 0 (by omega) (h4 0 theta (by omega) h))) (h4 0 theta (by omega) h))
  exact ite_length (hstamp ..) (h4 56 _ (by omega) (hstamp ..))

/-- The 320 bytes of a statistics slot. -/
def World.statSlot (w : World) (n k : Nat) : List Byte := w.hbmBytes (statBase n k) 320

theorem World.statSlot_length (w : World) (n k : Nat) : (w.statSlot n k).length = 320 := Cells.read_length ..

theorem statBase_apart (n : Nat) {j k : Nat} (h : j ≠ k) : statBase n j + 320 ≤ statBase n k ∨ statBase n k + 320 ≤ statBase n j := by
  unfold statBase
  omega

/-- What an update writes is what it makes of the bytes. -/
theorem World.hbmBytes_update {w : World} {m : Option Nat} {a len : Nat} {f : List Byte → List Byte} (hbus : w.hbm.busBad = [])
    (h64 : len % 64 = 0) (hf : (f (w.hbmBytes a len)).length = len) : (w.hbmUpdate m a len f).hbmBytes a len = f (w.hbmBytes a len) := by
  have hread := Cells.read_write w.hbm.mem.cells a (f (w.hbmBytes a len))
  rw [hf] at hread
  rw [World.hbmBytes, (World.hbmUpdate_cells (n := m) hbus h64 hf).1]
  exact hread

/-- An update leaves the bytes behind and before its own. -/
theorem World.hbmBytes_update_apart {w : World} {m : Option Nat} {a len b n : Nat} {f : List Byte → List Byte} (hbus : w.hbm.busBad = [])
    (h64 : len % 64 = 0) (hf : (f (w.hbmBytes a len)).length = len) (hab : a + len ≤ b ∨ b + n ≤ a) :
    (w.hbmUpdate m a len f).hbmBytes b n = w.hbmBytes b n := by
  rw [World.hbmBytes, (World.hbmUpdate_cells (n := m) hbus h64 hf).1]
  exact Cells.read_write_apart (by rwa [hf])

/-- An update of one slot leaves the others. -/
theorem World.statSlot_update {w : World} (hbus : w.hbm.busBad = []) (m : Option Nat) (n j k : Nat) {f : List Byte → List Byte}
    (hf : (f (w.statSlot n j)).length = 320) :
    (w.hbmUpdate m (statBase n j) 320 f).statSlot n k = (if k = j then f (w.statSlot n j) else w.statSlot n k) ∧
      (w.hbmUpdate m (statBase n j) 320 f).hbm.busBad = [] := by
  have hlen : 320 % 64 = 0 := rfl
  unfold World.statSlot at hf ⊢
  refine ⟨?_, (World.hbmUpdate_cells (n := m) hbus hlen hf).2⟩
  split
  · next hkj =>
    rw [hkj]
    exact World.hbmBytes_update hbus hlen hf
  · next hkj =>
    exact World.hbmBytes_update_apart hbus hlen hf (statBase_apart n (Ne.symm hkj))

theorem World.statAdvance_slot {w : World} (hbus : w.hbm.busBad = []) (n j k : Nat) :
    (World.statAdvance n w j).statSlot n k = (if k = j then shiftSlot (w.statSlot n j) else w.statSlot n k) ∧
      (World.statAdvance n w j).hbm.busBad = [] := by
  unfold World.statAdvance
  split
  · next hempty =>
    have hsame : shiftSlot (w.statSlot n j) = w.statSlot n j := if_pos hempty
    refine ⟨?_, hbus⟩
    split
    · next hkj => rw [hsame, hkj]
    · rfl
  · exact World.statSlot_update hbus _ n j k (shiftSlot_length (World.statSlot_length ..))

theorem foldl_statAdvance (n : Nat) : ∀ (l : List Nat) (w : World), w.hbm.busBad = [] → l.Nodup →
    (∀ k, (l.foldl (World.statAdvance n) w).statSlot n k = if k ∈ l then shiftSlot (w.statSlot n k) else w.statSlot n k) ∧
      (l.foldl (World.statAdvance n) w).hbm.busBad = [] := by
  intro l
  induction l with
  | nil => exact fun w hbus _ => ⟨fun k => rfl, hbus⟩
  | cons j l ih =>
    intro w hbus hl
    obtain ⟨hj, hl⟩ := List.nodup_cons.1 hl
    have hbus' := (World.statAdvance_slot hbus n j j).2
    obtain ⟨hslots, hbad⟩ := ih (World.statAdvance n w j) hbus' hl
    rw [List.foldl_cons]
    refine ⟨fun k => ?_, hbad⟩
    rw [hslots, (World.statAdvance_slot hbus n j k).1]
    by_cases hk : k = j
    · subst hk
      simp [hj]
    · simp [hk]

theorem statBase_le_predBase (n j : Nat) {k : Nat} (hk : k < 4096) : statBase n k + 320 ≤ predBase n j := by
  unfold statBase predBase
  generalize slotBase n = base
  omega

/-- An update of a predictor slot leaves the statistics slots. -/
theorem World.predSlot_update {w : World} (hbus : w.hbm.busBad = []) (n new j : Nat) {k : Nat} (hk : k < 4096) :
    (w.hbmUpdate (some n) (predBase n j) 64 fun b => slotAdvance b new).statSlot n k = w.statSlot n k ∧
      (w.hbmUpdate (some n) (predBase n j) 64 fun b => slotAdvance b new).hbm.busBad = [] := by
  have hlen : 64 % 64 = 0 := rfl
  have hf : ((fun b => slotAdvance b new) (w.hbmBytes (predBase n j) 64)).length = 64 := slotAdvance_length new (Cells.read_length ..)
  exact ⟨World.hbmBytes_update_apart hbus hlen hf (.inr (statBase_le_predBase n j hk)), (World.hbmUpdate_cells (n := some n) hbus hlen hf).2⟩

theorem World.predAdvance_slot {w : World} (hbus : w.hbm.busBad = []) (n new j : Nat) {k : Nat} (hk : k < 4096) :
    (World.predAdvance n new w j).statSlot n k = w.statSlot n k ∧ (World.predAdvance n new w j).hbm.busBad = [] := by
  unfold World.predAdvance
  split
  · exact World.predSlot_update (w := { w with nums := { w.nums with thrChanges := bump 64 w.nums.thrChanges 1 } }) hbus n new j hk
  · exact World.predSlot_update hbus n new j hk

theorem foldl_predAdvance (n new : Nat) {k : Nat} (hk : k < 4096) : ∀ (l : List Nat) (w : World), w.hbm.busBad = [] →
    (l.foldl (World.predAdvance n new) w).statSlot n k = w.statSlot n k := by
  intro l
  induction l with
  | nil => exact fun w _ => rfl
  | cons j l ih =>
    intro w hbus
    obtain ⟨hslot, hbad⟩ := World.predAdvance_slot hbus n new j hk
    exact (ih _ hbad).trans hslot

theorem insertNat_pairwise {k : Nat} : ∀ {l : List Nat}, l.Pairwise (· < ·) → (insertNat k l).Pairwise (· < ·)
  | [], _ => List.pairwise_singleton ..
  | j :: js, h => by
    obtain ⟨hj, hjs⟩ := List.pairwise_cons.1 h
    unfold insertNat
    split
    · next hkj => exact List.pairwise_cons.2 ⟨fun x hx => by
        obtain rfl | hx := List.mem_cons.1 hx
        · exact hkj
        · exact Nat.lt_trans hkj (hj x hx), h⟩
    split
    · exact h
    · refine List.pairwise_cons.2 ⟨fun x hx => ?_, insertNat_pairwise hjs⟩
      obtain rfl | hx := mem_insertNat.1 hx
      · omega
      · exact hj x hx

theorem foldl_insertNat_pairwise : ∀ (l acc : List Nat), acc.Pairwise (· < ·) → (l.foldl (fun acc k => insertNat k acc) acc).Pairwise (· < ·)
  | [], _, h => h
  | _ :: l, _, h => foldl_insertNat_pairwise l _ (insertNat_pairwise h)

theorem mem_foldl_insertNat {x : Nat} : ∀ {l acc : List Nat}, x ∈ l.foldl (fun acc k => insertNat k acc) acc ↔ x ∈ l ∨ x ∈ acc
  | [], acc => by simp
  | k :: l, acc => by
    rw [List.foldl_cons, mem_foldl_insertNat, mem_insertNat, List.mem_cons]
    exact or_left_comm.trans or_assoc.symm

theorem World.liveSlots_nodup (w : World) (n : Nat) : (w.liveSlots n).Nodup :=
  (foldl_insertNat_pairwise _ [] List.Pairwise.nil).imp fun h => Nat.ne_of_lt h

theorem Cells.mem_of_get {m : List Host.Cell} {a : Nat} (h : Cells.get m a ≠ 0) : ∃ b, (a, b) ∈ m := by
  induction m with
  | nil => exact absurd rfl h
  | cons c m ih =>
    obtain ⟨j, b⟩ := c
    unfold Cells.get at h
    split at h
    · next hj => exact ⟨b, hj ▸ List.mem_cons_self ..⟩
    · obtain ⟨x, hx⟩ := ih h
      exact ⟨x, .tail _ hx⟩

theorem statBase_eq (n k : Nat) : statBase n k = statBase n 0 + 320 * k := rfl

/-- A slot that holds anything is one of the live ones. -/
theorem World.mem_liveSlots {w : World} {n k i : Nat} (hk : k < 4096) (hi : i < 320) (h : Cells.get w.hbm.mem.cells (statBase n k + i) ≠ 0) :
    k ∈ w.liveSlots n := by
  obtain ⟨b, hb⟩ := Cells.mem_of_get h
  have hslot : (statBase n k + i - statBase n 0) / 320 = k := by
    rw [statBase_eq n k]
    omega
  have hlow : statBase n 0 ≤ statBase n k + i := by
    rw [statBase_eq n k]
    omega
  have hhigh : statBase n k + i < statBase n 4096 := by
    rw [statBase_eq n k, statBase_eq n 4096]
    omega
  have hfilter : (decide (statBase n 0 ≤ (statBase n k + i, b).1) && decide ((statBase n k + i, b).1 < statBase n 4096)) = true := by
    rw [decide_eq_true hlow, decide_eq_true hhigh]
    rfl
  generalize statBase n k + i = a at hb hslot hfilter
  have hlive : (a, b) ∈ w.hbm.mem.cells.filter fun c => decide (statBase n 0 ≤ c.1) && decide (c.1 < statBase n 4096) := List.mem_filter.2 ⟨hb, hfilter⟩
  rw [World.liveSlots, mem_foldl_insertNat, List.mem_map]
  exact .inl ⟨(a, b), hlive, hslot⟩

theorem leNat_eq_zero {bs : List Byte} (h : ∀ b ∈ bs, b = 0) : leNat bs = 0 := by
  induction bs with
  | nil => rfl
  | cons b bs ih =>
    rw [leNat, h b (List.mem_cons_self ..), ih fun x hx => h x (.tail _ hx)]
    rfl

theorem World.shiftSlot_of_not_live {w : World} {n k : Nat} (hk : k < 4096) (h : k ∉ w.liveSlots n) : shiftSlot (w.statSlot n k) = w.statSlot n k := by
  refine if_pos (leNat_eq_zero fun b hb => ?_)
  refine Decidable.byContradiction fun hne => ?_
  rw [sl_eq_take_drop (by rw [World.statSlot_length]; omega)] at hb
  obtain ⟨i, hi, rfl⟩ := List.mem_map.1 (List.mem_of_mem_drop (List.mem_of_mem_take hb))
  exact h (World.mem_liveSlots hk (List.mem_range.1 hi) hne)

theorem World.setCtx_statSlot (w : World) (n : Nat) (x : Ctx) (m k : Nat) : (w.setCtx n x).statSlot m k = w.statSlot m k := rfl

/-- An advance shifts the history of every slot that has an entry (R54). -/
theorem World.advanceSlots_slot {w : World} (hbus : w.hbm.busBad = []) (n new : Nat) {k : Nat} (hk : k < 4096) :
    (w.advanceSlots n new).statSlot n k = shiftSlot (w.statSlot n k) := by
  obtain ⟨hslots, hbad⟩ := foldl_statAdvance n (w.liveSlots n) w hbus (w.liveSlots_nodup n)
  have hmoved : (w.slotsMoved n new).statSlot n k = shiftSlot (w.statSlot n k) := by
    refine (foldl_predAdvance n new hk _ _ hbad).trans ?_
    rw [hslots]
    split
    · rfl
    · next hdead => exact (World.shiftSlot_of_not_live hk hdead).symm
  calc (w.advanceSlots n new).statSlot n k
      = ((w.slotsMoved n new).setCtx n _).statSlot n k := congrArg (fun u : World => u.statSlot n k) (World.advanceSlots_eq w n new)
    _ = (w.slotsMoved n new).statSlot n k := World.setCtx_statSlot ..
    _ = shiftSlot (w.statSlot n k) := hmoved

/-! ### The fields of a slot -/

/-- A field behind others. -/
theorem sl_skip {pre : List Byte} {off m : Nat} (n : Nat) (rest : List Byte) (hpre : pre.length = m) (h : m ≤ off) :
    sl (pre ++ rest) off n = sl rest (off - m) n := by
  rw [sl_append_right _ _ (by omega), hpre]

theorem le_skip {pre : List Byte} {off m : Nat} (n : Nat) (rest : List Byte) (hpre : pre.length = m) (h : m ≤ off) :
    le (pre ++ rest) off n = le rest (off - m) n := congrArg leNat (sl_skip n rest hpre h)

/-- The field at the front. -/
theorem sl_front {x : List Byte} {off n : Nat} (post : List Byte) (h0 : off = 0) (hx : x.length = n) : sl (x ++ post) off n = x := by
  rw [h0, sl_append_left _ (by omega), sl_eq_take_drop (by omega), List.drop_zero, List.take_of_length_le (Nat.le_of_eq hx)]

theorem le_front {off : Nat} (n v : Nat) (post : List Byte) (h0 : off = 0) : le (leBytes n v ++ post) off n = v % 256 ^ n := by
  rw [le, sl_front post h0 (leBytes_length ..), leNat_leBytes]

theorem sl_whole {x : List Byte} {off n : Nat} (h0 : off = 0) (hx : x.length = n) : sl x off n = x := by
  rw [h0, sl_eq_take_drop (by omega), List.drop_zero, List.take_of_length_le (Nat.le_of_eq hx)]

theorem shiftSlot_fields {b : List Byte} (hb : b.length = 320) (h : 0 < le b 0 4) :
    le (shiftSlot b) 0 4 = min 64 (le b 0 4 + 1) ∧ le (shiftSlot b) 64 4 = 0 ∧ sl (shiftSlot b) 4 60 = sl b 4 60 ∧
      ∀ i, i < 63 → le (shiftSlot b) (64 + 4 * (i + 1)) 4 = le b (64 + 4 * i) 4 := by
  have hshift : shiftSlot b = leBytes 4 (min 64 (le b 0 4 + 1)) ++ sl b 4 60 ++ leBytes 4 0 ++ sl b 64 252 := if_neg (Nat.ne_of_gt h)
  have h4 : ∀ v, (leBytes 4 v).length = 4 := leBytes_length 4
  have h60 : (sl b 4 60).length = 60 := sl_length ..
  rw [hshift]
  generalize le b 0 4 = valid
  simp only [List.append_assoc]
  refine ⟨?_, ?_, ?_, fun i hi => ?_⟩
  · rw [le_front 4 _ _ rfl]
    omega
  · rw [le_skip 4 _ (h4 _) (by omega), le_skip 4 _ h60 (by omega)]
    exact le_front 4 _ _ rfl
  · rw [sl_skip 60 _ (h4 _) (Nat.le_refl _), sl_front _ rfl h60]
  · have hoff : 64 + 4 * (i + 1) - 4 - 60 - 4 = 4 * i := by omega
    rw [le_skip 4 _ (h4 _) (by omega), le_skip 4 _ h60 (by omega), le_skip 4 _ (h4 _) (by omega), hoff, le, sl_sl (by omega) (by omega)]
    rfl

/-- A slot laid out field by field. -/
theorem slotFields (valid retries sat clamped top : Nat) {x y z : List Byte} (hx : x.length = 1) (hy : y.length = 47) (hz : z.length = 252) :
    let b := leBytes 4 valid ++ leBytes 4 retries ++ leBytes 4 sat ++ leBytes 4 clamped ++ x ++ y ++ leBytes 4 top ++ z
    le b 0 4 = valid % 2 ^ 32 ∧ le b 4 4 = retries % 2 ^ 32 ∧ le b 8 4 = sat % 2 ^ 32 ∧ le b 12 4 = clamped % 2 ^ 32 ∧
      le b 64 4 = top % 2 ^ 32 ∧ sl b 68 252 = z := by
  have h4 : ∀ v, (leBytes 4 v).length = 4 := leBytes_length 4
  intro b
  unfold b
  simp only [List.append_assoc]
  refine ⟨?_, ?_, ?_, ?_, ?_, ?_⟩
  · exact le_front 4 _ _ rfl
  · rw [le_skip 4 _ (h4 _) (by omega)]
    exact le_front 4 _ _ rfl
  · rw [le_skip 4 _ (h4 _) (by omega), le_skip 4 _ (h4 _) (by omega)]
    exact le_front 4 _ _ rfl
  · rw [le_skip 4 _ (h4 _) (by omega), le_skip 4 _ (h4 _) (by omega), le_skip 4 _ (h4 _) (by omega)]
    exact le_front 4 _ _ rfl
  · rw [le_skip 4 _ (h4 _) (by omega), le_skip 4 _ (h4 _) (by omega), le_skip 4 _ (h4 _) (by omega), le_skip 4 _ (h4 _) (by omega),
      le_skip 4 _ hx (by omega), le_skip 4 _ hy (by omega)]
    exact le_front 4 _ _ rfl
  · rw [sl_skip 252 _ (h4 _) (by omega), sl_skip 252 _ (h4 _) (by omega), sl_skip 252 _ (h4 _) (by omega), sl_skip 252 _ (h4 _) (by omega),
      sl_skip 252 _ hx (by omega), sl_skip 252 _ hy (by omega), sl_skip 252 _ (h4 _) (by omega)]
    exact sl_whole rfl hz

theorem foldSlot_fields (b : List Byte) (retries sat clamped : Nat) (last : Option Int) (amaxs : List Dy) :
    let f := foldSlot b retries sat clamped last amaxs
    le f 0 4 = (if amaxs.isEmpty then le b 0 4 else max (le b 0 4) 1) % 2 ^ 32 ∧ le f 4 4 = (le b 4 4 + retries) % 2 ^ 32 ∧
      le f 8 4 = (le b 8 4 + sat) % 2 ^ 32 ∧ le f 12 4 = (le b 12 4 + clamped) % 2 ^ 32 ∧
      le f 64 4 = (if amaxs.isEmpty then le b 64 4 else amaxs.foldl (fun top a => max top (f32Up a)) (le b 64 4)) % 2 ^ 32 ∧
      sl f 68 252 = sl b 68 252 := by
  have hone : (match last with | some s => leBytes 1 (ux 8 s) | none => sl b 16 1).length = 1 := by
    cases last with
    | none => exact sl_length ..
    | some s => exact leBytes_length ..
  obtain ⟨hvalid, hretries, hsat, hclamped, htop, hrest⟩ := slotFields (if amaxs.isEmpty then le b 0 4 else max (le b 0 4) 1)
    (bump 32 (le b 4 4) retries) (bump 32 (le b 8 4) sat) (bump 32 (le b 12 4) clamped)
    (if amaxs.isEmpty then le b 64 4 else amaxs.foldl (fun top a => max top (f32Up a)) (le b 64 4)) hone (sl_length b 17 47) (sl_length b 68 252)
  exact ⟨hvalid, hretries.trans (Nat.mod_mod ..), hsat.trans (Nat.mod_mod ..), hclamped.trans (Nat.mod_mod ..), htop, hrest⟩

theorem World.withNums_statSlot (w : World) (x : Nums) (n k : Nat) : ({ w with nums := x } : World).statSlot n k = w.statSlot n k := rfl

/-- A fold writes its slot (R54). -/
theorem World.foldInto_slot {w : World} (hbus : w.hbm.busBad = []) (n k : Nat) (v : Conv) :
    (w.foldInto n k v).statSlot n k = foldSlot (w.statSlot n k) v.retries v.satTiles.length v.clamped v.last v.amaxs := by
  have hlen : (foldSlot (w.statSlot n k) v.retries v.satTiles.length v.clamped v.last v.amaxs).length = 320 := foldSlot_length ..
  have hslot := (World.statSlot_update hbus (some n) n k k (f := fun b => foldSlot b v.retries v.satTiles.length v.clamped v.last v.amaxs) hlen).1
  rw [if_pos rfl] at hslot
  exact (World.withNums_statSlot _ _ n k).trans hslot

/-- What an advance and a fold make of a slot (R54). -/
theorem statSlots_follow (w : World) (n new k : Nat) (v : Conv) (hk : k < 4096) (hbus : w.hbm.busBad = []) :
    let old := w.hbmBytes (statBase n k) 320
    let shifted := (w.advanceSlots n new).hbmBytes (statBase n k) 320
    let folded := (w.foldInto n k v).hbmBytes (statBase n k) 320
    (le old 0 4 = 0 → shifted = old) ∧
    (0 < le old 0 4 → le shifted 0 4 = min 64 (le old 0 4 + 1) ∧ le shifted 64 4 = 0 ∧ sl shifted 4 60 = sl old 4 60 ∧
      ∀ i, i < 63 → le shifted (64 + 4 * (i + 1)) 4 = le old (64 + 4 * i) 4) ∧
    le folded 4 4 = (le old 4 4 + v.retries) % 2 ^ 32 ∧ le folded 8 4 = (le old 8 4 + v.satTiles.length) % 2 ^ 32 ∧
    le folded 12 4 = (le old 12 4 + v.clamped) % 2 ^ 32 ∧ sl folded 68 252 = sl old 68 252 ∧
    (v.amaxs = [] → le folded 0 4 = le old 0 4 ∧ le folded 64 4 = le old 64 4) ∧
    (v.amaxs ≠ [] → le folded 0 4 = max 1 (le old 0 4) ∧
      le folded 64 4 = v.amaxs.foldl (fun top a => max top (f32Up a)) (le old 64 4) % 2 ^ 32) := by
  intro old shifted folded
  have hold : old.length = 320 := World.statSlot_length ..
  have hshifted : shifted = shiftSlot old := World.advanceSlots_slot hbus n new hk
  have hfolded : folded = foldSlot old v.retries v.satTiles.length v.clamped v.last v.amaxs := World.foldInto_slot hbus n k v
  have hword : ∀ off, le old off 4 % 2 ^ 32 = le old off 4 := fun off => Nat.mod_eq_of_lt (le_lt old off 4)
  clear_value old shifted folded
  obtain ⟨hvalid, hretries, hsat, hclamped, htop, hrest⟩ := foldSlot_fields old v.retries v.satTiles.length v.clamped v.last v.amaxs
  rw [← hfolded] at hvalid hretries hsat hclamped htop hrest
  refine ⟨fun h => hshifted.trans (if_pos h), fun h => ?_, hretries, hsat, hclamped, hrest, fun h => ?_, fun h => ?_⟩
  · rw [hshifted]
    exact shiftSlot_fields hold h
  · have hnone : v.amaxs.isEmpty = true := by rw [h]; rfl
    rw [hnone, if_pos rfl, hword] at hvalid htop
    exact ⟨hvalid, htop⟩
  · have hsome : ¬ v.amaxs.isEmpty = true := by rwa [List.isEmpty_iff]
    have hlt := hword 0
    rw [if_neg hsome] at hvalid htop
    exact ⟨by omega, htop⟩

/-! ## SIGNAL, FENCE, EVENT, END and STEP -/

/-- Settles O27, clause by clause: the records that only end (`scalarRan_done`), STEP by `execStepRec_of_head`, the slots by `statSlots_follow`. -/
theorem synchronisingRecordsComplete : Obligations.SynchronisingRecordsComplete := by
  unfold Obligations.SynchronisingRecordsComplete
  refine ⟨fun s c e idx r hok => ⟨fun h hres hnone => ?_, fun h hres hsome => ?_, fun h hres hnone => ?_, fun h => ?_, fun h => ?_⟩,
    fun s c e idx r h hok hlt => ⟨fun heq => ?_, fun hgt hck hsnap => ?_, fun hgt hck hsnap => ?_, fun hless => ?_⟩, ?_⟩
  · have hexec : exec (.signal c) s = execSignal c s := rfl
    have hgood : ¬ (scalarBad e r || fld r.imm.toNat 63 4 != 0) = true := by simp [hok, hres]
    have hrow : s.scalarHead c (isOp 0x09) = some (e, idx, r) := h
    obtain ⟨-, -, -, hc⟩ := State.head_of_scalarHead h
    rw [hexec, execSignal, hrow]
    dsimp only
    rw [if_neg hgood, if_pos (by rw [hnone]; rfl)]
    refine ⟨_, rfl, scalarRan_done h _, fun hen => ?_⟩
    exact (endScalar_signals hok hen).trans (by rw [hc])
  · have hexec : exec (.signal c) s = execSignal c s := rfl
    have hgood : ¬ (scalarBad e r || fld r.imm.toNat 63 4 != 0) = true := by simp [hok, hres]
    have hrow : s.scalarHead c (isOp 0x09) = some (e, idx, r) := h
    rw [hexec, execSignal, hrow]
    dsimp only
    rw [if_neg hgood, if_neg (by rwa [List.isEmpty_iff])]
    refine ⟨_, rfl, ?_, rfl, rfl, ?_, ?_⟩
    · exact (congrArg Core.deferred (World.core_setCore ..)).trans rfl
    · exact (congrArg Core.nextIdx (World.core_setCore ..)).trans rfl
    · exact (congrArg Core.regs (World.core_setCore ..)).trans rfl
  · have hexec : exec (.fence c) s = execFence c s := rfl
    have hgood : ¬ (scalarBad e r || fld r.imm.toNat 63 4 != 0) = true := by simp [hok, hres]
    have hrow : s.scalarHead c (isOp 0x0A) = some (e, idx, r) := h
    rw [hexec, execFence, hrow]
    dsimp only
    rw [if_neg hgood, if_pos (by rw [hnone]; rfl)]
    exact ⟨_, rfl, scalarRan_done h _⟩
  · obtain ⟨-, -, -, hc⟩ := State.head_of_scalarHead h
    have hexec : exec (.eventRec c) s = s.scalar c (isOp 0x0D) fun w e idx r => { w := w.recordEvent e r stOk, next := add32 idx 1 } := rfl
    intro event
    have hrow : s.scalarHead c (isOp 0x0D) = some (e, idx, r) := h
    have hevent : s.w.recordEvent e r stOk = event := by rw [World.recordEvent, hc]
    rw [hexec, State.scalar_runs hrow hok, hevent]
    refine ⟨rfl, ?_, rfl⟩
    exact scalarRan_side h (World.event_side ..) rfl _
  · obtain ⟨-, -, -, hc⟩ := State.head_of_scalarHead h
    have hexec : exec (.endRec c) s = s.scalar c (isOp 0x0E) fun w e idx _ =>
      { w := w.setCore e.c { w.core e.c with ended := true, endTail := (w.ctx e.n).tail, buf := (w.core e.c).buf.take 1 }, next := add32 idx 1 } := rfl
    have hrow : s.scalarHead c (isOp 0x0E) = some (e, idx, r) := h
    rw [hexec, State.scalar_runs hrow hok]
    dsimp only
    generalize hk : ({ s.w.core e.c with ended := true, endTail := (s.w.ctx e.n).tail, buf := (s.w.core e.c).buf.take 1 } : Core) = k
    have hended : k.ended = true ∧ k.endTail = (s.w.ctx e.n).tail ∧ k.regs = (s.w.core c).regs := by
      rw [← hk, hc]
      exact ⟨rfl, rfl, rfl⟩
    obtain ⟨hstop, htail, hregs⟩ := World.endScalar_ended (w := s.w.setCore e.c k) (e := e) (idx := idx) (r := r) (next := add32 idx 1)
      (by rw [World.core_setCore]; exact hended.1)
    rw [World.core_setCore] at htail hregs
    generalize World.endScalar _ e idx r stOk (add32 idx 1) = u at hstop htail hregs ⊢
    rw [hc] at hstop htail hregs
    exact ⟨_, rfl, htail.trans hended.2.1, hregs.trans hended.2.2, hstop, rfl⟩
  · rw [execStepRec_of_head h hok hlt, if_neg (Nat.not_lt.2 (Nat.le_of_eq heq.symm)), if_pos heq]
    refine ⟨_, rfl, ?_, scalarRan_done h _⟩
    exact ((World.endScalar_ends (st := stOk) rfl s.w e idx r _).2.2.2.2.2.1 e.n).trans heq.symm
  · rw [execStepRec_of_head h hok hlt, if_neg (Nat.not_lt.2 (Nat.le_of_lt hgt)), if_neg (Nat.ne_of_gt hgt), if_neg hck, if_neg hsnap]
  · rw [execStepRec_of_head h hok hlt, if_neg (Nat.not_lt.2 (Nat.le_of_lt hgt)), if_neg (Nat.ne_of_gt hgt), if_neg hck, if_pos hsnap]
    generalize e.r.coreList.foldl State.stopCore s = u
    obtain ⟨hcore, hhbm, hctxs, hsnap⟩ := World.snapDrained_frame (u.w.advanceSlots e.n r.imm.toNat) c r.imm.toNat e
    have hquiet := World.advanceSlots_quiet u.w e.n r.imm.toNat
    refine ⟨_, rfl, rfl, ?_, ?_, ?_, ?_, ?_⟩
    · exact hsnap.trans (by rw [hquiet.snap])
    · exact congrArg Core.stepWait hcore
    · exact (congrArg Core.buf hcore).trans (by rw [hquiet.core])
    · refine Eq.trans ?_ (hquiet.step e.n)
      simp only [World.ctx, hctxs, State.withW_frame]
    · exact hhbm
  · rw [execStepRec_of_head h hok hlt, if_pos hless]
  · exact fun w n new k v hk hbus => statSlots_follow w n new k v hk hbus

end Sys2Proof.Machine

/-! PROOFS. The engine queues: what reading leaves, and the rows that run whole. -/
namespace Sys2Proof.Machine

/-! ## What reading leaves -/

/-- The world differs in what reading may change: no byte but a poison tag, no queue of an engine, nothing of the Seam. -/
structure World.Reads (w u : World) : Prop where
  bytes : ∀ c m, sameBytes m ((w.core c).mem m) ((u.core c).mem m)
  cells : u.hbm.mem.cells = w.hbm.mem.cells
  queue : ∀ c q, (u.core c).queue q = (w.core c).queue q
  seam : u.seam = w.seam

theorem World.Reads.refl (w : World) : w.Reads w := ⟨fun _ _ _ _ => rfl, rfl, fun _ _ => rfl, rfl⟩

theorem World.Reads.trans {w u v : World} (a : w.Reads u) (b : u.Reads v) : w.Reads v where
  bytes c m i h := (b.bytes c m i h).trans (a.bytes c m i h)
  cells := b.cells.trans a.cells
  queue c q := (b.queue c q).trans (a.queue c q)
  seam := b.seam.trans a.seam

theorem World.Reads.foldl {α : Type} {f : World → α → World} (h : ∀ (w : World) (x : α), w.Reads (f w x)) (l : List α) (w : World) : w.Reads (l.foldl f w) := by
  induction l generalizing w with
  | nil => exact .refl w
  | cons x l ih => exact (h w x).trans (ih _)

theorem World.Reads.ite {w u v : World} {p : Prop} [Decidable p] (a : w.Reads u) (b : w.Reads v) : w.Reads (if p then u else v) := by
  split
  · exact a
  · exact b

theorem World.OnlyRead.reads {w u : World} (h : w.OnlyRead u) : w.Reads u where
  bytes := h.bytes
  cells := h.cells
  queue c q := by
    rw [h.core c]
    cases q <;> rfl
  seam := h.seam

/-- What a change beside the cores and HBM's bytes leaves. -/
theorem World.Side.reads {w u : World} (h : w.Side u) (hcells : u.hbm.mem.cells = w.hbm.mem.cells) : w.Reads u where
  bytes c m i _ := by rw [h.core]
  cells := hcells
  queue c q := by rw [h.core]
  seam := by
    obtain ⟨_, _, _, _, _, _, _, _, rfl⟩ := h
    rfl

theorem World.meetBus_reads (w : World) (n : Option Nat) (l : List Nat) : w.Reads (w.meetBus n l) :=
  (World.meetBus_side w n l).reads (World.meetBus_cells w n l)

theorem World.readBlocks_reads (w : World) (n : Option Nat) (l : List Nat) : w.Reads (w.readBlocks n l) := (World.onlyRead_readBlocks w n l).reads

theorem World.touch_reads (w : World) (c : Nat) (n : Option Nat) (m : CoreMem) (l : List Nat) : w.Reads (w.touch c n m l) :=
  (World.onlyRead_touch w c n m l).reads

theorem World.setDie_reads (w : World) (d : Nat) (x : Die) : w.Reads (w.setDie d x) :=
  ⟨fun _ _ _ _ => rfl, rfl, fun _ _ => rfl, rfl⟩

theorem World.loadLine_reads (w : World) (c : Nat) (n : Option Nat) (line : Nat) : w.Reads (w.loadLine c n line) := by
  unfold World.loadLine
  dsimp only
  split
  · exact World.setDie_reads ..
  · exact ((World.meetBus_reads w n _).trans (World.readBlocks_reads ..)).trans (World.setDie_reads ..)

theorem World.loadBlocks_reads (w : World) (c : Nat) (n : Option Nat) (noalloc : Bool) (l : List Nat) : w.Reads (w.loadBlocks c n noalloc l) := by
  unfold World.loadBlocks
  split
  · exact (World.meetBus_reads ..).trans (World.readBlocks_reads ..)
  · exact .foldl (fun w l => World.loadLine_reads w c n l) _ w

theorem World.readSpans_reads (w : World) (e : Env) (pages : List (Nat × Nat)) (space : Nat) (noalloc : Bool) (l : List (Nat × Nat)) :
    w.Reads (w.readSpans e pages space noalloc l) := .ite (World.loadBlocks_reads ..) (World.touch_reads ..)

/-- A core's own counts and settings are no memory and no queue. -/
theorem World.setCore_reads (w : World) (c : Nat) (k : Core) (hmem : ∀ m, k.mem m = (w.core c).mem m) (hqueue : ∀ q, k.queue q = (w.core c).queue q) :
    w.Reads (w.setCore c k) where
  bytes d m i _ := by
    by_cases hd : d = c
    · rw [hd, World.core_setCore, hmem]
    · rw [World.core_setCore_ne _ _ hd]
  cells := rfl
  queue d q := by
    by_cases hd : d = c
    · rw [hd, World.core_setCore, hqueue]
    · rw [World.core_setCore_ne _ _ hd]
  seam := rfl

theorem World.countOob_reads (w : World) (c fill drop : Nat) : w.Reads (w.countOob c fill drop) := by
  refine .ite (.refl w) (World.setCore_reads w c _ (fun m => ?_) fun q => ?_)
  · cases m <;> rfl
  · cases q <;> rfl

theorem State.starting_core {s : State} {c : Nat} {q : Queue} {e : Env} {t : Entry} (h : s.starting c q = some (e, t)) : e.c = c := by
  unfold State.starting at h
  split at h
  · cases h
  · next e' henv =>
    have hc := State.env_core henv
    split at h
    · split at h
      · split at h
        · obtain ⟨rfl, -⟩ := Prod.mk.inj (Option.some.inj h)
          exact hc
        · cases h
      · cases h
    · cases h

/-! ## Rows that run whole (R80, R81, R83) -/

/-- What a record that has run leaves beside its own entry. -/
theorem Core.mark_frame (k : Core) (q : Queue) (id : Nat) (st : EntrySt) :
    (∀ x ∈ (k.mark q id st).queue q, x.id = id → x.st = st) ∧ (∀ p, p ≠ q → (k.mark q id st).queue p = k.queue p) ∧
      ∀ m, (k.mark q id st).mem m = k.mem m := by
  refine ⟨fun x hx hid => ?_, fun p hp => Core.queue_setQueue_ne k _ hp, (Core.setQueue_frame k q _).2.2.2.1⟩
  rw [Core.mark, Core.queue_setQueue] at hx
  obtain ⟨t, -, rfl⟩ := List.mem_map.1 hx
  by_cases hown : t.id = id
  · rw [if_pos hown]
  · rw [if_neg hown] at hid
    exact absurd hid hown

/-- A command that runs whatever record of its row starts at its queue completes the row. -/
theorem rowCompletes_of_runRow {i : CoreId → Instr} {q : Queue} {row : Record → Prop} {run : State → World → Env → Entry → Run} {rowB : Record → Bool}
    (hexec : ∀ c s, exec (i c) s = .next (s.withW (s.runRow c q rowB (run s)))) (hrow : ∀ r, row r → rowB r = true) : RowCompletes i q row run := by
  intro s c e t hstart ht R _
  have hrun : exec (i c) s = .next (Finished s R.w c q t.id R.st R.count R.flags) := by
    rw [hexec, State.runRow, hstart]
    dsimp only
    rw [if_pos (hrow _ ht)]
    rfl
  refine ⟨hrun, fun u hu => ?_⟩
  obtain rfl : u = Finished s R.w c q t.id R.st R.count R.flags := (Host.Outcome.next.inj (hrun.symm.trans hu)).symm
  have hcore : (Finished s R.w c q t.id R.st R.count R.flags).w.core c = (R.w.core c).mark q t.id (.done R.st R.count R.flags) := World.core_setCore ..
  obtain ⟨hown, hothers, hmem⟩ := Core.mark_frame (R.w.core c) q t.id (.done R.st R.count R.flags)
  rw [hcore]
  exact ⟨rfl, hown, hothers, hmem, fun d hd => World.core_setCore_ne _ _ hd, rfl⟩

theorem fld_low (x hi : Nat) : fld x hi 0 = x % 2 ^ (hi + 1) := by simp [fld]

theorem vrow_of {op sub : Nat} (r : Record) (h : r.op.toNat = op ∧ r.opflags.toNat % 256 = sub) : vrow op sub r = true := by
  have hfld : fld r.opflags.toNat 7 0 = sub := (fld_low ..).trans h.2
  rw [vrow, hfld, h.1, beq_self_eq_true, beq_self_eq_true]
  rfl

theorem op_beq {op : Nat} {r : Record} (h : r.op.toNat = op) : (r.op == BitVec.ofNat 8 op) = true := by
  rw [beq_iff_eq, ← h, BitVec.ofNat_toNat, BitVec.setWidth_eq]

theorem isMask_of {op sel : Nat} (r : Record) (h : r.op.toNat = op ∧ r.opflags.toNat / 16 % 8 = sel) : isMask op sel r = true := by
  have hfld : fld r.opflags.toNat 6 4 = sel :=
    (congrArg (· % 2 ^ 3) (Nat.shiftRight_eq_div_pow ..)).trans h.2
  rw [isMask, hfld, h.1, beq_self_eq_true, beq_self_eq_true]
  rfl

theorem loadw_of {mode : Nat} (r : Record) (h : r.op.toNat = 0x21 ∧ r.opflags.toNat % 4 = mode) : (r.op == 0x21 && loadwMode r == mode) = true := by
  have hfld : loadwMode r = mode := (fld_low ..).trans h.2
  rw [hfld, beq_self_eq_true, Bool.and_true]
  exact op_beq h.1

/-- Settles O32: each row is a `runRow` of its opcode and subcode. -/
theorem vectorRecordsComplete : Obligations.VectorRecordsComplete := by
  unfold Obligations.VectorRecordsComplete
  have vew {i : CoreId → Instr} {op sub : Nat} {f : World → Env → Entry → Run}
      (h : ∀ c s, exec (i c) s = .next (s.withW (s.runRow c .vector (vrow op sub) f))) :
      RowCompletes i .vector (fun r => r.op.toNat = op ∧ r.opflags.toNat % 256 = sub) fun _ => f := rowCompletes_of_runRow h vrow_of
  exact ⟨vew fun _ _ => rfl, vew fun _ _ => rfl, vew fun _ _ => rfl, vew fun _ _ => rfl, vew fun _ _ => rfl, vew fun _ _ => rfl, vew fun _ _ => rfl,
    vew fun _ _ => rfl, vew fun _ _ => rfl, vew fun _ _ => rfl, vew fun _ _ => rfl, vew fun _ _ => rfl, vew fun _ _ => rfl, vew fun _ _ => rfl,
    vew fun _ _ => rfl, vew fun _ _ => rfl, vew fun _ _ => rfl, vew fun _ _ => rfl, vew fun _ _ => rfl, vew fun _ _ => rfl, vew fun _ _ => rfl,
    vew fun _ _ => rfl, vew fun _ _ => rfl, vew fun _ _ => rfl, vew fun _ _ => rfl, vew fun _ _ => rfl,
    rowCompletes_of_runRow (fun _ _ => rfl) fun _ h => op_beq h, vew fun _ _ => rfl, vew fun _ _ => rfl, vew fun _ _ => rfl⟩

/-- Settles O36: each row is a `runRow` of its opcode and mode; PREDICT runs where its context's slots are up to date. -/
theorem matrixRecordsComplete : Obligations.MatrixRecordsComplete := by
  unfold Obligations.MatrixRecordsComplete
  have op {i : CoreId → Instr} {n : Nat} {f : State → World → Env → Entry → Run}
      (h : ∀ c s, exec (i c) s = .next (s.withW (s.runRow c .matrix (fun r => r.op == BitVec.ofNat 8 n) (f s)))) :
      RowCompletes i .matrix (fun r => r.op.toNat = n) f := rowCompletes_of_runRow h fun _ hr => op_beq hr
  have mask {i : CoreId → Instr} {n kind : Nat} {f : World → Env → Entry → Run}
      (h : ∀ c s, exec (i c) s = .next (s.withW (s.runRow c .matrix (isMask n kind) f))) :
      RowCompletes i .matrix (fun r => r.op.toNat = n ∧ r.opflags.toNat / 16 % 8 = kind) fun _ => f := rowCompletes_of_runRow h isMask_of
  refine ⟨⟨op fun _ _ => rfl, op fun _ _ => rfl, op fun _ _ => rfl, op fun _ _ => rfl, op fun _ _ => rfl, mask fun _ _ => rfl, mask fun _ _ => rfl,
    mask fun _ _ => rfl, mask fun _ _ => rfl, mask fun _ _ => rfl, mask fun _ _ => rfl, mask fun _ _ => rfl, mask fun _ _ => rfl, op fun _ _ => rfl⟩, ?_⟩
  intro i mode hi s c e t hstart hop hmode hwait R _
  have hready : s.predictReady c = true := by
    rw [State.predictReady, hstart]
    dsimp only
    rw [hwait]
    rfl
  have hfld : fld t.cmd.opflags.toNat 3 2 = mode :=
    (congrArg (· % 2 ^ 2) (Nat.shiftRight_eq_div_pow ..)).trans hmode
  have hexec : exec (i c) s = .next (s.withW (s.predict c mode)) := by
    obtain hi | hi := hi <;> · obtain ⟨rfl, rfl⟩ := Prod.mk.inj hi; rfl
  have hrow : (t.cmd.op == 0x38 && fld t.cmd.opflags.toNat 3 2 == mode) = true := by
    rw [hfld, beq_self_eq_true, Bool.and_true]
    exact op_beq hop
  rw [hexec, State.predict, if_pos hready, State.runRow, hstart]
  dsimp only
  rw [if_pos hrow]
  rfl

/-- A STORE into another part's window that nothing refuses is sent, for a credit (R125, R127, R346). -/
theorem runRemote_sent {w0 w : World} {e : Env} {t : Entry} {d : Desc} {x : Copy} {cr : Credit} (hlic : w0.licenceBars (remoteWindow d).1 = false)
    (hprep : w0.prepareCopy storeKind e t false = .ok (x, w))
    (hcr : w.seam.credits.find? (fun y => y.rank == (remoteWindow d).1 && y.core == (remoteWindow d).2.1 && y.win == (remoteWindow d).2.2) = some cr)
    (hfit : (x.d.d.extent none).hi ≤ remoteSlot cr)
    (hbus : World.busMet w0 (w.readSpans e x.s.pages x.s.d.space true (x.srcSpans x.moves)) = false) :
    (runRemote w0 e t d).seam.credits = w.seam.credits.erase cr ∧
      ∀ y ∈ ((runRemote w0 e t d).core e.c).store, y.id = t.id → ∃ id, y.st = .sent id ∧ (runRemote w0 e t d).seam.writes.any (fun z => z.id == id) = true := by
  unfold runRemote
  dsimp only
  rw [hlic, if_neg Bool.false_ne_true, hprep]
  dsimp only
  rw [hcr]
  dsimp only
  rw [if_neg (Nat.not_lt.2 hfit), hbus, if_neg Bool.false_ne_true]
  have hseam := ((World.readSpans_reads w e x.s.pages x.s.d.space true (x.srcSpans x.moves)).trans
    (World.countOob_reads _ e.c ((x.moves.filter x.isFill).length + x.idxFills) x.dropped)).seam
  generalize World.countOob _ e.c ((x.moves.filter x.isFill).length + x.idxFills) x.dropped = w1 at hseam ⊢
  obtain ⟨links, hlinks⟩ := World.sendLink_only (World.setCore _ e.c _) cr.link (remoteWindow d).1 (.wwrite _)
  rw [hlinks]
  refine ⟨by rw [← hseam]; rfl, fun y hy hid => ⟨w1.seam.nextWrite, ?_, ?_⟩⟩
  · change y ∈ ((World.setCore _ e.c _).core e.c).store at hy
    rw [World.core_setCore] at hy
    exact (Core.mark_frame (w1.core e.c) .store t.id (.sent w1.seam.nextWrite)).1 y hy hid
  · exact List.any_eq_true.2 ⟨_, List.mem_append_right _ (List.mem_singleton_self _), beq_self_eq_true _⟩

/-- Settles O38: the copies are rows that run whole; what a STORE sends is `runRemote_sent`. -/
theorem copyRecordsComplete : Obligations.CopyRecordsComplete := by
  unfold Obligations.CopyRecordsComplete
  have loadw {i : CoreId → Instr} {mode : Nat} {f : World → Env → Entry → Run}
      (h : ∀ c s, exec (i c) s = .next (s.withW (s.runRow c .load (fun r => r.op == 0x21 && loadwMode r == mode) f))) :
      RowCompletes i .load (fun r => r.op.toNat = 0x21 ∧ r.opflags.toNat % 4 = mode) fun _ => f := rowCompletes_of_runRow h loadw_of
  refine ⟨rowCompletes_of_runRow (fun _ _ => rfl) fun _ h => op_beq h, loadw fun _ _ => rfl, loadw fun _ _ => rfl, loadw fun _ _ => rfl,
    fun s c e t hstart hop hnone => ?_, fun s c e t d x w cr hstart hop hdest hlic hprep hcr hfit hbus => ?_⟩
  · intro R _
    have hexec : exec (.store c) s = execStore c s := rfl
    have hstore : t.cmd.op = 0x28 := eq_of_beq (op_beq hop)
    rw [hexec, execStore, hstart]
    dsimp only
    rw [if_pos hstore, hnone]
    rfl
  · have hexec : exec (.store c) s = execStore c s := rfl
    have hstore : t.cmd.op = 0x28 := eq_of_beq (op_beq hop)
    rw [hexec, execStore, hstart]
    dsimp only
    rw [if_pos hstore, hdest]
    obtain ⟨hcredits, hsent⟩ := runRemote_sent hlic hprep hcr hfit hbus
    rw [State.starting_core hstart] at hsent
    exact ⟨_, rfl, rfl, hcredits, hsent⟩

end Sys2Proof.Machine

/-! PROOFS. Vector records that are refused leave the data as it was. -/
namespace Sys2Proof.Machine

theorem World.raise_reads (w : World) (cls unit status inst : Nat) (ctx : Option Nat) (die addr : Nat) (detail : List Byte) (peer : Bool) :
    w.Reads (w.raise cls unit status inst ctx die addr detail peer) := (World.onlyRead_raise ..).reads

theorem World.setCtx_reads (w : World) (n : Nat) (x : Ctx) : w.Reads (w.setCtx n x) := ⟨fun _ _ _ _ => rfl, rfl, fun _ _ => rfl, rfl⟩

theorem World.putWalker_reads (w : World) (k n : Nat) (x : Walker) : w.Reads (w.putWalker k n x) := by
  have hcached : w.Reads (w.cached k x) := ⟨fun _ _ _ _ => rfl, rfl, fun _ _ => rfl, rfl⟩
  exact (hcached.trans (World.meetBus_reads ..)).trans (World.readBlocks_reads ..)

theorem World.event_reads (w : World) (code idx sub die : Nat) (ctx : Option Nat) (st : Nat) (p : List Byte) :
    w.Reads (w.event code idx sub die ctx st p) := (World.onlyRead_event ..).reads

theorem World.reportFault_reads (w : World) (n va : Nat) (f : XFault) (q : XSource) : w.Reads (w.reportFault n va f q) := by
  unfold World.reportFault
  dsimp only
  generalize faultBytes va f q (w.ctx n).step (add32 (w.ctx n).faults 1) = bs
  have hctx : w.Reads { w.setCtx n { w.ctx n with faults := add32 (w.ctx n).faults 1, lastFault := bs } with
      ctxCtr := { w.ctxCtr with xlateFaults := bump 64 w.ctxCtr.xlateFaults 1 } } := ⟨fun _ _ _ _ => rfl, rfl, fun _ _ => rfl, rfl⟩
  exact hctx.trans (.trans (.ite (World.raise_reads ..) (.refl _)) (World.event_reads ..))

theorem World.xlatePages_reads (w : World) (e : Env) (wr : Bool) (l : List Nat) : w.Reads (w.xlatePages e wr l).2 := by
  unfold World.xlatePages
  dsimp only
  split
  · exact World.putWalker_reads ..
  · exact (World.putWalker_reads ..).trans (World.reportFault_reads ..)

theorem World.xlateSpans_reads (w : World) (e : Env) (space : Nat) (wr : Bool) (l : List (Nat × Nat)) : w.Reads (w.xlateSpans e space wr l).2 := by
  unfold World.xlateSpans
  split
  · exact World.xlatePages_reads ..
  · exact .refl w

theorem World.fetchBlock_reads (w : World) (e : Env) (space a n : Nat) : w.Reads (w.fetchBlock e space a n).2 := by
  unfold World.fetchBlock
  split
  · have hpages := World.xlatePages_reads w e false (pagesOf a n)
    split
    · next heq =>
      rw [heq] at hpages
      exact hpages
    · next u heq =>
      rw [heq] at hpages
      exact hpages.trans (.trans (.trans (World.meetBus_reads u ..) (World.readBlocks_reads ..)) (.ite (World.raise_reads ..) (.refl _)))
  · exact (World.touch_reads ..).trans (.ite (World.raise_reads ..) (.refl _))

theorem World.fetchRef_reads (w : World) (e : Env) (p ind : Word) (n : Nat) : w.Reads (w.fetchRef e p ind n).2 := by
  unfold World.fetchRef
  split
  · exact .refl w
  split
  · exact World.fetchBlock_reads ..
  · exact .refl w

theorem World.xlateScales_reads (w : World) (e : Env) (s : Src) (wr : Bool) (l : List (List Nat)) : w.Reads (w.xlateScales e s wr l).2 := by
  unfold World.xlateScales
  dsimp only
  split
  · split
    · have hspans := World.xlateSpans_reads w e s.d.sspace false (s.d.scaleSpans (l.filterMap s.d.liveCoord))
      split
      · next heq =>
        rw [heq] at hspans
        exact hspans
      · next heq =>
        rw [heq] at hspans
        exact hspans.trans (World.xlateSpans_reads ..)
    · exact World.xlateSpans_reads ..
  · exact .refl w

theorem World.refuse_reads {w : World} {e : Env} {d : Option Desc} {l : List (Bool × Nat)} {q : Run} (h : w.refuse e d l = some q) : w.Reads q.w := by
  cases l with
  | nil => cases h
  | cons x l =>
    obtain ⟨bad, st⟩ := x
    unfold World.refuse at h
    dsimp only at h
    generalize ((w.ctx e.n).wsRo && _) = readOnly at h
    split at h
    · obtain rfl := Option.some.inj h
      exact .refl w
    split at h
    · obtain rfl := Option.some.inj h
      exact World.setCtx_reads ..
    · obtain ⟨st, -, rfl⟩ := Option.map_eq_some_iff.1 h
      exact .refl w

/-- A run that has written ends with a status that continues (R89). -/
theorem Run.settle_continuing (e : Env) (idx : Nat) (r : Record) (w : World) (sat : List Nat) (poison : Bool) (count flags : Nat) :
    continuing (Run.settle e idx r w sat poison count flags).st = true := by
  unfold Run.settle
  dsimp only
  split
  · rfl
  split <;> rfl

/-- A run continues, or it has only read. -/
def Run.Harmless (w : World) (R : Run) : Prop := continuing R.st = true ∨ w.Reads R.w

theorem Run.Harmless.fail {w u : World} (h : w.Reads u) (st : Nat) : Run.Harmless w (.fail u st) := .inr h

theorem Run.Harmless.settle (w : World) (e : Env) (idx : Nat) (r : Record) (u : World) (sat : List Nat) (poison : Bool) (count flags : Nat) :
    Run.Harmless w (Run.settle e idx r u sat poison count flags) := .inl (Run.settle_continuing ..)

theorem runVrand_harmless (w : World) (e : Env) (t : Entry) : Run.Harmless w (runVrand w e t) := by
  unfold runVrand
  dsimp only
  have hd := World.fetchRef_reads w e t.cmd.p3 (t.ind.getD 3 0) 64
  generalize w.fetchRef e t.cmd.p3 (t.ind.getD 3 0) 64 = p at hd ⊢
  obtain ⟨od, u⟩ := p
  dsimp only at hd ⊢
  split
  · exact .fail hd _
  split
  · next q hq => exact .inr (hd.trans (World.refuse_reads hq))
  split
  · exact .inl rfl
  · exact .fail hd _

theorem runVconv_harmless (w : World) (e : Env) (t : Entry) : Run.Harmless w (runVconv w e t) := by
  unfold runVconv
  dsimp only
  have ha := World.fetchRef_reads w e t.cmd.p0 (t.ind.getD 0 0) 64
  generalize w.fetchRef e t.cmd.p0 (t.ind.getD 0 0) 64 = p at ha ⊢
  obtain ⟨oa, u⟩ := p
  have hd := ha.trans (World.fetchRef_reads u e t.cmd.p3 (t.ind.getD 3 0) 64)
  dsimp only at hd ⊢
  generalize u.fetchRef e t.cmd.p3 (t.ind.getD 3 0) 64 = p at hd ⊢
  obtain ⟨od, u⟩ := p
  dsimp only at hd ⊢
  split
  · exact .fail hd _
  split
  · next q hq => exact .inr (hd.trans (World.refuse_reads hq))
  split
  · next a d _ _ =>
    have hx := hd.trans (World.xlateScales_reads u e { d := d } true d.writtenCoords)
    split
    · next heq =>
      rw [heq] at hx
      exact .fail hx _
    · next heq =>
      rw [heq] at hx
      split
      · exact .fail hx _
      · exact .settle ..
  · exact .fail hd _

theorem runVred_harmless (w : World) (e : Env) (t : Entry) : Run.Harmless w (runVred w e t) := by
  unfold runVred
  dsimp only
  have ha := World.fetchRef_reads w e t.cmd.p0 (t.ind.getD 0 0) 64
  generalize w.fetchRef e t.cmd.p0 (t.ind.getD 0 0) 64 = p at ha ⊢
  obtain ⟨oa, u⟩ := p
  have hd := ha.trans (World.fetchRef_reads u e t.cmd.p3 (t.ind.getD 3 0) 64)
  dsimp only at hd ⊢
  generalize u.fetchRef e t.cmd.p3 (t.ind.getD 3 0) 64 = p at hd ⊢
  obtain ⟨od, u⟩ := p
  dsimp only at hd ⊢
  generalize (if fld t.cmd.opflags.toNat 7 0 = 4 then (if bit t.cmd.opflags.toNat 10 = true then 3 else 2) else 1) = width
  split
  · exact .fail hd _
  split
  · next q hq => exact .inr (hd.trans (World.refuse_reads hq))
  split
  · next a d _ _ =>
    split
    · next heq =>
      have hx := hd.trans (congrArg Prod.snd heq ▸ World.xlateScales_reads u e { d := a } false _)
      exact .fail hx _
    · next heq =>
      have hx := hd.trans (congrArg Prod.snd heq ▸ World.xlateScales_reads u e { d := a } false _)
      split
      · exact .fail hx _
      · exact .settle ..
  · exact .fail hd _

/-- A fold whose steps only read. -/
theorem foldl_snd_reads {α β : Type} {f : β × World → α → β × World} {l : List α} {acc : β × World} {x : β × World} (hx : l.foldl f acc = x)
    (h : ∀ acc a, World.Reads acc.2 (f acc a).2) : acc.2.Reads x.2 := by
  rw [← hx]
  clear hx
  induction l generalizing acc with
  | nil => exact .refl acc.2
  | cons a l ih => exact (h acc a).trans ih

theorem runVew_harmless (w : World) (e : Env) (t : Entry) : Run.Harmless w (runVew w e t) := by
  unfold runVew
  dsimp only
  have ha := World.fetchRef_reads w e t.cmd.p0 (t.ind.getD 0 0) 64
  generalize w.fetchRef e t.cmd.p0 (t.ind.getD 0 0) 64 = p at ha ⊢
  obtain ⟨oa, u⟩ := p
  have hb := ha.trans (World.fetchRef_reads u e t.cmd.p1 (t.ind.getD 1 0) 64)
  dsimp only at hb ⊢
  generalize u.fetchRef e t.cmd.p1 (t.ind.getD 1 0) 64 = p at hb ⊢
  obtain ⟨ob, u⟩ := p
  have hc := hb.trans (World.fetchRef_reads u e t.cmd.p2 (t.ind.getD 2 0) 64)
  dsimp only at hc ⊢
  generalize u.fetchRef e t.cmd.p2 (t.ind.getD 2 0) 64 = p at hc ⊢
  obtain ⟨oc, u⟩ := p
  have hd := hc.trans (World.fetchRef_reads u e t.cmd.p3 (t.ind.getD 3 0) 64)
  dsimp only at hd ⊢
  generalize u.fetchRef e t.cmd.p3 (t.ind.getD 3 0) 64 = p at hd ⊢
  obtain ⟨od, u⟩ := p
  dsimp only at hd ⊢
  split
  · exact .fail hd _
  split
  · next q hq => exact .inr (hd.trans (World.refuse_reads hq))
  split
  · next a d _ _ =>
    generalize hfold : List.foldl _ (Except.ok [], u) _ = x
    have hx : u.Reads x.2 := foldl_snd_reads hfold fun acc s => by
      split
      · exact .refl _
      · have hstep := World.xlateScales_reads acc.2 e s false (((od.desc.map Desc.writtenCoords).getD []).map s.d.broadcast)
        split <;> · next heq => rw [heq] at hstep; exact hstep
    obtain ⟨pages | st, v⟩ := x
    · exact .fail (hd.trans hx) _
    · dsimp only
      split
      · exact .fail (hd.trans hx) _
      · exact .settle ..
  · exact .fail hd _

/-- Settles O35: such a run has only read. -/
theorem refusedVectorRecordsWriteNothing : Obligations.RefusedVectorRecordsWriteNothing := by
  unfold Obligations.RefusedVectorRecordsWriteNothing
  intro run hrun w e t hst
  have hharmless : Run.Harmless w (run w e t) := by
    simp only [List.mem_cons, List.not_mem_nil, or_false] at hrun
    obtain rfl | rfl | rfl | rfl := hrun
    · exact runVew_harmless ..
    · exact runVred_harmless ..
    · exact runVconv_harmless ..
    · exact runVrand_harmless ..
  obtain hgoes | hreads := hharmless
  · rw [hst] at hgoes
    cases hgoes
  · refine ⟨fun a => by rw [hreads.cells], fun c a => ⟨?_, ?_, fun ha => ?_⟩⟩
    · exact hreads.bytes c .weight a (.inl (by decide))
    · exact hreads.bytes c .scratch a (.inl (by decide))
    · exact hreads.bytes c .psum a (.inr ha)

end Sys2Proof.Machine

/-! PROOFS. What vector and matrix records compute. -/
namespace Sys2Proof.Machine

/-! ## VEW (R72, R77) -/

theorem World.vewElem_n (w : World) (core sub : Nat) (k : Int) (o : VewOps) (i : List Nat) :
    (w.vewElem core sub k o i).n = vewFn sub k (w.vewVal core o.a i).n
      (match o.b with | some s => (w.vewVal core s i).n | none => o.bimm.getD FNum.zero)
      (match o.c with | some s => (w.vewVal core s i).n | none => FNum.zero) := by
  unfold World.vewElem
  cases o.b <;> cases o.c <;> exact ((apply_ite Val.n ..).trans (ite_self _))

theorem vewFn_unary {sub : Nat} (h : 0x09 ≤ sub ∧ sub ≤ 0x10) (k : Int) (a b c : FNum) : vewFn sub k a b c = unaryFn sub a := by
  obtain ⟨hlo, hhi⟩ := h
  obtain rfl | rfl | rfl | rfl | rfl | rfl | rfl | rfl :
      sub = 0x09 ∨ sub = 0x0A ∨ sub = 0x0B ∨ sub = 0x0C ∨ sub = 0x0D ∨ sub = 0x0E ∨ sub = 0x0F ∨ sub = 0x10 := by omega
  all_goals rfl

/-- Settles O33: an element is its subcode's result (`World.vewElem_n`). -/
theorem vewElementsFollowTheirOperator : Obligations.VewElementsFollowTheirOperator := by
  unfold Obligations.VewElementsFollowTheirOperator
  intro w core k o i a b c el
  have hel : ∀ sub, el sub = vewFn sub k a b c := fun sub => World.vewElem_n w core sub k o i
  refine ⟨hel _, hel _, hel _, hel _, hel _, hel _, hel _, hel _, hel _, fun sub hlo hhi => ?_, hel _, fun ha hb => ?_, hel _⟩
  · exact (hel sub).trans (vewFn_unary ⟨hlo, hhi⟩ ..)
  · rw [hel]
    simp [vewFn, ha, hb]

end Sys2Proof.Machine

/-! PROOFS. Sums of a row, the steps of a product and its accumulators, and the order that ranks weights. -/
namespace Sys2Proof.Machine

/-! ## Sums of a row (R29, R57) -/

theorem Rng.roundPs_of_plain {mode : Rm} (h : mode.random = false) (g : Rng) (pos draw : Nat) (v : Val) :
    g.roundPs mode pos draw v = (Machine.roundPs mode 0 v, g) := by
  have hdraws : drawsPs mode v = false := by
    unfold drawsPs
    rw [h]
    cases v.n <;> rfl
  rw [Rng.roundPs, hdraws, if_neg Bool.false_ne_true]

theorem accumulate_of_plain {mode : Rm} (h : mode.random = false) (pos : Nat) (g : Rng) (k : Nat) (acc : Val) (vs : List Val) :
    accumulate mode pos g k acc vs = (vs.foldl (fun a v => roundPs mode 0 (a.add v)) acc, g) := by
  induction vs generalizing k acc with
  | nil => rfl
  | cons v vs ih =>
    rw [accumulate, Rng.roundPs_of_plain h, ih, List.foldl_cons]

theorem groupsOf_flatten {α : Type} {G : Nat} (hG : 0 < G) (fuel : Nat) (l : List α) (h : l.length ≤ fuel) : (groupsOf G fuel l).flatten = l := by
  induction fuel generalizing l with
  | zero => rw [List.eq_nil_of_length_eq_zero (Nat.le_zero.1 h)]; rfl
  | succ fuel ih =>
    unfold groupsOf
    split
    · next hnil => rw [List.isEmpty_iff.1 hnil]; rfl
    · next hne =>
      have hpos : 0 < l.length := List.length_pos_iff.2 (by rwa [List.isEmpty_iff] at hne)
      rw [List.flatten_cons, ih _ (by rw [List.length_drop]; omega), List.take_append_drop]

theorem groupsOf_sizes {α : Type} {G : Nat} (hG : 0 < G) (fuel : Nat) (l : List α) : ∀ x ∈ groupsOf G fuel l, x ≠ [] ∧ x.length ≤ G := by
  induction fuel generalizing l with
  | zero => simp [groupsOf]
  | succ fuel ih =>
    unfold groupsOf
    split
    · simp
    · next hne =>
      intro x hx
      obtain rfl | hx := List.mem_cons.1 hx
      · refine ⟨fun hnil => ?_, List.length_take_le ..⟩
        obtain hzero | hnil := List.take_eq_nil_iff.1 hnil
        · omega
        · exact hne (List.isEmpty_iff.2 hnil)
      · exact ih _ x hx

/-! ## Steps of a product (R29, R73) -/

/-- Of rising values, those below the next bound are those below the last and those that are it. -/
theorem filter_lt_succ {α : Type} {f : α → Nat} {l : List α} (h : l.Pairwise fun a b => f a ≤ f b) (T : Nat) :
    l.filter (fun a => decide (f a < T)) ++ l.filter (fun a => f a == T) = l.filter fun a => decide (f a < T + 1) := by
  induction l with
  | nil => rfl
  | cons a l ih =>
    obtain ⟨ha, hl⟩ := List.pairwise_cons.1 h
    obtain hlt | heq | hgt := Nat.lt_trichotomy (f a) T
    · rw [List.filter_cons_of_pos (by rwa [decide_eq_true_iff]), List.filter_cons_of_neg (by simpa using Nat.ne_of_lt hlt),
        List.filter_cons_of_pos (by rw [decide_eq_true_iff]; omega), List.cons_append, ih hl]
    · have hnone : l.filter (fun b => decide (f b < T)) = [] := by
        rw [List.filter_eq_nil_iff]
        intro b hb
        have := ha b hb
        simp
        omega
      rw [List.filter_cons_of_neg (by rw [decide_eq_true_iff]; omega), List.filter_cons_of_pos (by simpa using heq),
        List.filter_cons_of_pos (by rw [decide_eq_true_iff]; omega), ← ih hl, hnone, List.nil_append, List.nil_append]
    · rw [List.filter_cons_of_neg (by rw [decide_eq_true_iff]; omega), List.filter_cons_of_neg (by simpa using Nat.ne_of_gt hgt),
        List.filter_cons_of_neg (by rw [decide_eq_true_iff]; omega), ih hl]

/-- Rising values taken class by class are the values. -/
theorem flatMap_classes {α : Type} {f : α → Nat} {l : List α} (h : l.Pairwise fun a b => f a ≤ f b) (T : Nat) :
    ((List.range T).flatMap fun t => l.filter fun a => f a == t) = l.filter fun a => decide (f a < T) := by
  induction T with
  | zero => simp
  | succ T ih => rw [List.range_succ, List.flatMap_append, ih, ← filter_lt_succ h, List.flatMap_singleton]

/-- Of a table built over a range, the one entry of an index. -/
theorem flatMap_range_one {β : Type} {n m : Nat} (hm : m < n) (f : Nat → List β) (h : ∀ k, k < n → k ≠ m → f k = []) : (List.range n).flatMap f = f m := by
  induction n with
  | zero => omega
  | succ n ih =>
    rw [List.range_succ, List.flatMap_append, List.flatMap_singleton]
    by_cases hn : m = n
    · have hnone : (List.range n).flatMap f = [] := List.flatMap_eq_nil_iff.2 fun k hk => h k (by have := List.mem_range.1 hk; omega) (by have := List.mem_range.1 hk; omega)
      rw [hnone, hn, List.nil_append]
    · rw [ih (by omega) fun k hk hkm => h k (by omega) hkm, h n (by omega) (Ne.symm hn), List.append_nil]

theorem cdiv_pos_of {N n k : Nat} (hk : 0 < k) (hn : n < N) : n / k < cdiv N k := by
  calc n / k < n / k + 1 := Nat.lt_succ_self _
    _ = (n + k) / k := (Nat.add_div_right n hk).symm
    _ ≤ cdiv N k := Nat.div_le_div_right (by omega)

/-- Of a range, the one number that a test picks. -/
theorem filter_range_one {k i : Nat} (hi : i < k) {p : Nat → Bool} (hp : ∀ c, p c = true ↔ c = i) : (List.range k).filter p = [i] := by
  have hbeq : p = fun c => c == i := funext fun c => Bool.eq_iff_iff.2 ((hp c).trans beq_iff_eq.symm)
  rw [hbeq, List.filter_beq, List.nodup_range.count, if_pos (List.mem_range.2 hi)]
  rfl

/-- The steps of a run of columns that are an output's: one, where the run is its own. -/
theorem stepRun_output (m n m' b g : Nat) {N : Nat} (hn : n < N) :
    ((((List.range (min 32 (N - 32 * b))).map fun c => (⟨m', 32 * b + c, g⟩ : AccStep)).filter fun s => s.m == m && s.n == n).map (·.g)) =
      if m' = m ∧ b = n / 32 then [g] else [] := by
  rw [List.filter_map, List.map_map]
  split
  · next hhit =>
    obtain ⟨rfl, rfl⟩ := hhit
    have hone : (List.range (min 32 (N - 32 * (n / 32)))).filter ((fun s : AccStep => s.m == m' && s.n == n) ∘ fun c => ⟨m', 32 * (n / 32) + c, g⟩) = [n % 32] := by
      refine filter_range_one (by omega) fun c => ?_
      simp only [Function.comp_apply, beq_self_eq_true, Bool.true_and, beq_iff_eq]
      omega
    rw [hone, List.map_singleton]
    rfl
  · next hmiss =>
    rw [List.map_eq_nil_iff, List.filter_eq_nil_iff]
    intro c hc
    have hc := List.mem_range.1 hc
    simp only [Function.comp_apply, Bool.and_eq_true, beq_iff_eq]
    omega

/-- An output of a product takes each of its K-groups once, in increasing order. -/
theorem denseSteps_output {M N K G Kt m n : Nat} (hG : 0 < G) (hKt : 0 < Kt) (hm : m < M) (hn : n < N) :
    ((denseSteps M N K G Kt).filter fun s => s.m == m && s.n == n).map (·.g) = List.range (cdiv K G) := by
  unfold denseSteps
  dsimp only
  simp only [List.filter_flatMap, List.map_flatMap, stepRun_output m n _ _ _ hn]
  rw [flatMap_range_one (m := n / 32) (cdiv_pos_of (by omega) hn)]
  · have hrow : ∀ l : List Nat, ((List.range M).flatMap fun m' => l.flatMap fun g => if m' = m ∧ True then [g] else []) = l := by
      intro l
      rw [flatMap_range_one hm _ fun m' _ hne => by simp [hne]]
      simp
    simp only [hrow]
    have hrise : (List.range (cdiv K G)).Pairwise fun g g' => (min K ((g + 1) * G) - 1) / Kt ≤ (min K ((g' + 1) * G) - 1) / Kt := by
      refine List.pairwise_lt_range.imp fun {g g'} hlt => Nat.div_le_div_right ?_
      have hmul : (g + 1) * G ≤ (g' + 1) * G := Nat.mul_le_mul_right G (by omega)
      omega
    rw [flatMap_classes hrise, List.filter_eq_self]
    intro g hg
    have hg := List.mem_range.1 hg
    have hK : 0 < K := by
      refine Decidable.byContradiction fun hzero => ?_
      have : cdiv K G = 0 := Nat.div_eq_of_lt (by omega)
      omega
    rw [decide_eq_true_iff]
    exact cdiv_pos_of hKt (by omega)
  · intro b _ hb
    simp [hb]

/-! ## Accumulators (R31, R246) -/

theorem accumulateSteps_output {mode : Rm} (h : mode.random = false) {cols : Nat} (pos : Nat → Nat → Nat) (draw : Nat → Nat) (sum : Nat → Nat → Nat → Val)
    (g : Rng) (acc : Tab Val) (steps : List AccStep) {m n : Nat} (hn : n < cols) (hs : ∀ s ∈ steps, s.n < cols) :
    Tab.get Val.zero (accumulateSteps mode cols pos draw sum g acc steps).1 (m * cols + n) =
      (steps.filter fun s => s.m == m && s.n == n).foldl (fun v s => roundPs mode 0 (v.add (sum m n s.g))) (Tab.get Val.zero acc (m * cols + n)) := by
  induction steps generalizing g acc with
  | nil => rfl
  | cons s steps ih =>
    have hsn := hs s (List.mem_cons_self ..)
    rw [accumulateSteps, Rng.roundPs_of_plain h, ih _ _ fun x hx => hs x (.tail _ hx)]
    by_cases hhit : s.m = m ∧ s.n = n
    · obtain ⟨rfl, rfl⟩ := hhit
      simp
    · have hne : m * cols + n ≠ s.m * cols + s.n := by
        intro heq
        have hmm : m = s.m := by
          have := congrArg (· / cols) heq
          simpa [Nat.mul_comm _ cols, Nat.mul_add_div (Nat.zero_lt_of_lt hn), Nat.div_eq_of_lt hn, Nat.div_eq_of_lt hsn] using this
        subst hmm
        exact hhit ⟨rfl, by omega⟩
      rw [Tab.get_set_ne _ _ _ hne]
      have hskip : (s.m == m && s.n == n) = false := by
        rw [Bool.eq_false_iff, Ne, Bool.and_eq_true, beq_iff_eq, beq_iff_eq]
        exact hhit
      rw [List.filter_cons_of_neg (by rw [hskip]; exact Bool.false_ne_true)]

/-! ## Ranks (R200) -/

/-- The magnitude of an exact number, counted in units of 2^q. -/
def Dy.mag (q : Int) (d : Dy) : Nat := d.m * 2 ^ (d.e - q).toNat

theorem Dy.mag_scale {q u : Int} {d : Dy} (hq : q ≤ u) (hu : u ≤ d.e) : d.mag q = d.mag u * 2 ^ (u - q).toNat := by
  have hexp : (d.e - q).toNat = (d.e - u).toNat + (u - q).toNat := by omega
  rw [Dy.mag, Dy.mag, hexp, Nat.pow_add, Nat.mul_assoc]

/-- Magnitudes compare alike in any units that are fine enough. -/
theorem Dy.magLt_iff {q : Int} {a b : Dy} (ha : q ≤ a.e) (hb : q ≤ b.e) : a.magLt b = true ↔ a.mag q < b.mag q := by
  have hq : q ≤ min a.e b.e := by omega
  rw [Dy.mag_scale hq (by omega), Dy.mag_scale hq (by omega), Nat.mul_lt_mul_right (Nat.two_pow_pos _)]
  exact decide_eq_true_iff.trans Int.ofNat_lt

/-- The first thing that a rank compares: NaN lies below every number, infinity above all. -/
def FNum.kind : FNum → Nat
  | .nan => 0
  | .fin _ => 1
  | .inf _ => 2

/-- The second: the magnitude of a finite number, in units of 2^q. -/
def FNum.mag (q : Int) : FNum → Nat
  | .fin d => d.mag q
  | _ => 0

/-- The exponent of a finite number. -/
def FNum.exp : FNum → Int
  | .fin d => d.e
  | _ => 0

theorem FNum.below_iff {q : Int} {a b : FNum} (ha : q ≤ a.exp) (hb : q ≤ b.exp) :
    a.below b = true ↔ a.kind < b.kind ∨ a.kind = b.kind ∧ a.mag q < b.mag q := by
  cases a with
  | nan => cases b <;> simp [FNum.below, FNum.kind, FNum.mag]
  | inf s => cases b <;> simp [FNum.below, FNum.kind, FNum.mag, FNum.abs, FNum.lt]
  | fin d =>
    cases b with
    | nan => simp [FNum.below, FNum.kind]
    | inf s => simp [FNum.below, FNum.kind, FNum.abs, FNum.lt]
    | fin d' => exact (Dy.magLt_iff ha hb).trans ⟨fun h => .inr ⟨rfl, h⟩, fun h => h.elim (fun h => absurd h (Nat.lt_irrefl _)) And.right⟩

theorem rankLe_iff {q : Int} {a b : FNum × Nat} (ha : q ≤ a.1.exp) (hb : q ≤ b.1.exp) :
    rankLe a b = true ↔ a.1.kind < b.1.kind ∨ a.1.kind = b.1.kind ∧ (a.1.mag q < b.1.mag q ∨ a.1.mag q = b.1.mag q ∧ b.2 ≤ a.2) := by
  rw [rankLe, Bool.or_eq_true, Bool.and_eq_true, Bool.not_eq_true', Bool.eq_false_iff, Ne, FNum.below_iff ha hb, FNum.below_iff hb ha, decide_eq_true_iff]
  omega

theorem rankLe_total (a b : FNum × Nat) : rankLe a b = true ∨ rankLe b a = true := by
  have ha : min a.1.exp b.1.exp ≤ a.1.exp := by omega
  have hb : min a.1.exp b.1.exp ≤ b.1.exp := by omega
  rw [rankLe_iff ha hb, rankLe_iff hb ha]
  omega

theorem rankLe_trans {a b c : FNum × Nat} (hab : rankLe a b = true) (hbc : rankLe b c = true) : rankLe a c = true := by
  have ha : min a.1.exp (min b.1.exp c.1.exp) ≤ a.1.exp := by omega
  have hb : min a.1.exp (min b.1.exp c.1.exp) ≤ b.1.exp := by omega
  have hc : min a.1.exp (min b.1.exp c.1.exp) ≤ c.1.exp := by omega
  rw [rankLe_iff ha hb] at hab
  rw [rankLe_iff hb hc] at hbc
  rw [rankLe_iff ha hc]
  omega

/-! ## Sorted lists -/

theorem insertBy_perm {α : Type} (le : α → α → Bool) (a : α) (l : List α) : (insertBy le a l).Perm (a :: l) := by
  induction l with
  | nil => exact .refl _
  | cons b l ih =>
    unfold insertBy
    split
    · exact .refl _
    · exact (ih.cons b).trans (.swap a b l)

theorem sortBy_perm {α : Type} (le : α → α → Bool) (l : List α) : (sortBy le l).Perm l := by
  induction l with
  | nil => exact .refl _
  | cons a l ih => exact (insertBy_perm le a (sortBy le l)).trans (ih.cons a)

theorem insertBy_rankLe_sorted (a : FNum × Nat) {l : List (FNum × Nat)} (h : l.Pairwise fun x y => rankLe x y = true) :
    (insertBy rankLe a l).Pairwise fun x y => rankLe x y = true := by
  induction l with
  | nil => exact List.pairwise_singleton ..
  | cons b l ih =>
    obtain ⟨hb, hl⟩ := List.pairwise_cons.1 h
    unfold insertBy
    split
    · next hab =>
      refine List.pairwise_cons.2 ⟨fun x hx => ?_, h⟩
      obtain rfl | hx := List.mem_cons.1 hx
      · exact hab
      · exact rankLe_trans hab (hb x hx)
    · next hab =>
      refine List.pairwise_cons.2 ⟨fun x hx => ?_, ih hl⟩
      obtain rfl | hx := List.mem_cons.1 ((insertBy_perm rankLe a l).subset hx)
      · exact (rankLe_total x b).resolve_left hab
      · exact hb x hx

theorem sortBy_rankLe_sorted (l : List (FNum × Nat)) : (sortBy rankLe l).Pairwise fun a b => rankLe a b = true := by
  induction l with
  | nil => exact .nil
  | cons a l ih => exact insertBy_rankLe_sorted a ih

/-! ## Lists of distinct keys -/

theorem eq_of_nodup_map {α β : Type} {f : α → β} {l : List α} (h : (l.map f).Nodup) {a b : α} (ha : a ∈ l) (hb : b ∈ l) (hab : f a = f b) : a = b := by
  induction l with
  | nil => cases ha
  | cons x l ih =>
    obtain ⟨hx, hl⟩ := List.nodup_cons.1 (List.map_cons ▸ h)
    obtain hax | hal := List.mem_cons.1 ha
    · obtain hbx | hbl := List.mem_cons.1 hb
      · rw [hax, hbx]
      · exact absurd (hax ▸ hab ▸ List.mem_map_of_mem hbl) hx
    · obtain hbx | hbl := List.mem_cons.1 hb
      · exact absurd (hbx ▸ hab ▸ List.mem_map_of_mem hal) hx
      · exact ih hl hal hbl

theorem length_filter_add {α : Type} (p : α → Bool) (l : List α) : (l.filter p).length + (l.filter fun a => !p a).length = l.length := by
  induction l with
  | nil => rfl
  | cons a l ih =>
    cases hp : p a with
    | true => rw [List.filter_cons_of_pos hp, List.filter_cons_of_neg (by simp [hp]), List.length_cons, List.length_cons]; omega
    | false => rw [List.filter_cons_of_neg (by simp [hp]), List.filter_cons_of_pos (by simp [hp]), List.length_cons, List.length_cons]; omega

end Sys2Proof.Machine

/-! PROOFS. Mask records, writes to the memories of a core, and what reductions and draws give. -/
namespace Sys2Proof.Machine

/-! ## PRUNE and REGROW (R200, R207, R208) -/

theorem byRank_perm (l : List (FNum × Nat)) : (byRank l).Perm (l.map (·.2)) := by
  exact (sortBy_perm rankLe l).map _

/-- What comes first by rank ranks at or below what comes later. -/
theorem rankLe_of_take {l : List (FNum × Nat)} {count : Nat} (hl : (l.map (·.2)).Nodup) {x y : FNum × Nat} (hx : x ∈ l) (hy : y ∈ l)
    (hin : x.2 ∈ (byRank l).take count) (hout : y.2 ∉ (byRank l).take count) : rankLe x y = true := by
  have hsorted := sortBy_rankLe_sorted l
  have hperm : (sortBy rankLe l).Perm l := sortBy_perm rankLe l
  rw [byRank, ← List.map_take] at hin hout
  have hinj : ∀ a ∈ l, ∀ b ∈ l, a.2 = b.2 → a = b := fun a ha b hb => eq_of_nodup_map hl ha hb
  rw [← List.take_append_drop count (sortBy rankLe l)] at hsorted hperm
  have hfirst : x ∈ (sortBy rankLe l).take count := by
    obtain ⟨a, ha, hax⟩ := List.mem_map.1 hin
    rwa [← hinj a (hperm.subset (List.mem_append_left _ ha)) x hx hax]
  have hlater : y ∈ (sortBy rankLe l).drop count := by
    obtain h | h := List.mem_append.1 (hperm.symm.subset hy)
    · exact absurd (List.mem_map_of_mem h) hout
    · exact h
  exact (List.pairwise_append.1 hsorted).2.2 x hfirst y hlater

/-- What a list of distinct keys loses with some of them. -/
theorem length_filter_notMem {β : Type} {l : List (Nat × β)} (hl : (l.map (·.1)).Nodup) {drop : List Nat} (hd : drop.Nodup) (hsub : ∀ k ∈ drop, k ∈ l.map (·.1)) :
    (l.filter fun x => !decide (x.1 ∈ drop)).length = l.length - drop.length := by
  have hdrop : ((l.map (·.1)).filter fun k => decide (k ∈ drop)).length = drop.length := by
    refine List.Perm.length_eq ((List.perm_ext_iff_of_nodup (hl.filter _) hd).2 fun k => ?_)
    rw [List.mem_filter, decide_eq_true_iff]
    exact ⟨fun h => h.2, fun h => ⟨hsub k h, h⟩⟩
  rw [List.filter_map, List.length_map] at hdrop
  have hsum := length_filter_add (fun x => decide (x.1 ∈ drop)) l
  have hcomp : (l.filter ((fun k => decide (k ∈ drop)) ∘ fun x => x.1)).length = (l.filter fun x => decide (x.1 ∈ drop)).length := rfl
  omega

theorem pruneKeep_sublist (sel count : Nat) (thr : FNum) (b : Batt) : (pruneKeep sel count thr b).Sublist b.w := List.filter_sublist

/-- THRESH drops the weights below the threshold (R200). -/
theorem mem_pruneKeep_thresh (count : Nat) (thr : FNum) {b : Batt} (hb : (b.w.map (·.1)).Nodup) {x : Nat × Nat} (hx : x ∈ b.w) :
    x ∈ pruneKeep 0 count thr b ↔ (b.num x.1 x.2).below thr = false := by
  unfold pruneKeep
  rw [if_pos rfl, List.mem_filter, Bool.not_eq_true', decide_eq_false_iff_not]
  rw [← Bool.not_eq_true, and_iff_right hx]
  refine not_congr ⟨fun h => ?_, fun h => List.mem_map.2 ⟨x, List.mem_filter.2 ⟨hx, h⟩, rfl⟩⟩
  obtain ⟨y, hy, hyx⟩ := List.mem_map.1 h
  obtain ⟨hyw, hbelow⟩ := List.mem_filter.1 hy
  rwa [← eq_of_nodup_map hb hyw hx hyx]

theorem Batt.ranked_keys (b : Batt) (l : List (Nat × Nat)) : (b.ranked l).map (·.2) = l.map (·.1) := by
  rw [Batt.ranked, List.map_map]
  rfl

/-- TILEK drops a count of the tile's weights, none of which ranks above one that it keeps (R200). -/
theorem pruneKeep_tilek (count : Nat) (thr : FNum) {b : Batt} (hb : (b.w.map (·.1)).Nodup) :
    (pruneKeep 1 count thr b).length = b.w.length - count ∧
      ∀ x ∈ b.w, x ∉ pruneKeep 1 count thr b → ∀ y ∈ pruneKeep 1 count thr b, rankLe (b.num x.1 x.2, x.1) (b.num y.1 y.2, y.1) = true := by
  have hkeep : pruneKeep 1 count thr b = b.w.filter fun x => !decide (x.1 ∈ (byRank (b.ranked b.w)).take count) := by
    unfold pruneKeep
    rw [if_neg Nat.one_ne_zero, if_pos rfl]
  have hperm : (byRank (b.ranked b.w)).Perm (b.w.map (·.1)) := by
    rw [← Batt.ranked_keys]
    exact byRank_perm _
  rw [hkeep]
  refine ⟨?_, fun x hx hdropped y hy => ?_⟩
  · rw [length_filter_notMem hb ((hperm.nodup_iff.2 hb).sublist (List.take_sublist ..)) fun k hk => hperm.subset (List.mem_of_mem_take hk),
      List.length_take, hperm.length_eq, List.length_map]
    omega
  · have hin : x.1 ∈ (byRank (b.ranked b.w)).take count := by
      refine Decidable.byContradiction fun hout => ?_
      exact hdropped (List.mem_filter.2 ⟨hx, by simpa using hout⟩)
    obtain ⟨hyw, hout⟩ := List.mem_filter.1 hy
    have hmem : ∀ z ∈ b.w, (b.num z.1 z.2, z.1) ∈ b.ranked b.w := fun z hz => List.mem_map.2 ⟨z, hz, rfl⟩
    exact rankLe_of_take (by rw [Batt.ranked_keys]; exact hb) (hmem x hx) (hmem y hyw) hin (by simpa using hout)

theorem Tab.mem_set_of_ne {α : Type} {t : Tab α} {k : Nat} {v : α} {x : Nat × α} (hx : x ∈ t) (hk : x.1 ≠ k) : x ∈ Tab.set t k v := by
  induction t with
  | nil => cases hx
  | cons y t ih =>
    obtain ⟨j, u⟩ := y
    unfold Tab.set
    split
    · exact .tail _ hx
    split
    · next hj =>
      obtain rfl | hx := List.mem_cons.1 hx
      · exact absurd hj.symm hk
      · exact .tail _ hx
    · obtain rfl | hx := List.mem_cons.1 hx
      · exact .head _
      · exact .tail _ (ih hx)

theorem Tab.eq_or_mem_of_mem_set {α : Type} {t : Tab α} {k : Nat} {v : α} {x : Nat × α} (hx : x ∈ Tab.set t k v) : x = (k, v) ∨ x ∈ t := by
  induction t with
  | nil => exact .inl (List.mem_singleton.1 hx)
  | cons y t ih =>
    obtain ⟨j, u⟩ := y
    unfold Tab.set at hx
    split at hx
    · exact List.mem_cons.1 hx
    split at hx
    · exact (List.mem_cons.1 hx).imp_right fun h => .tail _ h
    · obtain rfl | hx := List.mem_cons.1 hx
      · exact .inr (.head _)
      · exact (ih hx).imp_right fun h => .tail _ h

/-- Zeros put at new positions (R207): what was there stays, each position reads 0, and nothing else is there. -/
theorem foldl_set_zero (ps : List Nat) (t : Tab Nat) (hps : ∀ q ∈ ps, q ∉ t.map (·.1)) :
    (∀ x ∈ t, x ∈ ps.foldl (fun (t : Tab Nat) p => Tab.set t p 0) t) ∧
      (∀ x ∈ ps.foldl (fun (t : Tab Nat) p => Tab.set t p 0) t, x ∈ t ∨ x.1 ∈ ps) := by
  refine ⟨?_, ?_⟩
  · have hkeep : ∀ (l : List Nat) (u : Tab Nat) (x : Nat × Nat), x ∈ u → x.1 ∉ l → x ∈ l.foldl (fun (t : Tab Nat) p => Tab.set t p 0) u := by
      intro l
      induction l with
      | nil => exact fun _ _ hx _ => hx
      | cons p l ih =>
        exact fun u x hx hne => ih _ x (Tab.mem_set_of_ne hx fun h => hne (h ▸ List.mem_cons_self ..)) fun h => hne (.tail _ h)
    exact fun x hx => hkeep ps t x hx fun h => hps _ h (List.mem_map_of_mem hx)
  · clear hps
    induction ps generalizing t with
    | nil => exact fun x hx => .inl hx
    | cons p ps ih =>
      intro x hx
      obtain hx | hx := ih _ x hx
      · obtain rfl | hx := Tab.eq_or_mem_of_mem_set hx
        · exact .inr (.head _)
        · exact .inl hx
      · exact .inr (.tail _ hx)

theorem get_foldl_set_zero (ps : List Nat) (t : Tab Nat) {p : Nat} (hp : p ∈ ps ∨ Tab.get 1 t p = 0) :
    Tab.get 1 (ps.foldl (fun (t : Tab Nat) p => Tab.set t p 0) t) p = 0 := by
  induction ps generalizing t with
  | nil => exact hp.resolve_left (List.not_mem_nil)
  | cons q ps ih =>
    refine ih _ ?_
    by_cases hq : p = q
    · exact .inr (by rw [hq, Tab.get_set_same])
    · rw [Tab.get_set_ne _ _ _ hq]
      exact hp.imp_left fun h => (List.mem_cons.1 h).resolve_left hq

/-! ## Writes to the memories of a core -/

/-- No byte of any memory differs. -/
structure World.SameMem (w u : World) : Prop where
  mem : ∀ c m, (u.core c).mem m = (w.core c).mem m
  hbm : u.hbm = w.hbm

theorem World.SameMem.refl (w : World) : w.SameMem w := ⟨fun _ _ => rfl, rfl⟩
theorem World.SameMem.trans {w u v : World} (a : w.SameMem u) (b : u.SameMem v) : w.SameMem v :=
  ⟨fun c m => (b.mem c m).trans (a.mem c m), b.hbm.trans a.hbm⟩

theorem World.SameMem.ite {w u v : World} {p : Prop} [Decidable p] (a : w.SameMem u) (b : w.SameMem v) : w.SameMem (if p then u else v) := by
  split
  · exact a
  · exact b

theorem World.SameMem.foldl {α : Type} {f : World → α → World} (h : ∀ (w : World) (x : α), w.SameMem (f w x)) (l : List α) (w : World) :
    w.SameMem (l.foldl f w) := by
  induction l generalizing w with
  | nil => exact .refl w
  | cons x l ih => exact (h w x).trans (ih _)

theorem World.raise_sameMem (w : World) (cls unit status inst : Nat) (ctx : Option Nat) (die addr : Nat) (detail : List Byte) (peer : Bool) :
    w.SameMem (w.raise cls unit status inst ctx die addr detail peer) := by
  have h := World.raise_frame w cls unit status inst ctx die addr detail peer
  dsimp only at h
  rw [h]
  exact ⟨fun _ _ => rfl, rfl⟩

theorem World.setCore_sameMem (w : World) (c : Nat) (k : Core) (h : ∀ m, k.mem m = (w.core c).mem m) : w.SameMem (w.setCore c k) where
  mem d m := by
    by_cases hd : d = c
    · rw [hd, World.core_setCore, h]
    · rw [World.core_setCore_ne _ _ hd]
  hbm := rfl

theorem World.putRng_sameMem (w : World) (c : Nat) (g : Rng) : w.SameMem (w.putRng c g) :=
  .ite (.refl w) (.trans (u := w.setCore c { w.core c with stream := g.gen }) (World.setCore_sameMem w c _ fun m => by cases m <;> rfl) ⟨fun _ _ => rfl, rfl⟩)

theorem World.countOob_sameMem (w : World) (c fill drop : Nat) : w.SameMem (w.countOob c fill drop) :=
  .ite (.refl w) (World.setCore_sameMem w c _ fun m => by cases m <;> rfl)

theorem Run.settle_sameMem (e : Env) (idx : Nat) (r : Record) (w : World) (sat : List Nat) (poison : Bool) (count flags : Nat) :
    w.SameMem (Run.settle e idx r w sat poison count flags).w :=
  (World.SameMem.foldl (fun w _ => World.raise_sameMem w ..) sat w).trans (.ite (World.raise_sameMem ..) (.refl _))

/-- A memory in which what a write merges with has been read. -/
theorem World.writeCore_eq {w : World} {c : Nat} {n : Option Nat} {m : CoreMem} {bs : List BitWrite} (hbs : bs ≠ []) :
    ∃ u, w.OnlyRead u ∧ (∀ d m', ((w.writeCore c n m bs).core d).mem m' = if d = c ∧ m' = m then writeMem m ((u.core c).mem m) bs else (u.core d).mem m') ∧
      (w.writeCore c n m bs).hbm = u.hbm := by
  refine ⟨w.touch c n m (mergedWords 16 bs), World.onlyRead_touch .., fun d m' => ?_, ?_⟩
  · unfold World.writeCore
    rw [if_neg (by rwa [List.isEmpty_iff])]
    dsimp only
    generalize w.touch c n m (mergedWords 16 bs) = u
    by_cases hd : d = c
    · subst hd
      rw [World.core_setCore]
      have hdirty : ∀ (p : Prop) [Decidable p] (k : Core) (x : BitVec 32), (if p then { k with dirty := x } else k).mem m' = k.mem m' := by
        intro p _ k x
        split
        · cases m' <;> rfl
        · rfl
      rw [hdirty]
      by_cases hm : m' = m
      · subst hm
        rw [Core.mem_setMem, if_pos ⟨rfl, rfl⟩]
      · rw [Core.mem_setMem_ne _ _ hm, if_neg fun h => hm h.2]
    · rw [World.core_setCore_ne _ _ hd, if_neg fun h => hd h.1]
  · unfold World.writeCore
    rw [if_neg (by rwa [List.isEmpty_iff])]
    rfl

theorem BitWrite.not_touches {b : BitWrite} {a : Nat} (h : a < b.span.1 ∨ b.span.1 + b.span.2 ≤ a) : b.touches a = false := by
  rw [Bool.eq_false_iff]
  intro ht
  obtain ⟨hlo, hhi⟩ := Bool.and_eq_true_iff.1 ht
  have := of_decide_eq_true hlo
  have := of_decide_eq_true hhi
  omega

/-- A range that one of several writes fills and no other touches reads as that write. -/
theorem Cells.read_setBitsAll {l : List BitWrite} {b : BitWrite} {a n : Nat} {bs : List Byte} (m : List Host.Cell)
    (hb : b ∈ l ∨ Cells.read m a n = bs)
    (hwrite : ∀ m, Cells.read (Cells.setBits m b) a n = bs) (hapart : ∀ x ∈ l, x ≠ b → ∀ i < n, x.touches (a + i) = false) :
    Cells.read (l.foldl Cells.setBits m) a n = bs := by
  induction l generalizing m with
  | nil => exact hb.resolve_left List.not_mem_nil
  | cons x l ih =>
    refine ih _ ?_ fun y hy => hapart y (.tail _ hy)
    by_cases hx : x = b
    · exact .inr (by rw [hx, hwrite])
    · refine hb.imp (fun h => (List.mem_cons.1 h).resolve_left (Ne.symm hx)) fun h => ?_
      refine Eq.trans (List.map_congr_left fun i hi => ?_) h
      exact Cells.get_setBits _ _ _ (hapart x (.head _) hx i (List.mem_range.1 hi))

/-- A whole container written, read as its five bytes (R100). -/
theorem Cells.read_container (m : List Host.Cell) {at_ v : Nat} (p : Bool) (h : at_ % 64 = 0) : Cells.read (Cells.setBits m ⟨at_, 64, v, p⟩) (at_ / 8) 5 = leBytes 5 v := by
  have hwhole : (⟨at_, 64, v % 2 ^ 64, p⟩ : BitWrite) = bytesAt (at_ / 8) (leBytes 8 v) p := by
    rw [bytesAt, leNat_leBytes, leBytes_length]
    congr 1
    omega
  have hmod : Cells.setBits m ⟨at_, 64, v, p⟩ = Cells.setBits m ⟨at_, 64, v % 2 ^ 64, p⟩ := by
    unfold Cells.setBits
    rw [Nat.mod_mod]
  rw [hmod, hwhole, Cells.setBits_bytesAt]
  refine List.ext_getElem (by rw [Cells.read_length, leBytes_length]) fun i hi _ => ?_
  rw [Cells.read_length] at hi
  simp only [Cells.read, List.getElem_map, List.getElem_range, Cells.get_write, leBytes_length]
  rw [if_pos (by omega), Nat.add_sub_cancel_left]
  obtain rfl | rfl | rfl | rfl | rfl : i = 0 ∨ i = 1 ∨ i = 2 ∨ i = 3 ∨ i = 4 := by omega
  all_goals rfl

/-- The store of containers keeps the first five bytes of each (R100). -/
theorem read_writeMem_psum (v : EccMem) (bs : List BitWrite) {a : Nat} (ha : a % 8 = 0) :
    Cells.read (writeMem .psum v bs).cells a 5 = Cells.read (bs.foldl Cells.setBits v.cells) a 5 := by
  refine List.map_congr_left fun i hi => ?_
  have hi := List.mem_range.1 hi
  exact Cells.get_filter _ _ _ fun b => decide_eq_true (show (a + i) % 8 < 5 by omega)

theorem Run.settleTile_sameMem (e : Env) (t : Entry) (w : World) (sat : List Nat) (poison : Bool) (tile : Option (Nat × Nat)) (count flags : Nat) :
    w.SameMem (Run.settleTile e t w sat poison tile count flags).w := by
  unfold Run.settleTile
  split
  · exact Run.settle_sameMem ..
  · exact (Run.settle_sameMem ..).trans (World.raise_sameMem ..)

/-- An output's container stands in the destination (R73). -/
theorem finishProduct_container (w : World) (e : Env) (t : Entry) (p2 : Desc) (acc : Nat → Nat → Val) (pos : Nat → Nat → Nat) (start : Nat → Int)
    (g : Rng) (retries : Nat) (sat : List Nat) (fills : Nat) (tile : Option (Nat × Nat)) (count : Option Nat) (x : List Nat) (hfmt : p2.fmt = 12)
    (hx : x ∈ p2.writtenCoords) (hapart : ∀ y ∈ p2.writtenCoords, p2.bitAddr y % 64 = 0 ∧ (y ≠ x → p2.bitAddr y ≠ p2.bitAddr x)) :
    Cells.read ((w.finishProduct e t p2 none acc pos start g retries sat fills tile count).w.core e.c).ps.cells (p2.bitAddr x / 8) 5 =
      leBytes 5 (psEncode (acc (nth x 1) (nth x 0))) := by
  have hbits : p2.bits = 64 := by rw [Desc.bits, hfmt]; rfl
  generalize hes : (p2.writtenCoords.map fun x => { x, pos := pos (nth x 1) (nth x 0), v := acc (nth x 1) (nth x 0) : CElem }) = es
  have hout : (convert p2 12 .rne 0 (fun _ => 0) g es).out = p2.writtenCoords.map fun y => ⟨p2.bitAddr y, 64, psEncode (acc (nth y 1) (nth y 0)), false⟩ := by
    rw [← hes]
    unfold convert elemWrites
    rw [if_pos rfl, hbits]
    dsimp only
    rw [List.map_map, List.zip_map', List.map_map]
    refine List.map_congr_left fun y _ => ?_
    simp [hfmt]
  have hmem : ((w.finishProduct e t p2 none acc pos start g retries sat fills tile count).w.core e.c).ps =
      ((w.writeSpace e [] 3 (convert p2 12 .rne 0 (fun _ => 0) g es).out).core e.c).ps := by
    rw [← hes]
    exact (((World.putRng_sameMem ..).trans (World.countOob_sameMem ..)).trans (Run.settleTile_sameMem ..)).mem e.c .psum
  have hne : (p2.writtenCoords.map fun y => (⟨p2.bitAddr y, 64, psEncode (acc (nth y 1) (nth y 0)), false⟩ : BitWrite)) ≠ [] := by
    intro hnil
    rw [List.map_eq_nil_iff] at hnil
    rw [hnil] at hx
    cases hx
  obtain ⟨u, -, hu, -⟩ := World.writeCore_eq (w := w) (c := e.c) (n := some e.n) (m := .psum) hne
  have hpsum := hu e.c .psum
  rw [if_pos ⟨rfl, rfl⟩] at hpsum
  rw [hmem, hout, World.writeSpace, if_neg (by rwa [List.isEmpty_iff]), if_neg (by decide)]
  refine (congrArg (fun v : EccMem => Cells.read v.cells (p2.bitAddr x / 8) 5) hpsum).trans ?_
  have hax := (hapart x hx).1
  rw [read_writeMem_psum _ _ (by omega)]
  refine Cells.read_setBitsAll _ (.inl (List.mem_map_of_mem hx)) (fun m => Cells.read_container m false hax) fun b hb hbx i hi => ?_
  obtain ⟨y, hy, rfl⟩ := List.mem_map.1 hb
  obtain ⟨hay, hyx⟩ := hapart y hy
  have hyx := hyx fun h => hbx (by rw [h])
  refine BitWrite.not_touches ?_
  dsimp only [BitWrite.span]
  omega

/-- What whole byte strings written one after another leave of the first, and of the rest. -/
theorem Cells.write_many (m : List Host.Cell) (at_ : Nat) (bs : List Byte) (l : List (Nat × List Byte)) :
    ((∀ p ∈ l, p.1 + p.2.length ≤ at_ ∨ at_ + bs.length ≤ p.1) →
        Cells.read (((at_, bs) :: l).foldl (fun m p => Cells.write m p.1 p.2) m) at_ bs.length = bs) ∧
      ∀ i, (∀ p ∈ (at_, bs) :: l, i < p.1 ∨ p.1 + p.2.length ≤ i) → Cells.get (((at_, bs) :: l).foldl (fun m p => Cells.write m p.1 p.2) m) i = Cells.get m i := by
  refine ⟨fun hapart => ?_, fun i hi => ?_⟩
  · rw [List.foldl_cons]
    generalize hm : Cells.write m at_ bs = u
    have hread : Cells.read u at_ bs.length = bs := hm ▸ Cells.read_write m at_ bs
    clear hm
    induction l generalizing u with
    | nil => exact hread
    | cons p l ih => exact ih (fun q hq => hapart q (.tail _ hq)) _ ((Cells.read_write_apart (hapart p (.head _))).trans hread)
  · generalize (at_, bs) :: l = l at hi
    induction l generalizing m with
    | nil => rfl
    | cons p l ih =>
      rw [List.foldl_cons, ih _ fun q hq => hi q (.tail _ hq), Cells.get_write, if_neg (by have := hi p (.head _); omega)]

/-- The byte strings that a rewritten tile writes (R208). -/
def tileWrites (m : List Host.Cell) (l : BattList) (entry : Nat) (old new : Batt) (run : Nat) : List (Nat × List Byte) :=
  [(l.entryAddr entry, leBytes 2 (l.pool + run)),
    (l.mapAt.1, leBytes l.mapAt.2 (markRun (markRun (l.map m) run (new.encode.length / 256) true) (l.entry m entry - l.pool) old.granules false)),
    (256 * l.pool + 6, leBytes 2 (leNat (Cells.read m (256 * l.pool + 6) 2) + old.granules - new.encode.length / 256)),
    (256 * l.gran + 28, leBytes 4 (leNat (Cells.read m (256 * l.gran + 28) 4) + new.nnz - old.nnz))]

theorem World.rewriteTile_cells (w : World) (e : Env) (l : BattList) (entry : Nat) (old new : Batt) (run : Nat) :
    ∃ u, (∀ i, Cells.get u i = Cells.get (w.core e.c).ws.cells i) ∧ ((w.rewriteTile e l entry old new run).core e.c).ws.cells =
      ((256 * (l.pool + run), new.encode) :: tileWrites (w.core e.c).ws.cells l entry old new run).foldl (fun m p => Cells.write m p.1 p.2) u := by
  obtain ⟨u, honly, hcells, -⟩ := World.writeCore_eq (w := w) (c := e.c) (n := some e.n) (m := .weight)
    (bs := ((256 * (l.pool + run), new.encode) :: tileWrites (w.core e.c).ws.cells l entry old new run).map fun p => bytesAt p.1 p.2) (by simp)
  refine ⟨(u.core e.c).ws.cells, fun i => honly.bytes e.c .weight i (.inl (by decide)), ?_⟩
  have hweight := hcells e.c .weight
  rw [if_pos ⟨rfl, rfl⟩] at hweight
  have hdirty : ((w.rewriteTile e l entry old new run).core e.c).ws = ((w.writeCore e.c (some e.n) .weight
      (((256 * (l.pool + run), new.encode) :: tileWrites (w.core e.c).ws.cells l entry old new run).map fun p => bytesAt p.1 p.2)).core e.c).ws :=
    (congrArg Core.ws (World.core_setCore ..)).trans rfl
  have hbytes : ∀ (ps : List (Nat × List Byte)) (m : List Host.Cell),
      (ps.map fun p => bytesAt p.1 p.2).foldl Cells.setBits m = ps.foldl (fun m p => Cells.write m p.1 p.2) m := by
    intro ps
    induction ps with
    | nil => exact fun _ => rfl
    | cons p ps ih =>
      intro m
      rw [List.map_cons, List.foldl_cons, List.foldl_cons, Cells.setBits_bytesAt, ih]
  rw [hdirty]
  refine (congrArg EccMem.cells hweight).trans ?_
  exact hbytes ..

/-- A tile that changes is rewritten (R208). -/
theorem MaskAcc.tile_rewrites {e : Env} {l : BattList} {old : Nat} {pick : Batt → Nat → List (Nat × Nat)} {a : MaskAcc} {entry : Nat} {b : Batt} {run : Nat}
    (hb : l.batt (a.w.core e.c).ws entry = .ok b) (hclean : l.tainted (a.w.core e.c).ws entry = false) (hchange : (pick b entry).map (·.1) ≠ b.w.map (·.1))
    {new : Batt} (hnew : new = { b with w := pick b entry, mx := if b.nnz = 0 then List.replicate 128 0x7F else b.mx, gen := add32 b.gen 1 })
    (hfits : l.ordbase + (leNat (Cells.read (a.w.core e.c).ws.cells (256 * l.gran + 28) 4) + new.nnz - b.nnz) ≤ 2 ^ 32)
    (hrun : l.freeRun (a.w.core e.c).ws.cells (new.encode.length / 256) = some run) :
    (a.tile e l old pick entry).rewritten = a.rewritten + 1 ∧ (a.tile e l old pick entry).before = a.before + b.nnz ∧
      (a.tile e l old pick entry).after = a.after + (pick b entry).length ∧ (a.tile e l old pick entry).w = a.w.rewriteTile e l entry b new run := by
  subst hnew
  unfold MaskAcc.tile
  dsimp only
  rw [hb]
  dsimp only
  rw [hclean, if_neg Bool.false_ne_true, if_neg hchange, decide_eq_true hfits, if_pos rfl, hrun]
  exact ⟨rfl, rfl, rfl, rfl⟩

/-- Settles O34: sums by `accumulate_of_plain`, products by `denseSteps_output`, `accumulateSteps_output` and `finishProduct_container`, mask records
by the lemmas of PRUNE, REGROW and of rewriting a tile. -/
theorem reductionsAndDrawsFollowTheirRule : Obligations.ReductionsAndDrawsFollowTheirRule := by
  unfold Obligations.ReductionsAndDrawsFollowTheirRule
  refine ⟨fun fmt G acc sample pos g vs hacc hG => ?_, fun M N K G Kt m n hG hKt hm hn => denseSteps_output hG hKt hm hn,
    fun mode cols pos draw sum g acc steps m n hmode hn hs => accumulateSteps_output hmode pos draw sum g acc steps hn hs,
    finishProduct_container, fun sel count thr b hb => ?_, fun b ps p hps => ?_, ?_, fun fmt G acc sample pos g v vs => ?_, fun imm x => ?_⟩
  · have hsum : ∀ l : List Val, accumulate acc pos g 0 Val.zero l = (l.foldl (fun a v => roundPs acc 0 (a.add v)) Val.zero, g) :=
      fun l => accumulate_of_plain hacc ..
    refine ⟨groupsOf_flatten hG _ vs (Nat.le_refl _), groupsOf_sizes hG _ vs, ?_, ?_⟩
    · simp only [vredRow, hsum]
    · simp only [vredRow, hsum]
  · refine ⟨pruneKeep_sublist .., fun hsel x hx => ?_, fun hsel => ?_⟩
    · rw [hsel]
      exact mem_pruneKeep_thresh count thr hb hx
    · rw [hsel]
      exact pruneKeep_tilek count thr hb
  · obtain ⟨hkeep, honly⟩ := foldl_set_zero ps b.w hps
    exact ⟨hkeep, fun hp => get_foldl_set_zero ps b.w (.inl hp), honly⟩
  · intro e l old pick a entry b run m hb hclean hchange new n at_ others hfits hrun hapart q
    obtain ⟨hrewritten, hbefore, hafter, hw⟩ := MaskAcc.tile_rewrites (old := old) hb hclean hchange (new := new) rfl hfits hrun
    obtain ⟨u, hu, hcells⟩ := World.rewriteTile_cells a.w e l entry b new run
    have hspans : (tileWrites (a.w.core e.c).ws.cells l entry b new run).map (fun p => (p.1, p.2.length)) = others := by
      simp only [tileWrites, List.map_cons, List.map_nil, leBytes_length]
      rfl
    obtain ⟨hread, hframe⟩ := Cells.write_many u at_ new.encode (tileWrites (a.w.core e.c).ws.cells l entry b new run)
    refine ⟨hrewritten, hbefore, hafter, ?_, fun i hi => ?_⟩
    · rw [hw, hcells]
      exact hread fun p hp => hapart (p.1, p.2.length) (hspans ▸ List.mem_map_of_mem hp)
    · rw [hw, hcells, ← hu]
      refine hframe i fun p hp => ?_
      obtain rfl | hp := List.mem_cons.1 hp
      · exact hi (at_, n) (.head _)
      · exact hi (p.1, p.2.length) (List.mem_cons_of_mem _ (hspans ▸ List.mem_map_of_mem hp))
  · refine ⟨?_, ?_, rfl, rfl, fun sub hsub => ?_⟩
    · rfl
    · rfl
    · simp only [List.mem_cons, List.not_mem_nil, or_false] at hsub
      obtain rfl | rfl | rfl | rfl := hsub <;> rfl
  · have hshift : ∀ k, x.toNat >>> k = x.toNat / 2 ^ k := fun k => Nat.shiftRight_eq_div_pow ..
    unfold vrandElem
    rw [hshift, hshift]
    exact ⟨rfl, rfl, rfl⟩

end Sys2Proof.Machine

/-! PROOFS. An ATOMIC beside a latent error that a check passes and a read marks. -/
namespace Sys2Proof.Machine

/-- FAC of 2 on the container at 0x1000 of the own Partial-Sum Store. -/
def fetchAndCount : Entry :=
  { id := 0, ind := [0, 0, 0, 0, 0], thr := 0, idx := 0
    cmd := { op := 0x29, flags := 0, tag := 0, mode := 0, sync := 0, p0 := 0xC000000000001000, p1 := 0, p2 := 0, p3 := 0, stream := 0
             opflags := 0x18000000, imm := 2 } }

/-- A context on cluster 0. -/
def oneCluster : Resid := { st := .resident, cfg := [0, 1, 0, 6, 6] ++ List.replicate 59 0 }

/-- Core 3 is to run it. The ECC word of the container, which holds the container at 0x1008 too, has a flipped bit. -/
def besideFlip : State :=
  { pending := [], otp := {}, flash := {}, ctl := { part := .ready }, res := [(5, oneCluster)]
    w := { clusters := [(0, { power := .run })]
           cores := [(3, { state := .running, ps := { upsets := [(0x100, .flips [0])] }, store := [fetchAndCount] })] } }

theorem besideFlip_starts : besideFlip.starting 3 .store = some ({ c := 3, n := 5, r := oneCluster, st := .resident }, fetchAndCount) := rfl

/-- The read of the word sets the poison tag of the other container (R105). -/
theorem besideFlip_tags : (match exec (.atomicFac 3) besideFlip with
    | .next t => Cells.get (t.w.core 3).ps.cells 0x100C
    | _ => 0) = 0x10 := by decide

/-- Refutes O39: the statement lets every state be, and where a word of the Partial-Sum Store has a latent error that no check finds fatal and that a
read marks all the same (a flipped bit, as HBM's blocks have them), the poison tag of the word's other container changes. -/
theorem not_atomicRecordsComplete : ¬ Obligations.AtomicRecordsComplete := by
  unfold Obligations.AtomicRecordsComplete
  intro h
  obtain ⟨w, hexec, -, -, hframe, -⟩ := h .atomicFac 1 (by simp) besideFlip 3 _ _ besideFlip_starts (by decide) (by decide) (by decide) (by decide)
    (by decide) (by decide) (by decide)
  have hsame : Cells.get (w.core 3).ps.cells 0x100C = 0 := hframe 0x100C (by decide) (by decide) (by decide)
  have htag := besideFlip_tags
  rw [hexec] at htag
  have hps : (((Finished besideFlip w 3 .store 0 stOk 0 0).w.core 3)).ps = (w.core 3).ps :=
    (congrArg Core.ps (World.core_setCore ..)).trans ((Core.mark_frame (w.core 3) .store 0 (.done stOk 0 0)).2.2 .psum)
  have h0 : Cells.get (w.core 3).ps.cells 0x100C = 0x10 := (congrArg (fun v : EccMem => Cells.get v.cells 0x100C) hps).symm.trans htag
  rw [hsame] at h0
  exact absurd h0 (by decide)

end Sys2Proof.Machine

/-! PROOFS. The entry of SAFE, and the upkeep of HBM. -/
namespace Sys2Proof.Machine

/-! ## SAFE (R456, R487) -/

@[simp] theorem State.logOwed_ctl (s : State) : s.logOwed.ctl = s.ctl := s.logOwed_only.ctl

@[simp] theorem State.partTo_flash (s : State) (p : PartSt) : (s.partTo p).flash = s.flash := by
  unfold State.partTo
  split <;> rfl

/-- SAFE as the part's own state shows it: its status, the pin, no management core. -/
def Ctl.inSafe (c : Ctl) (st : Nat) : Ctl :=
  { c with part := .safe, mgmt := false, endStatus := st, pins := { c.pins with faultLow := true }, safeOff := false }

theorem State.safe_ctl (s : State) (st : Nat) : (s.safe st).ctl = s.ctl.inSafe st := by
  have h : (s.safe st).ctl = s.logOwed.ctl.inSafe st := State.partTo_ctl ..
  rw [h, State.logOwed_ctl]

/-- What the log is owed goes into it on the way to SAFE. -/
theorem State.safe_flash (s : State) (st : Nat) : (s.safe st).flash = s.w.errs.owed.foldl Flash.addLog s.flash := by
  rw [State.safe, State.partTo_flash]
  exact s.logOwed_flash

@[simp] theorem State.raiseLogged_ctl (s : State) (cls unit status inst addr : Nat) (detail : List Byte) (again : Bool) :
    (s.raiseLogged cls unit status inst addr detail again).ctl = s.ctl := by
  unfold State.raiseLogged
  dsimp only
  split
  · split <;> rfl
  split
  · exact (State.logRec_only _ _).ctl
  · rfl

/-- A fatal error ends in SAFE with its status, unless the part is there. -/
theorem State.fatal_ctl {s : State} (h : s.ctl.part ≠ .safe) (unit status inst st addr : Nat) (detail : List Byte) :
    (s.fatal unit status inst st addr detail).ctl = s.ctl.inSafe st := by
  rw [State.fatal, if_neg h, State.safe_ctl, State.raiseLogged_ctl, State.logOwed_ctl]

theorem State.fatals_ctl (s : State) (failed : List (Nat × Nat)) (st : Nat) : (s.fatals failed st).ctl = s.ctl.inSafe st := by
  have hraise : ∀ (l : List (Nat × Nat)) (s : State), (l.foldl (fun s x => s.raiseLogged clsFatal x.1 st x.2) s).ctl = s.ctl := by
    intro l
    induction l with
    | nil => exact fun _ => rfl
    | cons x l ih => exact fun s => (ih _).trans (State.raiseLogged_ctl ..)
  rw [State.fatals, State.safe_ctl, hraise, State.logOwed_ctl]

/-! ## HBM (R320, R321, R329, R331) -/

/-- What a read of a block, or its failure on the bus, leaves. -/
theorem World.patrolRead_frame (w : World) (b : Nat) {p : Prop} [Decidable p] :
    let u := if p then w.busFail none b false else w.touchBlock none b
    u.cores = w.cores ∧ u.hbm.mem.cells = w.hbm.mem.cells ∧ u.hbm.passes = w.hbm.passes := by
  dsimp only
  split
  · obtain ⟨_, _, _, _, h⟩ := World.busFail_frame w none b false
    rw [h]
    exact ⟨rfl, rfl, rfl⟩
  · have hread := World.onlyRead_touchBlock w none b
    exact ⟨(World.touchBlock_side w none b).fields.1, hread.cells, by rw [hread.hbm]⟩

/-- A patrol read changes no byte, and moves on to the next block. -/
theorem World.scrubHbm_frame (w : World) :
    w.scrubHbm.cores = w.cores ∧ w.scrubHbm.hbm.mem.cells = w.hbm.mem.cells ∧ w.scrubHbm.hbm.scrubPos = (w.hbm.scrubPos + 1) % hbmBlocks ∧
      w.scrubHbm.hbm.passes = if w.hbm.scrubPos + 1 = hbmBlocks then bump 64 w.hbm.passes 1 else w.hbm.passes := by
  obtain ⟨hcores, hcells, hpasses⟩ := World.patrolRead_frame { w with hbm := { w.hbm with corrected := w.hbm.corrected.filter (· != w.hbm.scrubPos) } }
    w.hbm.scrubPos (p := w.hbm.scrubPos ∈ w.hbm.busBad)
  refine ⟨hcores, hcells, rfl, ?_⟩
  unfold World.scrubHbm
  dsimp only
  rw [hpasses]

theorem EccMem.befall_cells (m : EccMem) (k : Nat) (u : Upset) : (m.befall k u).cells = m.cells := by
  unfold EccMem.befall
  split
  · rfl
  · split <;> rfl

/-- What befalls HBM is no change of a byte, nor of the patrol. -/
theorem World.strikeHbm_frame (w : World) :
    w.strikeHbm.cores = w.cores ∧ w.strikeHbm.hbm.mem.cells = w.hbm.mem.cells ∧ w.strikeHbm.hbm.scrubPos = w.hbm.scrubPos ∧
      w.strikeHbm.hbm.passes = w.hbm.passes := by
  refine ⟨rfl, ?_, rfl, rfl⟩
  unfold World.strikeHbm
  dsimp only
  split
  · exact EccMem.befall_cells ..
  · rfl

theorem World.wake_holds (w : World) (k d line : Nat) : ((w.wake k).die d).holds line = (w.die d).holds line := by
  have hset : ∀ v : Die, v.sets = (w.die (dieOfCluster k)).sets → ((w.setDie (dieOfCluster k) v).die d).holds line = (w.die d).holds line := by
    intro v hv
    by_cases hd : d = dieOfCluster k
    · rw [hd, World.die_setDie, Die.holds, Die.holds, hv]
    · rw [World.die_setDie_ne _ _ hd]
  unfold World.wake
  dsimp only
  split
  · split
    · rfl
    · exact hset _ rfl
  · split
    · rfl
    · exact hset _ rfl
  · split
    · rfl
    · exact hset _ rfl
  · rfl

/-- After the wipe no cache holds a line (R329). -/
theorem World.wiped_holds (w : World) (us d line : Nat) : ((w.wiped us).die d).holds line = false := by
  have hdie : (w.wiped us).die d = ((w.countEven (2 ^ 36)).die d).invalidateAll := Tab.get_map Die.invalidateAll {} (w.countEven (2 ^ 36)).dies d
  rw [hdie]
  exact Die.invalidateAll_holds ..

theorem World.wiped_hbm (w : World) (us : Nat) :
    ∃ h : Hbm, (w.wiped us).hbm = { h with mem := {}, corrected := [], busBad := [], scrubPos := 0, wipe := 2, wipeUs := us % 2 ^ 32 } := ⟨_, rfl⟩

theorem World.wakeAll_frame (w : World) : (∃ dies, w.wakeAll = { w with dies }) ∧ ∀ d line, (w.wakeAll.die d).holds line = (w.die d).holds line := by
  refine ⟨World.only_wakes (List.range 64) w, fun d line => ?_⟩
  unfold World.wakeAll
  generalize List.range 64 = l
  induction l generalizing w with
  | nil => rfl
  | cons k l ih => exact (ih _).trans (World.wake_holds ..)

/-- Settles O42: a patrol read by `World.scrubHbm_frame`, training and the wipe by their definitions, SAFE by `State.fatal_ctl`. -/
theorem hbmUpkeepCompletes : Obligations.HbmUpkeepCompletes := by
  unfold Obligations.HbmUpkeepCompletes
  refine fun s t => ⟨fun hwipe hpg hpart => ?_, fun hpart hstep htrain => ?_, fun hpart hstep htrain => ?_, fun us hpart hstep htrained => ?_,
    fun celsius hpg htrain => ?_⟩
  · have hexec : exec .hbmPatrolScrub s = execHbmPatrolScrub s := rfl
    rw [hexec, execHbmPatrolScrub, if_pos ⟨hwipe, hpg, hpart⟩]
    obtain ⟨hcores, hcells, hpos, hpasses⟩ := World.scrubHbm_frame s.w
    obtain ⟨hcores', hcells', hpos', hpasses'⟩ := World.strikeHbm_frame s.w.scrubHbm
    exact ⟨_, rfl, rfl, hpos'.trans hpos, hcells'.trans hcells, hcores'.trans hcores, hpasses'.trans hpasses⟩
  · have hexec : exec (.hbmStackTrained t true) s = execHbmStackTrained t true s := rfl
    rw [hexec, execHbmStackTrained, if_pos ⟨hpart, hstep, htrain⟩, if_pos rfl]
    refine ⟨_, rfl, rfl, ?_, rfl, rfl, fun j hj => ?_⟩
    · exact World.stack_setStack ..
    · exact World.stack_setStack_ne _ _ hj
  · have hexec : exec (.hbmStackTrained t false) s = execHbmStackTrained t false s := rfl
    rw [hexec, execHbmStackTrained, if_pos ⟨hpart, hstep, htrain⟩, if_neg Bool.false_ne_true]
    have hctl := State.fatal_ctl (s := s.withW (s.w.setStack t { s.w.stack t with train := 2 })) (by simp [hpart]) uHbm stTimeout t stTimeout 0 []
    exact ⟨_, rfl, by rw [hctl]; rfl, by rw [hctl]; rfl, by rw [hctl]; rfl⟩
  · have hexec : exec (.hbmWipeDone none us) s = execHbmWipeDone none us s := rfl
    have hall : ((List.range 16).all fun t => (s.w.stack t).train == 1) = true := by
      rw [List.all_eq_true]
      exact fun j hj => beq_iff_eq.2 (htrained j (List.mem_range.1 hj))
    rw [hexec, execHbmWipeDone, if_pos ⟨hpart, hstep⟩]
    dsimp only
    rw [if_pos hall]
    obtain ⟨⟨dies, hwake⟩, hholds⟩ := World.wakeAll_frame (s.w.wiped us)
    have hhbm : (s.w.wiped us).wakeAll.hbm = (s.w.wiped us).hbm := by rw [hwake]
    obtain ⟨h, hwiped⟩ := World.wiped_hbm s.w us
    rw [hwiped] at hhbm
    have hcold : ∀ d line, ((s.w.wiped us).wakeAll.die d).holds line = false := fun d line => (hholds d line).trans (World.wiped_holds ..)
    generalize (s.w.wiped us).wakeAll = u at hhbm hcold ⊢
    refine ⟨_, rfl, rfl, rfl, rfl, rfl, congrArg Hbm.wipe hhbm, congrArg Hbm.wipeUs hhbm, congrArg Hbm.scrubPos hhbm, fun a => ?_, fun b => ?_, hcold⟩
    · exact congrArg (fun h : Hbm => Cells.get h.mem.cells a) hhbm
    · exact congrArg (fun h : Hbm => h.mem.bad b) hhbm
  · have hexec : exec (.refreshRateChange t celsius) s = execRefreshRateChange t celsius s := rfl
    rw [hexec, execRefreshRateChange, if_pos ⟨hpg, htrain⟩]
    exact ⟨_, rfl, rfl, World.stack_setStack .., rfl⟩

end Sys2Proof.Machine

/-! PROOFS. Upkeep of the core memories and the caches. -/
namespace Sys2Proof.Machine

/-! ## Reads of a core memory (R105) -/

/-- What reading words of core memories leaves: HBM, and the bytes of every memory but the Partial-Sum Stores. -/
structure World.Touched (w u : World) : Prop where
  only : w.OnlyRead u
  hbm : u.hbm = w.hbm
  cells : ∀ c m, m ≠ .psum → ((u.core c).mem m).cells = ((w.core c).mem m).cells

theorem World.Touched.refl (w : World) : w.Touched w := ⟨.refl w, rfl, fun _ _ _ => rfl⟩

theorem World.Touched.trans {w u v : World} (a : w.Touched u) (b : u.Touched v) : w.Touched v :=
  ⟨a.only.trans b.only, b.hbm.trans a.hbm, fun c m h => (b.cells c m h).trans (a.cells c m h)⟩

theorem World.Touched.foldl {α : Type} {f : World → α → World} (h : ∀ (w : World) (x : α), w.Touched (f w x)) (l : List α) (w : World) :
    w.Touched (l.foldl f w) := by
  induction l generalizing w with
  | nil => exact .refl w
  | cons x l ih => exact (h w x).trans (ih _)

theorem World.raise_at_core (w : World) (cls unit status inst : Nat) (ctx : Option Nat) (die addr : Nat) (detail : List Byte) (d : Nat) :
    (w.raise cls unit status inst ctx die addr detail).core d = w.core d := (World.raise_at w cls unit status inst ctx die addr detail false d).1

theorem Core.mem_queueWb (k : Core) (m : CoreMem) (word : Nat) (m' : CoreMem) : (k.queueWb m word).mem m' = k.mem m' := by
  unfold Core.queueWb
  split
  · rfl
  split <;> cases m' <;> rfl

/-- A memory replaced by one with the same bytes. -/
theorem Core.setMem_cells (k : Core) {m : CoreMem} {v : EccMem} (hv : v.cells = (k.mem m).cells) (m' : CoreMem) : ((k.setMem m v).mem m').cells = (k.mem m').cells := by
  by_cases hm : m' = m
  · rw [hm, Core.mem_setMem, hv]
  · rw [Core.mem_setMem_ne _ _ hm]

theorem World.touchWord_core (w : World) (c : Nat) (n : Option Nat) (m : CoreMem) (k d : Nat) :
    (∀ m', m' ≠ .psum → (((w.touchWord c n m k).core d).mem m').cells = ((w.core d).mem m').cells) ∧
      (d ≠ c → (w.touchWord c n m k).core d = w.core d) ∧ (w.touchWord c n m k).hbm = w.hbm := by
  have hset : ∀ x : Core, (∀ m', m' ≠ .psum → (x.mem m').cells = ((w.core c).mem m').cells) →
      (∀ m', m' ≠ .psum → (((w.setCore c x).core d).mem m').cells = ((w.core d).mem m').cells) ∧ (d ≠ c → (w.setCore c x).core d = w.core d) := by
    intro x hx
    refine ⟨fun m' hm' => ?_, fun hd => World.core_setCore_ne _ _ hd⟩
    by_cases hd : d = c
    · rw [hd, World.core_setCore, hx m' hm']
    · rw [World.core_setCore_ne _ _ hd]
  unfold World.touchWord
  dsimp only
  split
  · exact ⟨fun _ _ => rfl, fun _ => rfl, rfl⟩
  · next b seen _ =>
    obtain ⟨hcells, hother⟩ := hset (((w.core c).setMem m (((w.core c).mem m).seen k b)).queueWb m k) fun m' _ => by
      rw [Core.mem_queueWb]
      exact Core.setMem_cells (w.core c) (EccMem.seen_cells ..).1 m'
    split
    · exact ⟨hcells, hother, rfl⟩
    · refine ⟨fun m' hm' => ?_, fun hd => ?_, ?_⟩
      · rw [World.raise_at_core, hcells m' hm']
      · rw [World.raise_at_core, hother hd]
      · exact (World.raise_sameMem ..).hbm
  · obtain ⟨hcells, hother⟩ := hset ((w.core c).setMem m (if m = .psum then (((w.core c).mem m).mark k).psTags k else ((w.core c).mem m).mark k))
      fun m' hm' => by
        by_cases hm : m = .psum
        · rw [hm, Core.mem_setMem_ne _ _ hm']
        · rw [if_neg hm]
          exact Core.setMem_cells (w.core c) (EccMem.mark_cells ..) m'
    refine ⟨fun m' hm' => ?_, fun hd => ?_, ?_⟩
    · rw [World.raise_at_core, hcells m' hm']
    · rw [World.raise_at_core, hother hd]
    · exact (World.raise_sameMem ..).hbm

theorem World.touchWord_touched (w : World) (c : Nat) (n : Option Nat) (m : CoreMem) (k : Nat) : w.Touched (w.touchWord c n m k) :=
  ⟨World.onlyRead_touchWord .., (World.touchWord_core w c n m k 0).2.2, fun d m' hm' => (World.touchWord_core w c n m k d).1 m' hm'⟩

theorem World.touch_touched (w : World) (c : Nat) (n : Option Nat) (m : CoreMem) (l : List Nat) : w.Touched (w.touch c n m l) :=
  .foldl (fun w k => World.touchWord_touched w c n m k) l w

theorem World.touch_core_ne (w : World) (c : Nat) (n : Option Nat) (m : CoreMem) (l : List Nat) {d : Nat} (h : d ≠ c) :
    (w.touch c n m l).core d = w.core d := by
  unfold World.touch
  induction l generalizing w with
  | nil => rfl
  | cons k l ih => exact (ih _).trans ((World.touchWord_core w c n m k d).2.1 h)

/-! ## Upkeep -/

theorem World.scrubCore_touched (w : World) (k c : Nat) : w.Touched (w.scrubCore k c) :=
  ((World.touch_touched ..).trans (World.touch_touched ..)).trans (World.touch_touched ..)

/-- A patrol step reads rows of the cluster's cores and moves the positions on (R107). -/
theorem World.scrubCluster_eq (w : World) (k : Nat) :
    ∃ u, w.Touched u ∧ w.scrubCluster k = u.setCluster k { u.cluster k with
      scrubW := ((u.cluster k).scrubW + 1) % 16384, scrubS := ((u.cluster k).scrubS + 1) % 6144, scrubP := ((u.cluster k).scrubP + 1) % 4096 } :=
  ⟨_, .foldl (fun w _ => World.scrubCore_touched w ..) _ _, rfl⟩

theorem EccMem.strike_cells (m : EccMem) (words f : Nat) : (m.strike words f).cells = m.cells := by
  unfold EccMem.strike
  dsimp only
  split
  · rfl
  · exact EccMem.befall_cells ..

/-- What befalls a word of a cluster's memories is no change of a byte. -/
theorem World.strikeCluster_frame (w : World) (k : Nat) :
    (∀ d m, (((w.strikeCluster k).core d).mem m).cells = ((w.core d).mem m).cells) ∧
      (∀ d, ((w.strikeCluster k).core d).regs = (w.core d).regs ∧ ((w.strikeCluster k).core d).ctrs = (w.core d).ctrs) ∧
      (w.strikeCluster k).hbm = w.hbm ∧ ∀ j, (w.strikeCluster k).cluster j = w.cluster j := by
  unfold World.strikeCluster
  dsimp only
  generalize (if Config.freeBool (w.free + 1) = true then CoreMem.weight else if Config.freeBool (w.free + 2) = true then CoreMem.scratch else CoreMem.psum) = m
  generalize 16 * k + Config.freeNat w.free % 16 = c
  generalize hv : (w.core c).setMem m (((w.core c).mem m).strike (wordsIn m) (w.free + 3)) = x
  have hcells : ∀ m', (x.mem m').cells = ((w.core c).mem m').cells := fun m' => by
    rw [← hv]
    exact Core.setMem_cells (w.core c) (EccMem.strike_cells ..) m'
  have hregs : x.regs = (w.core c).regs ∧ x.ctrs = (w.core c).ctrs := by
    rw [← hv]
    exact ⟨(Core.setMem_frame ..).2.1, (Core.setMem_frame ..).2.2.1⟩
  have hcore : ∀ d, (({ w.setCore c x with free := w.free + 7 } : World).core d) = (w.setCore c x).core d := fun _ => rfl
  refine ⟨fun d m' => ?_, fun d => ?_, rfl, fun _ => rfl⟩
  · rw [hcore]
    by_cases hd : d = c
    · rw [hd, World.core_setCore, hcells]
    · rw [World.core_setCore_ne _ _ hd]
  · rw [hcore]
    by_cases hd : d = c
    · rw [hd, World.core_setCore]
      exact hregs
    · rw [World.core_setCore_ne _ _ hd]
      exact ⟨rfl, rfl⟩

theorem plruVictim_lt (bits : Nat) : plruVictim bits < 16 := by
  have hbit : ∀ i, fld bits i i ≤ 1 := fun i => by
    have h : fld bits i i = (bits >>> i) % 2 := by simp [fld]
    omega
  have h0 := hbit 0
  have h1 := hbit (1 + fld bits 0 0)
  have h2 := hbit (3 + (2 * fld bits 0 0 + fld bits (1 + fld bits 0 0) (1 + fld bits 0 0)))
  have h3 := hbit (7 + (2 * (2 * fld bits 0 0 + fld bits (1 + fld bits 0 0) (1 + fld bits 0 0)) +
    fld bits (3 + (2 * fld bits 0 0 + fld bits (1 + fld bits 0 0) (1 + fld bits 0 0))) (3 + (2 * fld bits 0 0 + fld bits (1 + fld bits 0 0) (1 + fld bits 0 0)))))
  unfold plruVictim
  dsimp only
  omega

/-- A line installed in a set of sixteen ways is held there (R115). -/
theorem SacSet.install_holds {v : SacSet} (hv : v.ways.length = 16) (x : SacLine) : (v.install x).ways.any (holdsLine x.line) = true := by
  have hway : ((v.ways.findIdx? Option.isNone)).getD (plruVictim v.plru) < v.ways.length := by
    rw [hv]
    cases hfree : v.ways.findIdx? Option.isNone with
    | none => exact plruVictim_lt _
    | some i =>
      obtain ⟨hi, -⟩ := List.findIdx?_eq_some_iff_getElem.1 hfree
      exact hv ▸ hi
  refine List.any_eq_true.2 ⟨some x, ?_, ?_⟩
  · exact List.mem_set hway _
  · simp [holdsLine]

/-- Settles O41, clause by clause. -/
theorem coreUpkeepCompletes : Obligations.CoreUpkeepCompletes := by
  unfold Obligations.CoreUpkeepCompletes
  refine fun s c k d i => ⟨fun m word rest hrun hwbq => ?_, fun hrun => ?_, fun line f hf hways => ?_, fun hst => ?_⟩
  · have hexec : exec (.correctedWriteback c) s = execCorrectedWriteback c s := rfl
    rw [hexec, execCorrectedWriteback, if_pos hrun, World.writeBack, hwbq]
    dsimp only
    generalize hv : ({ (s.w.core c).mem m with upsets := ((s.w.core c).mem m).upsets.filter fun e => !(e.1 == word && !e.2.fatal) } : EccMem) = v
    have hcells : ∀ m', (((s.w.core c).setMem m v).mem m').cells = ((s.w.core c).mem m').cells ∧ (((s.w.core c).setMem m v).mem m').marks = ((s.w.core c).mem m').marks := by
      intro m'
      by_cases hm : m' = m
      · rw [hm, Core.mem_setMem, ← hv]
        exact ⟨rfl, rfl⟩
      · rw [Core.mem_setMem_ne _ _ hm]
        exact ⟨rfl, rfl⟩
    have hrest : ∀ m', ({ (s.w.core c).setMem m v with wbq := rest } : Core).mem m' = ((s.w.core c).setMem m v).mem m' := fun m' => by cases m' <;> rfl
    have hcore : (s.w.setCore c { (s.w.core c).setMem m v with wbq := rest }).core c = { (s.w.core c).setMem m v with wbq := rest } := World.core_setCore ..
    refine ⟨_, rfl, rfl, congrArg Core.wbq hcore, fun e he heq => ?_, fun m' => ?_, fun e he => World.core_setCore_ne _ _ he⟩
    · have hmem : ((s.w.setCore c { (s.w.core c).setMem m v with wbq := rest }).core c).mem m = v := by
        rw [hcore, hrest, Core.mem_setMem]
      have he : e ∈ v.upsets := hmem ▸ he
      rw [← hv] at he
      have hkept := (List.mem_filter.1 he).2
      simpa [heq] using hkept
    · have hmem : ((s.w.setCore c { (s.w.core c).setMem m v with wbq := rest }).core c).mem m' = ((s.w.core c).setMem m v).mem m' := by
        rw [hcore, hrest]
      have hsame := hcells m'
      rw [← hmem] at hsame
      exact hsame
  · have hexec : exec (.corePatrolScrub k) s = execCorePatrolScrub k s := rfl
    rw [hexec, execCorePatrolScrub, if_pos hrun]
    obtain ⟨u, htouched, hscrub⟩ := World.scrubCluster_eq s.w k
    obtain ⟨hcells, hregs, hhbm, hcluster⟩ := World.strikeCluster_frame (s.w.scrubCluster k) k
    generalize (s.w.scrubCluster k).strikeCluster k = z at hcells hregs hhbm hcluster ⊢
    refine ⟨_, rfl, rfl, ?_, ?_, fun e => ⟨?_, ?_, fun m hm => ?_, fun a ha => ?_⟩⟩
    · refine (hcluster k).trans ?_
      rw [hscrub, World.cluster_setCluster, htouched.only.cluster]
    · exact hhbm.trans (by rw [hscrub]; exact htouched.hbm)
    · exact (hregs e).1.trans (by rw [hscrub]; exact htouched.only.regs e)
    · exact (hregs e).2.trans (by rw [hscrub]; exact htouched.only.ctrs e)
    · exact (hcells e m).trans (by rw [hscrub]; exact htouched.cells e m hm)
    · refine (congrArg (Cells.get · a) (hcells e .psum)).trans ?_
      rw [hscrub]
      exact htouched.only.bytes e .psum a (.inr ha)
  · have hexec : exec (.sacLineFill d line) s = execSacLineFill d line s := rfl
    rw [hexec, execSacLineFill]
    have hfill : (s.w.die d).fill line = { s.w.die d with
        fills := (s.w.die d).fills.erase f
        sets := if f.dropped || (s.w.die d).holds line then (s.w.die d).sets
          else (s.w.die d).sets.set (sacIndex line) ((Tab.get {} (s.w.die d).sets (sacIndex line) : SacSet).install ⟨line, f.bad⟩) } := by
      rw [Die.fill, hf]
    have hdie : (s.w.setDie d ((s.w.die d).fill line)).die d = (s.w.die d).fill line := World.die_setDie ..
    rw [hfill] at hdie ⊢
    refine ⟨_, rfl, rfl, congrArg Die.fills hdie, fun hin => ?_, fun hdropped => ?_, fun j hj => ?_⟩
    · refine (congrArg (Die.holds · line) hdie).trans ?_
      rw [hin, Bool.false_or]
      cases hholds : (s.w.die d).holds line with
      | true => exact hholds
      | false =>
        unfold Die.holds
        rw [if_neg Bool.false_ne_true, Tab.get_set_same]
        exact SacSet.install_holds hways _
    · refine (congrArg Die.sets hdie).trans ?_
      rw [hdropped, Bool.true_or]
      rfl
    · refine (congrArg (fun v : Die => (Tab.get {} v.sets j : SacSet)) hdie).trans ?_
      dsimp only
      split
      · rfl
      · rw [Tab.get_set_ne _ _ _ hj]
  · have hexec : exec (.windowDrainTimeout c i) s = execWindowDrainTimeout c i s := rfl
    have hopen : (s.w.win c i).st ≠ .closed := by rw [hst]; decide
    rw [hexec, execWindowDrainTimeout, if_pos hst, World.reclaimWin]
    dsimp only
    rw [if_neg hopen]

end Sys2Proof.Machine

/-! PROOFS. Power states of clusters and the wake arbiter (R432–R437). -/
namespace Sys2Proof.Machine

/-! ## What commits to windows leave as it is -/

/-- The clusters, the arbiters' running wakes and the engines' warmth are as before. -/
structure World.Unmoved (w u : World) : Prop where
  clusters : u.clusters = w.clusters
  die : ∀ d, (u.die d).poweringUp = (w.die d).poweringUp ∧ (u.die d).restarting = (w.die d).restarting
  core : ∀ c, (u.core c).cold = (w.core c).cold

namespace World.Unmoved

theorem refl (w : World) : w.Unmoved w := ⟨rfl, fun _ => ⟨rfl, rfl⟩, fun _ => rfl⟩

theorem trans {w u v : World} (a : w.Unmoved u) (b : u.Unmoved v) : w.Unmoved v :=
  ⟨b.clusters.trans a.clusters, fun d => ⟨(b.die d).1.trans (a.die d).1, (b.die d).2.trans (a.die d).2⟩, fun c => (b.core c).trans (a.core c)⟩

theorem foldl {α : Type} {f : World → α → World} (h : ∀ (w : World) (x : α), w.Unmoved (f w x)) :
    ∀ (l : List α) (w : World), w.Unmoved (l.foldl f w)
  | [], w => .refl w
  | x :: l, w => (h w x).trans (foldl h l (f w x))

theorem ite {w u v : World} {p : Prop} [Decidable p] (a : w.Unmoved u) (b : w.Unmoved v) : w.Unmoved (if p then u else v) := by
  split
  · exact a
  · exact b

end World.Unmoved

theorem World.unmoved_of_same {w u : World} (hcl : u.clusters = w.clusters) (hdie : u.dies = w.dies) (hco : u.cores = w.cores) : w.Unmoved u :=
  ⟨hcl, fun d => by rw [World.die, World.die, hdie]; exact ⟨rfl, rfl⟩, fun c => by rw [World.core, World.core, hco]⟩

theorem World.OnlyRead.unmoved {w u : World} (h : w.OnlyRead u) : w.Unmoved u :=
  ⟨by rw [h.rest], fun d => by rw [h.die d]; exact ⟨rfl, rfl⟩, fun c => by rw [h.core c]⟩

theorem World.setCore_unmoved (w : World) (c : Nat) (k : Core) (h : k.cold = (w.core c).cold) : w.Unmoved (w.setCore c k) := by
  refine ⟨rfl, fun d => ⟨rfl, rfl⟩, fun d => ?_⟩
  by_cases hd : d = c
  · rw [hd, World.core_setCore, h]
  · rw [World.core_setCore_ne _ _ hd]

theorem World.setDie_unmoved (w : World) (d : Nat) (x : Die) (hp : x.poweringUp = (w.die d).poweringUp) (hr : x.restarting = (w.die d).restarting) :
    w.Unmoved (w.setDie d x) := by
  refine ⟨rfl, fun i => ?_, fun c => rfl⟩
  by_cases hi : i = d
  · rw [hi, World.die_setDie]
    exact ⟨hp, hr⟩
  · rw [World.die_setDie_ne _ _ hi]
    exact ⟨rfl, rfl⟩

theorem World.event_unmoved (w : World) (code idx sub die : Nat) (ctx : Option Nat) (st : Nat) (p : List Byte) :
    w.Unmoved (w.event code idx sub die ctx st p) := by
  rw [World.event_frame]
  exact World.unmoved_of_same rfl rfl rfl

theorem World.sendLink_unmoved (w : World) (l dst : Nat) (b : FrameBody) : w.Unmoved (w.sendLink l dst b) := by
  obtain ⟨ls, h⟩ := World.sendLink_only w l dst b
  rw [h]
  exact World.unmoved_of_same rfl rfl rfl

theorem World.setWin_unmoved (w : World) (c i : Nat) (v : Window) : w.Unmoved (w.setWin c i v) := World.setCore_unmoved _ _ _ rfl

theorem World.invalidateLine_unmoved (w : World) (line : Nat) : w.Unmoved (w.invalidateLine line) := by
  have h0 : w.Unmoved (w.setDie 0 ((w.die 0).invalidate line)) := World.setDie_unmoved _ _ _ rfl rfl
  refine h0.trans (.trans (World.setDie_unmoved _ 1 ((w.die 1).invalidate line) ?_ ?_) (World.unmoved_of_same rfl rfl rfl))
  · rw [World.die_setDie_ne _ _ (by decide)]
    rfl
  · rw [World.die_setDie_ne _ _ (by decide)]
    rfl

theorem World.writeHbm_unmoved (w : World) (n : Option Nat) (bs : List BitWrite) : w.Unmoved (w.writeHbm n bs) := by
  have htouch : w.Unmoved ((mergedWords 64 bs).foldl (fun w b => w.touchBlock n b) w) :=
    .foldl (fun w b => (World.onlyRead_touchBlock w n b).unmoved) _ _
  unfold World.writeHbm
  dsimp only
  refine World.Unmoved.trans (World.Unmoved.trans ?_ (.foldl (fun w b => ?_) _ _)) (.foldl (fun w l => World.invalidateLine_unmoved w l) _ _)
  · exact htouch.trans (World.unmoved_of_same rfl rfl rfl)
  · exact World.unmoved_of_same rfl rfl rfl

theorem World.hbmPut_unmoved (w : World) (a : Nat) (bs : List Byte) : w.Unmoved (w.hbmPut a bs) := .ite (.refl w) (World.writeHbm_unmoved ..)

theorem World.meetBus_unmoved (w : World) (n : Option Nat) (l : List Nat) : w.Unmoved (w.meetBus n l) := by
  obtain ⟨_, _, _, _, _, h⟩ := World.meetBus_frame w n l
  rw [h]
  exact World.unmoved_of_same rfl rfl rfl

theorem World.landed_unmoved (w w0 : World) (n lo len : Nat) : w.Unmoved (w.landed w0 n lo len) := by
  unfold World.landed
  dsimp only
  refine World.Unmoved.trans ?_ (World.meetBus_unmoved _ _ _)
  exact World.unmoved_of_same rfl rfl rfl

theorem World.writeCore_unmoved (w : World) (c : Nat) (n : Option Nat) (m : CoreMem) (bs : List BitWrite) : w.Unmoved (w.writeCore c n m bs) := by
  unfold World.writeCore
  refine .ite (.refl w) (.trans (World.touch_touched ..).only.unmoved (World.setCore_unmoved _ _ _ ?_))
  split <;> cases m <;> rfl

theorem World.freeWin_unmoved (w : World) (c i inc : Nat) : w.Unmoved (w.freeWin c i inc) :=
  (World.setWin_unmoved ..).trans (.foldl (fun w _ => World.sendLink_unmoved w ..) _ _)

theorem World.raiseCtr_unmoved (w : World) (res : Tab Resid) (c ctr inc : Nat) : w.Unmoved (w.raiseCtr res c ctr inc) :=
  (World.setCore_unmoved w c ((w.core c).addCtr ctr inc) rfl).trans (.foldl (fun w _ => .ite (World.freeWin_unmoved ..) (.refl w)) _ _)

theorem World.commitWrite_unmoved (w : World) (res : Tab Resid) (l src : Nat) (x : WinWrite) : w.Unmoved (w.commitWrite res l src x) := by
  unfold World.commitWrite
  dsimp only
  split
  · exact (World.setWin_unmoved ..).trans (World.sendLink_unmoved ..)
  · exact (((World.setWin_unmoved ..).trans (World.writeCore_unmoved ..)).trans (World.raiseCtr_unmoved ..)).trans (World.sendLink_unmoved ..)
  · exact (((World.setWin_unmoved ..).trans (World.writeHbm_unmoved ..)).trans (World.hbmPut_unmoved ..)).trans
      ((World.landed_unmoved ..).trans (World.sendLink_unmoved ..))

theorem World.discardWrite_unmoved (w : World) (l src : Nat) (x : WinWrite) (st : Nat) : w.Unmoved (w.discardWrite l src x st) :=
  ((World.setWin_unmoved ..).trans (World.sendLink_unmoved ..)).trans (World.event_unmoved ..)

theorem World.takeWrite_unmoved (w : World) (res : Tab Resid) (l src : Nat) (x : WinWrite) : w.Unmoved (w.takeWrite res l src x) := by
  have hout := World.discardWrite_unmoved w l src x
  unfold World.takeWrite
  exact .ite (hout _) (.ite (hout _) (.ite (hout _) (.ite (hout _) (.ite (hout _) (World.commitWrite_unmoved ..)))))

theorem World.unpark_unmoved (w : World) (res : Tab Resid) : w.Unmoved (w.unpark res) := by
  have hput : ∀ (w : World) (seam : Seam) (l : Nat) (k : Link), w.Unmoved { w with seam } ∧ w.Unmoved (w.setLink l k) :=
    fun w _ _ _ => ⟨World.unmoved_of_same rfl rfl rfl, World.unmoved_of_same rfl rfl rfl⟩
  unfold World.unpark
  refine .trans (hput w { w.seam with parked := [] } 0 (w.link 0)).1 (.foldl (fun w p => ?_) _ _)
  exact .ite (hput w _ 0 (w.link 0)).1 ((hput w w.seam _ _).2.trans (World.takeWrite_unmoved ..))

end Sys2Proof.Machine

/-! PROOFS. Descent, the wake arbiter and RUN (R432–R437). -/
namespace Sys2Proof.Machine

/-! ## A cluster's cores taken in turn -/

/-- Cores changed one after the other: each of them has what every one gets. -/
theorem World.core_foldl_setCore {P : Core → Prop} (base : Nat) (g : Nat → Core → Core) (h : ∀ i k, P (g i k)) (n : Nat) (w : World) :
    ∀ i, i < n → P (((List.range n).foldl (fun w i => w.setCore (base + i) (g i (w.core (base + i)))) w).core (base + i)) := by
  induction n with
  | zero => exact fun i hi => absurd hi (Nat.not_lt_zero i)
  | succ n ih =>
    intro i hi
    rw [List.range_succ, List.foldl_append, List.foldl_cons, List.foldl_nil]
    obtain hlt | rfl := Nat.lt_succ_iff_lt_or_eq.1 hi
    · rw [World.core_setCore_ne _ _ (by omega)]
      exact ih i hlt
    · rw [World.core_setCore]
      exact h ..

abbrev World.putCores (w : World) (cores : Tab Core) : World := { w with cores }
abbrev World.putDma (w : World) (dma : Tab Chan) : World := { w with dma }

theorem World.only_setCores (f : World → Nat → Core) (c : Nat → Nat) (l : List Nat) (w : World) :
    World.Only World.putCores w (l.foldl (fun w i => w.setCore (c i) (f w i)) w) :=
  .foldl (put := World.putCores) (fun w => ⟨w.cores, rfl⟩) (fun _ _ _ => rfl) (fun _ _ => ⟨_, rfl⟩) l w

theorem World.only_setChans (f : World → Nat → Chan) (c : Nat → Nat) (l : List Nat) (w : World) :
    World.Only World.putDma w (l.foldl (fun w i => w.setChan (c i) (f w i)) w) :=
  .foldl (put := World.putDma) (fun w => ⟨w.dma, rfl⟩) (fun _ _ _ => rfl) (fun _ _ => ⟨_, rfl⟩) l w

theorem Core.afterOff_mem (c : Nat) (k : Core) (m : CoreMem) : (k.afterOff c).mem m = {} := by cases m <;> rfl

/-- A cluster that holds nothing: its power is as it was, its translations are gone, its core memories list no byte (R432). -/
theorem World.zeroCluster_holds (w : World) (k : Nat) :
    (w.zeroCluster k).cluster k = { w.cluster k with tlb := [], walks := [], scrubW := 0, scrubS := 0, scrubP := 0 } ∧
      (∀ d, (w.zeroCluster k).die d = w.die d) ∧ ∀ i, i < 16 → ∀ m, ((w.zeroCluster k).core (16 * k + i)).mem m = {} := by
  have hmem := World.core_foldl_setCore (P := fun x => ∀ m, x.mem m = {}) (16 * k) (fun i x => x.afterOff (16 * k + i))
    (fun i x => Core.afterOff_mem _ x) 16 w
  obtain ⟨cores, hcores⟩ := World.only_setCores (fun w i => (w.core (16 * k + i)).afterOff (16 * k + i)) (fun i => 16 * k + i) (List.range 16) w
  unfold World.zeroCluster
  dsimp only
  generalize (List.range 16).foldl (fun w i => w.setCore (16 * k + i) ((w.core (16 * k + i)).afterOff (16 * k + i))) w = u at hmem hcores
  obtain ⟨dma, hdma⟩ := World.only_setChans (fun w i => (w.chan (8 * k + i)).cleared) (fun i => 8 * k + i) (List.range 8) u
  rw [hdma, hcores]
  rw [hcores] at hmem
  exact ⟨World.cluster_setCluster .., fun _ => rfl, hmem⟩

theorem World.offEvent_holds (w : World) (k : Nat) :
    (∀ i, (w.offEvent k).cluster i = w.cluster i) ∧ (∀ d, (w.offEvent k).die d = w.die d) ∧ ∀ c, (w.offEvent k).core c = w.core c :=
  ⟨fun _ => rfl, fun _ => rfl, fun _ => rfl⟩

/-! ## Cluster power (R432–R437) -/

theorem Cluster.toFloor_frame (v : Cluster) :
    v.toFloor = { v with entering := v.toFloor.entering } ∧ (v.floor ≠ 3 → v.toFloor = v) := by
  unfold Cluster.toFloor
  split
  · next h => exact ⟨rfl, fun hf => absurd h.1 hf⟩
  · exact ⟨rfl, fun _ => rfl⟩

/-- A cluster in RUN again (R91, R436): no wake of it runs any more, and its engines are cold, whatever writes were waiting for it. -/
theorem State.runs_holds (s : State) (k : Nat) :
    ∃ w, s.runs k = s.withW w ∧ (w.cluster k).power = .run ∧ k ∉ (w.die (dieOfCluster k)).poweringUp ∧ k ∉ (w.die (dieOfCluster k)).restarting ∧
      ∀ i, i < 16 → (w.core (16 * k + i)).cold = true := by
  unfold State.runs
  dsimp only
  generalize hw : (s.w.setDie (dieOfCluster k) _).setCluster k _ = w
  have hcl : (w.cluster k).power = .run := by
    rw [← hw, World.cluster_setCluster, (Cluster.toFloor_frame _).1]
  have hdie : k ∉ (w.die (dieOfCluster k)).poweringUp ∧ k ∉ (w.die (dieOfCluster k)).restarting := by
    have hd : w.die (dieOfCluster k) = _ := (congrArg (fun w => World.die w (dieOfCluster k)) hw.symm).trans (World.die_setDie ..)
    rw [hd]
    simp
  have hcold := World.core_foldl_setCore (P := fun x => x.cold = true) (16 * k) (fun _ x => { x with cold := true }) (fun _ _ => rfl) 16 w
  obtain ⟨cores, hcores⟩ := World.only_setCores (fun w i => { w.core (16 * k + i) with cold := true }) (fun i => 16 * k + i) (List.range 16) w
  generalize (List.range 16).foldl (fun w i => w.setCore (16 * k + i) { w.core (16 * k + i) with cold := true }) w = u at hcold hcores ⊢
  have hun := World.unpark_unmoved u s.res
  refine ⟨u.unpark s.res, rfl, ?_, ?_, ?_, fun i hi => (hun.core _).trans (hcold i hi)⟩
  · rw [World.cluster, hun.clusters, hcores]
    exact hcl
  · rw [(hun.die _).1, hcores]
    exact hdie.1
  · rw [(hun.die _).2, hcores]
    exact hdie.2

/-- Settles O53. -/
theorem clusterPowerCompletes : Obligations.ClusterPowerCompletes := by
  unfold Obligations.ClusterPowerCompletes
  intro s k d v x
  refine ⟨?_, fun p hp => ?_, fun c hon hlen hnext => ?_, fun c hon hlen hnext => ?_, fun hon hent hwhy => ?_, fun m hm => ?_⟩
  · intro i a b hrow hon hstep ha hent hdepth hquiet hwake
    have hdescend : s.descend k a b = .next (s.withW (s.w.setCluster k { v with entering := some b })) :=
      if_pos ⟨hon, hstep, ha, hent, hdepth, hquiet, hwake⟩
    simp only [List.mem_cons, Prod.mk.injEq, List.not_mem_nil, or_false] at hrow
    obtain ⟨rfl, rfl, rfl⟩ | ⟨rfl, rfl, rfl⟩ | ⟨rfl, rfl, rfl⟩ := hrow <;> exact hdescend
  · have hexec : exec (.clusterEntryDone k) s = execClusterEntryDone k s := rfl
    have hent : (s.w.cluster k).entering = some p := hp
    rw [hexec, execClusterEntryDone, hent]
    dsimp only
    generalize hv : (if p = .nap then _ else _ : Cluster) = v'
    have hpow : v'.power = p ∧ v'.entering = none ∧ v'.floor = v.floor ∧ (p = .nap → v'.tlb = [] ∧ v'.walks = []) := by
      rw [← hv]
      split
      · exact ⟨rfl, rfl, rfl, fun _ => ⟨rfl, rfl⟩⟩
      · next hn => exact ⟨rfl, rfl, rfl, fun h => absurd h hn⟩
    have hfl := Cluster.toFloor_frame v'
    obtain ⟨hp', he', hf', hnap⟩ := hpow
    generalize v'.toFloor = z at hfl
    obtain ⟨hz, hsame⟩ := hfl
    have hzpow : z.power = p ∧ z.tlb = v'.tlb ∧ z.walks = v'.walks := by
      rw [hz]
      exact ⟨hp', rfl, rfl⟩
    have hzent : v.floor ≠ 3 → z.entering = none := fun h => by rw [hsame (fun h' => h (hf'.symm.trans h')), he']
    by_cases hoff : p = .off
    · obtain ⟨hzero, _, hmem⟩ := World.zeroCluster_holds (s.w.setCluster k z) k
      obtain ⟨hcl, _, hco⟩ := World.offEvent_holds ((s.w.setCluster k z).zeroCluster k) k
      rw [if_pos hoff]
      rw [World.cluster_setCluster] at hzero
      generalize (s.w.setCluster k z).zeroCluster k = u at hzero hmem hcl hco ⊢
      have hat : (u.offEvent k).cluster k = _ := (hcl k).trans hzero
      refine ⟨_, rfl, rfl, (congrArg Cluster.power hat).trans hzpow.1, fun h => (congrArg Cluster.entering hat).trans (hzent h),
        fun _ => ⟨congrArg Cluster.tlb hat, congrArg Cluster.walks hat⟩, fun _ i hi m => ?_, fun h => absurd hoff h⟩
      exact (congrArg (Core.mem · m) (hco _)).trans (hmem i hi m)
    · rw [if_neg hoff]
      have hat : (s.w.setCluster k z).cluster k = z := World.cluster_setCluster ..
      refine ⟨_, rfl, rfl, (congrArg Cluster.power hat).trans hzpow.1, fun h => (congrArg Cluster.entering hat).trans (hzent h),
        fun h => ⟨(congrArg Cluster.tlb hat).trans (hzpow.2.1.trans (hnap h).1), (congrArg Cluster.walks hat).trans (hzpow.2.2.trans (hnap h).2)⟩,
        fun h => absurd h hoff, fun _ => rfl⟩
  · have hexec : exec (.powerUpStart d) s = execPowerUpStart d s := rfl
    rw [hexec, execPowerUpStart, hon, decide_eq_true hlen, hnext]
    dsimp only
    generalize hw : s.w.setDie d _ = w
    have hdie : w.die d = { x with powerQ := x.powerQ.filter (· != c), poweringUp := x.poweringUp ++ [c], lastPower := c % 32 } :=
      (congrArg (World.die · d.val) hw.symm).trans (World.die_setDie ..)
    have hcl : w.cluster c = s.w.cluster c := by
      rw [← hw]
      rfl
    rw [← hcl]
    generalize hu : w.setCluster c _ = u
    have hat : u.cluster c = { w.cluster c with power := .waking, powerUps := bump 32 (w.cluster c).powerUps 1 } :=
      (congrArg (World.cluster · c) hu.symm).trans (World.cluster_setCluster ..)
    have hdie' : u.die d = w.die d := by
      rw [← hu]
      rfl
    by_cases hoff : (w.cluster c).power = .off
    · obtain ⟨hzero, hzd, _⟩ := World.zeroCluster_holds u c
      obtain ⟨hec, hed, _⟩ := World.offEvent_holds (u.zeroCluster c) c
      have hall : ((u.zeroCluster c).offEvent c).cluster c = _ := (hec c).trans hzero
      have hdall : ((u.zeroCluster c).offEvent c).die d = _ := (hed d).trans (hzd d)
      rw [if_pos hoff]
      refine ⟨_, rfl, rfl, ?_, ?_, ?_⟩
      · exact (congrArg Cluster.power hall).trans (congrArg Cluster.power hat)
      · exact (congrArg Cluster.powerUps hall).trans (congrArg Cluster.powerUps hat)
      · exact hdall.trans (hdie'.trans hdie)
    · rw [if_neg hoff]
      exact ⟨_, rfl, rfl, congrArg Cluster.power hat, congrArg Cluster.powerUps hat, hdie'.trans hdie⟩
  · have hexec : exec (.dozeRestartStart d) s = execDozeRestartStart d s := rfl
    rw [hexec, execDozeRestartStart, hon, decide_eq_true hlen, hnext]
    dsimp only
    exact ⟨_, rfl, rfl, World.cluster_setCluster .., rfl, World.die_setDie ..⟩
  · have hexec : exec (.clusterRun k) s = .next (s.runs k) := by
      change execClusterRun k s = _
      have hgo : ¬ (s.powered = false ∨ (s.w.cluster k).entering ≠ none) := by
        rw [hon]
        exact fun h => h.elim Bool.noConfusion (fun h => h hent)
      rw [execClusterRun, if_neg hgo]
      obtain ⟨hwaking, hstarted⟩ | ⟨hidle, hnoisy⟩ := hwhy
      · have hpow : (s.w.cluster k).power = .waking := hwaking
        rw [hpow]
        exact if_pos hstarted
      · have hpow : (s.w.cluster k).power = .idle := hidle
        rw [hpow, hnoisy]
        rfl
    obtain ⟨w, hw, hpow, hup, hre, hcold⟩ := State.runs_holds s k
    exact ⟨_, hexec.trans (congrArg _ hw), rfl, hpow, hup, hre, hcold⟩
  · have hexec : exec (.mgmtCoreSleep m) s = execMgmtCoreSleep m s := rfl
    rw [hexec, execMgmtCoreSleep, if_pos hm]
    exact ⟨_, rfl, mem_insertNat.2 (.inl rfl), rfl⟩

end Sys2Proof.Machine

/-! PROOFS. Telemetry, the governor, thermal and rail faults (R439–R444, R515, R517). -/
namespace Sys2Proof.Machine

/-! ## What SAFE shows of the telemetry -/

/-- What every turn of a fold keeps, the fold keeps. -/
theorem foldl_same {α β γ : Type} (g : α → γ) {f : α → β → α} (h : ∀ a b, g (f a b) = g a) (l : List β) (a : α) : g (l.foldl f a) = g a := by
  induction l generalizing a with
  | nil => rfl
  | cons b l ih => exact (ih _).trans (h a b)

/-- Telemetry and the scan test show what they did. -/
structure World.Shows (w u : World) : Prop where
  tele : u.tele = w.tele
  scan : u.scan = w.scan

namespace World.Shows

theorem refl (w : World) : w.Shows w := ⟨rfl, rfl⟩

theorem trans {w u v : World} (a : w.Shows u) (b : u.Shows v) : w.Shows v := ⟨b.tele.trans a.tele, b.scan.trans a.scan⟩

theorem foldl {α : Type} {f : World → α → World} (h : ∀ (w : World) (x : α), w.Shows (f w x)) : ∀ (l : List α) (w : World), w.Shows (l.foldl f w)
  | [], w => .refl w
  | x :: l, w => (h w x).trans (World.Shows.foldl h l (f w x))

end World.Shows

theorem World.Side.shows {w u : World} (h : w.Side u) : w.Shows u := by
  obtain ⟨_, _, _, _, _, _, _, _, rfl⟩ := h
  exact ⟨rfl, rfl⟩

theorem World.setCluster_shows (w : World) (k : Nat) (v : Cluster) : w.Shows (w.setCluster k v) := ⟨rfl, rfl⟩

theorem World.zeroCluster_shows (w : World) (k : Nat) : w.Shows (w.zeroCluster k) := by
  unfold World.zeroCluster
  dsimp only
  refine World.Shows.trans ?_ (World.setCluster_shows _ _ _)
  refine World.Shows.trans (.foldl (fun w i => ?_) _ w) (.foldl (fun w i => ?_) _ _)
  · exact ⟨rfl, rfl⟩
  · exact ⟨rfl, rfl⟩

theorem World.nap_shows (w : World) (k : Nat) : w.Shows (w.nap k) := by
  have hnap : w.Shows (w.setCluster k { w.cluster k with power := .nap, entering := none, tlb := [], walks := [] }) := ⟨rfl, rfl⟩
  unfold World.nap
  dsimp only
  split
  · exact (hnap.trans (World.zeroCluster_shows ..)).trans (World.event_side ..).shows
  · exact hnap

theorem World.napAll_shows (w : World) (on : Bool) : w.Shows (w.napAll on) := by
  have hnaps : w.Shows (if on then (List.range 64).foldl World.nap w else w) := by
    cases on
    · exact .refl w
    · exact .foldl (fun w k => World.nap_shows w k) _ w
  unfold World.napAll
  exact hnaps.trans ⟨rfl, rfl⟩

theorem World.silence_shows (w : World) : w.Shows w.silence := by
  unfold World.silence
  dsimp only
  refine World.Shows.trans (.foldl (fun w i => ?_) _ w) (.foldl (fun w i => ?_) _ _)
  · exact ⟨rfl, rfl⟩
  · exact ⟨rfl, rfl⟩

theorem World.endLease_shows (w : World) (reason : Nat) : w.Shows (w.endLease reason) := by
  unfold World.endLease
  dsimp only
  split
  · exact .refl w
  · exact ⟨rfl, rfl⟩

theorem World.closeSession_shows (w : World) (sid : Nat) (notice : Option Nat) : w.Shows (w.closeSession sid notice) := by
  unfold World.closeSession
  split
  · exact .refl w
  dsimp only
  split
  · refine World.Shows.trans ?_ (World.endLease_shows _ _)
    exact ⟨rfl, rfl⟩
  · exact ⟨rfl, rfl⟩

theorem World.closeSessions_shows (w : World) (p : Session → Bool) (notice : Option Nat) : w.Shows (w.closeSessions p notice) :=
  .foldl (fun w _ => World.closeSession_shows w _ _) _ w

theorem State.partTo_shows (s : State) (p : PartSt) : s.w.Shows (s.partTo p).w := by
  unfold State.partTo
  split
  · exact .refl _
  · exact ⟨rfl, rfl⟩

theorem LogsOnly.shows {s t : State} (h : LogsOnly s t) : s.w.Shows t.w := by
  rw [h.world]
  exact ⟨rfl, rfl⟩

/-- SAFE leaves what telemetry and the scan test show (R487). -/
theorem State.safe_shows (s : State) (st : Nat) : s.w.Shows (s.safe st).w := by
  have hlog : s.w.Shows { s.logOwed.w with errs := s.logOwed.w.errs.below clsFatal } := s.logOwed_only.shows.trans ⟨rfl, rfl⟩
  have hstop : ∀ w : World, w.Shows w.stopAll := fun _ => ⟨rfl, rfl⟩
  have hquiet := (((hlog.trans (hstop _)).trans (World.napAll_shows _ s.ctl.pgMain)).trans (World.silence_shows _)).trans (World.endLease_shows _ 5)
  have hend := (hquiet.trans (World.closeSessions_shows _ (fun k => k.port != .side) none))
  have hctl : s.logOwed.ctl = s.ctl := s.logOwed_only.ctl
  unfold State.safe
  dsimp only
  refine World.Shows.trans ?_ (State.partTo_shows _ _)
  refine hend.trans ?_
  rw [← hctl]
  exact ⟨rfl, rfl⟩

theorem State.raiseLogged_shows (s : State) (cls unit status inst addr : Nat) (detail : List Byte) (again : Bool) :
    s.w.Shows (s.raiseLogged cls unit status inst addr detail again).w := by
  have hraise : s.w.Shows (s.w.raise cls unit status inst none (dieOfUnit unit inst) addr detail) := (World.raise_side ..).shows
  unfold State.raiseLogged
  dsimp only
  split
  · split
    · exact hraise.trans ⟨rfl, rfl⟩
    · exact hraise
  split
  · refine World.Shows.trans ?_ (State.logRec_only _ _).shows
    exact hraise
  · exact hraise

theorem State.fatal_shows (s : State) (unit status inst st addr : Nat) (detail : List Byte) :
    s.w.Shows (s.fatal unit status inst st addr detail).w := by
  unfold State.fatal
  split
  · exact .refl _
  · exact (s.logOwed_only.shows.trans (State.raiseLogged_shows ..)).trans (State.safe_shows ..)

/-! ## The hottest sensor (R441) -/

/-- The hottest of a list's first readings and the lowest sensor that shows it. -/
structure Hottest (l : List Int) (n : Nat) (b : Int × Nat) : Prop where
  top : ∀ r ∈ l.take n, r ≤ b.1
  shown : l.getD b.2 0 = b.1
  lowest : ∀ i, i < b.2 → l.getD i 0 < b.1

theorem hottest_holds (l : List Int) : ∀ (xs : List Int) (i : Nat) (b : Int × Nat), l.drop i = xs → Hottest l i b → Hottest l l.length (hottest xs i b)
  | [], i, b, hdrop, h => by
    have hlen := List.drop_eq_nil_iff.1 hdrop
    refine ⟨fun r hr => h.top r ?_, h.shown, h.lowest⟩
    rwa [List.take_of_length_le hlen, ← List.take_length (l := l)]
  | x :: xs, i, b, hdrop, h => by
    have hx : l[i]? = some x := by
      rw [← Nat.add_zero i, ← List.getElem?_drop, hdrop]
      rfl
    have hrest : l.drop (i + 1) = xs := by rw [← List.drop_drop, hdrop, List.drop_one, List.tail_cons]
    have htake : l.take (i + 1) = l.take i ++ [x] := by rw [List.take_add_one, hx, Option.toList_some]
    refine hottest_holds l xs (i + 1) _ hrest ?_
    split
    · next hlt =>
      refine ⟨fun r hr => ?_, by rw [List.getD, hx, Option.getD_some], fun j hj => ?_⟩
      · rw [htake, List.mem_append, List.mem_singleton] at hr
        exact hr.elim (fun hr => Int.le_trans (h.top r hr) (Int.le_of_lt hlt)) Int.le_of_eq
      · have hlen : i < l.length := (List.getElem?_eq_some_iff.1 hx).1
        refine Int.lt_of_le_of_lt (h.top _ ?_) hlt
        rw [List.getD, List.getElem?_eq_getElem (Nat.lt_trans hj hlen), Option.getD_some]
        exact List.mem_take_iff_getElem.2 ⟨j, by omega, rfl⟩
    · next hle =>
      refine ⟨fun r hr => ?_, h.shown, h.lowest⟩
      rw [htake, List.mem_append, List.mem_singleton] at hr
      exact hr.elim (h.top r) (fun hr => Int.le_trans (Int.le_of_eq hr) (Int.not_lt.1 hle))

/-- The hottest of the readings, and the lowest sensor that shows it. -/
theorem hottest_whole (l : List Int) :
    let b := hottest l 0 (l.headD 0, 0)
    (∀ r ∈ l, r ≤ b.1) ∧ l.getD b.2 0 = b.1 ∧ ∀ i, i < b.2 → l.getD i 0 < b.1 := by
  have hstart : Hottest l 0 (l.headD 0, 0) := ⟨fun r hr => absurd hr (by simp), by cases l <;> rfl, fun i hi => absurd hi (Nat.not_lt_zero i)⟩
  obtain ⟨htop, hshown, hlow⟩ := hottest_holds l l 0 _ rfl hstart
  rw [List.take_length] at htop
  exact ⟨htop, hshown, hlow⟩

/-! ## The governor (R439, R440) -/

/-- A new duty of a die changes beside it the count of reductions and what the event changes. -/
theorem World.setDuty_holds (w : World) (d new cause : Nat) :
    ∃ koc outbox r dies, w.setDuty d new cause = { w with dies, koc, outbox, tele := { w.tele with reductions := r } } ∧
      (Tab.get {} dies d).duty = new ∧ (Tab.get {} dies d).cap = (w.die d).cap ∧ ∀ i, i ≠ d → Tab.get {} dies i = w.die i := by
  have hset := World.die_setDie w d { w.die d with duty := new }
  have hothers : ∀ i, i ≠ d → Tab.get {} (w.setDie d { w.die d with duty := new }).dies i = w.die i := fun i hi => World.die_setDie_ne _ _ hi
  unfold World.setDuty
  dsimp only
  split
  · next h => exact ⟨w.koc, w.outbox, w.tele.reductions, w.dies, rfl, h, rfl, fun _ _ => rfl⟩
  · rw [World.event_frame]
    split
    · exact ⟨_, _, bump 64 w.tele.reductions 1, _, rfl, congrArg Die.duty hset, (congrArg Die.cap hset).trans rfl, hothers⟩
    · exact ⟨_, _, w.tele.reductions, _, rfl, congrArg Die.duty hset, (congrArg Die.cap hset).trans rfl, hothers⟩

theorem World.eventIf_frame (w : World) (p : Bool) (code idx sub die st : Nat) (l : List Byte) :
    ∃ koc outbox, (if p then w.event code idx sub die none st l else w) = { w with koc, outbox } := by
  cases p
  · exact ⟨w.koc, w.outbox, rfl⟩
  · exact ⟨_, _, World.event_frame ..⟩

/-- Duties set for both dies. -/
theorem World.setDuties_holds (w : World) (a b ca cb : Nat) :
    ∃ koc outbox r dies, (w.setDuty 0 a ca).setDuty 1 b cb = { w with dies, koc, outbox, tele := { w.tele with reductions := r } } ∧
      (Tab.get {} dies 0).duty = a ∧ (Tab.get {} dies 1).duty = b ∧ (Tab.get {} dies 0).cap = (w.die 0).cap ∧
      (Tab.get {} dies 1).cap = (w.die 1).cap := by
  obtain ⟨k0, o0, r0, d0, h0, hduty0, hcap0, hoth0⟩ := World.setDuty_holds w 0 a ca
  rw [h0]
  obtain ⟨k1, o1, r1, d1, h1, hduty1, hcap1, hoth1⟩ := World.setDuty_holds { w with dies := d0, koc := k0, outbox := o0, tele := { w.tele with reductions := r0 } } 1 b cb
  have hzero := hoth1 0 (by decide)
  exact ⟨k1, o1, r1, d1, h1, (congrArg Die.duty hzero).trans hduty0, hduty1, (congrArg Die.cap hzero).trans hcap0, hcap1.trans (congrArg Die.cap (hoth0 1 (by decide)))⟩

theorem Tele.mean_mul (t : Tele) : t.mean * (max 1 t.samples.length : Nat) = (sumN t.samples : Nat) := by
  have hpos : ((max 1 t.samples.length : Nat) : Rat) ≠ 0 := by
    have : 0 < max 1 t.samples.length := by omega
    exact_mod_cast Nat.ne_of_gt this
  rw [Tele.mean, Rat.div_mul_cancel hpos]

/-- An event and both dies' caps, as the governor and the comparator set them, leave the duties. -/
theorem World.setCaps_holds (w : World) (a b : Option Nat) :
    let u := (w.setDie 0 { w.die 0 with cap := a }).setDie 1 { w.die 1 with cap := b }
    u = { w with dies := u.dies } ∧ u.die 0 = { w.die 0 with cap := a } ∧ u.die 1 = { w.die 1 with cap := b } :=
  ⟨rfl, (World.die_setDie_ne _ _ (by decide)).trans (World.die_setDie ..), World.die_setDie ..⟩

/-- A period of the governor (R439). -/
theorem execGovernorPeriod_holds {s : State} (power mean us : Nat) (tj0 tj1 : Int) (hmgmt : s.ctl.mgmt = true) (hpart : s.ctl.part ≠ .safe) :
    let x := s.w.tele.sample (s.ctl.limit * 1000) power
    ∃ t, execGovernorPeriod power mean us tj0 tj1 s = .next t ∧
      (t.w.die 0).duty = (dutyStep s.ctl power x.mean x.overUs tj0 (s.w.die 0).duty).1 ∧
      (t.w.die 1).duty = (dutyStep s.ctl power x.mean x.overUs tj1 (s.w.die 1).duty).1 ∧ t.w.tele.power = power ∧
      t.w.tele.samples = x.samples ∧ t.w.tele.overUs = x.overUs ∧ t.w.koc.asleep = [] ∧
      t = s.withW t.w ∧ t.w.cores = s.w.cores ∧ t.w.hbm = s.w.hbm := by
  rw [execGovernorPeriod, if_pos ⟨hmgmt, hpart⟩]
  dsimp only
  generalize (_ && _ : Bool) = warns
  generalize (_ && _ : Bool) = reached
  generalize hx : s.w.tele.sample (s.ctl.limit * 1000) power = x
  have hpow : x.power = power := by rw [← hx]; rfl
  obtain ⟨k0, o0, h0⟩ := World.eventIf_frame { s.w with tele := { x with excursionSeen := reached } } warns
    0x0802 0x7800 1 dieNone stOk (leBytes 2 (power / 1000))
  rw [h0]
  obtain ⟨h1, hd0, hd1⟩ := World.setCaps_holds { s.w with tele := { x with excursionSeen := reached }, koc := k0, outbox := o0 } none none
  generalize World.setDie _ 1 _ = u at h1 hd0 hd1 ⊢
  have hduty0 : (u.die 0).duty = (s.w.die 0).duty := (congrArg Die.duty hd0).trans rfl
  have hduty1 : (u.die 1).duty = (s.w.die 1).duty := (congrArg Die.duty hd1).trans rfl
  rw [hduty0, hduty1]
  obtain ⟨k2, o2, r2, dies, h2, hnew0, hnew1, _⟩ := World.setDuties_holds u (dutyStep s.ctl power x.mean x.overUs tj0 (s.w.die 0).duty).1
    (dutyStep s.ctl power x.mean x.overUs tj1 (s.w.die 1).duty).1 (dutyStep s.ctl power x.mean x.overUs tj0 (s.w.die 0).duty).2
    (dutyStep s.ctl power x.mean x.overUs tj1 (s.w.die 1).duty).2
  rw [h2, h1]
  exact ⟨_, rfl, hnew0, hnew1, hpow, rfl, rfl, rfl, rfl, rfl, rfl⟩

/-- The current comparator halves both dies' duties (R440). -/
theorem execCurrentLimitTrip_holds {s : State} {ma : Nat} (hon : s.powered = true) (hma : 3600000 ≤ ma) :
    ∃ t, execCurrentLimitTrip ma s = .next t ∧ (∀ d, d < 2 → (t.w.die d).duty = ((s.w.die d).duty + 1) / 2 ∧
      (t.w.die d).cap = some ((s.dutyOf d + 1) / 2)) ∧ t.w.tele.current = ma ∧ t = { s with w := t.w } ∧ t.w.cores = s.w.cores := by
  rw [execCurrentLimitTrip, if_pos ⟨hon, hma⟩]
  dsimp only
  obtain ⟨h1, hd0, hd1⟩ := World.setCaps_holds { s.w with tele := { s.w.tele with current := ma } } (some ((s.dutyOf 0 + 1) / 2))
    (some ((s.dutyOf 1 + 1) / 2))
  generalize World.setDie _ 1 _ = u at h1 hd0 hd1 ⊢
  have hother : (u.setDuty 0 (((u.die 0).duty + 1) / 2) 3).die 1 = u.die 1 := by
    obtain ⟨_, _, _, _, h, _, _, hoth⟩ := World.setDuty_holds u 0 (((u.die 0).duty + 1) / 2) 3
    rw [h]
    exact hoth 1 (by decide)
  rw [hother]
  obtain ⟨k2, o2, r2, dies, h2, hnew0, hnew1, hcap0, hcap1⟩ := World.setDuties_holds u (((u.die 0).duty + 1) / 2) (((u.die 1).duty + 1) / 2) 3 3
  have hduty0 : (u.die 0).duty = (s.w.die 0).duty := (congrArg Die.duty hd0).trans rfl
  have hduty1 : (u.die 1).duty = (s.w.die 1).duty := (congrArg Die.duty hd1).trans rfl
  rw [hduty0] at hnew0
  rw [hduty1] at hnew1
  rw [h2]
  refine ⟨_, rfl, fun d hd => ?_, by rw [h1]; rfl, rfl, by rw [h1]; rfl⟩
  obtain rfl | rfl : d = 0 ∨ d = 1 := by omega
  · exact ⟨hnew0, hcap0.trans (congrArg Die.cap hd0)⟩
  · exact ⟨hnew1, hcap1.trans (congrArg Die.cap hd1)⟩

/-! ## Thermal and rail faults (R441, R442, R517) -/

theorem findIdx?_of_hot {readings : List Int} (h : ∃ r ∈ readings, 105000 ≤ r) : ∃ i, readings.findIdx? (fun t => decide (105000 ≤ t)) = some i := by
  obtain ⟨r, hr, hhot⟩ := h
  rw [← Option.isSome_iff_exists, List.findIdx?_isSome, List.any_eq_true]
  exact ⟨r, hr, decide_eq_true hhot⟩

/-- The state in which a sensor has tripped. -/
theorem execThermalSample_hot {s : State} {readings : List Int} (hpg : s.ctl.pins.pgAon = true) (hlen : readings.length = 256)
    (hhot : ∃ r ∈ readings, 105000 ≤ r) (hfirst : ¬ (s.ctl.part = .safe ∧ s.ctl.pins.thermTripLow = true)) :
    ∃ (u : State) (i : Nat) (detail : List Byte), u.ctl = { s.ctl with pins := { s.ctl.pins with thermTripLow := true } } ∧
      u.w.tele.readings = readings ∧ u.otp = s.otp ∧
      execThermalSample readings s =
        .next (if u.ctl.part = .safe then u.raiseLogged clsFatal uPower stState i 0 detail else u.fatal uPower stState i stState 0 detail) := by
  obtain ⟨i, hfind⟩ := findIdx?_of_hot hhot
  have hgo : ¬ (s.ctl.pins.pgAon = false ∨ readings.length ≠ 256) := by simp [hpg, hlen]
  rw [execThermalSample, if_neg hgo]
  dsimp only
  rw [hfind]
  refine ⟨_, _, _, ?_, ?_, ?_, if_neg hfirst⟩
  · rfl
  · rfl
  · rfl

/-- A rail's fault ends in SAFE with its status, but not in the millisecond after RESET_N (R517). -/
theorem State.railFault_holds {s : State} (hpart : s.ctl.part ≠ .safe) (hpin : s.ctl.byPin = false ∨ 100000 ≤ s.ctl.clock) (rail status st : Nat) :
    (s.railFault rail status st).ctl = s.ctl.inSafe st ∧ (s.railFault rail status st).w.tele = s.w.tele := by
  have hgo : ¬ (s.ctl.part = .safe ∨ (s.ctl.byPin = true ∧ s.ctl.clock < 100000)) := by
    rintro (h | ⟨hby, hearly⟩)
    · exact hpart h
    · exact hpin.elim (fun h => Bool.noConfusion (h.symm.trans hby)) (fun h => absurd hearly (Nat.not_lt.2 h))
  rw [State.railFault, if_neg hgo]
  dsimp only
  generalize hw : s.w.event _ _ _ _ _ _ _ = w
  have htele : w.tele = s.w.tele := by
    rw [← hw]
    rfl
  have hctl := State.fatal_ctl (s := s.withW w) hpart uPower st rail st 0 (leBytes 4 status)
  exact ⟨hctl, (State.fatal_shows ..).tele.trans htele⟩

/-- Settles O55. -/
theorem telemetryCompletes : Obligations.TelemetryCompletes := by
  unfold Obligations.TelemetryCompletes
  intro s
  refine ⟨fun power mean us tj0 tj1 hmgmt hpart => ?_, fun ma hon hma => ?_, fun readings hpg hlen => ⟨fun hcold => ?_, fun hhot hpart => ?_,
    fun hhot hpart => ?_⟩, fun rails hpg hlen => ⟨fun hgood => ?_, fun hbad hpart hpin => ?_⟩, fun rail status hpg hpart hrail hpin => ?_⟩
  · exact ⟨rfl, rfl, Tele.mean_mul _, execGovernorPeriod_holds power mean us tj0 tj1 hmgmt hpart⟩
  · exact execCurrentLimitTrip_holds hon hma
  · have hexec : exec (.thermalSample readings) s = execThermalSample readings s := rfl
    have hfind : readings.findIdx? (fun t => decide (105000 ≤ t)) = none := by
      rw [List.findIdx?_eq_none_iff]
      exact fun r hr => decide_eq_false (Int.not_le.2 (hcold r hr))
    rw [hexec, execThermalSample, if_neg (by simp [hpg, hlen])]
    dsimp only
    rw [hfind]
    exact ⟨_, rfl, rfl, rfl, hottest_whole readings⟩
  · have hexec : exec (.thermalSample readings) s = execThermalSample readings s := rfl
    obtain ⟨u, i, detail, hctl, _, hotp, hu⟩ := execThermalSample_hot hpg hlen hhot (fun h => hpart h.1)
    have hupart : u.ctl.part ≠ .safe := by rwa [hctl]
    rw [hexec, hu, if_neg hupart]
    have hf := State.fatal_ctl hupart uPower stState i stState 0 detail
    exact ⟨_, rfl, by rw [hf]; rfl, by rw [hf, hctl]; rfl, by rw [hf]; rfl, by simp [hotp]⟩
  · have hexec : exec (.thermalSample readings) s = execThermalSample readings s := rfl
    by_cases hlow : s.ctl.pins.thermTripLow = true
    · obtain ⟨i, hfind⟩ := findIdx?_of_hot hhot
      rw [hexec, execThermalSample, if_neg (by simp [hpg, hlen])]
      dsimp only
      rw [hfind]
      dsimp only
      rw [if_pos ⟨hpart, hlow⟩]
      exact ⟨_, rfl, hpart, hlow, rfl, rfl⟩
    · obtain ⟨u, i, detail, hctl, htele, hotp, hu⟩ := execThermalSample_hot hpg hlen hhot (fun h => hlow h.2)
      have hupart : u.ctl.part = .safe := by rwa [hctl]
      rw [hexec, hu, if_pos hupart]
      refine ⟨_, rfl, ?_, ?_, ?_, by simp [hotp]⟩
      · rw [State.raiseLogged_ctl, hupart]
      · rw [State.raiseLogged_ctl, hctl]
      · rw [(State.raiseLogged_shows ..).tele, htele]
  · have hexec : exec (.pmbusPoll rails) s = execPmbusPoll rails s := rfl
    have hfind : rails.findIdx? (·.fault) = none := by
      rw [List.findIdx?_eq_none_iff]
      exact hgood
    rw [hexec, execPmbusPoll, if_neg (by simp [hpg, hlen])]
    dsimp only
    rw [hfind]
  · have hexec : exec (.pmbusPoll rails) s = execPmbusPoll rails s := rfl
    obtain ⟨r, hr, hfault⟩ := hbad
    obtain ⟨i, hfind⟩ : ∃ i, rails.findIdx? (·.fault) = some i := by
      rw [← Option.isSome_iff_exists, List.findIdx?_isSome, List.any_eq_true]
      exact ⟨r, hr, hfault⟩
    rw [hexec, execPmbusPoll, if_neg (by simp [hpg, hlen])]
    dsimp only
    rw [hfind]
    dsimp only
    have hfault := State.railFault_holds (s := s.withW { s.w with tele := { s.w.tele with regs := rails, current := sumN ((rails.take 4).map (·.ma)) } })
      hpart hpin
    exact ⟨_, rfl, congrArg Ctl.part (hfault _ _ _).1, (congrArg (fun c => c.pins.faultLow) (hfault _ _ _).1), congrArg Tele.regs (hfault _ _ _).2, by simp⟩
  · have hexec : exec (.railOutOfWindow rail status) s = execRailOutOfWindow rail status s := rfl
    obtain ⟨hctl, _⟩ := State.railFault_holds (s := s) hpart hpin rail status stState
    rw [hexec, execRailOutOfWindow, if_pos ⟨hpg, hrail⟩]
    exact ⟨_, rfl, by rw [hctl]; rfl, by rw [hctl]; rfl, by rw [hctl]; rfl, by simp⟩

end Sys2Proof.Machine

/-! PROOFS. Power-on, resets and bring-up (R445–R457, R462, R470, R515–R518). -/
namespace Sys2Proof.Machine

/-! ## Power and reset (R424, R445, R448, R465, R515, R517, R518) -/

theorem keepOne_old_or_new {α : Type} (p : Bool) (f : Nat) (a b : α) : keepOne p f a b = a ∨ keepOne p f a b = b := by
  unfold keepOne
  split
  · exact .inr rfl
  · exact .inl rfl

theorem keepOne_not_pending {α : Type} (f : Nat) (a b : α) : keepOne false f a b = a := rfl

theorem entropy_length (f n : Nat) : (entropy f n).length = n := by rw [entropy, List.length_map, List.length_range]

/-- Settles O56. -/
theorem powerOnAndResetComplete : Obligations.PowerOnAndResetComplete := by
  unfold Obligations.PowerOnAndResetComplete
  refine fun s straps => ⟨fun hoff => ?_, fun hon => ⟨?_, ?_⟩⟩
  · have hexec : exec (.powerOn straps) s = execPowerOn straps s := rfl
    rw [hexec, execPowerOn, if_neg (by simp [hoff])]
    refine ⟨_, rfl, rfl, rfl, rfl, rfl, rfl, rfl, rfl, fun hblank hnone => ?_, fun hmade => ?_⟩
    · refine ⟨entropy s.w.free 96, entropy_length .., if_pos ?_⟩
      rw [decide_eq_true hblank, hnone]
      rfl
    · refine if_neg fun h => ?_
      rw [Bool.and_eq_true, decide_eq_true_iff, Option.isNone_iff_eq_none] at h
      exact hmade.elim (fun hl => hl h.1) (fun hs => hs h.2)
  · have hexec : exec .pgAonFall s = execPgAonFall s := rfl
    rw [hexec, execPgAonFall, if_pos hon]
    refine ⟨_, rfl, rfl, rfl, rfl, rfl, rfl, keepOne_old_or_new .., keepOne_old_or_new .., fun hq => ?_⟩
    have hnone : (!s.ctl.persistQ.isEmpty) = false := by rw [hq]; rfl
    rw [State.keepPersist, hnone]
    exact ⟨rfl, rfl, rfl, rfl⟩
  · have hexec : exec (.resetPin straps) s = execResetPin straps s := rfl
    rw [hexec, execResetPin, if_pos hon]
    exact ⟨_, rfl, rfl, rfl, rfl, rfl, rfl, State.restart_otp s straps s.ctl.resets, rfl, rfl, rfl, rfl, rfl⟩

/-! ## Logged records -/

/-- Records raised and logged: nothing else of the part changes but the event that tells of them. -/
def State.Logged (s t : State) : Prop :=
  ∃ errs koc outbox log, t = { s with w := { s.w with errs, koc, outbox }, flash := { s.flash with log } }

theorem State.Logged.refl (s : State) : s.Logged s := ⟨_, _, _, _, rfl⟩

theorem State.Logged.trans {s t u : State} (a : s.Logged t) (b : t.Logged u) : s.Logged u := by
  obtain ⟨_, _, _, _, rfl⟩ := a
  obtain ⟨_, _, _, _, rfl⟩ := b
  exact ⟨_, _, _, _, rfl⟩

theorem State.Logged.foldl {α : Type} {f : State → α → State} (h : ∀ (s : State) (x : α), s.Logged (f s x)) : ∀ (l : List α) (s : State), s.Logged (l.foldl f s)
  | [], s => .refl s
  | x :: l, s => (h s x).trans (State.Logged.foldl h l (f s x))

theorem LogsOnly.logged {s t : State} (h : LogsOnly s t) : s.Logged t := by
  refine ⟨t.w.errs, s.w.koc, s.w.outbox, t.flash.log, ?_⟩
  obtain ⟨hp, ho, hc, hr, hw, hf⟩ := h
  cases t
  cases hp
  cases ho
  cases hc
  cases hr
  dsimp only at hw hf ⊢
  rw [← hw, ← hf]

theorem State.raiseLogged_logged (s : State) (cls unit status inst addr : Nat) (detail : List Byte) (again : Bool) :
    s.Logged (s.raiseLogged cls unit status inst addr detail again) := by
  have hraise : s.Logged (s.withW (s.w.raise cls unit status inst none (dieOfUnit unit inst) addr detail)) :=
    ⟨_, _, _, s.flash.log, by rw [World.raise_frame]; rfl⟩
  unfold State.raiseLogged
  dsimp only
  split
  · split
    · exact hraise.trans ⟨_, _, _, _, rfl⟩
    · exact hraise
  split
  · exact hraise.trans (State.logRec_only _ _).logged
  · exact hraise.trans ⟨_, _, _, _, rfl⟩

/-! ## Bring-up (R445–R457, R462, R470, R515, R516) -/

/-- What the security unit shows may be different; the other control registers are as before. -/
def State.SameButSec (s t : State) : Prop := t.ctl = { s.ctl with sec := t.ctl.sec }

theorem State.SameButSec.ite {p : Prop} [Decidable p] {s t u : State} (ht : s.SameButSec t) (hu : s.SameButSec u) : s.SameButSec (if p then t else u) := by
  split
  · exact ht
  · exact hu

theorem State.SameButSec.trans {s t u : State} (a : s.SameButSec t) (b : t.SameButSec u) : s.SameButSec u := by
  unfold State.SameButSec at *
  rw [b, a]

theorem State.bootLicence_sec (s : State) : s.SameButSec s.bootLicence := by
  have hend : ∀ (u : State) (sec : Sec), s.SameButSec u → s.SameButSec { u with ctl := { u.ctl with sec } } := fun u sec h => by
    unfold State.SameButSec at h ⊢
    rw [h]
  unfold State.bootLicence
  refine hend _ _ ?_
  split
  · exact rfl
  · exact .ite rfl (.ite rfl rfl)

theorem State.countSkipped_sec (s : State) : s.SameButSec s.countSkipped := by
  have hwarn : ∀ t : State, s.SameButSec t → s.SameButSec (if t.sigsLeft ≤ 65536 then t.warnSigs t.sigsLeft else t) := fun t h =>
    .ite (.ite h h) h
  unfold State.countSkipped
  refine hwarn _ ?_
  split
  · exact .ite rfl rfl
  · rfl

theorem State.tryRails_of_agree {s : State} (hpart : s.ctl.part = .bringup) (hstep : s.ctl.step = 3) (hgroups : s.ctl.railGroups = 6)
    (hpg : s.ctl.pgMain = false) (hpin : s.ctl.pins.pgMain = true) (hagree : s.railsAgree = true) : s.tryRails = s.railsUp :=
  if_pos ⟨hpart, hstep, hgroups, hpg, hpin, hagree⟩

theorem World.startLinks_holds (w : World) (mask : Nat) :
    (∀ l, l < 20 → ((w.startLinks mask).link l).st = if bit mask l then .waitSignal else .disabled) ∧ ∀ p, (w.startLinks mask).port p = w.port p := by
  have hfold : ∀ n, (∀ l, l < n → (((List.range n).foldl
      (fun w l => w.setLink l { st := if bit mask l then .waitSignal else .disabled }) w).link l).st = if bit mask l then .waitSignal else .disabled) ∧
      ∀ p, ((List.range n).foldl (fun w l => w.setLink l { st := if bit mask l then .waitSignal else .disabled }) w).port p = w.port p := by
    intro n
    induction n with
    | zero => exact ⟨fun l hl => absurd hl (Nat.not_lt_zero l), fun _ => rfl⟩
    | succ n ih =>
      rw [List.range_succ, List.foldl_append, List.foldl_cons, List.foldl_nil]
      refine ⟨fun l hl => ?_, ih.2⟩
      obtain hlt | rfl := Nat.lt_succ_iff_lt_or_eq.1 hl
      · rw [World.link_setLink_ne _ _ (by omega)]
        exact ih.1 l hlt
      · rw [World.link_setLink]
  exact hfold 20

theorem Tab.get_filterMap {α : Type} (p : Nat → Prop) [DecidablePred p] (f : Nat → α) (d : α) (c : Nat) :
    ∀ l : List Nat, Tab.get d (l.filterMap fun i => if p i then some (i, f i) else none) c = if c ∈ l ∧ p c then f c else d
  | [] => by simp [Tab.get]
  | i :: l => by
    rw [List.filterMap_cons]
    by_cases hp : p i
    · rw [if_pos hp]
      dsimp only
      rw [Tab.get, Tab.get_filterMap p f d c l]
      by_cases hi : i = c
      · rw [if_pos hi, if_pos ⟨by rw [hi]; exact List.mem_cons_self, hi ▸ hp⟩, hi]
      · rw [if_neg hi]
        simp [Ne.symm hi]
    · rw [if_neg hp]
      dsimp only
      rw [Tab.get_filterMap p f d c l]
      by_cases hi : c = i
      · rw [hi, if_neg (fun h => hp h.2), if_neg (fun h => hp h.2)]
      · simp [hi]

/-- The cores after self-test: zeroed, each on its physical core (R450, R451). -/
theorem World.mapCores_core (w : World) (repair : List Nat) {c : Nat} (hc : c < 1024) :
    ((w.mapCores repair).core c).phys = (if repair.getD (c / 16) 0xFF = c % 16 then 16 else c % 16) ∧ ∀ m, ((w.mapCores repair).core c).mem m = {} := by
  have hat : ∀ l : List Nat, c ∈ l → Tab.get (Core.fresh c) (l.filterMap fun i =>
      let f := repair.getD (i / 16) 0xFF
      if f = i % 16 then some (i, { Core.fresh i with phys := 16 }) else none) c =
      if repair.getD (c / 16) 0xFF = c % 16 then { Core.fresh c with phys := 16 } else Core.fresh c := by
    intro l hl
    have h := Tab.get_filterMap (fun i => repair.getD (i / 16) 0xFF = i % 16) (fun i => ({ Core.fresh i with phys := 16 } : Core)) (Core.fresh c) c l
    rw [h]
    simp only [hl, true_and]
  have hin : c ∈ List.range 1024 := List.mem_range.2 hc
  unfold World.core World.mapCores
  dsimp only
  generalize List.range 1024 = l at hin ⊢
  have h := hat l hin
  dsimp only at h
  rw [h]
  split
  · exact ⟨rfl, fun m => by cases m <;> rfl⟩
  · exact ⟨rfl, fun m => by cases m <;> rfl⟩

theorem State.partTo_frame (s : State) (p : PartSt) :
    ∃ koc outbox, s.partTo p = { s with ctl := { s.ctl with part := p }, w := { s.w with koc, outbox } } := by
  unfold State.partTo
  split
  · next h => exact ⟨s.w.koc, s.w.outbox, by rw [← h]⟩
  · exact ⟨_, _, rfl⟩

theorem State.startRails_frame (s : State) :
    ∃ koc outbox, s.startRails = { s with
      w := { s.w with koc, outbox }
      ctl := { s.ctl with
        part := .bringup, step := 3, railGroups := 1, pgMain := false, pins := { s.ctl.pins with pgMain := false }, safeOff := false
        endStatus := stOk, mismatches := 0 } } := by
  unfold State.startRails
  exact State.partTo_frame _ .bringup

/-- READY with the rank and the routes that the record gives (R455, R456). -/
theorem State.enterReady_holds (s : State) :
    s.enterReady.ctl.part = .ready ∧ s.enterReady.ctl.step = 7 ∧ s.enterReady.ctl.compares = s.ctl.compares ∧ s.enterReady.w.seam.rank = s.topoRank ∧
      s.enterReady.w.cores = s.w.cores ∧ s.enterReady.flash = s.flash := by
  unfold State.enterReady
  dsimp only
  generalize hu : ({ s with ctl := _, w := _ } : State) = u
  obtain ⟨_, _, h⟩ := State.partTo_frame u .ready
  rw [h, ← hu]
  exact ⟨rfl, rfl, rfl, rfl, rfl, rfl⟩

/-- TOPOLOGY_MISMATCH with as many mismatches as links that do not agree (R456). -/
theorem State.enterMismatch_holds (s : State) (bad : List Nat) :
    (s.enterMismatch bad).ctl.part = .mismatch ∧ (s.enterMismatch bad).ctl.mismatches = bad.length ∧ (s.enterMismatch bad).ctl.step = s.ctl.step ∧
      (s.enterMismatch bad).ctl.compares = s.ctl.compares ∧ (s.enterMismatch bad).w.cores = s.w.cores ∧
      (s.enterMismatch bad).flash.repair = s.flash.repair := by
  have hraise : ∀ st, s.Logged (bad.foldl (fun s l => s.raiseLogged clsCe uBringup st l 0 (s.linkDetail l)) s) := fun st =>
    .foldl (fun s l => s.raiseLogged_logged ..) _ _
  unfold State.enterMismatch
  dsimp only
  generalize (if s.ctl.sec.record.isEmpty && !s.flash.topology.isEmpty then stDigestMismatch else stState) = st
  obtain ⟨errs, koc, outbox, log, h⟩ := hraise st
  rw [h]
  obtain ⟨_, _, h⟩ := State.partTo_frame
    { s with w := { s.w with errs, koc, outbox }, flash := { s.flash with log }, ctl := { s.ctl with endStatus := st, mismatches := bad.length } } .mismatch
  rw [h]
  exact ⟨rfl, rfl, rfl, rfl, rfl, rfl⟩

theorem State.logFailures_logged (s : State) (failed : List (ClusterId × Fin 17)) : s.Logged (s.logFailures failed) :=
  .foldl (fun s _ => s.raiseLogged_logged ..) _ _

/-- The comparison with the record leaves flash's repair map and the cores as they are, and ends in the sixth step or in READY. -/
theorem State.compare_keeps {s : State} (hpart : s.ctl.part = .bringup) (hstep : s.ctl.step = 6) (deadline : Bool) :
    ((s.compare deadline).ctl.step = 6 ∨ (s.compare deadline).ctl.step = 7) ∧ (s.compare deadline).flash.repair = s.flash.repair ∧
      (s.compare deadline).w.cores = s.w.cores := by
  unfold State.compare
  rw [hpart]
  dsimp only
  rw [if_neg (Classical.not_not.2 hstep)]
  split
  · obtain ⟨_, h7, _, _, hcores, hflash⟩ := State.enterReady_holds { s with ctl := { s.ctl with compares := bump 32 s.ctl.compares 1 } }
    exact ⟨.inr h7, congrArg Flash.repair hflash, hcores⟩
  split
  · obtain ⟨_, _, hst, _, hcores, hflash⟩ := State.enterMismatch_holds { s with ctl := { s.ctl with compares := bump 32 s.ctl.compares 1 } } s.badLinks
    exact ⟨.inl (hst.trans hstep), hflash, hcores⟩
  · exact ⟨.inl hstep, rfl, rfl⟩

theorem Flash.addLogs_repair (l : List ErrRec) (f : Flash) : (l.foldl Flash.addLog f).repair = f.repair :=
  foldl_same Flash.repair (fun f r => by rw [Flash.addLog]) l f

theorem State.safe_repair (s : State) (st : Nat) : (s.safe st).flash.repair = s.flash.repair := by rw [State.safe_flash, Flash.addLogs_repair]

theorem State.fatals_repair (s : State) (failed : List (Nat × Nat)) (st : Nat) : (s.fatals failed st).flash.repair = s.flash.repair := by
  have hraise : s.Logged (failed.foldl (fun s x => s.raiseLogged clsFatal x.1 st x.2) s.logOwed) :=
    s.logOwed_only.logged.trans (.foldl (fun s x => s.raiseLogged_logged ..) _ _)
  obtain ⟨_, _, _, _, h⟩ := hraise
  rw [State.fatals, State.safe_repair, h]

theorem distinct_eq_nil {l : List Nat} : distinct l = [] ↔ l = [] := by
  have hmem : ∀ (l acc : List Nat) x, x ∈ l.foldl (fun acc k => insertNat k acc) acc ↔ x ∈ acc ∨ x ∈ l := by
    intro l
    induction l with
    | nil => simp
    | cons k l ih =>
      intro acc x
      rw [List.foldl_cons, ih, mem_insertNat, List.mem_cons, or_comm (a := x = k), or_assoc]
  constructor
  · intro h
    refine List.eq_nil_iff_forall_not_mem.2 fun x hx => ?_
    have : x ∈ distinct l := (hmem l [] x).2 (.inr hx)
    rw [h] at this
    exact absurd this List.not_mem_nil
  · rintro rfl
    rfl

/-- What self-test makes of the failures that it finds (R449–R451). -/
def selfTestFailures (repair : List Nat) (cores : List (ClusterId × Fin 17)) (units : List SharedUnit) : List (Nat × Nat) :=
  (distinct ((List.range 64).filter (fun k => decide (2 ≤ (badCores repair cores k).length)) ++
    units.filterMap fun u => match u with | .cluster k => some k.val | .slice _ => none)).map (fun k => (uScan, k)) ++
  (distinct (units.filterMap fun u => match u with | .cluster _ => none | .slice i => some i)).map fun i => (uSac, i)

theorem selfTestFailures_eq_nil {repair : List Nat} {cores : List (ClusterId × Fin 17)} {units : List SharedUnit} :
    selfTestFailures repair cores units = [] ↔ units = [] ∧ ∀ k, k < 64 → (badCores repair cores k).length < 2 := by
  rw [selfTestFailures, List.append_eq_nil_iff, List.map_eq_nil_iff, List.map_eq_nil_iff, distinct_eq_nil, distinct_eq_nil, List.append_eq_nil_iff]
  constructor
  · rintro ⟨⟨htwo, hcl⟩, hsl⟩
    refine ⟨?_, fun k hk => ?_⟩
    · cases units with
      | nil => rfl
      | cons u units =>
        cases u with
        | cluster k => exact absurd hcl (by simp)
        | slice i => exact absurd hsl (by simp)
    · have := List.filter_eq_nil_iff.1 htwo k (List.mem_range.2 hk)
      simpa using this
  · rintro ⟨rfl, hgood⟩
    refine ⟨⟨List.filter_eq_nil_iff.2 fun k hk => ?_, rfl⟩, rfl⟩
    simpa using hgood k (List.mem_range.1 hk)

/-- The state in which self-test has written the repair map. -/
theorem execSelfTestDone_eq {s : State} (hpart : s.ctl.part = .bringup) (hstep : s.ctl.step = 5) (hrun : ∀ k, k < 64 → (s.w.cluster k).power = .run)
    (failed : List (ClusterId × Fin 17)) (units : List SharedUnit) :
    ∃ u : State, u.ctl = s.ctl ∧ u.otp = s.otp ∧ u.flash.repair = newRepair s.flash.repair failed ∧
      execSelfTestDone failed units s = .next (if (selfTestFailures s.flash.repair failed units).isEmpty
        then ({ u.withW (u.w.mapCores (newRepair s.flash.repair failed)) with ctl := { u.ctl with step := 6 } } : State).compare false
        else u.fatals (selfTestFailures s.flash.repair failed units) stDigestMismatch) := by
  have hall : ((List.range 64).all fun k => (s.w.cluster k).power == .run) = true := by
    rw [List.all_eq_true]
    exact fun k hk => beq_iff_eq.2 (hrun k (List.mem_range.1 hk))
  obtain ⟨_, _, _, _, h⟩ := s.logFailures_logged failed
  rw [execSelfTestDone, if_pos ⟨hpart, hstep, hall⟩, h]
  refine ⟨_, ?_, ?_, ?_, (apply_ite Host.Outcome.next ..).symm⟩
  · rfl
  · rfl
  · rfl

/-- The first step: licences, then first-stage firmware (R445, R447, R462, R470). -/
theorem execBootVerifyDone_holds {s : State} (hpart : s.ctl.part = .bringup) (hpg : s.ctl.pins.pgAon = true) (hstep : s.ctl.step = 1)
    (hboot : s.ctl.booted = false) :
    let x := s.bootLicence.countSkipped
    let y : State := { x with ctl := { x.ctl with booted := true } }
    ∃ t, execBootVerifyDone s = .next t ∧ t.ctl.booted = true ∧ t.ctl.part = .bringup ∧ t.otp = x.otp ∧
      (∀ ab, y.chooseFw 1 = some ab →
        t.ctl.sec.active1 = ab ∧ t.ctl.step = (if s.ctl.mainPower = 1 then 3 else 2) ∧
        (s.ctl.mainPower = 1 → t.ctl.railGroups = 1 ∧ t.ctl.pgMain = false) ∧ t.flash = x.flash) ∧
      (y.chooseFw 1 = none → t.ctl.step = 1 ∧ t.ctl.endStatus = stDigestMismatch) := by
  have hsec : s.SameButSec s.bootLicence.countSkipped := s.bootLicence_sec.trans (State.countSkipped_sec _)
  rw [execBootVerifyDone, if_pos ⟨hpg, hpart, hstep, hboot⟩]
  dsimp only
  generalize s.bootLicence.countSkipped = x at hsec ⊢
  have hx : x.ctl.part = .bringup ∧ x.ctl.step = 1 ∧ x.ctl.mainPower = s.ctl.mainPower := by
    unfold State.SameButSec at hsec
    rw [hsec]
    exact ⟨hpart, hstep, rfl⟩
  obtain ⟨hpartx, hstepx, hmain⟩ := hx
  cases hfw : ({ x with ctl := { x.ctl with booted := true } } : State).chooseFw 1 with
  | none =>
    dsimp only
    have hctl := State.raiseLogged_ctl { x with ctl := { x.ctl with booted := true } } clsUe uBringup stDigestMismatch 1 0 [] true
    refine ⟨_, rfl, ?_, ?_, by simp, fun ab h => (by cases h), fun _ => ⟨?_, rfl⟩⟩
    · exact congrArg Ctl.booted hctl
    · exact (congrArg Ctl.part hctl).trans hpartx
    · exact (congrArg Ctl.step hctl).trans hstepx
  | some ab =>
    dsimp only
    rw [hmain]
    by_cases hon : s.ctl.mainPower = 1
    · rw [if_pos hon]
      generalize hu : ({ x with ctl := _ } : State) = u
      obtain ⟨koc, outbox, h⟩ := State.startRails_frame u
      rw [h]
      refine ⟨_, rfl, by rw [← hu], rfl, by rw [← hu], fun ab' h => ?_, fun h => by cases h⟩
      cases h
      rw [if_pos hon]
      rw [← hu]
      exact ⟨rfl, rfl, fun _ => ⟨rfl, rfl⟩, rfl⟩
    · rw [if_neg hon]
      refine ⟨_, rfl, rfl, hpartx, rfl, fun ab' h => ?_, fun h => by cases h⟩
      cases h
      rw [if_neg hon]
      exact ⟨rfl, rfl, fun h => absurd h hon, rfl⟩

/-- The rails taken as up (R445, R447, R454, R462). -/
theorem State.railsUp_holds {s : State} (hpart : s.ctl.part = .bringup) :
    let x : State := { s with ctl := { s.ctl with pgMain := true } }
    let t := s.railsUp
    t.ctl.pgMain = true ∧ t.otp = s.otp ∧
      (∀ ab, x.secondStage = some ab →
        t.ctl.step = 4 ∧ t.ctl.mgmt = true ∧ t.ctl.sec.active2 = ab ∧ t.ctl.sec.ran2 = true ∧
        t.ctl.sec.record = (if x.topoOk s.flash.topology then s.flash.topology else []) ∧
        (∀ l, l < 20 → (t.w.link l).st = if bit s.ctl.sec.linkMask l then .waitSignal else .disabled) ∧
        (t.w.port 0).st = 1 ∧ (t.w.port 1).st = 1 ∧ t.flash = s.flash ∧ t.res = s.res) ∧
      (x.secondStage = none → t.ctl.part = .safe ∧ t.ctl.endStatus = stDigestMismatch) := by
  dsimp only
  have hpart' : ({ s with ctl := { s.ctl with pgMain := true } } : State).ctl.part ≠ .safe := by
    rw [hpart]
    decide
  unfold State.railsUp
  dsimp only
  cases hstage : ({ s with ctl := { s.ctl with pgMain := true } } : State).secondStage with
  | none =>
    dsimp only
    have hctl := State.fatal_ctl hpart' uBringup stDigestMismatch 3 stDigestMismatch 0 []
    refine ⟨congrArg Ctl.pgMain hctl, by simp, fun ab h => (by cases h), fun _ => ⟨congrArg Ctl.part hctl, congrArg Ctl.endStatus hctl⟩⟩
  | some ab =>
    dsimp only
    obtain ⟨hlinks, _⟩ := World.startLinks_holds s.w s.ctl.sec.linkMask
    generalize s.w.startLinks s.ctl.sec.linkMask = u at hlinks ⊢
    refine ⟨rfl, rfl, fun ab' h => ?_, fun h => by cases h⟩
    cases h
    refine ⟨rfl, rfl, rfl, rfl, rfl, hlinks, ?_, ?_, rfl, rfl⟩
    · exact congrArg HPort.st ((World.port_setPort_ne _ _ (by decide)).trans (World.port_setPort ..))
    · exact congrArg HPort.st (World.port_setPort ..)

/-- Settles O57. -/
theorem bringUpCompletes : Obligations.BringUpCompletes := by
  unfold Obligations.BringUpCompletes
  intro s hpart
  have hsafe : s.ctl.part ≠ .safe := by
    rw [hpart]
    decide
  refine ⟨fun hpg hstep hboot => ?_, fun hstep hmain h1 h6 => ?_, fun hstep hgroups hpg => ⟨?_, fun hwhy => ?_, fun hpin hagree => ?_⟩,
    fun hstep hgroups hpg => ?_, fun hstep hgroups => ?_, fun failed hstep hrun hgood => ?_, fun failed units hstep hrun hbad => ?_,
    fun hstep => ?_, fun ok hwipe hmgmt hcache => ?_⟩
  · exact execBootVerifyDone_holds hpart hpg hstep hboot
  · exact if_pos ⟨hpart, hstep, hmain, h1, h6⟩
  · exact if_pos ⟨hpart, hstep, hgroups⟩
  · refine if_neg fun ⟨_, _, _, _, hpin, hagree⟩ => ?_
    exact hwhy.elim (fun h => by simp [h] at hpin) (fun h => by simp [h] at hagree)
  · dsimp only
    rw [State.tryRails_of_agree hpart hstep hgroups hpg hpin hagree]
    obtain ⟨hup, hotp, hsome, hnone⟩ := State.railsUp_holds hpart
    exact ⟨hup, hotp, fun hran => if_pos hran, fun hran => if_neg (by simp [hran]), hsome, hnone⟩
  · have hctl := State.fatal_ctl hsafe uBringup stTimeout 3 stTimeout 0 []
    exact ⟨_, if_pos ⟨hpart, hstep, hgroups, hpg⟩, congrArg Ctl.part hctl, congrArg Ctl.endStatus hctl, congrArg (fun c => c.pins.faultLow) hctl, by simp⟩
  · have hctl := State.fatal_ctl hsafe uBringup stTimeout 3 stTimeout 0 []
    exact ⟨_, if_pos ⟨hpart, hstep, hgroups⟩, congrArg Ctl.part hctl, congrArg Ctl.endStatus hctl, congrArg (fun c => c.pins.faultLow) hctl, by simp⟩
  · obtain ⟨u, hctl, hotp, hrepair, hexec⟩ := execSelfTestDone_eq hpart hstep hrun failed []
    rw [selfTestFailures_eq_nil.2 ⟨rfl, hgood⟩, if_pos List.isEmpty_nil] at hexec
    have hmap := fun c => World.mapCores_core u.w (newRepair s.flash.repair failed) (c := c)
    generalize u.w.mapCores (newRepair s.flash.repair failed) = v at hexec hmap
    obtain ⟨hst, hrep, hcores⟩ := State.compare_keeps (s := { u.withW v with ctl := { u.ctl with step := 6 } }) ((congrArg Ctl.part hctl).trans hpart) rfl false
    have hcore : ∀ (w : World) c, w.cores = v.cores → w.core c = v.core c := fun w c hw => by rw [World.core, World.core, hw]
    refine ⟨_, hexec, hrep.trans hrepair, hst, (State.compare_otp ..).trans hotp, fun c hc => ?_⟩
    rw [hcore _ c hcores]
    exact hmap c hc
  · obtain ⟨u, hctl, hotp, hrepair, hexec⟩ := execSelfTestDone_eq hpart hstep hrun failed units
    have hne : selfTestFailures s.flash.repair failed units ≠ [] := by
      rw [Ne, selfTestFailures_eq_nil]
      rintro ⟨hunits, hgood⟩
      exact hbad.elim (fun h => h hunits) (fun ⟨k, hk, h2⟩ => absurd (hgood k hk) (by omega))
    rw [if_neg (by simpa using hne)] at hexec
    have hend := State.fatals_ctl u (selfTestFailures s.flash.repair failed units) stDigestMismatch
    refine ⟨_, hexec, (State.fatals_repair ..).trans hrepair, congrArg Ctl.part hend, congrArg Ctl.endStatus hend,
      congrArg (fun c => c.pins.faultLow) hend, (State.fatals_otp ..).trans hotp⟩
  · have hexec : exec .topologyDeadline s = .next (s.compare true) := if_pos ⟨hpart, hstep⟩
    have hgo : ¬ s.ctl.step ≠ 6 := Classical.not_not.2 hstep
    by_cases hbad : s.badLinks = []
    · have hcmp : s.compare true = ({ s with ctl := { s.ctl with compares := bump 32 s.ctl.compares 1 } } : State).enterReady := by
        rw [State.compare, hpart]
        dsimp only
        rw [if_neg hgo, hbad]
        rfl
      obtain ⟨hready, h7, hcompares, hrank, _⟩ := State.enterReady_holds { s with ctl := { s.ctl with compares := bump 32 s.ctl.compares 1 } }
      refine ⟨_, hexec, ?_, State.compare_otp .., fun _ => ?_, fun h => absurd hbad h⟩
      · rw [hcmp, hcompares]
        rfl
      · rw [hcmp]
        exact ⟨hready, h7, hrank⟩
    · have hcmp : s.compare true = ({ s with ctl := { s.ctl with compares := bump 32 s.ctl.compares 1 } } : State).enterMismatch s.badLinks := by
        rw [State.compare, hpart]
        dsimp only
        rw [if_neg hgo, if_neg (by simpa using hbad), if_pos (by rfl)]
      obtain ⟨hmis, hcount, _, hcompares, _⟩ :=
        State.enterMismatch_holds { s with ctl := { s.ctl with compares := bump 32 s.ctl.compares 1 } } s.badLinks
      refine ⟨_, hexec, ?_, State.compare_otp .., fun h => absurd h hbad, fun _ => ?_⟩
      · rw [hcmp, hcompares]
        rfl
      · rw [hcmp]
        exact ⟨hmis, hcount⟩
  · exact if_pos ⟨hwipe, hmgmt, hcache⟩

end Sys2Proof.Machine

/-! PROOFS. The fault service and the scan test (R477–R496). -/
namespace Sys2Proof.Machine

/-! ## A record taken into service (R477, R485, R489) -/

/-- No record but those of its sequence number is marked by a record's entry in the log. -/
theorem Errs.owed_setLogged {e : Errs} {seq : Nat} (h : ∀ q ∈ e.waiting ++ e.unqueued, q.seq ≠ seq) : (e.setLogged seq).owed = e.owed := by
  have hsame : ∀ l : List ErrRec, (∀ q ∈ l, q.seq ≠ seq) → l.map (fun r => if r.seq = seq then { r with logged := true } else r) = l := fun l hl =>
    (List.map_congr_left fun r hr => if_neg (hl r hr)).trans (List.map_id' l)
  have hwait := hsame e.waiting fun q hq => h q (List.mem_append_left _ hq)
  have hun := hsame e.unqueued fun q hq => h q (List.mem_append_right _ hq)
  unfold Errs.owed Errs.setLogged
  dsimp only
  rw [hwait, hun]

/-- A record logged on the way to SAFE: what the log is owed follows it. -/
theorem State.safe_logRec_flash {s : State} {r : ErrRec} (hlogged : r.logged = false) (h : ∀ q ∈ s.w.errs.waiting ++ s.w.errs.unqueued, q.seq ≠ r.seq)
    (st : Nat) : ((s.logRec r).safe st).flash = s.w.errs.owed.foldl Flash.addLog (s.flash.addLog r) := by
  have hlog : s.logRec r = { s with flash := s.flash.addLog r, w := { s.w with errs := s.w.errs.setLogged r.seq } } := by
    rw [State.logRec, hlogged]
    rfl
  rw [State.safe_flash, hlog]
  dsimp only
  rw [Errs.owed_setLogged h]

theorem State.logRec_flash_ite (s : State) (r : ErrRec) : (s.logRec r).flash = if r.logged then s.flash else s.flash.addLog r := by
  unfold State.logRec
  split <;> rfl

/-- A context whose error is served is held, and nothing is told of it in flash (R477). -/
theorem State.kill_holds (s : State) (n : Nat) :
    (s.kill n).flash = s.flash ∧ (s.kill n).ctl = s.ctl ∧ ((s.ent n).st ≠ .absent → ((s.kill n).w.ctx n).hold = 1) := by
  have hstop : ∀ (s : State) (c : Nat), (s.stopCore c).flash = s.flash ∧ (s.stopCore c).ctl = s.ctl := by
    intro s c
    unfold State.stopCore
    split
    · exact ⟨rfl, rfl⟩
    dsimp only
    split
    · split
      · split <;> exact ⟨rfl, rfl⟩
      · exact ⟨rfl, rfl⟩
    · exact ⟨rfl, rfl⟩
  have hfold : ∀ (l : List Nat) (s : State), (l.foldl State.stopCore s).flash = s.flash ∧ (l.foldl State.stopCore s).ctl = s.ctl := fun l s =>
    ⟨foldl_same State.flash (fun s c => (hstop s c).1) l s, foldl_same State.ctl (fun s c => (hstop s c).2) l s⟩
  have hsave : (if (s.ent n).st = .resident then s.startSave n .stay else s).flash = s.flash ∧
      (if (s.ent n).st = .resident then s.startSave n .stay else s).ctl = s.ctl := by
    split
    · unfold State.startSave
      dsimp only
      have hstopped := hfold (s.ent n).coreList s
      generalize (s.ent n).coreList.foldl State.stopCore s = u at hstopped ⊢
      exact hstopped
    · exact ⟨rfl, rfl⟩
  unfold State.kill
  dsimp only
  generalize (if (s.ent n).st = .resident then s.startSave n .stay else s) = t at hsave ⊢
  split
  · next h => exact ⟨hsave.1, hsave.2, fun hne => absurd h hne⟩
  · exact ⟨hsave.1, hsave.2, fun _ => congrArg Ctx.hold (World.ctx_setCtx ..)⟩

/-! ## The scan test (R494–R496) -/

/-- The logical core that the tested core carries lists no byte and stands on the core that carries it from now on (R495). -/
theorem World.scanned_holds (w : World) (k f to_ : Nat) {i : Nat} (hi : i < 16) (hphys : (w.core (16 * k + i)).phys = f) :
    ((w.scanned k f to_).core (16 * k + i)).phys = to_ ∧ ∀ m, ((w.scanned k f to_).core (16 * k + i)).mem m = {} := by
  have hfold : ∀ n, (∀ j, n ≤ j → ((List.range n).foldl (fun w i => let c := w.core (16 * k + i)
        if c.phys = f then w.setCore (16 * k + i) { c with ws := {}, sp := {}, ps := {}, wbq := [], phys := to_ } else w) w).core (16 * k + j) =
          w.core (16 * k + j)) ∧
      ∀ j, j < n → (w.core (16 * k + j)).phys = f → ((List.range n).foldl (fun w i => let c := w.core (16 * k + i)
        if c.phys = f then w.setCore (16 * k + i) { c with ws := {}, sp := {}, ps := {}, wbq := [], phys := to_ } else w) w).core (16 * k + j) =
          { w.core (16 * k + j) with ws := {}, sp := {}, ps := {}, wbq := [], phys := to_ } := by
    intro n
    induction n with
    | zero => exact ⟨fun _ _ => rfl, fun j hj => absurd hj (Nat.not_lt_zero j)⟩
    | succ n ih =>
      obtain ⟨hlater, hdone⟩ := ih
      rw [List.range_succ, List.foldl_append, List.foldl_cons, List.foldl_nil]
      dsimp only at hlater hdone ⊢
      generalize List.foldl _ w (List.range n) = u at hlater hdone ⊢
      refine ⟨fun j hj => ?_, fun j hj hp => ?_⟩
      · split
        · rw [World.core_setCore_ne _ _ (by omega), hlater j (by omega)]
        · exact hlater j (by omega)
      · obtain hlt | rfl := Nat.lt_succ_iff_lt_or_eq.1 hj
        · split
          · rw [World.core_setCore_ne _ _ (by omega), hdone j hlt hp]
          · exact hdone j hlt hp
        · rw [hlater j (Nat.le_refl _), if_pos hp, World.core_setCore]
  have hcore := (hfold 16).2 i hi hphys
  change (w.scanned k f to_).core (16 * k + i) = _ at hcore
  rw [hcore]
  exact ⟨rfl, fun m => by cases m <;> rfl⟩

theorem State.Logged.keeps {s t : State} (h : s.Logged t) :
    t.ctl = s.ctl ∧ t.otp = s.otp ∧ t.flash.repair = s.flash.repair ∧ s.w.Shows t.w ∧ ∀ c, t.w.core c = s.w.core c := by
  obtain ⟨_, _, _, _, rfl⟩ := h
  exact ⟨rfl, rfl, rfl, ⟨rfl, rfl⟩, fun _ => rfl⟩

theorem State.fatal_repair (s : State) (unit status inst st addr : Nat) (detail : List Byte) :
    (s.fatal unit status inst st addr detail).flash.repair = s.flash.repair := by
  unfold State.fatal
  split
  · rfl
  · rw [State.safe_repair]
    exact (s.logOwed_only.logged.trans (State.raiseLogged_logged ..)).keeps.2.2.1

/-- A scan's result, recorded: it shows, and the repair map stays; unless it ends in SAFE, so do the part's state and the cores. -/
theorem State.scanRecorded_holds (s : State) (c : Bool) (status k : Nat) (detail : List Byte) (again : Bool) :
    let t := if c then (s.raiseLogged clsCe uScan status k 0 detail again).fatal uScan stDigestMismatch k stDigestMismatch 0 detail
      else s.raiseLogged clsCe uScan status k 0 detail again
    s.w.Shows t.w ∧ t.otp = s.otp ∧ t.flash.repair = s.flash.repair ∧ (c = false → t.ctl.part = s.ctl.part ∧ ∀ i, t.w.core i = s.w.core i) := by
  obtain ⟨hctl, hotp, hrepair, hshows, hcore⟩ := (s.raiseLogged_logged clsCe uScan status k 0 detail again).keeps
  cases c
  · exact ⟨hshows, hotp, hrepair, fun _ => ⟨congrArg Ctl.part hctl, hcore⟩⟩
  · exact ⟨hshows.trans (State.fatal_shows ..), (State.fatal_otp ..).trans hotp, (State.fatal_repair ..).trans hrepair, fun h => by cases h⟩

theorem State.withScan_holds (s : State) (flash : Flash) (w : World) (x : Scan) :
    let v := ({ s with flash } : State).withW { w with scan := x }
    v.w.cores = w.cores ∧ v.w.scan = x ∧ v.otp = s.otp ∧ v.flash = flash ∧ v.ctl = s.ctl := ⟨rfl, rfl, rfl, rfl, rfl⟩

/-- A scan that has run (R495, R496). -/
theorem execScanComplete_holds {s : State} (pass : Bool) (patterns : Nat) (hst : s.w.scan.st = 1) (hpart : s.ctl.part = .ready)
    (hrun : (s.w.cluster s.w.scan.cluster).power = .run) :
    ∃ t, execScanComplete pass patterns s = .next t ∧ t.w.scan.st = (if pass then 2 else 3) ∧ t.otp = s.otp ∧
      t.w.scan.result = leBytes 1 s.w.scan.cluster ++ leBytes 1 s.w.scan.phys ++ leBytes 1 (if pass then 2 else 3) ++ leBytes 1 0 ++
        leBytes 4 patterns ∧
      (pass = true → t.flash.repair = s.flash.repair) ∧
      (pass = false → s.flash.repair.getD s.w.scan.cluster 0xFF = 0xFF →
        t.flash.repair = s.flash.repair.set s.w.scan.cluster s.w.scan.phys ∧ t.ctl.part = .ready ∧
        ∀ i, i < 16 → (s.w.core (16 * s.w.scan.cluster + i)).phys = s.w.scan.phys →
          (t.w.core (16 * s.w.scan.cluster + i)).phys = 16 ∧ ∀ m, (t.w.core (16 * s.w.scan.cluster + i)).mem m = {}) := by
  have hgo : ¬ (s.w.scan.st ≠ 1 ∨ s.ctl.part ≠ .ready ∨ (s.w.cluster s.w.scan.cluster).power ≠ .run) := by simp [hst, hpart, hrun]
  rw [execScanComplete]
  dsimp only
  rw [if_neg hgo]
  have hcore : ∀ c, (s.w.readRange none patternBase (alignUp s.flash.patterns.length 64)).core c = s.w.core c := (World.readRange_side ..).core
  generalize s.w.readRange none patternBase (alignUp s.flash.patterns.length 64) = u at hcore ⊢
  have hscanned := fun i hi hp =>
    World.scanned_holds u s.w.scan.cluster s.w.scan.phys 16 (i := i) hi ((congrArg Core.phys (hcore _)).trans hp)
  generalize hresult : leBytes 1 s.w.scan.cluster ++ leBytes 1 s.w.scan.phys ++ leBytes 1 (if pass = true then 2 else 3) ++ leBytes 1 0 ++ leBytes 4 patterns = result
  generalize leBytes 1 s.w.scan.phys ++ leBytes 1 (if pass = true then 2 else 3) ++ leBytes 4 patterns = detail
  generalize hz : u.scanned s.w.scan.cluster s.w.scan.phys _ = z
  generalize hv : (State.withW _ _ : State) = v
  have hview := hv ▸ State.withScan_holds s _ z _
  obtain ⟨hvz, hscan, hvotp, hflash, hvctl⟩ := hview
  obtain ⟨hshows, hotp, hrepair, hkeeps⟩ := v.scanRecorded_holds (!pass && !(!pass && s.flash.repair.getD s.w.scan.cluster 0xFF == 0xFF) &&
    s.flash.repair.getD s.w.scan.cluster 0xFF != s.w.scan.phys) (if pass then stOk else stDigestMismatch) s.w.scan.cluster detail (!pass)
  refine ⟨_, rfl, ?_, hotp.trans hvotp, ?_, fun hpass => ?_, fun hpass hold => ?_⟩
  · rw [hshows.scan, hscan]
  · rw [hshows.scan, hscan]
  · rw [hrepair, hflash, hpass]
    rfl
  · have hmoves : (!pass && s.flash.repair.getD s.w.scan.cluster 0xFF == 0xFF) = true := by rw [hpass, hold]; rfl
    obtain ⟨hready, hcores⟩ := hkeeps (by rw [hmoves, Bool.not_true, Bool.and_false, Bool.false_and])
    rw [hmoves, if_pos rfl] at hz hflash
    refine ⟨?_, ?_, fun i hi hp => ?_⟩
    · rw [hrepair, hflash]
    · rw [hready, hvctl, hpart]
    · rw [hcores, World.core, hvz, ← hz]
      exact hscanned i hi hp

/-- The state in which the fault service has taken a record from its list. -/
def State.taken (s : State) (e : Errs) : State :=
  s.withW { s.w with
    koc := { s.w.koc with asleep := [] }, errs := { e with inService := e.inService.filter fun r => r.cls != clsCtx || (s.ent r.ctx).st.live } }

theorem State.taken_flash (s : State) (e : Errs) : (s.taken e).flash = s.flash := rfl

/-- The state in which a corrected or contained error has left service. -/
def State.leaves (s : State) (r : ErrRec) : State :=
  s.withW { s.w with errs := { s.w.errs with inService := s.w.errs.inService.filter fun q => q.seq != r.seq } }

/-- Settles O59. -/
theorem faultServiceCompletes : Obligations.FaultServiceCompletes := by
  unfold Obligations.FaultServiceCompletes
  refine fun s => ⟨fun r rest hmgmt hpart hwait => ?_, fun r rest hmgmt hpart hwait hun => ?_, fun hmgmt hwait hpart => ?_,
    fun pass patterns hst hpart hrun => ?_⟩
  · have hexec : exec .faultServiceTake s = .next ((s.taken { s.w.errs with waiting := rest }).serve r) := by
      refine (if_neg (by simp [hmgmt, hpart])).trans ?_
      dsimp only [State.servedContexts, State.withW]
      rw [hwait]
      rfl
    refine ⟨_, hexec, by rw [State.serve_otp]; rfl, fun hcls => ?_, fun hcls => ?_, fun hcls => ?_⟩
    · have hserve : (s.taken { s.w.errs with waiting := rest }).serve r = (s.taken { s.w.errs with waiting := rest }).leaves r := by
        unfold State.serve
        obtain h | h := hcls <;> rw [h] <;> rfl
      rw [hserve]
      exact ⟨rfl, rfl, rfl, fun q hq => bne_iff_ne.1 (List.mem_filter.1 hq).2⟩
    · have hserve : (s.taken { s.w.errs with waiting := rest }).serve r = (((s.taken { s.w.errs with waiting := rest }).logRec r).kill r.ctx).servedContexts := by
        unfold State.serve
        rw [hcls]
        rfl
      rw [hserve]
      obtain ⟨hflash, hctl, hhold⟩ := State.kill_holds ((s.taken { s.w.errs with waiting := rest }).logRec r) r.ctx
      have honly := State.logRec_only (s.taken { s.w.errs with waiting := rest }) r
      have hent : ((s.taken { s.w.errs with waiting := rest }).logRec r).ent r.ctx = s.ent r.ctx := by
        rw [State.ent, honly.res]
        rfl
      rw [hent] at hhold
      exact ⟨hflash.trans (State.logRec_flash_ite ..), hhold, congrArg Ctl.part (hctl.trans honly.ctl)⟩
    · have hserve : (s.taken { s.w.errs with waiting := rest }).serve r = ((s.taken { s.w.errs with waiting := rest }).logRec r).safe r.status := by
        unfold State.serve
        rw [hcls]
        rfl
      rw [hserve]
      have hctl := State.safe_ctl ((s.taken { s.w.errs with waiting := rest }).logRec r) r.status
      refine ⟨congrArg Ctl.part hctl, congrArg Ctl.endStatus hctl, congrArg (fun c => c.pins.faultLow) hctl, fun hlogged hseq => ?_⟩
      rw [State.safe_logRec_flash hlogged hseq]
      have howed : s.w.errs.owed = r :: (s.taken { s.w.errs with waiting := rest }).w.errs.owed := by
        rw [Errs.owed, hwait, List.cons_append, List.filter_cons_of_pos (by rw [hcls, hlogged]; rfl)]
        rfl
      rw [howed, List.foldl_cons, State.taken_flash]
  · have hexec : exec .faultServiceTake s = .next (((s.taken { s.w.errs with unqueued := rest }).logRec r).safe r.status) := by
      refine (if_neg (by simp [hmgmt, hpart])).trans ?_
      dsimp only [State.servedContexts, State.withW]
      rw [hwait, hun]
      rfl
    have hctl := State.safe_ctl ((s.taken { s.w.errs with unqueued := rest }).logRec r) r.status
    refine ⟨_, hexec, congrArg Ctl.part hctl, congrArg Ctl.endStatus hctl, fun hcls hseq => ?_⟩
    have hwaiting : (s.taken { s.w.errs with unqueued := rest }).w.errs.waiting = [] := hwait
    cases hlogged : r.logged with
    | false =>
      have hseq' : ∀ q ∈ (s.taken { s.w.errs with unqueued := rest }).w.errs.waiting ++ (s.taken { s.w.errs with unqueued := rest }).w.errs.unqueued,
          q.seq ≠ r.seq := by
        rw [hwaiting]
        exact hseq
      rw [State.safe_logRec_flash hlogged hseq']
      have howed : s.w.errs.owed = r :: (s.taken { s.w.errs with unqueued := rest }).w.errs.owed := by
        rw [Errs.owed, hun, hwait, List.nil_append, List.filter_cons_of_pos (by rw [hcls, hlogged]; rfl), Errs.owed, hwaiting]
        rfl
      rw [howed, List.foldl_cons, State.taken_flash]
    | true =>
      have howed : s.w.errs.owed = (s.taken { s.w.errs with unqueued := rest }).w.errs.owed := by
        rw [Errs.owed, hun, hwait, List.nil_append, List.filter_cons_of_neg (by rw [hlogged]; simp), Errs.owed, hwaiting]
        rfl
      rw [State.logRec, if_pos hlogged, State.safe_flash, howed, State.taken_flash]
  · have hgo : ¬ (s.ctl.mgmt = false ∨ s.w.errs.waiting.isEmpty = true ∨ s.ctl.part = .safe) := by simp [hmgmt, hwait, hpart]
    have hctl := State.fatal_ctl (s := s.withW { s.w with free := s.w.free + 1 }) hpart uMgmt (Config.freeNat s.w.free % 18) 0
      (Config.freeNat s.w.free % 18) 0 []
    exact ⟨_, if_neg hgo, congrArg Ctl.part hctl, congrArg (fun c => c.pins.faultLow) hctl, by simp⟩
  · exact execScanComplete_holds pass patterns hst hpart hrun

end Sys2Proof.Machine

/-! PROOFS. What arrives on a link (R336–R339). -/
namespace Sys2Proof.Machine

/-! ## What a header carries -/

/-- A link as it stands beside what it sends: credits, numbers and messages that go out may differ. -/
def Link.Sends (k k' : Link) : Prop :=
  ∃ replay waitq resv shared toReturn txSeq sent, k' = { k with replay, waitq, resv, shared, toReturn, txSeq, sent }

namespace Link.Sends

theorem refl (k : Link) : k.Sends k := ⟨_, _, _, _, _, _, _, rfl⟩

theorem trans {k x y : Link} (a : k.Sends x) (b : x.Sends y) : k.Sends y := by
  obtain ⟨_, _, _, _, _, _, _, rfl⟩ := a
  obtain ⟨_, _, _, _, _, _, _, rfl⟩ := b
  exact ⟨_, _, _, _, _, _, _, rfl⟩

theorem st {k x : Link} (a : k.Sends x) : x.st = k.st := by
  obtain ⟨_, _, _, _, _, _, _, rfl⟩ := a
  rfl

end Link.Sends

theorem Link.free_sends (k : Link) (vc units : Nat) : k.Sends (k.free vc units) := ⟨_, _, _, _, _, _, _, rfl⟩
theorem Link.give_sends (k : Link) (vc units : Nat) : k.Sends (k.give vc units) := ⟨_, _, _, _, _, _, _, rfl⟩
theorem Link.acked_sends (k : Link) (ack : Nat) : k.Sends (k.acked ack) := ⟨_, _, _, _, _, _, _, rfl⟩

theorem Link.transmit_sends (k : Link) (dst src : Nat) (b : FrameBody) : k.Sends (k.transmit dst src b) := by
  unfold Link.transmit
  dsimp only
  split <;> exact ⟨_, _, _, _, _, _, _, rfl⟩

theorem Link.flushList_sends (ms : List TxMsg) : ∀ (k : Link) (blocked : List Nat), k.Sends (k.flushList blocked ms) := by
  induction ms with
  | nil => exact fun k _ => .refl k
  | cons m ms ih =>
    intro k blocked
    unfold Link.flushList
    split
    · refine Link.Sends.trans ?_ (ih _ _)
      exact ⟨_, _, _, _, _, _, _, rfl⟩
    · exact (Link.transmit_sends ..).trans (ih _ _)

theorem Link.flush_sends (k : Link) : k.Sends k.flush := by
  refine Link.Sends.trans ?_ (Link.flushList_sends _ _ _)
  exact ⟨_, _, _, _, _, _, _, rfl⟩

theorem Link.header_sends (k : Link) (h : SeamHdr) : k.Sends (k.header h) :=
  ((Link.acked_sends ..).trans (Link.give_sends ..)).trans (Link.flush_sends _)

theorem Link.post_sends (k : Link) (dst src : Nat) (b : FrameBody) : k.Sends (k.post dst src b) := by
  unfold Link.post
  split
  · split
    · exact Link.transmit_sends ..
    · exact .refl k
  · split
    · exact Link.transmit_sends ..
    · exact ⟨_, _, _, _, _, _, _, rfl⟩

/-! ## Receipt (R336–R338) -/

/-- Whether a link takes a message of a type (R335). -/
def Link.takesBody (k : Link) (b : FrameBody) : Bool :=
  k.st == .up || (k.st == .identify && match b with | .ident _ _ _ _ => true | .heartbeat _ _ _ => true | .link => true | _ => false)

theorem Link.takesBody_iff (k : Link) (b : FrameBody) :
    k.takesBody b = true ↔ k.st = .up ∨ (k.st = .identify ∧ (b = .link ∨ (∃ r st p, b = .heartbeat r st p) ∨ ∃ i r p v, b = .ident i r p v)) := by
  cases b <;> simp [Link.takesBody]

theorem Link.inOrder_iff (k : Link) (h : SeamHdr) : k.inOrder h = true ↔ h.seq = if h.plain then 0 else k.rxSeq := by
  unfold Link.inOrder
  split <;> exact beq_iff_eq

/-- A message of a link that takes it, intact and in order. -/
def Link.takesMsg (k : Link) (h : SeamHdr) (b : FrameBody) : Prop := k.takesBody b = true ∧ h.crcOk = true ∧ k.inOrder h = true

theorem World.receive_of_not_takes {w : World} {l : Nat} {h : SeamHdr} {b : FrameBody} (hno : ¬ (w.link l).takesMsg h b) (keep : Bool) :
    w.receive l h b keep = .error w := by
  refine if_pos ?_
  rw [Bool.not_eq_true', ← Bool.not_eq_true, Bool.and_eq_true, Bool.and_eq_true]
  exact fun ⟨⟨ho, hc⟩, hi⟩ => hno ⟨ho, hc, hi⟩

theorem World.receive_of_takes {w : World} {l : Nat} {h : SeamHdr} {b : FrameBody} (htakes : (w.link l).takesMsg h b) (keep : Bool) :
    w.receive l h b keep =
      let k := w.link l
      if h.malformed || !h.shape (k.held h.vc) b then .error (w.setLink l (k.discard l h))
      else if !h.last then .error (w.setLink l ({ k.taken l h with parts := k.parts.set h.vc (k.held h.vc ++ h.lens) }.header h))
      else .ok (w.setLink l ((if keep then { k.taken l h with parts := k.parts.set h.vc [] }
        else { k.taken l h with parts := k.parts.set h.vc [] }.free h.vc (k.unitsOf h)).header h)) := by
  obtain ⟨ho, hc, hi⟩ := htakes
  refine if_neg ?_
  change ¬ (!((w.link l).takesBody b && h.crcOk && (w.link l).inOrder h)) = true
  rw [ho, hc, hi]
  decide

/-- What a link shows after a message that it has taken (R338). -/
structure Link.Took (k k' : Link) (h : SeamHdr) (discarded : Nat) : Prop where
  st : k'.st = k.st
  peerRank : k'.peerRank = k.peerRank
  rxSeq : k'.rxSeq = if h.plain then k.rxSeq else (k.rxSeq + h.frames) % 65536
  received : k'.received = (k.received + h.wire) % 2 ^ 64
  discarded : k'.discarded = discarded

theorem Link.Took.sends {k x y : Link} {h : SeamHdr} {n : Nat} (a : k.Took x h n) (b : x.Sends y) : k.Took y h n := by
  obtain ⟨_, _, _, _, _, _, _, rfl⟩ := b
  exact ⟨a.st, a.peerRank, a.rxSeq, a.received, a.discarded⟩

theorem Link.taken_took (k : Link) (l : Nat) (h : SeamHdr) (parts : List (List Nat)) (n : Nat) :
    k.Took { k.taken l h with parts, discarded := n } h n := ⟨rfl, rfl, rfl, rfl, rfl⟩

theorem Link.discard_took (k : Link) (l : Nat) (h : SeamHdr) :
    k.Took (k.discard l h) h ((k.discarded + h.frames + if h.malformed then 0 else (k.held h.vc).length) % 2 ^ 64) := by
  unfold Link.discard
  dsimp only
  split
  · refine Link.Took.sends ?_ ((Link.free_sends ..).trans (Link.header_sends ..))
    exact ⟨rfl, rfl, rfl, rfl, rfl⟩
  · refine Link.Took.sends ?_ ((Link.free_sends ..).trans (Link.header_sends ..))
    exact ⟨rfl, rfl, rfl, rfl, congrArg (· % 2 ^ 64) (Nat.add_assoc ..).symm⟩

/-- Settles O45. -/
theorem messagesAreAcceptedInOrder : Obligations.MessagesAreAcceptedInOrder := by
  unfold Obligations.MessagesAreAcceptedInOrder
  intro w l h b keep k opens takes moved
  have htakes : takes ↔ k.takesMsg h b := by
    rw [Link.takesMsg, Link.takesBody_iff, Link.inOrder_iff]
  have hmoved : ∀ (k' : Link) (n : Nat), k.Took k' h n → moved (w.setLink l k') ∧ ((w.setLink l k').link l).discarded = n := by
    intro k' n ht
    refine ⟨⟨rfl, fun i hi => World.link_setLink_ne _ _ hi, ?_, ?_, ?_, ?_⟩, ?_⟩ <;> rw [World.link_setLink]
    · exact ht.st
    · exact ht.peerRank
    · exact ht.rxSeq
    · exact ht.received
    · exact ht.discarded
  refine ⟨fun hno => World.receive_of_not_takes (fun h => hno (htakes.2 h)) keep, fun ht hbad => ?_, fun ht hmal hshape hlast => ?_,
    fun ht hmal hshape hlast => ?_⟩
  · rw [World.receive_of_takes (htakes.1 ht)]
    dsimp only
    rw [if_pos (by simpa [Bool.or_eq_true] using hbad)]
    exact ⟨_, rfl, hmoved _ _ (Link.discard_took ..)⟩
  · rw [World.receive_of_takes (htakes.1 ht)]
    dsimp only
    have hshape' : h.shape ((w.link l).held h.vc) b = true := hshape
    rw [if_neg (by simp [hmal, hshape']), if_pos (by simp [hlast])]
    exact ⟨_, rfl, hmoved _ _ ((Link.taken_took k l h _ k.discarded).sends (Link.header_sends ..))⟩
  · rw [World.receive_of_takes (htakes.1 ht)]
    dsimp only
    have hshape' : h.shape ((w.link l).held h.vc) b = true := hshape
    rw [if_neg (by simp [hmal, hshape']), if_neg (by simp [hlast])]
    refine ⟨_, rfl, hmoved _ _ ?_⟩
    refine Link.Took.sends ?_ (Link.header_sends ..)
    cases keep
    · exact (Link.taken_took k l h _ k.discarded).sends (Link.free_sends ..)
    · exact Link.taken_took k l h _ k.discarded

end Sys2Proof.Machine

/-! PROOFS. A link that is neither UP nor in IDENTIFY stays as it is, whatever the collectives, windows and checkpoints send. -/
namespace Sys2Proof.Machine

/-- Links that send nothing are as before, and so are the ranks held lost. -/
structure World.Calm (w u : World) : Prop where
  link : ∀ l, (w.link l).st ≠ .up → (w.link l).st ≠ .identify → u.link l = w.link l
  lost : u.seam.lost = w.seam.lost
  ownLost : u.seam.ownLost = w.seam.ownLost

namespace World.Calm

theorem refl (w : World) : w.Calm w := ⟨fun _ _ _ => rfl, rfl, rfl⟩

theorem trans {w u v : World} (a : w.Calm u) (b : u.Calm v) : w.Calm v := by
  refine ⟨fun l hup hid => ?_, b.lost.trans a.lost, b.ownLost.trans a.ownLost⟩
  have h := a.link l hup hid
  rw [b.link l (by rwa [h]) (by rwa [h]), h]

theorem foldl {α : Type} {f : World → α → World} (h : ∀ (w : World) (x : α), w.Calm (f w x)) : ∀ (l : List α) (w : World), w.Calm (l.foldl f w)
  | [], w => .refl w
  | x :: l, w => (h w x).trans (foldl h l (f w x))

theorem ite {w u v : World} {p : Prop} [Decidable p] (a : w.Calm u) (b : w.Calm v) : w.Calm (if p then u else v) := by
  split
  · exact a
  · exact b

end World.Calm

theorem World.calm_of_same {w u : World} (hlinks : u.links = w.links) (hlost : u.seam.lost = w.seam.lost) (hown : u.seam.ownLost = w.seam.ownLost) :
    w.Calm u :=
  ⟨fun l _ _ => by rw [World.link, World.link, hlinks], hlost, hown⟩

theorem World.OnlyRead.calm {w u : World} (h : w.OnlyRead u) : w.Calm u := by
  rw [h.rest]
  exact World.calm_of_same rfl rfl rfl

theorem World.Wrote.calm {w u : World} {bs : List BitWrite} (h : w.Wrote u bs) : w.Calm u := by
  rw [h.rest]
  exact World.calm_of_same rfl rfl rfl

theorem World.setCore_calm (w : World) (c : Nat) (k : Core) : w.Calm (w.setCore c k) := World.calm_of_same rfl rfl rfl
theorem World.setCtx_calm (w : World) (n : Nat) (x : Ctx) : w.Calm (w.setCtx n x) := World.calm_of_same rfl rfl rfl
theorem World.setGroup_calm (w : World) (g : Nat) (x : Group) : w.Calm (w.setGroup g x) := World.calm_of_same rfl rfl rfl
theorem World.setColls_calm (w : World) (colls : List Coll) : w.Calm { w with colls } := World.calm_of_same rfl rfl rfl
theorem World.setCollCtr_calm (w : World) (collCtr : CollCtr) : w.Calm { w with collCtr } := World.calm_of_same rfl rfl rfl
theorem World.setBuddy_calm (w : World) (buddy : Buddy) : w.Calm { w with buddy } := World.calm_of_same rfl rfl rfl
theorem World.setFree_calm (w : World) (free : Nat) : w.Calm { w with free } := World.calm_of_same rfl rfl rfl

theorem World.setLink_calm (w : World) (l : Nat) (k : Link) (h : (w.link l).st = .up ∨ (w.link l).st = .identify) : w.Calm (w.setLink l k) := by
  refine ⟨fun i hup hid => ?_, rfl, rfl⟩
  by_cases hi : i = l
  · rw [hi] at hup hid
    exact h.elim (absurd · hup) (absurd · hid)
  · rw [World.link_setLink_ne _ _ hi]

/-- A link that is neither UP nor in IDENTIFY sends nothing. -/
theorem World.sendLink_closed {w : World} {l : Nat} (hup : (w.link l).st ≠ .up) (hid : (w.link l).st ≠ .identify) (dst : Nat) (b : FrameBody) :
    w.sendLink l dst b = w := by
  unfold World.sendLink
  dsimp only
  rw [beq_eq_false_iff_ne.2 hup, beq_eq_false_iff_ne.2 hid, Bool.false_or, Bool.false_and, Bool.false_and]
  rfl

theorem World.sendLink_calm (w : World) (l dst : Nat) (b : FrameBody) : w.Calm (w.sendLink l dst b) := by
  by_cases hup : (w.link l).st = .up
  · exact .ite (World.setLink_calm _ _ _ (.inl hup)) (.refl w)
  by_cases hid : (w.link l).st = .identify
  · exact .ite (World.setLink_calm _ _ _ (.inr hid)) (.refl w)
  rw [World.sendLink_closed hup hid]
  exact .refl w

theorem World.sendRank_calm (w : World) (rank : Nat) (b : FrameBody) : w.Calm (w.sendRank rank b) := by
  unfold World.sendRank
  split
  · exact World.sendLink_calm ..
  · exact .refl w

theorem World.event_calm (w : World) (code idx sub die : Nat) (ctx : Option Nat) (st : Nat) (p : List Byte) :
    w.Calm (w.event code idx sub die ctx st p) := by
  rw [World.event_frame]
  exact World.calm_of_same rfl rfl rfl

theorem World.raise_calm (w : World) (cls unit status inst : Nat) (ctx : Option Nat) (die addr : Nat) (detail : List Byte) (peer : Bool) :
    w.Calm (w.raise cls unit status inst ctx die addr detail peer) := by
  rw [World.raise_frame]
  exact World.calm_of_same rfl rfl rfl

theorem World.wake_calm (w : World) (k : Nat) : w.Calm (w.wake k) := by
  rw [World.wake_only]
  exact World.calm_of_same rfl rfl rfl

theorem World.meetBus_calm (w : World) (n : Option Nat) (l : List Nat) : w.Calm (w.meetBus n l) := by
  obtain ⟨_, _, _, _, _, h⟩ := World.meetBus_frame w n l
  rw [h]
  exact World.calm_of_same rfl rfl rfl

theorem World.writeCore_calm (w : World) (c : Nat) (n : Option Nat) (m : CoreMem) (bs : List BitWrite) : w.Calm (w.writeCore c n m bs) :=
  .ite (.refl w) ((World.touch_touched ..).only.calm.trans (World.setCore_calm ..))

theorem World.writeSpace_calm (w : World) (e : Env) (pages : List (Nat × Nat)) (space : Nat) (bs : List BitWrite) : w.Calm (w.writeSpace e pages space bs) := by
  unfold World.writeSpace
  exact .ite (.refl w) (.ite ((World.meetBus_calm ..).trans (World.writeHbm_wrote ..).calm) (World.writeCore_calm ..))

/-! ## Windows -/

theorem World.discardWrite_calm (w : World) (l src : Nat) (x : WinWrite) (st : Nat) : w.Calm (w.discardWrite l src x st) :=
  ((World.setCore_calm ..).trans (World.sendLink_calm ..)).trans (World.event_calm ..)

theorem World.reclaimWin_calm (w : World) (c i : Nat) : w.Calm (w.reclaimWin c i) := by
  unfold World.reclaimWin
  dsimp only
  split
  · exact .refl w
  · exact (World.setCore_calm ..).trans (World.event_calm ..)

theorem World.answerStore_calm (w : World) (x : SentWrite) (st : Nat) : w.Calm (w.answerStore x st) := World.calm_of_same rfl rfl rfl

theorem World.dropWindows_calm (w : World) (rank : Nat) (l : Option Nat) : w.Calm (w.dropWindows rank l) := by
  unfold World.dropWindows
  refine World.Calm.trans ?_ (.foldl (fun w x => World.answerStore_calm ..) _ _)
  exact World.calm_of_same rfl rfl rfl

theorem World.reclaimFrom_calm (w : World) (rank : Nat) (l : Option Nat) : w.Calm (w.reclaimFrom rank l) :=
  .foldl (fun w _ => .foldl (fun w _ => .ite (World.reclaimWin_calm ..) (.refl w)) _ w) _ w

theorem World.dropParked_calm (w : World) (p : Parked → Bool) : w.Calm (w.dropParked p) := by
  unfold World.dropParked
  refine World.Calm.trans (u := { w with seam := { w.seam with parked := w.seam.parked.filter fun x => !p x } }) ?_ (.foldl (fun w x => ?_) _ _)
  · exact World.calm_of_same rfl rfl rfl
  · dsimp only
    refine World.Calm.trans ?_ (World.discardWrite_calm ..)
    split
    · next h => exact World.setLink_calm _ _ _ (.inl h)
    · exact .refl w

/-! ## Collectives -/

theorem World.putColl_calm (w : World) (c : Coll) : w.Calm (w.putColl c) := by
  unfold World.putColl
  exact (World.setColls_calm ..).trans (.foldl (fun w _ => World.setGroup_calm ..) _ _)

theorem World.sendColl_calm (w : World) (g seq pos : Nat) (m : CollMsg) (up : Bool) : w.Calm (w.sendColl g seq pos m up) := by
  unfold World.sendColl
  dsimp only
  split
  · exact (World.putColl_calm ..).trans (World.sendRank_calm ..)
  · exact .refl w

theorem World.sendUp_calm (w : World) (g seq : Nat) (h : CollMsg) (pos : Nat) (v : NodeVal) : w.Calm (w.sendUp g seq h pos v) :=
  .foldl (fun w _ => World.sendColl_calm w ..) _ w

theorem World.digestDone_calm (w : World) (n g st : Nat) (present : List (Nat × List Byte)) (ran : Bool) : w.Calm (w.digestDone n g st present ran) := by
  unfold World.digestDone
  dsimp only
  split
  · exact (World.setCtx_calm ..).trans (.trans (.ite (World.setBuddy_calm ..) (.refl _)) (World.raise_calm ..))
  · exact (World.setCtx_calm ..).trans (.ite (World.setBuddy_calm ..) (.refl _))

theorem World.digestEnd_calm (w : World) (c : Coll) (st : Nat) : w.Calm (w.digestEnd c st) := by
  unfold World.digestEnd
  split
  · exact .ite (World.digestDone_calm ..) (.refl w)
  · exact .refl w

theorem World.wakeColls_calm (w : World) : w.Calm w.wakeColls := by
  unfold World.wakeColls
  refine .foldl (fun w x => ?_) _ w
  split
  · exact .ite (World.wake_calm ..) (.refl w)
  · exact .refl w

theorem World.collFinish_calm (w : World) (c : Coll) (st : Nat) (block ended : Bool) : w.Calm (w.collFinish c st block ended) := by
  unfold World.collFinish
  dsimp only
  refine World.Calm.trans ?_ (World.wakeColls_calm _)
  refine World.Calm.trans ?_ (World.putColl_calm _ _)
  refine World.Calm.trans ?_ (.ite (World.setCollCtr_calm _ _) (.refl _))
  refine World.Calm.trans ?_ (World.setGroup_calm _ _ _)
  split
  · exact (World.Calm.ite (World.writeCore_calm ..) (.refl w)).trans (World.setCore_calm ..)
  · exact .refl w

theorem World.collStore_calm (w : World) (res : Tab Resid) (c : Coll) (m : CollMsg) (vals : CollVals) : w.Calm (w.collStore res c m vals) := by
  unfold World.collStore
  dsimp only
  split
  · refine .ite (.refl w) ?_
    generalize hu : w.writeSpace _ _ _ _ = u
    have hwrite : w.Calm u := hu ▸ World.writeSpace_calm ..
    refine .ite (hwrite.trans ?_) hwrite
    refine World.Calm.trans ?_ (World.putColl_calm _ _)
    exact World.calm_of_same rfl rfl rfl
  · exact .refl w

theorem World.collClose_calm (w : World) (res : Tab Resid) (c : Coll) (m : CollMsg) (ended : Bool) : w.Calm (w.collClose res c m ended) := by
  unfold World.collClose
  dsimp only
  split
  · refine World.Calm.trans ?_ (World.collFinish_calm ..)
    exact (World.Calm.ite (World.raise_calm ..) (.refl w)).trans ((World.digestEnd_calm ..).trans (.ite (World.setCollCtr_calm ..) (.refl _)))
  · exact World.collFinish_calm ..

theorem World.collTake_calm (w : World) (res : Tab Resid) (g seq level node : Nat) (m : CollMsg) (mask : List Nat) (failed : Bool) (vals : CollVals) :
    w.Calm (w.collTake res g seq level node m mask failed vals) := by
  unfold World.collTake
  split
  · exact .refl w
  · dsimp only
    refine .ite (World.putColl_calm ..) ?_
    have hstored : ∀ c, w.Calm (if failed then w.putColl c else (w.putColl c).collStore res c m (vals.filter fun x => inCover m (w.group g).members.length [(w.ownPos g).getD 0] x.1)) :=
      fun c => .ite (World.putColl_calm ..) ((World.putColl_calm ..).trans (World.collStore_calm ..))
    exact .ite ((hstored _).trans (World.collClose_calm ..)) (hstored _)

theorem World.sendDown_calm (w : World) (g seq : Nat) (h : CollMsg) (mask : List Nat) (failed first : Bool) (vals : CollVals) (t : Nat × Nat) :
    w.Calm (w.sendDown g seq h mask failed first vals t) := by
  unfold World.sendDown
  dsimp only
  split
  · exact .refl w
  · refine .foldl (fun w x => ?_) _ w
    split
    · exact (World.putColl_calm ..).trans (World.sendColl_calm ..)
    · exact .refl w

theorem World.resultAt_calm (w : World) (res : Tab Resid) (g seq level node : Nat) (h : CollMsg) (mask : List Nat) (failed first : Bool) (vals : CollVals) :
    w.Calm (w.resultAt res g seq level node h mask failed first vals) :=
  ((World.setFree_calm ..).trans (.foldl (fun w _ => World.sendDown_calm w ..) _ _)).trans (World.collTake_calm ..)

theorem World.offer_calm (res : Tab Resid) : ∀ (fuel : Nat) (w : World) (g seq : Nat) (v : NodeVal), w.Calm (World.offer res fuel w g seq v)
  | 0, w, _, _, _ => .refl w
  | fuel + 1, w, g, seq, v => by
    have ih := World.offer_calm res fuel
    unfold World.offer
    split
    · exact .refl w
    split
    · exact .refl w
    dsimp only
    refine .ite (World.resultAt_calm ..) ?_
    split
    · split
      · exact World.sendUp_calm ..
      · exact .refl w
    refine .ite (World.setCollCtr_calm ..) ?_
    generalize hu : w.putColl _ = u
    refine (show w.Calm u from hu ▸ World.putColl_calm ..).trans ?_
    split
    · exact ih ..
    · exact ih ..
    · exact ih ..
    · exact .ite (ih ..) (.refl _)

theorem World.settleNode_calm (w : World) (res : Tab Resid) (g seq level node : Nat) : w.Calm (w.settleNode res g seq level node) := by
  unfold World.settleNode
  split
  · exact .refl w
  · refine .ite (.refl w) ?_
    dsimp only
    split
    · exact World.offer_calm ..
    · exact World.offer_calm ..
    · exact .refl w

theorem World.sendLeaf_calm (w : World) (res : Tab Resid) (g seq k : Nat) (h : CollMsg) (v : NodeVal) : w.Calm (w.sendLeaf res g seq k h v) := by
  unfold World.sendLeaf
  refine .ite ?_ (World.offer_calm ..)
  split
  · exact .ite (World.offer_calm ..) (World.sendUp_calm ..)
  · exact .refl w

theorem World.settleSource_calm (w : World) (res : Tab Resid) (g seq : Nat) : w.Calm (w.settleSource res g seq) := by
  unfold World.settleSource
  split
  · exact .refl w
  split
  · exact .refl w
  · exact .ite (World.resultAt_calm ..) (.refl w)

theorem World.collLost_calm (w before : World) (res : Tab Resid) (k : Nat) (c : Coll) : w.Calm (w.collLost before res k c) := by
  unfold World.collLost
  dsimp only
  split
  · exact .refl w
  · generalize hagain : List.foldl _ _ (List.filter _ (Coll.sentDown _)) = x
    have hx : w.Calm x := by
      rw [← hagain]
      refine World.Calm.trans ?_ (.foldl (fun w m => ?_) _ _)
      · exact World.Calm.trans (World.putColl_calm w _) (.ite (.refl _) (World.setCollCtr_calm _ _))
      · split
        · exact World.sendColl_calm ..
        · exact .refl w
    refine hx.trans (.ite (.refl x) ?_)
    refine World.Calm.trans ?_ (World.settleSource_calm _ _ _ _)
    refine World.Calm.trans ?_ (.foldl (fun w l => World.settleNode_calm w ..) _ _)
    refine .ite ?_ (.refl x)
    split
    · refine .ite (.refl x) (.ite ?_ (World.sendLeaf_calm ..))
      exact (World.putColl_calm ..).trans (World.settleNode_calm ..)
    · exact .refl x

theorem World.collUpdate_calm (w before : World) (res : Tab Resid) : w.Calm (w.collUpdate before res) := by
  unfold World.collUpdate
  refine .ite (.refl w) (.foldl (fun w c => .foldl (fun w m => ?_) _ w) _ w)
  split
  · exact World.collLost_calm ..
  · exact .refl w

/-! ## Checkpoints -/

theorem World.ckptSend_calm (w : World) (rank i op : Nat) (k : CkptHdr) (data : List Byte) : w.Calm (w.ckptSend rank i op k data) := by
  unfold World.ckptSend
  dsimp only
  split
  · exact World.sendLink_calm ..
  · exact .refl w

theorem World.setHbm_calm (w : World) (hbm : Hbm) : w.Calm { w with hbm } := World.calm_of_same rfl rfl rfl

theorem World.readRange_calm (w : World) (n : Option Nat) (lo k : Nat) : w.Calm (w.readRange n lo k) := by
  unfold World.readRange World.countHbm
  refine World.Calm.trans (.foldl (fun w b => (World.onlyRead_touchBlock w n b).calm) _ w) (.foldl (fun w _ => ?_) _ _)
  exact World.setHbm_calm ..

theorem World.ckptPiece_calm (w : World) (base rank ctx step : Nat) (p : CkPiece) : w.Calm (w.ckptPiece base rank ctx step p) :=
  ((World.meetBus_calm ..).trans (World.readRange_calm ..)).trans (World.ckptSend_calm ..)

theorem World.ckptAgain_calm (w : World) (n : Nat) : w.Calm (w.ckptAgain n) := by
  unfold World.ckptAgain
  exact .ite (World.ckptSend_calm ..) (.ite (.ite (.foldl (fun w _ => World.ckptPiece_calm w ..) _ w) (World.ckptSend_calm ..)) (.refl w))

theorem World.ckptAbandon_calm (w : World) (n : Nat) : w.Calm (w.ckptAbandon n) := by
  unfold World.ckptAbandon
  exact .ite ((World.setCtx_calm ..).trans (.foldl (fun w _ => World.setCore_calm ..) _ _)) (.refl w)

theorem State.pullLost_calm (s : State) (rank : Nat) : s.w.Calm (s.pullLost rank).w := by
  unfold State.pullLost
  generalize List.map _ _ = l
  induction l generalizing s with
  | nil => exact .refl _
  | cons n l ih => exact World.Calm.trans (World.setCtx_calm ..) (ih (s.pullFail n stTimeout))

theorem State.ckptLinkDown_calm (s : State) (rank : Nat) : s.w.Calm (s.ckptLinkDown rank).w := by
  unfold State.ckptLinkDown
  dsimp only
  split
  · exact (s.pullLost_calm rank).trans (.foldl (fun w _ => World.ckptAgain_calm w _) _ _)
  · exact s.pullLost_calm rank

theorem State.ckptLost_calm (s : State) (rank : Nat) : s.w.Calm (s.ckptLost rank).w := by
  unfold State.ckptLost
  dsimp only
  refine World.Calm.trans ?_ (State.pullLost_calm _ rank)
  have habandon : s.w.Calm (if s.w.buddy.buddy = rank then (s.w.ctxs.map (·.1)).foldl (fun w n => w.ckptAbandon n) s.w else s.w) :=
    .ite (.foldl (fun w n => World.ckptAbandon_calm w n) _ _) (.refl _)
  generalize (if s.w.buddy.buddy = rank then (s.w.ctxs.map (·.1)).foldl (fun w n => w.ckptAbandon n) s.w else s.w) = u at habandon ⊢
  generalize hin : (if u.isWard rank = true then _ else u) = v
  have hv : u.Calm v := hin ▸ .ite (World.setBuddy_calm ..) (.refl u)
  refine habandon.trans (hv.trans ?_)
  split
  · exact .ite (World.setBuddy_calm ..) (.refl v)
  · exact .refl v

end Sys2Proof.Machine

/-! PROOFS. Links by themselves, and the frames for the link itself (R335–R345). -/
namespace Sys2Proof.Machine

/-! ## A rank lost, a link down (R335, R341) -/

/-- The links, and what is held lost, are as before. -/
def World.SameLinks (w u : World) : Prop := u.links = w.links ∧ u.seam.lost = w.seam.lost ∧ u.seam.ownLost = w.seam.ownLost

theorem World.SameLinks.trans {w u v : World} (a : w.SameLinks u) (b : u.SameLinks v) : w.SameLinks v :=
  ⟨b.1.trans a.1, b.2.1.trans a.2.1, b.2.2.trans a.2.2⟩

theorem World.SameLinks.calm {w u : World} (h : w.SameLinks u) : w.Calm u := World.calm_of_same h.1 h.2.1 h.2.2

theorem State.Logged.sameLinks {s t : State} (h : s.Logged t) : s.w.SameLinks t.w := by
  obtain ⟨_, _, _, _, rfl⟩ := h
  exact ⟨rfl, rfl, rfl⟩

theorem State.partTo_sameLinks (s : State) (p : PartSt) : s.w.SameLinks (s.partTo p).w := by
  obtain ⟨_, _, h⟩ := State.partTo_frame s p
  rw [h]
  exact ⟨rfl, rfl, rfl⟩

theorem State.enterReady_sameLinks (s : State) : s.w.SameLinks s.enterReady.w := by
  unfold State.enterReady
  refine World.SameLinks.trans ?_ (State.partTo_sameLinks _ _)
  exact ⟨rfl, rfl, rfl⟩

theorem State.enterMismatch_sameLinks (s : State) (bad : List Nat) : s.w.SameLinks (s.enterMismatch bad).w := by
  unfold State.enterMismatch
  dsimp only
  refine World.SameLinks.trans ?_ (State.partTo_sameLinks _ _)
  exact (State.Logged.foldl (fun s l => s.raiseLogged_logged ..) _ _).sameLinks

theorem State.compare_sameLinks (s : State) (deadline : Bool) : s.w.SameLinks (s.compare deadline).w := by
  have hready : ∀ t : State, t.w = s.w → s.w.SameLinks t.enterReady.w := fun t h => h ▸ State.enterReady_sameLinks t
  have hmismatch : ∀ (t : State) (bad : List Nat), t.w = s.w → s.w.SameLinks (t.enterMismatch bad).w := fun t bad h =>
    h ▸ State.enterMismatch_sameLinks t bad
  have hself : s.w.SameLinks s.w := ⟨rfl, rfl, rfl⟩
  unfold State.compare
  dsimp only
  split
  · split
    · exact hself
    split
    · exact hready _ rfl
    split
    · exact hmismatch _ _ rfl
    · exact hself
  · split
    · exact hready _ rfl
    · exact hself
  · exact hself

/-- A rank held lost: links that send nothing stay, and what is reported of this part's own rank. -/
theorem State.markLost_holds (s : State) (before : World) (rank l reporter : Nat) (from_ : Option Nat) :
    let u := (s.markLost before rank l reporter from_).w
    (∀ i, (s.w.link i).st ≠ .up → (s.w.link i).st ≠ .identify → u.link i = s.w.link i) ∧ rank ∈ u.seam.lost ∧ u.seam.ownLost = s.w.seam.ownLost := by
  unfold State.markLost
  split
  · next h => exact ⟨fun _ _ _ => rfl, h, rfl⟩
  · dsimp only
    generalize hv : ({ s.w with seam := { s.w.seam with lost := insertNat rank s.w.seam.lost } } : World) = v
    have hlost : rank ∈ v.seam.lost := by
      rw [← hv]
      exact mem_insertNat.2 (.inl rfl)
    have hsame : (∀ i, v.link i = s.w.link i) ∧ v.seam.ownLost = s.w.seam.ownLost := by
      rw [← hv]
      exact ⟨fun _ => rfl, rfl⟩
    generalize hx : ((World.dropWindows _ _ _).reclaimFrom _ _).dropParked _ = x
    have hcalm : v.Calm x := by
      rw [← hx]
      refine World.Calm.trans ?_ (((World.dropWindows_calm _ _ _).trans (World.reclaimFrom_calm _ _ _)).trans (World.dropParked_calm _ _))
      refine World.Calm.trans ?_ (.foldl (fun w i => .ite (World.sendLink_calm ..) (.refl w)) _ _)
      refine World.Calm.trans ((World.event_calm ..).trans (World.raise_calm ..)) (World.setFree_calm _ _)
    have hend : v.Calm ((s.withW (x.collUpdate before s.res)).ckptLost rank).w :=
      (hcalm.trans (World.collUpdate_calm ..)).trans (State.ckptLost_calm (s.withW (x.collUpdate before s.res)) rank)
    generalize ((s.withW (x.collUpdate before s.res)).ckptLost rank).w = u at hend ⊢
    refine ⟨fun i hup hid => ?_, by rw [hend.lost]; exact hlost, hend.ownLost.trans hsame.2⟩
    rw [hend.link i (by rwa [hsame.1]) (by rwa [hsame.1]), hsame.1]

theorem World.routeLink_up {w : World} {rank i : Nat} (h : w.routeLink rank = some i) : (w.link i).st = .up := by
  unfold World.routeLink at h
  split at h
  · next l ls hl =>
    cases h
    have := List.mem_filter.1 (hl ▸ List.mem_cons_self : i ∈ w.directLinks rank)
    rw [Bool.and_eq_true, beq_iff_eq] at this
    exact this.2.1
  · have := List.find?_some h
    simpa using (Bool.and_eq_true_iff.1 this).2

theorem World.reroute_calm (w : World) (ms : List TxMsg) : w.Calm (w.reroute ms) := by
  unfold World.reroute
  refine .foldl (fun w m => ?_) _ w
  refine .ite (.refl w) ?_
  split
  · next i hi => exact .ite (World.setLink_calm _ _ _ (.inl (World.routeLink_up hi))) (.refl w)
  · exact .refl w

/-- A link down (R335): nothing in flight on it stays, and it waits for a signal. -/
theorem State.linkDown_link {s : State} {l : Nat} (hup : (s.w.link l).st = .up) :
    ((s.linkDown l).w.link l).st = .waitSignal ∧ ((s.linkDown l).w.link l).downs = ((s.w.link l).downs + 1) % 2 ^ 32 ∧
      ((s.linkDown l).w.link l).replay = [] := by
  generalize hk : ({ (s.w.link l).silent with downs := bump 32 (s.w.link l).downs 1 } : Link) = k
  have hshape : k.st = .waitSignal ∧ k.downs = ((s.w.link l).downs + 1) % 2 ^ 32 ∧ k.replay = [] := by
    rw [← hk]
    refine ⟨?_, rfl, rfl⟩
    exact if_neg (by rw [hup]; decide)
  suffices h : (s.linkDown l).w.link l = k by
    rw [h]
    exact hshape
  unfold State.linkDown
  dsimp only
  rw [hk]
  have hset : (s.w.setLink l k).link l = k := World.link_setLink ..
  have hkeep : ∀ {v u : World}, v.Calm u → v.link l = k → u.link l = k := fun hc hv => by
    rw [hc.link l (by rw [hv, hshape.1]; decide) (by rw [hv, hshape.1]; decide), hv]
  refine hkeep (State.compare_sameLinks _ _).calm ?_
  refine hkeep (World.reroute_calm _ _) ?_
  generalize hx : ((World.dropWindows _ _ _).reclaimFrom _ _).dropParked _ = x
  have hcalm : x.link l = k := by
    rw [← hx]
    exact hkeep (((World.event_calm ..).trans (World.dropWindows_calm ..)).trans ((World.reclaimFrom_calm ..).trans (World.dropParked_calm ..))) hset
  split
  · rw [(State.markLost_holds (s.withW x) s.w _ l _ none).1 l]
    · exact hcalm
    · change (x.link l).st ≠ .up
      rw [hcalm, hshape.1]
      decide
    · change (x.link l).st ≠ .identify
      rw [hcalm, hshape.1]
      decide
  · refine hkeep (State.ckptLinkDown_calm (s.withW (x.collUpdate s.w s.res)) _) ?_
    exact hkeep (World.collUpdate_calm x s.w s.res) hcalm

/-! ## Links by themselves (R335, R338, R340, R345) -/

/-- What a link to a lost rank carries too goes out on an UP link. -/
theorem World.sendLink_up {w : World} {l : Nat} (hup : (w.link l).st = .up) {b : FrameBody} (hb : b.toLost = true) (dst : Nat) :
    w.sendLink l dst b = w.setLink l ((w.link l).post dst w.seam.rank b) := by
  unfold World.sendLink
  dsimp only
  rw [hup, hb]
  rfl

theorem World.sendLink_ident {w : World} {l : Nat} (hid : (w.link l).st = .identify) (dst identity rank peer variant : Nat) :
    w.sendLink l dst (.ident identity rank peer variant) =
      w.setLink l ((w.link l).post dst w.seam.rank (.ident identity rank peer variant)) := by
  unfold World.sendLink
  dsimp only
  rw [hid]
  rfl

/-- A link put into IDENTIFY sends its IDENT (R335, R345). -/
theorem State.sendIdent_of_set (s : State) (l : Nat) {k : Link} (hid : k.st = .identify) :
    (s.withW (s.w.setLink l k)).sendIdent l =
      s.w.setLink l (k.post 0xFFFF s.w.seam.rank (.ident s.otp.identity s.topoRank l s.ctl.sec.variant)) := by
  have hset : (s.w.setLink l k).link l = k := World.link_setLink ..
  refine (World.sendLink_ident ((congrArg Link.st hset).trans hid) ..).trans ?_
  rw [World.setLink_setLink]
  exact congrArg (fun x => s.w.setLink l (Link.post x 0xFFFF s.w.seam.rank _)) hset

theorem nth_lt {l : List Nat} {n : Nat} (h : ∀ x ∈ l, x < n) (hn : 0 < n) (i : Nat) : nth l i < n := by
  rw [nth, List.getD_eq_getElem?_getD]
  cases hi : l[i]? with
  | none => exact hn
  | some x => exact h x (List.mem_of_getElem? hi)

/-- A replay of frames of which each has gone out fewer than 15 times leaves the link UP (R338). -/
theorem Link.replayFrom_holds {k : Link} (h : ∀ m ∈ k.replay, ∀ n ∈ m.tries, n < 15) (seq : Nat) :
    (k.replayFrom seq).2 = false ∧ (k.replayFrom seq).1.st = k.st ∧ (k.replayFrom seq).1.txSeq = k.txSeq ∧
      (k.replayFrom seq).1.replay.map (fun x => (x.seq, x.body)) = k.replay.map (fun x => (x.seq, x.body)) := by
  refine ⟨?_, rfl, rfl, ?_⟩
  · unfold Link.replayFrom
    dsimp only
    rw [List.any_eq_false]
    intro y hy
    obtain ⟨m, hm, rfl⟩ := List.mem_map.1 hy
    rw [Bool.not_eq_true, List.any_eq_false]
    intro n hn
    obtain ⟨j, _, rfl⟩ := List.mem_map.1 (List.mem_of_mem_drop hn)
    have hlt := nth_lt (h m hm) (by decide) j
    rw [decide_eq_true_iff]
    split <;> omega
  · unfold Link.replayFrom
    dsimp only
    rw [List.map_map]
    rfl

/-- Settles O46. -/
theorem linkEventsComplete : Obligations.LinkEventsComplete := by
  unfold Obligations.LinkEventsComplete
  intro s l age k ident
  refine ⟨fun hon hst => if_pos ⟨hon, hst⟩, fun hon hst => ?_, fun hon hst => ?_, fun hon hst => ?_, fun hup => ⟨⟨_, if_pos hup, ?_⟩, fun hage => ⟨_, if_pos ⟨hup, hage⟩, ?_⟩, ?_, ?_, fun m ms hm htries => ?_⟩⟩
  · have hexec : exec (.linkTrained l) s = execLinkTrained l s := rfl
    rw [hexec, execLinkTrained, if_pos ⟨hon, hst⟩]
    exact congrArg (fun w => Host.Outcome.next (s.withW w)) (State.sendIdent_of_set s l (k := { k with st := .identify }) rfl)
  · have hexec : exec (.linkTrainTimeout l) s = execLinkTrainTimeout l s := rfl
    rw [hexec, execLinkTrainTimeout]
    dsimp only
    rw [if_pos ⟨hon, hst⟩]
    generalize hk : ({ (s.w.link l).silent with attempts := _, tries := _, st := _ } : Link) = k'
    have hset : (s.w.setLink l k').link l = k' := World.link_setLink ..
    have hothers : ∀ i, i ≠ (l : Nat) → (s.w.setLink l k').link i = s.w.link i := fun i hi => World.link_setLink_ne _ _ hi
    have hevent : ∀ (p : Prop) [Decidable p] i, (if p then (s.w.setLink l k').linkEvent l else s.w.setLink l k').link i = (s.w.setLink l k').link i := by
      intro p _ i
      split <;> rfl
    refine ⟨_, rfl, rfl, ?_, ?_, ?_, fun i hi => (hevent ..).trans (hothers i hi)⟩
    · refine (congrArg Link.st ((hevent ..).trans hset)).trans ?_
      rw [← hk]
      dsimp only [k]
      by_cases htwo : 2 ≤ (s.w.link l).tries
      · rw [if_pos htwo, if_pos (by omega)]
      · rw [if_neg htwo, if_neg (by omega)]
    · refine (congrArg Link.tries ((hevent ..).trans hset)).trans ?_
      rw [← hk]
    · refine (congrArg Link.attempts ((hevent ..).trans hset)).trans ?_
      rw [← hk]
      rfl
  · have hexec : exec (.identSend l) s = execIdentSend l s := rfl
    rw [hexec, execIdentSend, if_pos ⟨hon, hst⟩, State.sendIdent, World.sendLink_ident hst]
  · obtain ⟨hwait, hdowns, hreplay⟩ := State.linkDown_link hup
    exact ⟨hwait, hdowns, hreplay, State.linkDown_otp .., congrArg Kept.table (State.linkDown_kept s l)⟩
  · obtain ⟨hwait, hdowns, hreplay⟩ := State.linkDown_link hup
    exact ⟨hwait, hdowns, State.linkDown_otp .., congrArg Kept.table (State.linkDown_kept s l)⟩
  · have hexec : exec (.heartbeatSend l) s = execHeartbeatSend l s := rfl
    rw [hexec, execHeartbeatSend, if_pos hup, World.sendLink_up hup rfl]
  · have hexec : exec (.ackSend l) s = execAckSend l s := rfl
    rw [hexec, execAckSend, if_pos hup, World.sendLink_up hup rfl]
  · obtain ⟨hstays, hst, htx, hmsgs⟩ := Link.replayFrom_holds htries (m.seq + m.acked)
    have hexec : exec (.replayTimeout l) s = .next (s.withW (s.w.setLink l ((s.w.link l).replayFrom (m.seq + m.acked)).1)) := by
      have hup' : (s.w.link l).st = .up := hup
      have hm' : (s.w.link l).replay = m :: ms := hm
      change execReplayTimeout l s = _
      rw [execReplayTimeout, hup', hm']
      dsimp only
      rw [State.replay, hstays]
      rfl
    have hset : (s.w.setLink l ((s.w.link l).replayFrom (m.seq + m.acked)).1).link l = _ := World.link_setLink ..
    exact ⟨_, hexec, rfl, (congrArg Link.st hset).trans (hst.trans hup), (congrArg (fun k => k.replay.map (fun x => (x.seq, x.body))) hset).trans hmsgs,
      (congrArg Link.txSeq hset).trans htx⟩

/-! ## Frames for the link itself (R335, R337, R338, R341, R343, R345) -/

/-- A message that a link accepts changes nothing but the link, which counts it. -/
theorem World.receive_ok {w u : World} {l : Nat} {h : SeamHdr} {b : FrameBody} {keep : Bool} (hok : w.receive l h b keep = .ok u) :
    ∃ k, u = w.setLink l k ∧ (w.link l).Took k h (w.link l).discarded := by
  by_cases ht : (w.link l).takesMsg h b
  · rw [World.receive_of_takes ht] at hok
    dsimp only at hok
    split at hok
    · cases hok
    split at hok
    · cases hok
    · cases hok
      refine ⟨_, rfl, ?_⟩
      refine Link.Took.sends ?_ (Link.header_sends ..)
      cases keep
      · exact (Link.taken_took _ l h _ (w.link l).discarded).sends (Link.free_sends ..)
      · exact Link.taken_took _ l h _ (w.link l).discarded
  · rw [World.receive_of_not_takes ht] at hok
    cases hok

theorem World.mine_of_receive {w u : World} {l : Nat} {h : SeamHdr} {b : FrameBody} {keep : Bool} (hok : w.receive l h b keep = .ok u) (g : SeamHdr) :
    u.mine g = w.mine g := by
  obtain ⟨k, rfl, _⟩ := World.receive_ok hok
  rfl

theorem State.linkIn_mine {s : State} {l : Nat} {h : SeamHdr} {b : FrameBody} {w : World} (hmine : s.w.mine h = true)
    (hok : s.w.receive l h b false = .ok w) (f : World → State) : s.linkIn l h b f = .next (f w) := by
  rw [State.linkIn, hok]
  exact if_pos ((World.mine_of_receive hok h).trans hmine)

theorem State.linkIn_other {s : State} {l : Nat} {h : SeamHdr} {b : FrameBody} {w : World} (hmine : s.w.mine h = false)
    (hok : s.w.receive l h b false = .ok w) (f : World → State) :
    s.linkIn l h b f = .next (s.withW (w.setLink l { w.link l with discarded := ((w.link l).discarded + h.frames) % 2 ^ 64 })) := by
  rw [State.linkIn, hok]
  exact if_neg (by rw [World.mine_of_receive hok h, hmine]; decide)

/-- Settles O47. -/
theorem linkFramesComplete : Obligations.LinkFramesComplete := by
  unfold Obligations.LinkFramesComplete
  intro s l h w k
  refine ⟨?_,
    fun hmine => ⟨fun hok => State.linkIn_other hmine hok _, fun seq hok => State.linkIn_other hmine hok _,
      fun rank st peer hok => State.linkIn_other hmine hok _, fun id rank peer variant hok => State.linkIn_other hmine hok _,
      fun rank reporter hok => State.linkIn_other hmine hok _⟩,
    fun hmine hok => State.linkIn_mine hmine hok _, fun seq hmine hok hstays => ?_, fun rank st peer hmine hok => State.linkIn_mine hmine hok _,
    fun identity rank peer variant hmine hok hid => ?_, fun rank reporter hmine hok => ⟨fun hrank => ?_, fun hrank => ?_⟩,
    fun b i hmine hok hrouted hroute hcarries => ?_⟩
  · intro due hup dropped
    refine ⟨fun hcrc => ?_, fun hcrc hseq => ?_, fun hcrc hseq hbad => ?_⟩
    · have hrej : s.w.rejects l h .crc = true := by rw [World.rejects, hcrc]; rfl
      refine (if_pos ⟨.inl hup, hrej⟩).trans ?_
      cases due <;> rfl
    · have hrej : s.w.rejects l h .order = true := by
        rw [World.rejects, hcrc, Bool.true_and, Bool.not_eq_true', ← Bool.not_eq_true, Link.inOrder_iff]
        exact hseq
      refine (if_pos ⟨.inl hup, hrej⟩).trans ?_
      cases due <;> rfl
    · have hrej : s.w.rejects l h .malformed = true := by
        rw [World.rejects, hcrc, (Link.inOrder_iff _ _).2 hseq, Bool.true_and, Bool.true_and, Bool.or_eq_true]
        exact hbad
      have htook := Link.discard_took k l h
      have hset : (s.w.setLink l (k.discard l h)).link l = k.discard l h := World.link_setLink ..
      exact ⟨_, if_pos ⟨.inl hup, hrej⟩, rfl, (congrArg Link.discarded hset).trans htook.discarded, (congrArg Link.rxSeq hset).trans htook.rxSeq⟩
  · refine (State.linkIn_mine hmine hok _).trans ?_
    rw [State.replay]
    exact congrArg Host.Outcome.next (if_neg (by rw [State.withW]; simp [hstays]))
  · obtain ⟨k', rfl, htook⟩ := World.receive_ok hok
    have hset : (s.w.setLink l k').link l = k' := World.link_setLink ..
    have hid' : ((s.w.setLink l k').link l).st = .identify := (congrArg Link.st hset).trans (htook.st.trans hid)
    have hin : exec (.ident l h identity rank peer variant) s = _ := State.linkIn_mine hmine hok _
    rw [hin, if_pos hid']
    dsimp only
    generalize hx : ({ (s.w.setLink l k').link l with st := _, peerId := _, peerRank := _, peerLink := _, tries := _ } : Link) = x
    obtain ⟨hlinks, _⟩ := State.compare_sameLinks (s.withW (((s.w.setLink l k').setLink l x).linkEvent l)) false
    have hat : ∀ u : World, u.links = (((s.w.setLink l k').setLink l x).linkEvent l).links → u.link l = x := by
      intro u hu
      rw [World.link, hu]
      exact World.link_setLink ..
    have hlink := hat _ hlinks
    refine ⟨_, rfl, ?_, ?_, ?_, ?_, ?_, State.compare_otp .., ?_⟩
    · rw [hlink, ← hx]
    · rw [hlink, ← hx]
    · rw [hlink, ← hx]
    · rw [hlink, ← hx]
    · rw [hlink, ← hx]
    · exact congrArg Kept.table (State.compare_kept (s.withW _) false)
  · refine ⟨_, (State.linkIn_mine hmine hok _).trans (congrArg _ (if_neg hrank)), (State.markLost_holds ..).2.1, State.markLost_otp .., ?_⟩
    exact congrArg Kept.table (State.markLost_kept (s.withW w) w rank l reporter (some l))
  · refine ⟨_, (State.linkIn_mine hmine hok _).trans (congrArg _ (if_pos hrank)), rfl, ?_⟩
    obtain ⟨k', rfl, _⟩ := World.receive_ok hok
    rfl
  · have hexec : exec (.frameForward l h b) s = execFrameForward l h b s := rfl
    have hlost : w.carriesAll i = true := by
      obtain ⟨k', rfl, _⟩ := World.receive_ok hok
      rw [World.carriesAll, Bool.not_eq_true', decide_eq_false_iff_not]
      exact hcarries
    have hnext : (if b.routed then (w.routeLink h.dst).filter w.carriesAll else none) = some i := by
      rw [hrouted, if_pos rfl, hroute, Option.filter_some, if_pos hlost]
    rw [hexec, execFrameForward, if_neg (by simp [hmine]), hok]
    dsimp only
    rw [hnext]
    dsimp only
    refine ⟨_, rfl, ?_, World.link_setLink .., ?_⟩
    · obtain ⟨k', rfl, _⟩ := World.receive_ok hok
      rfl
    · obtain ⟨k', rfl, _⟩ := World.receive_ok hok
      rfl

end Sys2Proof.Machine

/-! PROOFS. Evaluation snapshots: the copy stays in its region, and the advance that waited ends. -/
namespace Sys2Proof.Machine

/-! ## What a copy writes (R270) -/

theorem World.countHbm_cells (w : World) (lo n : Nat) (wr : Bool) : (w.countHbm lo n wr).hbm.mem.cells = w.hbm.mem.cells := by
  unfold World.countHbm
  generalize (List.range _) = l
  induction l generalizing w with
  | nil => rfl
  | cons x l ih => exact (ih _).trans rfl

theorem World.readRange_reads (w : World) (n : Option Nat) (lo k : Nat) : w.Reads (w.readRange n lo k) := (World.onlyRead_readRange w n lo k).reads

/-- A run of bytes replaced leaves every byte outside it. -/
theorem World.blit_get (w : World) {lo n a : Nat} {new : List Host.Cell} (bad : List Nat) (hnew : ∀ c ∈ new, lo ≤ c.1 ∧ c.1 < lo + n) (ha : a < lo ∨ lo + n ≤ a) :
    Cells.get (w.blit lo n new bad).hbm.mem.cells a = Cells.get w.hbm.mem.cells a := by
  unfold World.blit
  dsimp only
  rw [World.countHbm_cells]
  exact Cells.get_splice _ _ _ _ _ hnew ha (Nat.le_add_right ..)

theorem World.snapPage_reads (w : World) (n c root va : Nat) : w.Reads (w.snapPage n c root va).2 := by
  unfold World.snapPage
  dsimp only
  split
  · exact World.putWalker_reads ..
  split
  · exact World.putWalker_reads ..
  · exact (World.putWalker_reads ..).trans (World.reportFault_reads ..)

theorem World.snapList_reads (w : World) (n c : Nat) (r : Resid) (va : Nat) : w.Reads (w.snapList n c r va).2 := by
  have hpages : ∀ (l : List Nat) (f : Nat → Nat → Nat × Nat) (x : Except Nat (List (Nat × Nat)) × World), w.Reads x.2 →
      w.Reads (l.foldl (fun (x : Except Nat (List (Nat × Nat)) × World) p =>
        match x.1 with
        | .error _ => x
        | .ok l =>
          match x.2.snapPage n c r.root p with
          | (.ok pa, w) => (.ok (l ++ [f p pa]), w)
          | (.error st, w) => (.error st, w)) x).2 := by
    intro l f
    induction l with
    | nil => exact fun _ h => h
    | cons p l ih =>
      intro x h
      refine ih _ ?_
      dsimp only
      split
      · exact h
      · have hp := World.snapPage_reads x.2 n c r.root p
        split <;> next heq => exact h.trans ((congrArg Prod.snd heq) ▸ hp)
  have hfirst := World.snapPage_reads w n c r.root va
  unfold World.snapList
  split
  · next heq => exact (congrArg Prod.snd heq) ▸ hfirst
  · next pa u heq =>
    have hu : w.Reads u := by simpa only [heq] using hfirst
    dsimp only
    split
    · exact hu.trans (World.meetBus_reads ..)
    have hv := hu.trans (World.readBlocks_reads u (some n) [pa / 64])
    split
    · exact hv
    have hl := hpages (pagesOf (va + 64) (alignUp (16 * le (u.hbmBytes pa 64) 0 4) 64)) (fun p pa => (p / 0x10000, pa - p % 0x10000)) (.ok [], _) hv
    split
    · next heq => exact (congrArg Prod.snd heq) ▸ hl
    · next heq =>
      have hx := (congrArg Prod.snd heq) ▸ hl
      split
      · exact hx.trans (World.meetBus_reads ..)
      · exact hx.trans (World.readBlocks_reads ..)

/-- A copy that may have come as far as `n` bytes on, and has written only there. -/
structure SnapCopy.Copies (x y : SnapCopy) (n : Nat) : Prop where
  from_ : x.at_ ≤ y.at_
  upTo : y.at_ ≤ x.at_ + n
  apart : ∀ a, a < x.at_ ∨ x.at_ + n ≤ a → Cells.get y.w.hbm.mem.cells a = Cells.get x.w.hbm.mem.cells a

namespace SnapCopy.Copies

theorem refl (x : SnapCopy) : x.Copies x 0 := ⟨Nat.le_refl _, Nat.le_refl _, fun _ _ => rfl⟩

theorem stands {x y : SnapCopy} {n : Nat} (hw : y.w = x.w) (hat : y.at_ = x.at_) : x.Copies y n :=
  ⟨Nat.le_of_eq hat.symm, by omega, fun _ _ => by rw [hw]⟩

theorem mono {x y : SnapCopy} {m n : Nat} (h : x.Copies y m) (hle : m ≤ n) : x.Copies y n :=
  ⟨h.from_, Nat.le_trans h.upTo (Nat.add_le_add_left hle _), fun a ha => h.apart a (by omega)⟩

theorem trans {x y z : SnapCopy} {m n : Nat} (h : x.Copies y m) (k : y.Copies z n) : x.Copies z (m + n) := by
  have h1 := h.from_
  have h2 := h.upTo
  have k1 := k.from_
  have k2 := k.upTo
  exact ⟨by omega, by omega, fun a ha => (k.apart a (by omega)).trans (h.apart a (by omega))⟩

end SnapCopy.Copies

theorem foldl_min_le (l : List Nat) (m : Nat) : l.foldl min m ≤ m := by
  induction l generalizing m with
  | nil => exact Nat.le_refl _
  | cons x l ih => exact Nat.le_trans (ih _) (Nat.min_le_left ..)

/-- Reading what is to be copied moves the copy on by nothing. -/
theorem SnapCopy.Copies.of_reads {x y z : SnapCopy} {n : Nat} (hw : x.w.Reads y.w) (hat : y.at_ = x.at_) (h : y.Copies z n) : x.Copies z n :=
  ⟨hat ▸ h.from_, hat ▸ h.upTo, fun a ha => (h.apart a (hat ▸ ha)).trans (congrArg (Cells.get · a) hw.cells)⟩

theorem SnapCopy.run_copies (x : SnapCopy) (n pa len : Nat) : x.Copies (x.run n pa len) len := by
  unfold SnapCopy.run
  dsimp only
  generalize hu : List.foldl min (len / 64) _ = k
  have hk : k ≤ len / 64 := hu ▸ foldl_min_le _ _
  refine ⟨Nat.le_add_right .., Nat.add_le_add_left (by omega) _, fun a ha => ?_⟩
  refine (apply_ite (fun w : World => Cells.get w.hbm.mem.cells a) ..).trans ?_
  rw [World.meetBus_cells, ite_self]
  refine (World.blit_get _ _ (fun e he => ?_) (by omega)).trans (congrArg (Cells.get · a) (World.readRange_reads ..).cells)
  have := Cells.moved_range _ _ _ _ e he
  omega

theorem SnapCopy.page_copies (x : SnapCopy) (n c root hi va : Nat) : x.Copies (x.page n c root hi va) (min hi (va / 0x10000 * 0x10000 + 0x10000) - va) := by
  have hp := World.snapPage_reads x.w n c root va
  unfold SnapCopy.page
  split
  · exact .stands rfl rfl
  split
  · next w heq => exact .of_reads (y := { x with w }) (by simpa only [heq] using hp) rfl (.stands rfl rfl)
  · next w heq => exact .of_reads (y := { x with w }) (by simpa only [heq] using hp) rfl (SnapCopy.run_copies ..)

/-- The pages of an extent hold no more than the extent. -/
theorem SnapCopy.pages_copies (x : SnapCopy) (n c root a len : Nat) :
    x.Copies ((pagesOf a len).foldl (fun x p => x.page n c root (a + len) p) x) len := by
  unfold pagesOf
  split
  · exact .stands rfl rfl
  have hprefix : ∀ k, x.Copies (((List.range (k + 1)).map fun i => if i = 0 then a else (a / 0x10000 + i) * 0x10000).foldl
      (fun x p => x.page n c root (a + len) p) x) (min (a + len) ((a / 0x10000 + k + 1) * 0x10000) - a) := by
    intro k
    induction k with
    | zero => exact (SnapCopy.page_copies x n c root (a + len) a).mono (by omega)
    | succ k ih =>
      rw [List.range_succ, List.map_append, List.foldl_append]
      exact (ih.trans (SnapCopy.page_copies _ n c root (a + len) ((a / 0x10000 + (k + 1)) * 0x10000))).mono (by omega)
  exact (hprefix _).mono (by omega)

theorem SnapCopy.entry_copies (x : SnapCopy) (n c : Nat) (r : Resid) (b : List Byte) : x.Copies (x.entry n c r b) (snapEntryBytes b) := by
  unfold SnapCopy.entry snapEntryBytes
  split
  · exact .stands rfl rfl
  dsimp only
  split
  · rw [Nat.add_sub_cancel_left]
    exact SnapCopy.pages_copies x n c r.root _ _
  split
  · exact .stands rfl rfl
  generalize 0x200000 = size
  refine ⟨Nat.le_add_right .., Nat.le_refl _, fun a ha => ?_⟩
  exact (World.blit_get _ _ (Cells.moved_range _ _ _ _) ha).trans (congrArg (Cells.get · a) (World.touch_reads ..).cells)

theorem sumN_cons (x : Nat) (l : List Nat) : sumN (x :: l) = x + sumN l := by
  have h : ∀ (l : List Nat) (a : Nat), l.foldl (· + ·) a = a + l.foldl (· + ·) 0 := by
    intro l
    induction l with
    | nil => exact fun _ => rfl
    | cons y l ih =>
      intro a
      rw [List.foldl_cons, ih, List.foldl_cons, ih (_ + y)]
      omega
  exact (h l _).trans (congrArg (· + sumN l) (Nat.zero_add x))

theorem SnapCopy.entries_copies (n c : Nat) (r : Resid) (es : List (List Byte)) (x : SnapCopy) :
    x.Copies (es.foldl (fun x b => x.entry n c r b) x) (sumN (es.map snapEntryBytes)) := by
  induction es generalizing x with
  | nil => exact .refl x
  | cons b es ih =>
    rw [List.map_cons, sumN_cons]
    exact (x.entry_copies n c r b).trans (ih _)

theorem snapHeader_length (n st step count bytes bad : Nat) : (snapHeader n st step count bytes bad).length = 64 := by
  simp [snapHeader]

/-- The header lies in the first block of the region. -/
theorem World.snapHeader_get (w : World) (n st step count bytes bad : Nat) {a : Nat} (ha : a < snapBase ∨ snapBase + 64 ≤ a) :
    Cells.get (w.blit snapBase 64 (cellsOf snapBase (snapHeader n st step count bytes bad)) []).hbm.mem.cells a = Cells.get w.hbm.mem.cells a := by
  have hrange := cellsOf_range (snapHeader n st step count bytes bad) snapBase
  rw [snapHeader_length] at hrange
  exact World.blit_get w [] hrange ha

theorem le_alignUp (a : Nat) : a ≤ alignUp a 64 := by
  unfold alignUp cdiv
  omega

/-- A copy writes the snapshot region only. -/
theorem State.snapCopy_get (s : State) {a : Nat} (ha : a < snapBase ∨ snapBase + snapSize ≤ a) :
    Cells.get s.snapCopy.1.hbm.mem.cells a = Cells.get s.w.hbm.mem.cells a := by
  have hlist := World.snapList_reads s.w s.w.snap.ctx s.w.snap.core (s.ent s.w.snap.ctx) s.w.snap.list
  have hhead : a < snapBase ∨ snapBase + 64 ≤ a := by
    unfold snapSize at ha
    omega
  unfold State.snapCopy
  dsimp only
  split
  · next heq => exact (World.snapHeader_get _ _ _ _ _ _ _ hhead).trans (congrArg (Cells.get · a) ((congrArg Prod.snd heq) ▸ hlist).cells)
  · next heq => exact (World.snapHeader_get _ _ _ _ _ _ _ hhead).trans (congrArg (Cells.get · a) ((congrArg Prod.snd heq) ▸ hlist).cells)
  · next t w heq =>
    have hw : Cells.get w.hbm.mem.cells a = Cells.get s.w.hbm.mem.cells a := congrArg (Cells.get · a) ((congrArg Prod.snd heq) ▸ hlist).cells
    split
    · exact (World.snapHeader_get _ _ _ _ _ _ _ hhead).trans hw
    · next hfit =>
      have hsize := Nat.not_lt.1 (not_or.1 hfit).2
      have hpad := le_alignUp t.length
      have hcopies := SnapCopy.entries_copies s.w.snap.ctx s.w.snap.core (s.ent s.w.snap.ctx)
        ((List.range (t.length / 16)).map fun i => sl t (16 * i) 16)
        { w := w.blit (snapBase + 64) (64 + alignUp t.length 64 - 64) (cellsOf (snapBase + 64) t) [], at_ := snapBase + (64 + alignUp t.length 64) }
      have hcopied := hcopies.apart a (by dsimp only; omega)
      have hput := World.blit_get w (lo := snapBase + 64) (n := 64 + alignUp t.length 64 - 64) (new := cellsOf (snapBase + 64) t) (a := a) []
        (fun e he => ⟨(cellsOf_range t _ e he).1, Nat.lt_of_lt_of_le (cellsOf_range t _ e he).2 (by omega)⟩) (by omega)
      rw [World.snapHeader_get _ _ _ _ _ _ _ hhead, hcopied, hput, hw]

/-! ## What an advance keeps of the snapshot (R269) -/

/-- The snapshot, the contexts' step numbers and the cores that wait with an advance are as they were. -/
structure World.SameSteps (w u : World) : Prop where
  snap : u.snap = w.snap
  step : ∀ n, (u.ctx n).step = (w.ctx n).step
  waits : ∀ c, (u.core c).stepWait = (w.core c).stepWait

namespace World.SameSteps

theorem refl (w : World) : w.SameSteps w := ⟨rfl, fun _ => rfl, fun _ => rfl⟩

theorem trans {w u v : World} (a : w.SameSteps u) (b : u.SameSteps v) : w.SameSteps v :=
  ⟨b.snap.trans a.snap, fun n => (b.step n).trans (a.step n), fun c => (b.waits c).trans (a.waits c)⟩

theorem foldl {α : Type} {f : World → α → World} (h : ∀ (w : World) (x : α), w.SameSteps (f w x)) (l : List α) (w : World) : w.SameSteps (l.foldl f w) := by
  induction l generalizing w with
  | nil => exact .refl w
  | cons x l ih => exact (h w x).trans (ih _)

end World.SameSteps

theorem World.Side.sameSteps {w u : World} (h : w.Side u) : w.SameSteps u := ⟨h.snap, fun n => by rw [h.ctx], fun c => by rw [h.core]⟩

theorem World.setCtx_sameSteps (w : World) (n : Nat) (x : Ctx) (h : x.step = (w.ctx n).step) : w.SameSteps (w.setCtx n x) := by
  refine ⟨rfl, fun m => ?_, fun _ => rfl⟩
  by_cases hm : m = n
  · rw [hm, World.ctx_setCtx, h]
  · rw [World.ctx_setCtx_ne _ _ hm]

theorem World.setCore_sameSteps (w : World) (c : Nat) (k : Core) (h : k.stepWait = (w.core c).stepWait) : w.SameSteps (w.setCore c k) := by
  refine ⟨rfl, fun _ => rfl, fun d => ?_⟩
  by_cases hd : d = c
  · rw [hd, World.core_setCore, h]
  · rw [World.core_setCore_ne _ _ hd]

theorem World.putWalker_sameSteps (w : World) (k n : Nat) (x : Walker) : w.SameSteps (w.putWalker k n x) := by
  unfold World.putWalker
  dsimp only
  refine .trans ?_ (World.readBlocks_side ..).sameSteps
  refine .trans ?_ (World.meetBus_side ..).sameSteps
  exact ⟨rfl, fun _ => rfl, fun _ => rfl⟩

theorem World.reportFault_sameSteps (w : World) (n va : Nat) (f : XFault) (q : XSource) : w.SameSteps (w.reportFault n va f q) := by
  unfold World.reportFault
  dsimp only
  refine .trans ?_ (World.event_side ..).sameSteps
  have hctx := World.setCtx_sameSteps w n { w.ctx n with faults := add32 (w.ctx n).faults 1
                                                         lastFault := faultBytes va f q (w.ctx n).step (add32 (w.ctx n).faults 1) } rfl
  split
  · refine .trans ?_ (World.raise_side ..).sameSteps
    exact ⟨rfl, hctx.step, fun _ => rfl⟩
  · exact ⟨rfl, hctx.step, fun _ => rfl⟩

theorem World.dirtyBack_sameSteps (w : World) (l : List (Nat × Nat)) : w.SameSteps (w.dirtyBack l) := by
  refine .foldl (fun w x => ?_) l w
  exact World.setCore_sameSteps w x.1 _ rfl

theorem World.ckptAbandon_sameSteps (w : World) (n : Nat) : w.SameSteps (w.ckptAbandon n) := by
  unfold World.ckptAbandon
  dsimp only
  split
  · exact (World.setCtx_sameSteps w n _ (by rfl)).trans (World.dirtyBack_sameSteps ..)
  · exact .refl w

theorem World.ckptValue_side (w : World) (rank ctx step : Nat) (value : List Byte) : w.Side (w.ckptValue rank ctx step value) := by
  unfold World.ckptValue World.ckptSend
  dsimp only
  split
  · exact World.sendLink_side ..
  · exact .refl w

theorem World.stagePiece_sameSteps (w : World) (n entry gran : Nat) (data : List Byte) (bad : List Nat) : w.SameSteps (w.stagePiece n entry gran data bad) := by
  unfold World.stagePiece World.putPiece
  dsimp only
  exact (World.blit_side ..).sameSteps.trans (World.setCtx_sameSteps _ n _ (by rfl))

theorem World.takeDirty_sameSteps (w : World) (r : Resid) (t : List Byte) : w.SameSteps (w.takeDirty r t).1 := by
  unfold World.takeDirty
  generalize ckEntries t = l
  have h : ∀ (l : List (Nat × List Byte)) (a : World × List (Nat × Nat)), w.SameSteps a.1 →
      w.SameSteps (l.foldl (fun a e =>
        if le e.2 16 1 = 1 then
          (a.1.setCore (r.core0 + le e.2 0 8) { a.1.core (r.core0 + le e.2 0 8) with
              dirty := (a.1.core (r.core0 + le e.2 0 8)).dirty &&& ~~~BitVec.ofNat 32 (le e.2 8 4) },
            a.2 ++ [(r.core0 + le e.2 0 8, ((a.1.core (r.core0 + le e.2 0 8)).dirty &&& BitVec.ofNat 32 (le e.2 8 4)).toNat)])
        else a) a).1 := by
    intro l
    induction l with
    | nil => exact fun _ h => h
    | cons e l ih =>
      intro a h
      refine ih _ ?_
      dsimp only
      split
      · exact h.trans (World.setCore_sameSteps _ _ _ (by rfl))
      · exact h
  exact h l (w, []) (.refl w)

/-- The state differs in the world only, which keeps its steps. -/
def State.SameSteps (s t : State) : Prop := t = { s with w := t.w } ∧ s.w.SameSteps t.w

theorem State.SameSteps.trans {s t u : State} (a : s.SameSteps t) (b : t.SameSteps u) : s.SameSteps u := by
  obtain ⟨ha, ha'⟩ := a
  obtain ⟨hb, hb'⟩ := b
  refine ⟨?_, ha'.trans hb'⟩
  rw [hb, ha]

theorem State.stateReads_sameSteps (s : State) (n : Nat) (w : World) : w.SameSteps (s.stateReads n w) := by
  refine .foldl (fun w x => ?_) _ w
  exact ((World.meetBus_side w ..).trans (World.readRange_side ..)).sameSteps

theorem World.stagePieces_sameSteps (n entry : Nat) (bad : Nat × List Byte → List Nat) (l : List (Nat × List Byte)) (w : World) :
    w.SameSteps (l.foldl (fun w p => w.stagePiece n entry p.1 p.2 (bad p)) w) := by
  induction l generalizing w with
  | nil => exact .refl w
  | cons p l ih =>
    have h := World.stagePiece_sameSteps w n entry p.1 p.2 (bad p)
    exact h.trans (ih _)

theorem State.withW_sameSteps {s : State} {u : World} (h : s.w.SameSteps u) : s.SameSteps (s.withW u) := ⟨rfl, h⟩

theorem State.ckptStart_sameSteps (s : State) (n : Nat) : s.SameSteps (s.ckptStart n) := by
  unfold State.ckptStart
  dsimp only
  split
  · exact ⟨rfl, .refl _⟩
  split
  · exact State.withW_sameSteps ((World.setCtx_sameSteps s.w n _ (by rfl)).trans (World.raise_side ..).sameSteps)
  have hdirty := World.takeDirty_sameSteps s.w (s.ent n) (s.w.ctx n).ck.table
  generalize s.w.takeDirty (s.ent n) (s.w.ctx n).ck.table = t at hdirty ⊢
  generalize hu : t.1.setCtx n _ = u
  have hread := (hdirty.trans (hu ▸ World.setCtx_sameSteps t.1 n _ (by rfl))).trans (State.stateReads_sameSteps s n u)
  generalize s.stateReads n u = v at hread ⊢
  split
  · exact State.withW_sameSteps ((hread.trans (World.ckptAbandon_sameSteps v n)).trans (World.raise_side ..).sameSteps)
  · exact State.withW_sameSteps (hread.trans (World.stagePieces_sameSteps n _ _ _ v))

theorem State.ckptReplay_sameSteps (s : State) (n : Nat) : s.SameSteps (s.ckptReplay n) := by
  unfold State.ckptReplay
  dsimp only
  split
  · exact ⟨rfl, .refl _⟩
  have hdue := World.setCtx_sameSteps s.w n { s.w.ctx n with ck := { (s.w.ctx n).ck with replayDue := false } } rfl
  generalize s.w.setCtx n _ = w at hdue ⊢
  split
  · exact ⟨rfl, (hdue.trans (World.putWalker_sameSteps ..)).trans (World.reportFault_sameSteps ..)⟩
  · next pa y heq =>
    refine ⟨rfl, ?_⟩
    have hread : s.w.SameSteps (((w.putWalker (s.ent n).first n y).meetBus (some n) [pa / 64]).readBlocks (some n) [pa / 64]) :=
      ((hdue.trans (World.putWalker_sameSteps ..)).trans (World.meetBus_side ..).sameSteps).trans (World.readBlocks_side ..).sameSteps
    dsimp only [State.withW]
    split
    · exact hread
    · exact hread.trans (World.ckptValue_side ..).sameSteps

/-- An advance sets its context's step and keeps the snapshot and the cores that wait. -/
theorem State.advanceStep_holds (s : State) (n new : Nat) :
    s.advanceStep n new = { s with w := (s.advanceStep n new).w } ∧ (s.advanceStep n new).w.snap = s.w.snap ∧
      ((s.advanceStep n new).w.ctx n).step = new ∧ ∀ c, ((s.advanceStep n new).w.core c).stepWait = (s.w.core c).stepWait := by
  unfold State.advanceStep
  dsimp only
  obtain ⟨hrest, hkept⟩ := (State.ckptReplay_sameSteps
    (s.withW { s.w.setCtx n { s.w.ctx n with step := new } with koc := { s.w.koc with asleep := [] } }) n).trans (State.ckptStart_sameSteps _ n)
  refine ⟨hrest, hkept.snap, (hkept.step n).trans ?_, hkept.waits⟩
  exact congrArg Ctx.step (World.ctx_setCtx s.w n _)

theorem State.wakeReady_side (s : State) (r : Resid) : ∃ u, s.wakeReady r = s.withW u ∧ s.w.Side u := by
  unfold State.wakeReady
  have h : ∀ (l : List Nat) (t : State), (∃ u, t = s.withW u ∧ s.w.Side u) → ∃ u, l.foldl (fun s c =>
      match s.env c with
      | some e => if s.canDispatch e then s.withW (s.w.wake (c / 16)) else s
      | none => s) t = s.withW u ∧ s.w.Side u := by
    intro l
    induction l with
    | nil => exact fun _ h => h
    | cons c l ih =>
      intro t ht
      refine ih _ ?_
      obtain ⟨u, rfl, hu⟩ := ht
      dsimp only
      split
      · split
        · exact ⟨_, rfl, hu.trans (World.wake_side ..)⟩
        · exact ⟨u, rfl, hu⟩
      · exact ⟨u, rfl, hu⟩
  exact h _ s ⟨s.w, rfl, .refl _⟩

theorem World.resumeChans_sameSteps (w : World) (n : Nat) (r : Resid) : w.SameSteps (w.resumeChans n r) := by
  refine .foldl (fun w d => ?_) _ w
  dsimp only
  split
  · refine .trans ?_ (World.wake_side ..).sameSteps
    obtain ⟨hcores, -, hctxs, hsnap⟩ := World.moveChan_frame w n d { w.chan d with st := .running, by_ := .nobody } (w.chan d).lastStatus
    exact ⟨hsnap, fun n => by rw [World.ctx, hctxs, World.ctx], fun c => by rw [World.core, hcores, World.core]⟩
  · exact .refl w

/-- The snapshot is READY, the context's step the new one, and a core no longer waits with its advance. -/
structure World.Advanced (w : World) (m : Snap) (n new c : Nat) : Prop where
  snap : w.snap = m
  step : (w.ctx n).step = new
  waits : (w.core c).stepWait = false

theorem World.Advanced.sameSteps {w u : World} {m : Snap} {n new c : Nat} (h : w.Advanced m n new c) (hu : w.SameSteps u) : u.Advanced m n new c :=
  ⟨hu.snap.trans h.snap, (hu.step n).trans h.step, (hu.waits c).trans h.waits⟩

theorem World.endScalar_sameSteps (w : World) (e : Env) (idx : Nat) (r : Record) (next : Nat) : w.SameSteps (w.endScalar e idx r stOk next) := by
  obtain ⟨hset, hothers, -, -, -, hstep, hsnap⟩ := World.endScalar_ends (st := stOk) rfl w e idx r next
  refine ⟨hsnap, hstep, fun d => ?_⟩
  by_cases hd : d = e.c
  · rw [hd, hset.stepWait]
    rfl
  · rw [hothers d hd]

/-- The wakes and the event at the end of an advance keep it. -/
theorem State.advanced_shown {s x y : State} {m : Snap} {n new c : Nat} (r : Resid) (code idx sub die : Nat) (ctx : Option Nat) (st : Nat) (p : List Byte)
    (hadv : x.w.Advanced m n new c) (hy : ∃ z, y = s.withW z ∧ x.w.SameSteps z) :
    (y.wakeReady r).withW ((y.wakeReady r).w.event code idx sub die ctx st p) = { s with w := (y.wakeReady r).w.event code idx sub die ctx st p } ∧
      ((y.wakeReady r).w.event code idx sub die ctx st p).Advanced m n new c := by
  obtain ⟨z, rfl, hsame⟩ := hy
  obtain ⟨u, hu, hside⟩ := State.wakeReady_side (s.withW z) r
  rw [hu]
  exact ⟨rfl, (hadv.sameSteps hsame).sameSteps (hside.trans (World.event_side ..)).sameSteps⟩

/-- The copy done, the advance is completed with its STEP (R269). -/
theorem execSnapshotReady_holds {s : State} (hpart : s.ctl.part = .ready) (hst : s.w.snap.st = .copying) (hcopied : s.w.snap.copied = true) :
    ∃ t, execSnapshotReady s = .next t ∧ t = { s with w := t.w } ∧
      t.w.Advanced { s.w.snap with st := .ready, draining := false, copied := false, taken := bump 64 s.w.snap.taken 1 } s.w.snap.ctx s.w.snap.newStep
        s.w.snap.core := by
  unfold execSnapshotReady
  dsimp only
  rw [if_pos ⟨hpart, hst, hcopied⟩]
  generalize hv : ({ s.w with snap := _ } : World) = v
  have hsnap : v.snap = { s.w.snap with st := .ready, draining := false, copied := false, taken := bump 64 s.w.snap.taken 1 } := hv ▸ rfl
  have hresumed : v.SameSteps (if (s.ent s.w.snap.ctx).st = .resident then v.resumeChans s.w.snap.ctx (s.ent s.w.snap.ctx) else v) := by
    split
    · exact World.resumeChans_sameSteps ..
    · exact .refl v
  generalize (if (s.ent s.w.snap.ctx).st = .resident then v.resumeChans s.w.snap.ctx (s.ent s.w.snap.ctx) else v) = u at hresumed ⊢
  obtain ⟨hrest, hkept, hstep, hwaits⟩ := State.advanceStep_holds
    (s.withW (u.setCore s.w.snap.core { u.core s.w.snap.core with stepWait := false })) s.w.snap.ctx s.w.snap.newStep
  generalize State.advanceStep _ _ _ = x at hrest hkept hstep hwaits ⊢
  have hadv : x.w.Advanced { s.w.snap with st := .ready, draining := false, copied := false, taken := bump 64 s.w.snap.taken 1 } s.w.snap.ctx
      s.w.snap.newStep s.w.snap.core :=
    ⟨hkept.trans (hresumed.snap.trans hsnap), hstep, (hwaits _).trans (congrArg Core.stepWait (World.core_setCore ..))⟩
  refine ⟨_, rfl, State.advanced_shown _ _ _ _ _ _ _ _ hadv ?_⟩
  split
  · exact ⟨_, by rw [hrest]; rfl, World.endScalar_sameSteps ..⟩
  · exact ⟨x.w, hrest, .refl _⟩

/-- Settles O18: requests by what refuses them, the copy by its runs, and the advance by what it keeps. -/
theorem snapshotCommandsComplete : Obligations.SnapshotCommandsComplete := by
  unfold Obligations.SnapshotCommandsComplete
  refine ⟨fun s s1 h k v => ⟨fun hw hst hlen hctx hent hstep hz hlist => ?_, fun hw hv hst => ?_⟩, fun s hpart => ⟨fun hst hdrain hdrained hsleep => ?_,
    fun hst hcopied => ?_⟩⟩
  · have hexec : exec (.snapshotRequest h v) s = .next ((snapshotRequestFx s1 v).finish h) := State.writeRequest_of_writes hw _
    have hok : ¬ (v.length ≠ 16 ∨ 256 ≤ le v 0 2 ∨ (s1.ent (le v 0 2)).st = .absent ∨ le v 4 4 ≤ (s1.w.ctx (le v 0 2)).step ∨ le v 2 2 ≠ 0 ∨
        le v 8 8 % 64 ≠ 0) := by
      rintro (h | h | h | h | h | h)
      · exact h hlen
      · omega
      · exact hent h
      · omega
      · exact h hz
      · exact h hlist
    rw [hexec, snapshotRequestFx, if_neg (Classical.not_not.2 hst)]
    dsimp only
    rw [if_neg hok, Fx.finish_world]
  · have hexec : exec (.snapshotRelease h v) s = .next ((snapshotReleaseFx s1 v).finish h) := State.writeRequest_of_writes hw _
    rw [hexec, snapshotReleaseFx, if_pos ⟨by rw [hv]; exact uintOf_one, hst⟩, Fx.finish_world]
  · refine ⟨_, (if_pos ⟨hpart, hst, hdrain, hdrained⟩).trans (if_pos (List.isEmpty_iff.2 hsleep)), rfl, rfl, fun a ha => ?_⟩
    exact State.snapCopy_get s ha
  · obtain ⟨t, ht, hrest, hadv⟩ := execSnapshotReady_holds hpart hst hcopied
    exact ⟨t, ht, hrest, congrArg Snap.st hadv.snap, congrArg Snap.taken hadv.snap, hadv.step, hadv.waits⟩

end Sys2Proof.Machine

/-! PROOFS. Host ports: the buffer and PFC, the neighbour protocols and congestion (R371–R375, R384, R398, R400). -/
namespace Sys2Proof.Machine

/-! ## What a lossless class holds -/

@[simp] theorem HPort.held_setAbove (v : HPort) (k j : LossClass) (x : Bool) : (v.setAbove k x).held j = v.held j := by cases k <;> cases j <;> rfl

theorem HPort.setAbove_of_above {v : HPort} {k : LossClass} (h : v.above k = true) : v.setAbove k true = v := by
  cases k with
  | llA => exact congrArg (fun x => ({ v with xoffA := x } : HPort)) (Eq.symm h)
  | llB => exact congrArg (fun x => ({ v with xoffB := x } : HPort)) (Eq.symm h)

theorem World.xonIfLow_held (w : World) (c : Persist) (p : Nat) (k j : LossClass) : ((w.xonIfLow c p k).port p).held j = (w.port p).held j := by
  unfold World.xonIfLow World.sendXon
  split
  · exact (congrArg (HPort.held · j) (World.port_setPort w p _)).trans (HPort.held_setAbove ..)
  · rfl

theorem World.xonIfLow_above_ne (w : World) (c : Persist) (p : Nat) {k j : LossClass} (h : j ≠ k) :
    ((w.xonIfLow c p k).port p).above j = (w.port p).above j := by
  unfold World.xonIfLow World.sendXon
  split
  · exact (congrArg (HPort.above · j) (World.port_setPort w p _)).trans (HPort.above_setAbove_ne _ _ h)
  · rfl

theorem World.mem_xonIfLow {w : World} {m : OutMsg} (c : Persist) (p : Nat) (k : LossClass) (h : m ∈ w.outbox) : m ∈ (w.xonIfLow c p k).outbox := by
  unfold World.xonIfLow World.sendXon
  split
  · exact List.mem_append_left _ h
  · exact h

/-- A stopped class that has fallen below its guaranteed area is told to go on (R374). -/
theorem World.xonIfLow_tells {w : World} (c : Persist) {p : Nat} {k : LossClass} (habove : (w.port p).above k = true)
    (hlow : ((w.port p).held k).outside < 65536) :
    ((w.xonIfLow c p k).port p).above k = false ∧ .pfc p (c.prio k) 0 ∈ (w.xonIfLow c p k).outbox := by
  unfold World.xonIfLow World.sendXon
  rw [if_pos ⟨habove, hlow⟩]
  exact ⟨(congrArg (HPort.above · k) (World.port_setPort w p _)).trans (HPort.above_setAbove ..), List.mem_append_right _ (List.mem_singleton.2 rfl)⟩

theorem drainedTo_le (f n : Nat) : drainedTo f n ≤ n := by
  unfold drainedTo
  split
  · exact Nat.zero_le _
  · exact Nat.sub_le ..

/-- Draining takes from what a class holds, and lets a stopped class that has fallen low go on. -/
theorem World.drainPort_holds (w : World) (c : Persist) (p : Nat) (k : LossClass) :
    (((w.drainPort c p).port p).held k).outside ≤ ((w.port p).held k).outside ∧
      (((w.drainPort c p).port p).held k).headroom ≤ ((w.port p).held k).headroom ∧
      ((w.port p).above k = true → ¬ ((w.port p).inA = {} ∧ (w.port p).inB = {} ∧ (w.port p).inOther = 0) →
        (((w.drainPort c p).port p).held k).outside < 65536 →
        ((w.drainPort c p).port p).above k = false ∧ .pfc p (c.prio k) 0 ∈ (w.drainPort c p).outbox) := by
  unfold World.drainPort
  dsimp only
  split
  · next h => exact ⟨Nat.le_refl _, Nat.le_refl _, fun _ hn => absurd h hn⟩
  generalize hu : ({ w.setPort p _ with free := _ } : World) = u
  have hport : u.port p = { w.port p with
      inA := { outside := drainedTo w.free (w.port p).inA.outside, headroom := drainedTo (w.free + 1) (w.port p).inA.headroom }
      inB := { outside := drainedTo (w.free + 2) (w.port p).inB.outside, headroom := drainedTo (w.free + 2 + 1) (w.port p).inB.headroom }
      inOther := drainedTo (w.free + 4) (w.port p).inOther } := by
    rw [← hu]
    exact World.port_setPort w p _
  have hheld : (((u.xonIfLow c p .llA).xonIfLow c p .llB).port p).held k = (u.port p).held k := by
    rw [World.xonIfLow_held, World.xonIfLow_held]
  have habove : (u.port p).above k = (w.port p).above k := by rw [hport]; cases k <;> rfl
  rw [hheld]
  refine ⟨?_, ?_, fun hstop _ hlow => ?_⟩
  · rw [hport]
    cases k <;> exact drainedTo_le ..
  · rw [hport]
    cases k <;> exact drainedTo_le ..
  · cases k with
    | llA =>
      obtain ⟨hoff, hsent⟩ := World.xonIfLow_tells c (habove.trans hstop) hlow
      exact ⟨(World.xonIfLow_above_ne _ c p (by decide)).trans hoff, World.mem_xonIfLow c p _ hsent⟩
    | llB =>
      exact World.xonIfLow_tells c ((World.xonIfLow_above_ne u c p (by decide)).trans (habove.trans hstop)) (by rw [World.xonIfLow_held]; exact hlow)

/-! ## A frame of a lossless class (R374, R375) -/

theorem World.gotFrame_held (w : World) (p : Nat) (k : LossClass) : ((w.gotFrame p).port p).held k = (w.port p).held k := by
  unfold World.gotFrame
  rw [World.port_setPort]
  cases k <;> rfl

theorem World.sendXoff_held (w : World) (c : Persist) (p : Nat) (k : LossClass) : ((w.sendXoff c p k).port p).held k = (w.port p).held k := by
  unfold World.sendXoff
  refine (congrArg (HPort.held · k) (World.port_setPort w p _)).trans ?_
  cases k <;> rfl

theorem World.dropFrame_port (w : World) (p : Nat) (k : LossClass) :
    ((w.dropFrame p).port p).held k = (w.port p).held k ∧ ((w.dropFrame p).port p).dropped = bump 64 (w.port p).dropped 1 := by
  unfold World.dropFrame
  dsimp only
  split
  · rw [(World.event_side ..).at_ p |>.2.2.2.2.2.1, World.port_setPort]
    cases k <;> exact ⟨rfl, rfl⟩
  · rw [World.port_setPort]
    cases k <;> exact ⟨rfl, rfl⟩

section
variable {w : World} {c : Persist} {p : Nat} {net : NetHdr} {k : LossClass}

/-- Where the guaranteed area and the pool have room, the frame lies there, and XOFF follows at its threshold. -/
theorem World.arrive_room (hk : c.classOf net = some k) (hroom : ((w.drainPort c p).port p).room k net.len = true) :
    ∃ u, w.arrive c p net = .ok u ∧ (u.port p).held k = { ((w.drainPort c p).port p).held k with
        outside := (((w.drainPort c p).port p).held k).outside + net.len } ∧
      (163840 ≤ (((w.drainPort c p).port p).held k).outside + net.len → .pfc p (c.prio k) 0xFFFF ∈ u.outbox) := by
  unfold World.arrive
  simp only [hk, hroom, if_true]
  generalize w.drainPort c p = v
  refine ⟨_, rfl, ?_, fun hlow => ?_⟩
  · have hheld : ∀ x : World, (((v.setPort p ((v.port p).setHeld k { (v.port p).held k with outside := ((v.port p).held k).outside + net.len })).gotFrame p).port p).held k =
        { (v.port p).held k with outside := ((v.port p).held k).outside + net.len } := fun _ => by
      rw [World.gotFrame_held, World.port_setPort, HPort.held_setHeld]
    split
    · exact (World.sendXoff_held ..).trans (hheld v)
    · exact hheld v
  · rw [if_pos hlow]
    exact List.mem_append_right _ (List.mem_singleton.2 rfl)

/-- Where only its headroom has, it lies there. -/
theorem World.arrive_headroom (hk : c.classOf net = some k) (hroom : ((w.drainPort c p).port p).room k net.len = false)
    (hhead : (((w.drainPort c p).port p).held k).headroom + net.len ≤ 327680) :
    ∃ u, w.arrive c p net = .ok u ∧ (u.port p).held k = { ((w.drainPort c p).port p).held k with
        headroom := (((w.drainPort c p).port p).held k).headroom + net.len } := by
  unfold World.arrive
  simp only [hk, hroom, hhead, if_true, Bool.false_eq_true, if_false]
  exact ⟨_, rfl, by rw [World.gotFrame_held, World.port_setPort, HPort.held_setHeld]⟩

/-- Where neither has, it is dropped and counted. -/
theorem World.arrive_dropped (hk : c.classOf net = some k) (hroom : ((w.drainPort c p).port p).room k net.len = false)
    (hhead : 327680 < (((w.drainPort c p).port p).held k).headroom + net.len) :
    ∃ u, w.arrive c p net = .error u ∧ (u.port p).held k = ((w.drainPort c p).port p).held k ∧
      (u.port p).dropped = bump 64 ((w.drainPort c p).port p).dropped 1 := by
  unfold World.arrive
  simp only [hk, hroom, Nat.not_le.2 hhead, Bool.false_eq_true, if_false]
  exact ⟨_, rfl, World.dropFrame_port ..⟩

end

/-! ## Requests that a port takes -/

theorem PortId.cases (p : PortId) : p = 0 ∨ p = 1 :=
  (by omega : p.val = 0 ∨ p.val = 1).imp Fin.ext Fin.ext

theorem kocPortNo_portName (p : PortId) : kocPortNo (portName p) = some p.val := by
  obtain rfl | rfl := PortId.cases p
  all_goals rfl

theorem State.portUp_portName {s : State} {p : PortId} (h : (s.w.port p).st = 2) : s.portUp (portName p) = true := by
  have hup : ((s.w.port p).st == 2) = true := by rw [h]; rfl
  obtain rfl | rfl := PortId.cases p
  all_goals exact hup

/-- A RoCEv2 request that its queue pair serves runs on the port that took it. -/
theorem State.roce_of_serves {s : State} {p : PortId} {q : Nat} {net : NetHdr} {w : World} (h : s.Serves p q net w) (f : World → World) :
    s.roce p q net f = .next (s.withW (f w)) := by
  obtain ⟨hup, haddr, hudp, hlen, harrive, hon, hq, hready, hport⟩ := h
  have honly := World.arrive_only harrive
  have hqp : w.qp q = s.w.qp q := by
    rw [honly]
    rfl
  have hin : s.frameIn (portName p) net roceUdp = .ok (s.withW w) := by
    unfold State.frameIn
    simp only [State.portUp_portName hup, Bool.true_eq_false, if_false, kocPortNo_portName, haddr, hudp, hlen, beq_self_eq_true, Bool.and_self, if_true,
      decide_true, harrive]
  unfold State.roce
  rw [hin]
  exact if_pos (by simp [State.withW, hon, hq, hqp, hready, hport])

/-- A port posts its answer to a frame for one of its addresses, once it has taken the frame. -/
theorem State.neighbour_posts {s : State} {pn : KocPort} {ours : Bool} {len : Nat} {w : World} (m : OutMsg) (hup : s.portUp pn = true)
    (hours : ours = true)
    (htakes : match kocPortNo pn with
      | none => w = s.w
      | some n => s.w.arrive s.ctl.persist n { mac := [], ip := [], vlan := none, udp := 0, len } = .ok w) :
    s.neighbour pn ours len m = .next (s.withW { w with outbox := w.outbox ++ [m] }) ∧ s.w.PortOnly w := by
  unfold State.neighbour
  simp only [hup, hours, Bool.true_eq_false, if_false, if_true]
  cases hn : kocPortNo pn with
  | none =>
    rw [hn] at htakes
    obtain rfl := htakes
    exact ⟨rfl, .refl _⟩
  | some n =>
    rw [hn] at htakes
    dsimp only at htakes ⊢
    rw [htakes]
    exact ⟨rfl, World.arrive_only htakes⟩

/-- A port that goes down holds nothing and pauses nothing; of what waits to be sent, some is dropped. -/
theorem World.portDown_holds (w : World) (p : Nat) :
    w.portDown p = { w with ports := (w.portDown p).ports, outbox := (w.portDown p).outbox } ∧ (∀ m ∈ (w.portDown p).outbox, m ∈ w.outbox) ∧
      (w.portDown p).port p = { w.port p with
        st := 0, inA := {}, inB := {}, inOther := 0, xoffA := false, xoffB := false, pausedA := none, pausedB := none } := by
  refine ⟨rfl, fun m hm => ?_, ?_⟩
  · obtain ⟨x, hx, rfl⟩ := List.mem_map.1 hm
    exact (List.mem_zipIdx' (List.mem_filter.1 hx).1).2 ▸ List.getElem_mem _
  · unfold World.portDown
    dsimp only
    rw [World.port_setPort]
    generalize (fun n : Nat => _) = back
    have hmap := Tab.get_map (fun v : HPort => { v with pausedA := v.pausedA.map back, pausedB := v.pausedB.map back }) ({} : HPort) w.ports p
    exact (congrArg (fun v : HPort => ({ v with
      st := 0, inA := {}, inB := {}, inOther := 0, xoffA := false, xoffB := false, pausedA := none, pausedB := none } : HPort)) hmap).trans rfl

theorem World.sendXoff_of_above {w : World} (c : Persist) {p : Nat} {k : LossClass} (h : (w.port p).above k = true) :
    w.sendXoff c p k = { w.setPort p { w.port p with xoffSent := bump 32 (w.port p).xoffSent 1 } with outbox := w.outbox ++ [.pfc p (c.prio k) 0xFFFF] } := by
  unfold World.sendXoff
  dsimp only
  rw [HPort.setAbove_of_above h]

/-- PFC for a lossless class: its transmission pauses from where it stands, or goes on (R373). -/
theorem execPfc_told {s : State} {p : PortId} {k : LossClass} (quanta : Nat) (hup : (s.w.port p).st = 2)
    (hk : k = .llB → s.ctl.persist.prioB ≠ s.ctl.persist.prioA) :
    execPfc p (s.ctl.persist.prio k) quanta s = .next (s.withW (s.w.setPort p
      { ({ s.w.port p with frames := bump 64 (s.w.port p).frames 1 } : HPort).setPaused k
          (if quanta = 0 then none else some (((s.w.port p).paused k).getD s.w.outbox.length)) with
        xoffRecv := if quanta = 0 then (s.w.port p).xoffRecv else bump 32 (s.w.port p).xoffRecv 1 })) := by
  unfold execPfc World.gotFrame
  dsimp only
  rw [if_neg (Classical.not_not.2 hup)]
  simp only [World.port_setPort, World.setPort_setPort]
  cases k with
  | llA => exact if_pos rfl
  | llB => exact (if_neg (hk rfl)).trans (if_pos rfl)

/-- Settles O51: the port's own events by definition, the buffer by what draining and arrival do. -/
theorem hostPortEventsComplete : Obligations.HostPortEventsComplete := by
  unfold Obligations.HostPortEventsComplete
  intro s p q pn v c
  refine ⟨fun hon hst => if_pos ⟨hon, hst⟩, fun hup => ?_, fun quanta hup => ⟨?_, fun hne => ?_⟩, rfl, rfl, fun k hup => ?_, fun hup => ?_,
    fun target payload w hup => ?_, fun w hserves => ?_, fun hready => ?_⟩
  · obtain ⟨hrest, hout, hport⟩ := World.portDown_holds s.w p
    exact ⟨_, if_pos hup, congrArg (fun w => ({ s with w } : State)) hrest, hout, hport⟩
  · exact execPfc_told (k := .llA) quanta hup (fun h => by cases h)
  · exact execPfc_told (k := .llB) quanta hup (fun _ => hne)
  · intro w x
    obtain ⟨hout, hhead, hon⟩ := World.drainPort_holds s.w c p k
    refine ⟨World.drainPort_only .., hout, hhead, hon, fun hbelow => ?_, fun habove => ?_, fun net hk => ⟨fun hroom => ?_, fun hroom hfit => ?_, fun hroom hfull => ?_⟩⟩
    · refine (if_pos hup).trans (congrArg (fun w => Host.Outcome.next (s.withW w)) (if_neg ?_))
      rw [hbelow]
      decide
    · exact (if_pos hup).trans (congrArg (fun w => Host.Outcome.next (s.withW w)) ((if_pos habove).trans (World.sendXoff_of_above c habove)))
    · obtain ⟨u, hu, hheld, hsent⟩ := World.arrive_room hk hroom
      exact ⟨u, hu, World.arrive_only hu, hheld, hsent⟩
    · obtain ⟨u, hu, hheld⟩ := World.arrive_headroom hk hroom hfit
      exact ⟨u, hu, World.arrive_only hu, hheld⟩
    · exact World.arrive_dropped hk hroom hfull
  · refine (if_pos hup).trans (congrArg (fun w => Host.Outcome.next (s.withW w)) ?_)
    unfold World.gotFrame World.discardFrame
    rw [World.port_setPort, World.setPort_setPort]
  · intro takes posts
    refine ⟨fun h ht => ?_, fun h ht => ?_, fun h ht => ?_⟩
    · exact State.neighbour_posts _ hup h ht
    · exact State.neighbour_posts _ hup h ht
    · exact State.neighbour_posts _ hup (Bool.or_eq_true_iff.2 h) ht
  · have hqp : w.qp q = s.w.qp q := by
      rw [World.arrive_only hserves.2.2.2.2.1]
      rfl
    refine (State.roce_of_serves hserves fun w => w.setQp q (w.qp q).onCnp).trans ?_
    rw [hqp]
    rfl
  · refine ⟨_, if_pos hready, rfl, ?_⟩
    rw [State.withW, World.qp_setQp]
    exact ⟨rfl, rfl, rfl, rfl⟩

end Sys2Proof.Machine

/-! PROOFS. Window messages: credits, writes, answers, returns and close notices (R123, R125, R127, R346). -/
namespace Sys2Proof.Machine

/-! ## A commit (R123, R125) -/

theorem World.core_setWin_ne (w : World) {c d : Nat} (i : Nat) (v : Window) (h : d ≠ c) : (w.setWin c i v).core d = w.core d := World.core_setCore_ne _ _ h

theorem World.setWin_sp (w : World) (c i : Nat) (v : Window) : ((w.setWin c i v).core c).sp = (w.core c).sp := by
  rw [World.setWin, World.core_setCore]
  rfl

/-- A scratchpad write changes the bytes that it touches, and no window, counter or other core. -/
theorem World.writeCore_scratch (w : World) (c : Nat) (n : Option Nat) (bs : List BitWrite) :
    ((w.writeCore c n .scratch bs).core c).sp.cells = bs.foldl Cells.setBits (w.core c).sp.cells ∧
      ((w.writeCore c n .scratch bs).core c).windows = (w.core c).windows ∧ ((w.writeCore c n .scratch bs).core c).ctrs = (w.core c).ctrs ∧
      ∀ d, d ≠ c → (w.writeCore c n .scratch bs).core d = w.core d := by
  unfold World.writeCore
  split
  · next h =>
    rw [List.isEmpty_iff.1 h]
    exact ⟨rfl, rfl, rfl, fun _ _ => rfl⟩
  · have htouch := World.touch_touched w c n .scratch (mergedWords 16 bs)
    have hne := fun d (h : d ≠ c) => World.touch_core_ne w c n .scratch (mergedWords 16 bs) h
    dsimp only
    generalize w.touch c n .scratch (mergedWords 16 bs) = u at htouch hne ⊢
    rw [World.core_setCore, if_neg (by decide)]
    refine ⟨?_, htouch.only.windows c, htouch.only.ctrs c, fun d h => (World.core_setCore_ne _ _ h).trans (hne d h)⟩
    exact congrArg (fun m => bs.foldl Cells.setBits m) (htouch.cells c .scratch (by decide))

/-- A counter that no window of the core takes for its free counter only rises. -/
theorem World.raiseCtr_of_unwatched {w : World} (res : Tab Resid) {c ctr : Nat} (inc : Nat) (h : ∀ j, j < 8 → (w.win c j).freeCtr ≠ ctr) :
    w.raiseCtr res c ctr inc = w.setCore c ((w.core c).addCtr ctr inc) := by
  have hwin : ∀ j, (w.setCore c ((w.core c).addCtr ctr inc)).win c j = w.win c j := fun j => by
    rw [World.win, World.core_setCore]
    rfl
  unfold World.raiseCtr
  dsimp only
  generalize w.setCore c ((w.core c).addCtr ctr inc) = u at hwin ⊢
  have hfold : ∀ l : List Nat, (∀ j ∈ l, j < 8) → l.foldl (fun w i =>
      if (w.win c i).st = .open_ ∧ (w.win c i).freeCtr = ctr ∧ ownerLive res (w.win c i).owner = true then w.freeWin c i inc else w) u = u := by
    intro l
    induction l with
    | nil => exact fun _ => rfl
    | cons i l ih =>
      intro hl
      obtain ⟨hi, hl⟩ := List.forall_mem_cons.1 hl
      rw [List.foldl_cons, if_neg fun hw => h i hi (hwin i ▸ hw.2.1)]
      exact ih hl
  exact hfold _ fun j hj => List.mem_range.1 hj

/-- What a commit to the core of a window does, whose arrival counter no window takes for its free counter. -/
structure World.Commits (w u : World) (x : WinWrite) (v : Window) : Prop where
  cells : (u.core x.core).sp.cells = (winWrites x (v.base + x.slot * v.slotSize)).foldl Cells.setBits (w.core x.core).sp.cells
  held : (u.win x.core x.win).held = v.held ++ [x.slot]
  credited : (u.win x.core x.win).credited = v.credited.filter (· != x.slot)
  ctrs : (u.core x.core).ctrs = ((w.core x.core).addCtr v.arrCtr 1).ctrs
  others : ∀ d, d ≠ x.core → u.core d = w.core d

theorem World.commitWrite_commits {w : World} {res : Tab Resid} (l src : Nat) {x : WinWrite} (hlive : ownerLive res (w.win x.core x.win).owner = true)
    (hctr : ∀ j, j < 8 → (w.win x.core j).freeCtr ≠ (w.win x.core x.win).arrCtr) :
    w.Commits (w.commitWrite res l src x) x (w.win x.core x.win) := by
  have hto : commitTo res x.core (w.win x.core x.win).owner = .core := by rw [commitTo, if_pos hlive]
  have hsent := fun u : World => World.sendLink_side u l src (.wanswer x.id stOk)
  unfold World.commitWrite
  simp only [hto]
  generalize hv : w.win x.core x.win = v at hlive hctr ⊢
  generalize hu : w.setWin x.core x.win _ = u
  have hfree : ∀ j, j < 8 → (u.win x.core j).freeCtr ≠ v.arrCtr := by
    intro j hj
    rw [← hu]
    by_cases hjw : j = x.win
    · rw [hjw, World.win_setWin]
      exact hv ▸ hctr x.win (hjw ▸ hj)
    · rw [World.win_setWin_ne _ _ _ _ hjw]
      exact hctr j hj
  obtain ⟨hcells, hwins, hctrs, hothers⟩ := World.writeCore_scratch u x.core (if ownerLive res v.owner = true then some v.owner else none)
    (winWrites x (v.base + x.slot * v.slotSize))
  generalize u.writeCore x.core _ .scratch _ = y at hcells hwins hctrs hothers ⊢
  have hwin : ∀ j, y.win x.core j = u.win x.core j := fun j => congrArg (fun t => Tab.get ({} : Window) t j) hwins
  rw [World.raiseCtr_of_unwatched res 1 fun j hj => hwin j ▸ hfree j hj]
  have hside := World.sendLink_side (y.setCore x.core ((y.core x.core).addCtr v.arrCtr 1)) l src (.wanswer x.id stOk)
  have hraised : (World.sendLink (y.setCore x.core ((y.core x.core).addCtr v.arrCtr 1)) l src (.wanswer x.id stOk)).win x.core x.win = u.win x.core x.win := by
    rw [World.win, hside.core, World.core_setCore]
    exact hwin x.win
  have hput : u.win x.core x.win = { v with
      credited := v.credited.filter (· != x.slot), held := v.held ++ [x.slot]
      st := if (v.st == .draining && (v.credited.filter (· != x.slot)).isEmpty) = true then .closed else v.st } := hu ▸ World.win_setWin ..
  refine ⟨?_, ?_, ?_, ?_, fun d hd => ?_⟩
  · rw [hside.core, World.core_setCore]
    refine hcells.trans (congrArg (fun k : EccMem => List.foldl Cells.setBits k.cells _) ?_)
    rw [← hu, World.setWin_sp]
  · rw [hraised, hput]
  · rw [hraised, hput]
  · rw [hside.core, World.core_setCore]
    refine congrArg (fun t : List (BitVec 16) => t.set v.arrCtr (t.getD v.arrCtr 0 + BitVec.ofNat 16 1)) (hctrs.trans ?_)
    rw [← hu, World.setWin_ctrs]
  · rw [hside.core, World.core_setCore_ne _ _ hd, hothers d hd, ← hu, World.core_setWin_ne _ _ _ hd]

/-! ## A discard, and what comes back to the sender's side (R123, R127) -/

theorem World.discardWrite_holds (w : World) (l src : Nat) (x : WinWrite) (st : Nat) :
    ((w.discardWrite l src x st).win x.core x.win).discarded = bump 32 (w.win x.core x.win).discarded 1 ∧
      ((w.discardWrite l src x st).core x.core).sp = (w.core x.core).sp ∧ ((w.discardWrite l src x st).core x.core).ctrs = (w.core x.core).ctrs := by
  unfold World.discardWrite
  dsimp only
  generalize hu : w.setWin x.core x.win _ = u
  have hside : u.Side ((u.sendLink l src (.wanswer x.id st)).winEvent 0x0301 x.core x.win x.gen none) := (World.sendLink_side ..).trans (World.event_side ..)
  refine ⟨?_, ?_, ?_⟩
  · rw [World.win, hside.core]
    exact hu ▸ congrArg Window.discarded (World.win_setWin ..)
  · rw [hside.core, ← hu, World.setWin_sp]
  · rw [hside.core, ← hu, World.setWin_ctrs]

/-- A write reaches its window: its bytes leave the receive buffer, and it is taken, unless it waits for its cluster. -/
theorem State.wwrite_takes {s : State} {l : Nat} {h : SeamHdr} {x : WinWrite} {w : World} (wake : World → Nat → World) (hmine : s.w.mine h = true)
    (hok : s.w.receive l h (.wwrite x) true = .ok w) (hcore : x.core < 1024) (hwin : x.win < 8) (hnow : s.w.commitWaits s.res x = false) :
    ∃ u, s.wwrite l h x wake = u.takeWrite s.res l h.src x ∧ s.w.Side u := by
  obtain ⟨k, rfl, -⟩ := World.receive_ok hok
  refine ⟨(s.w.setLink l k).setLink l (((s.w.setLink l k).link l).free 1 ((s.w.link l).unitsOf h)), ?_, (World.setLink_side ..).trans (World.setLink_side ..)⟩
  unfold State.wwrite
  rw [hok]
  dsimp only
  rw [if_neg (by rw [World.mine_of_receive hok, hmine]; simp [hcore, hwin]), if_neg (by rw [Bool.eq_false_iff] at hnow; exact hnow)]

theorem World.Side.win {w u : World} (h : w.Side u) (c i : Nat) : u.win c i = w.win c i := by rw [World.win, h.core, World.win]

theorem State.wakeStores_side (s : State) (before after : World) : after.Side (s.wakeStores before after) := by
  refine .foldl (fun w x => ?_) _ _
  split
  · exact .ite (World.wake_side ..) (.refl w)
  · exact .refl w

/-- A store that has its answer is done with it, and its write is no longer in flight. -/
theorem World.answerStore_holds (w : World) (x : SentWrite) (status : Nat) :
    let st := if status = stOk ∧ x.poison = true then stPoison else status
    (∀ y ∈ (w.answerStore x status).seam.writes, y.id ≠ x.id) ∧
      ∀ y ∈ (w.core x.core).store, y.st = .sent x.id →
        { y with st := .done st (if continuing st then x.count else 0) (if continuing st then x.flags else 0) } ∈ ((w.answerStore x status).core x.core).store := by
  intro st
  unfold World.answerStore
  refine ⟨fun y hy => ?_, fun y hy hsent => ?_⟩
  · exact bne_iff_ne.1 (List.mem_filter.1 hy).2
  · dsimp only
    rw [World.core_setCore]
    exact List.mem_map.2 ⟨y, hy, if_pos hsent⟩

/-- A slot that comes back is free, and a draining window without another is closed. -/
theorem World.returnCredit_holds {w : World} {c i slot gen : Nat} (hst : (w.win c i).st ≠ .closed) (hgen : (w.win c i).gen = gen) :
    slot ∉ ((w.returnCredit c i slot gen).win c i).credited ∧ ((w.returnCredit c i slot gen).win c i).held = (w.win c i).held ∧
      ((w.win c i).st = .draining → ((w.returnCredit c i slot gen).win c i).credited = [] → ((w.returnCredit c i slot gen).win c i).st = .closed) := by
  unfold World.returnCredit
  rw [if_neg (not_or.2 ⟨hst, Classical.not_not.2 hgen⟩), World.win_setWin]
  refine ⟨fun h => absurd rfl (bne_iff_ne.1 (List.mem_filter.1 h).2), rfl, fun hdrain hnone => ?_⟩
  exact if_pos (by rw [hdrain]; exact List.isEmpty_iff.2 hnone)

/-- A close notice takes the window's credits back and marks the window. -/
theorem World.closeNotice_holds (w : World) (l rank core win gen : Nat) :
    (w.closeNotice l rank core win gen).seam.credits =
        w.seam.credits.filter (fun x => !(x.rank == rank && x.core == core && x.win == win && x.gen == gen)) ∧
      ((w.closeNotice l rank core win gen).seam.remote rank core win).map (·.closed) = some true := by
  unfold World.closeNotice
  dsimp only
  have hseam := fun (slots : List Credit) (u : World) =>
    (World.Side.foldl (f := fun w x => w.sendLink l rank (.wreturn core win x.slot gen)) (fun w _ => World.sendLink_side w ..) slots u).fields.2.2.2.2.1
  rw [hseam]
  refine ⟨rfl, ?_⟩
  simp [Seam.remote, Seam.setRemote]

/-- Settles O48: what each message does to the credits, the windows and the stores. -/
theorem windowFramesComplete : Obligations.WindowFramesComplete := by
  unfold Obligations.WindowFramesComplete
  intro s l h w core win slot gen hmine
  refine ⟨fun hok => ?_, fun x hok hcore hwin => ?_, fun x hok hcore hwin hnow hold => ?_, fun id status x hok hfind hstatus => ?_,
    fun hok hcore hwin hrank hst hgen => ?_, fun hok => ?_⟩
  · obtain ⟨k, rfl, -⟩ := World.receive_ok hok
    have hside := State.wakeStores_side s (s.w.setLink l k) ((s.w.setLink l k).takeCredit l h.src core win slot gen)
    refine ⟨_, State.linkIn_mine hmine hok _, rfl, ?_, hside.fields.1⟩
    exact congrArg Seam.credits hside.fields.2.2.2.2.1
  · intro v hst hgen hrank hlink hslot hlive hpower hfits hctr
    have hto : commitTo s.res x.core v.owner = .core := by rw [commitTo, if_pos hlive]
    have hnow : s.w.commitWaits s.res x = false := by
      rw [World.commitWaits, hpower, Bool.and_false]
    obtain ⟨u, hu, hside⟩ := State.wwrite_takes (fun x k => x.wake k) hmine hok hcore hwin hnow
    have hv : u.win x.core x.win = v := hside.win ..
    have htake : u.takeWrite s.res l h.src x = u.commitWrite s.res l h.src x := by
      unfold World.takeWrite
      dsimp only
      rw [hv, if_neg (not_or.2 ⟨hst, Classical.not_not.2 hgen⟩), if_neg (not_or.2 ⟨Classical.not_not.2 hrank, Classical.not_not.2 hlink⟩), if_neg (Classical.not_not.2 hslot),
        if_neg (by rw [hside.cluster, hpower]; rintro ⟨-, h⟩; cases h), if_neg (by rw [hfits]; decide)]
    have hdone := World.commitWrite_commits (w := u) (res := s.res) l h.src (x := x) (by rw [hv]; exact hlive) fun j hj => by
      rw [hv, hside.win]
      exact hctr j hj
    rw [← htake, ← hu, hv] at hdone
    refine ⟨_, rfl, rfl, ?_, fun a ha => ?_, hdone.held, ?_, ?_, fun e he => ?_⟩
    · exact hdone.cells.trans (by rw [hside.core])
    · exact (congrArg (Cells.get · a) (hdone.cells.trans (by rw [hside.core]))).trans (Cells.get_setBitsAll _ _ _ ha)
    · intro hmem
      rw [State.withW, hdone.credited] at hmem
      exact absurd rfl (bne_iff_ne.1 (List.mem_filter.1 hmem).2)
    · exact hdone.ctrs.trans (by rw [hside.core])
    · exact (hdone.others e he).trans (hside.core e)
  · obtain ⟨u, hu, hside⟩ := State.wwrite_takes (fun x k => x.wake k) hmine hok hcore hwin hnow
    have htake : u.takeWrite s.res l h.src x = u.discardWrite l h.src x stWindowClosed := by
      unfold World.takeWrite
      dsimp only
      rw [hside.win, if_pos hold]
    obtain ⟨hcount, hsp, hctrs⟩ := World.discardWrite_holds u l h.src x stWindowClosed
    rw [← htake, ← hu] at hcount hsp hctrs
    exact ⟨_, rfl, hcount.trans (by rw [hside.win]; rfl), hsp.trans (by rw [hside.core]), hctrs.trans (by rw [hside.core])⟩
  · intro st
    obtain ⟨k, rfl, -⟩ := World.receive_ok hok
    have hin : exec (.wanswer l h id status) s = .next (s.withW ((s.w.setLink l k).answerStore x status)) := by
      refine (State.linkIn_mine hmine hok _).trans (congrArg (fun w => Host.Outcome.next (s.withW w)) ?_)
      have hfind' : (s.w.setLink l k).seam.writes.find? (fun y => y.id == id && y.rank == h.src) = some x := hfind
      dsimp only
      rw [hfind']
      exact if_pos hstatus
    obtain ⟨hgone, hdone⟩ := World.answerStore_holds (s.w.setLink l k) x status
    exact ⟨_, hin, rfl, hgone, hdone⟩
  · obtain ⟨k, rfl, -⟩ := World.receive_ok hok
    refine ⟨_, (State.linkIn_mine hmine hok _).trans (congrArg (fun w => Host.Outcome.next (s.withW w)) (if_pos ⟨hcore, hwin, hrank⟩)), rfl, ?_⟩
    exact World.returnCredit_holds (w := s.w.setLink l k) hst hgen
  · obtain ⟨k, rfl, -⟩ := World.receive_ok hok
    refine ⟨_, State.linkIn_mine hmine hok _, rfl, ?_⟩
    exact World.closeNotice_holds (s.w.setLink l k) l h.src core win gen

end Sys2Proof.Machine

/-! PROOFS. Collective messages and the timers of a host (R353–R359). -/
namespace Sys2Proof.Machine

/-- A collective message for a part that is not reported lost runs where its link accepts it. -/
theorem State.collIn_ok {s : State} {l : Nat} {h : SeamHdr} {b : FrameBody} {w : World} (hmine : s.w.mine h = true) (hlost : s.w.seam.ownLost = false)
    (hok : s.w.receive l h b false = .ok w) (f : World → World) : s.collIn l h b f = .next (s.withW (f w)) := by
  obtain ⟨k, rfl, -⟩ := World.receive_ok hok
  have hkeep : (s.w.setLink l k).seam.ownLost = false := hlost
  unfold State.collIn
  rw [if_neg (by rw [hmine]; decide), hok]
  dsimp only
  rw [if_neg (by rw [hkeep]; decide)]

theorem World.coll_key {w : World} {g seq : Nat} {c : Coll} (h : w.coll g seq = some c) : c.group = g ∧ c.seq = seq := by
  have hc := List.find?_some h
  simpa using hc

/-- The collective that a message speaks of: as held, or new. -/
def World.heldColl (w : World) (g seq : Nat) : Coll := (w.coll g seq).getD { group := g, seq }

/-- The collective has not ended here, and is none that this part is through with. -/
def World.CollRuns (w : World) (g seq : Nat) : Prop := (w.heldColl g seq).ended = false ∧ (w.coll g seq = none → w.collThrough g seq = none)

def World.MemberOf (w : World) (g : Nat) : Prop := g < 64 ∧ (w.group g).members ≠ [] ∧ (w.ownPos g).isSome = true

theorem World.MemberOf.not_refused {w : World} {g : Nat} (h : w.MemberOf g) :
    ¬ (64 ≤ g ∨ (w.group g).members.length = 0 ∨ (w.ownPos g).isNone = true) := by
  obtain ⟨hg, hmembers, hpos⟩ := h
  rintro (h | h | h)
  · omega
  · exact hmembers (List.length_eq_zero_iff.1 h)
  · rw [Option.isNone_iff_eq_none.1 h] at hpos
    cases hpos

/-- An intact new contribution of a member is kept by its node, accepted, and offered once it is whole (R353, R356). -/
theorem World.takeContrib_kept {w : World} {res : Tab Resid} {src : Nat} {m : CollMsg} (hmember : w.MemberOf m.group)
    (hprint : m.print = (w.group m.group).print) (hruns : w.CollRuns m.group m.seq)
    (hsame : sameHdr ((w.heldColl m.group m.seq).hdr.getD { m with mask := [], values := [] }) m = true) (hintact : msgIntact m = true)
    (hmissing : (m.level, m.node) ∉ (w.heldColl m.group m.seq).missing)
    (hnew : (((w.heldColl m.group m.seq).inputs.find? fun v => v.level == m.level && v.node == m.node).getD { level := m.level, node := m.node }).whole = false) :
    let c := w.heldColl m.group m.seq
    let hd := c.hdr.getD { m with mask := [], values := [] }
    let old := (c.inputs.find? fun v => v.level == m.level && v.node == m.node).getD { level := m.level, node := m.node }
    let mask := maskOf (w.group m.group).members.length m.mask
    let vals := addVals old.vals (msgVals m false)
    let v := { old with mask, vals, failed := m.failed, whole := m.failed || decide (upCount hd mask ≤ vals.length) }
    let kept := (w.putColl { c with hdr := some hd, inputs := v :: c.inputs.filter fun x => !(x.level == m.level && x.node == m.node) }).collAnswer src m 0
    w.takeContrib res src m = if v.whole then World.offer res 14 kept m.group m.seq v else kept := by
  obtain ⟨hended, hthrough⟩ := hruns
  unfold World.takeContrib
  dsimp only
  rw [if_neg hmember.not_refused]
  split
  · next missing hpast =>
    split at hpast
    · next c hc =>
      rw [World.heldColl, hc, Option.getD_some] at hended
      rw [if_neg (by rw [hended]; decide)] at hpast
      cases hpast
    · next hc =>
      rw [hthrough hc] at hpast
      cases hpast
  · have hgood : ¬ ((m.print != (w.group m.group).print || !sameHdr ((w.heldColl m.group m.seq).hdr.getD { m with mask := [], values := [] }) m) = true) := by
      rw [hsame, hprint]
      simp
    rw [← World.heldColl, if_neg hgood, if_neg (by rw [hintact]; decide), if_neg hmissing, if_neg (by rw [hnew]; decide)]

/-- An intact result is accepted and taken down the tree (R354). -/
theorem World.takeResult_passed {w : World} {res : Tab Resid} {src : Nat} {m : CollMsg} (hmember : w.MemberOf m.group) (hruns : w.CollRuns m.group m.seq)
    (hintact : msgIntact m = true) :
    let c := w.heldColl m.group m.seq
    let hd := c.hdr.getD { m with mask := [], values := [] }
    let first := m.values.isEmpty || m.first == (shard hd (w.group m.group).members.length (m.node * 2 ^ m.level)).1
    w.takeResult res src m = ((w.putColl { c with hdr := some hd }).collAnswer src m 0).resultAt res m.group m.seq m.level m.node hd
      (maskOf (w.group m.group).members.length m.mask) m.failed first (msgVals m true) := by
  obtain ⟨hended, hthrough⟩ := hruns
  unfold World.takeResult
  dsimp only
  rw [if_neg hmember.not_refused]
  have hgood : ¬ ((!msgIntact m) = true) := by rw [hintact]; decide
  split
  · next c hc =>
    rw [World.heldColl, hc, Option.getD_some] at hended
    rw [if_neg (by rw [hended]; decide), ← World.heldColl, if_neg hgood]
  · next hc =>
    rw [if_neg (by rw [hthrough hc]; decide), ← World.heldColl, if_neg hgood]

/-- An acceptance ends the resending of its message (R355). -/
theorem World.takeAnswer_accepted {w : World} {res : Tab Resid} {src seq g level node first : Nat} {c : Coll} {x : CollTx} (hc : w.coll g seq = some c)
    (hx : c.unacked.find? (fun y => y.rank == src && y.msg.level == level && y.msg.node == node && y.msg.first == first) = some x) :
    w.takeAnswer res src seq g 0 level node first = w.putColl { c with
      unacked := c.unacked.filter fun y => !(y.rank == src && y.msg.level == level && y.msg.node == node && y.msg.first == first) } := by
  unfold World.takeAnswer
  simp only [hc, hx]
  rfl

/-! ## The timers of a host (R359) -/

theorem World.waitsInput_of_pending {w : World} {c : Coll} {level node j : Nat} (hended : c.ended = false) (hlevel : level ≠ 0)
    (hj : j = 2 * node ∨ j = 2 * node + 1) (hcover : cover (w.group c.group).members.length (level - 1) j ≠ [])
    (hpending : w.inputSt c (level - 1) j = .pending)
    (hgood : ∀ v ∈ c.inputs, v.level + 1 = level → v.node / 2 = node → v.whole = true → v.failed = false) : w.waitsInput c level node = true := by
  have hin : j ∈ [2 * node, 2 * node + 1].filter fun j => !(cover (w.group c.group).members.length (level - 1) j).isEmpty := by
    refine List.mem_filter.2 ⟨?_, ?_⟩
    · simpa using hj
    · simpa using hcover
  have hany : (([2 * node, 2 * node + 1].filter fun j => !(cover (w.group c.group).members.length (level - 1) j).isEmpty).any
      fun j => w.inputSt c (level - 1) j == .pending) = true :=
    List.any_eq_true.2 ⟨j, hin, beq_iff_eq.2 hpending⟩
  have hnone : (c.inputs.any fun v => v.level + 1 == level && v.node / 2 == node && v.whole && v.failed) = false := by
    refine List.any_eq_false.2 fun v hv hbad => ?_
    simp only [Bool.and_eq_true, beq_iff_eq] at hbad
    obtain ⟨⟨⟨hl, hn⟩, hw⟩, hf⟩ := hbad
    rw [hgood v hv hl hn hw] at hf
    cases hf
  unfold World.waitsInput
  dsimp only
  rw [hany, hnone, hended]
  simp [hlevel]

/-- Settles O49: the messages by what the part holds of their collective, the timers by what the host waits for. -/
theorem collectiveFramesComplete : Obligations.CollectiveFramesComplete := by
  unfold Obligations.CollectiveFramesComplete
  intro s l h w hmine hlost member held running
  refine ⟨fun m hok hmember hprint hruns => ?_, fun m hok hmember hruns hintact => ?_, fun seq group level node first c x hok hc hx => ?_,
    fun group seq level node c hok hc => ?_, fun g seq level node c pos j hc hhosts hended hlevel hj hcover hpending hgood hbelow hnot hpos => ?_,
    fun g seq level node c hc hended hkind hhosts hinput hpending => ?_, fun g seq c m hc hended hhdr hkind hhosts hpending hinputs => ?_⟩
  · intro c hd hsame hintact hmissing old hnew mask vals v kept
    refine (State.collIn_ok hmine hlost hok _).trans (congrArg (fun w => Host.Outcome.next (s.withW w)) ?_)
    obtain ⟨k, rfl, -⟩ := World.receive_ok hok
    exact World.takeContrib_kept (w := s.w.setLink l k) hmember hprint hruns hsame hintact hmissing hnew
  · intro c hd first
    refine (State.collIn_ok hmine hlost hok _).trans (congrArg (fun w => Host.Outcome.next (s.withW w)) ?_)
    obtain ⟨k, rfl, -⟩ := World.receive_ok hok
    exact World.takeResult_passed (w := s.w.setLink l k) hmember hruns hintact
  · intro left
    refine (State.collIn_ok hmine hlost hok _).trans (congrArg (fun w => Host.Outcome.next (s.withW w)) ?_)
    obtain ⟨k, rfl, -⟩ := World.receive_ok hok
    exact World.takeAnswer_accepted (w := s.w.setLink l k) hc hx
  · refine (State.collIn_ok hmine hlost hok _).trans (congrArg (fun w => Host.Outcome.next (s.withW w)) ?_)
    obtain ⟨k, rfl, -⟩ := World.receive_ok hok
    have hheld : (s.w.setLink l k).coll group seq = some c := hc
    rw [hheld]
  · have hwaits : s.w.waitsInput c level node = true :=
      World.waitsInput_of_pending hended hlevel hj (by rw [(World.coll_key hc).1]; exact hcover) hpending hgood
    rw [exec, execKeepaliveSend, hc]
    dsimp only
    rw [if_pos (by rw [hlost, hhosts, hwaits, hnot]; simpa using hbelow), hpos]
  · rw [exec, execCollInputTimeout, hc]
    dsimp only
    rw [if_neg (by rw [hended, hlost]; decide), if_neg (by rw [hkind]; decide), if_pos (by rw [hhosts, hinput, hpending]; rfl)]
    split
    · rfl
    split <;> rfl
  · rw [exec, execCollInputTimeout, hc]
    dsimp only
    rw [if_neg (by rw [hended, hlost]; decide), if_pos (by rw [hhdr]; exact beq_iff_eq.2 hkind), hhdr]
    exact if_pos ⟨rfl, rfl, hhosts, beq_iff_eq.2 hpending, hinputs⟩

end Sys2Proof.Machine

/-! PROOFS. Contexts that move: saves, restores and invalidations (R235, R281, R291, R294). -/
namespace Sys2Proof.Machine

/-! ## What window writes leave of a core -/

/-- Where a core stands: what no window write changes. -/
def Core.place (k : Core) : CoreSt × Option Nat × (List Entry × List Entry × List Entry × List Entry) × Nat × List Word :=
  (k.state, k.savedCtx, (k.load, k.matrix, k.vector, k.store), k.nextIdx, k.regs)

/-- The contexts, their counters and where each core stands are as they were. -/
structure World.SamePlace (w u : World) : Prop where
  ctxs : u.ctxs = w.ctxs
  ctr : u.ctxCtr = w.ctxCtr
  place : ∀ c, (u.core c).place = (w.core c).place

namespace World.SamePlace

theorem refl (w : World) : w.SamePlace w := ⟨rfl, rfl, fun _ => rfl⟩

theorem trans {w u v : World} (a : w.SamePlace u) (b : u.SamePlace v) : w.SamePlace v :=
  ⟨b.ctxs.trans a.ctxs, b.ctr.trans a.ctr, fun c => (b.place c).trans (a.place c)⟩

theorem foldl {α : Type} {f : World → α → World} (h : ∀ (w : World) (x : α), w.SamePlace (f w x)) (l : List α) (w : World) : w.SamePlace (l.foldl f w) := by
  induction l generalizing w with
  | nil => exact .refl w
  | cons x l ih => exact (h w x).trans (ih _)

theorem ite {w u v : World} {p : Prop} [Decidable p] (a : w.SamePlace u) (b : w.SamePlace v) : w.SamePlace (if p then u else v) := by
  split
  · exact a
  · exact b

theorem ctx {w u : World} (h : w.SamePlace u) (n : Nat) : u.ctx n = w.ctx n := by rw [World.ctx, h.ctxs, World.ctx]

end World.SamePlace

theorem World.Side.samePlace {w u : World} (h : w.Side u) : w.SamePlace u := by
  refine ⟨h.fields.2.2.1, ?_, fun c => by rw [h.core]⟩
  obtain ⟨_, _, _, _, _, _, _, _, rfl⟩ := h
  rfl

theorem World.OnlyRead.samePlace {w u : World} (h : w.OnlyRead u) : w.SamePlace u := by
  refine ⟨by rw [h.rest], by rw [h.rest], fun c => ?_⟩
  rw [h.core c]
  rfl

theorem World.setCore_samePlace (w : World) (c : Nat) (k : Core) (h : k.place = (w.core c).place) : w.SamePlace (w.setCore c k) := by
  refine ⟨rfl, rfl, fun d => ?_⟩
  by_cases hd : d = c
  · rw [hd, World.core_setCore, h]
  · rw [World.core_setCore_ne _ _ hd]

theorem World.setWin_samePlace (w : World) (c i : Nat) (v : Window) : w.SamePlace (w.setWin c i v) := World.setCore_samePlace _ _ _ rfl

theorem World.writeCore_samePlace (w : World) (c : Nat) (n : Option Nat) (m : CoreMem) (bs : List BitWrite) : w.SamePlace (w.writeCore c n m bs) := by
  refine .ite (.refl w) (.trans (World.touch_touched ..).only.samePlace (World.setCore_samePlace _ _ _ ?_))
  split
  · cases m <;> rfl
  · cases m <;> rfl

theorem World.freeWin_samePlace (w : World) (c i inc : Nat) : w.SamePlace (w.freeWin c i inc) := by
  unfold World.freeWin
  exact (World.setWin_samePlace ..).trans (.foldl (fun w _ => (World.sendLink_side w ..).samePlace) _ _)

theorem World.raiseCtr_samePlace (w : World) (res : Tab Resid) (c ctr inc : Nat) : w.SamePlace (w.raiseCtr res c ctr inc) :=
  (World.setCore_samePlace w c ((w.core c).addCtr ctr inc) rfl).trans (.foldl (fun w _ => .ite (World.freeWin_samePlace ..) (.refl w)) _ _)

theorem World.discardWrite_samePlace (w : World) (l src : Nat) (x : WinWrite) (st : Nat) : w.SamePlace (w.discardWrite l src x st) :=
  ((World.setWin_samePlace ..).trans (World.sendLink_side ..).samePlace).trans (World.event_side ..).samePlace

theorem World.landed_samePlace (w w0 : World) (n lo len : Nat) : w.SamePlace (w.landed w0 n lo len) := by
  unfold World.landed
  dsimp only
  refine .trans ?_ (World.meetBus_side ..).samePlace
  exact ⟨rfl, rfl, fun _ => rfl⟩

theorem World.commitWrite_samePlace (w : World) (res : Tab Resid) (l src : Nat) (x : WinWrite) : w.SamePlace (w.commitWrite res l src x) := by
  unfold World.commitWrite
  dsimp only
  refine .trans ?_ (World.sendLink_side ..).samePlace
  split
  · exact World.setWin_samePlace ..
  · exact ((World.setWin_samePlace ..).trans (World.writeCore_samePlace ..)).trans (World.raiseCtr_samePlace ..)
  · exact ((World.setWin_samePlace ..).trans ((World.writeHbm_side ..).trans (World.hbmPut_side ..)).samePlace).trans (World.landed_samePlace ..)

theorem World.takeWrite_samePlace (w : World) (res : Tab Resid) (l src : Nat) (x : WinWrite) : w.SamePlace (w.takeWrite res l src x) := by
  have hout := World.discardWrite_samePlace w l src x
  unfold World.takeWrite
  exact .ite (hout _) (.ite (hout _) (.ite (hout _) (.ite (hout _) (.ite (hout _) (World.commitWrite_samePlace ..)))))

theorem World.setSeam_samePlace (w : World) (seam : Seam) : w.SamePlace { w with seam } := ⟨rfl, rfl, fun _ => rfl⟩

theorem World.unpark_samePlace (w : World) (res : Tab Resid) : w.SamePlace (w.unpark res) := by
  unfold World.unpark
  refine .trans (World.setSeam_samePlace w { w.seam with parked := [] }) (.foldl (fun w p => ?_) _ _)
  exact .ite (World.setSeam_samePlace ..) ((World.setLink_side ..).samePlace.trans (World.takeWrite_samePlace ..))

theorem World.unpark_of_none {w : World} (res : Tab Resid) (h : w.seam.parked = []) : w.unpark res = { w with seam := { w.seam with parked := [] } } := by
  rw [World.unpark, h]
  rfl

/-! ## Invalidations (R281) -/

section
variable (w : World) (n : Nat) (q : List Byte)

theorem World.dropTlb_cluster (k : Nat) : (w.dropTlb n q).cluster k = { w.cluster k with
    tlb := (w.cluster k).tlb.filter fun t => !t.dropped n q, walks := (w.cluster k).walks.filter fun t => !t.dropped n q } :=
  (Tab.get_map (fun v : Cluster => ({ v with tlb := v.tlb.filter fun t => !t.dropped n q, walks := v.walks.filter fun t => !t.dropped n q } : Cluster))
    {} w.clusters k).trans rfl

theorem World.dropTlb_port (p : Nat) : (w.dropTlb n q).port p = { w.port p with
    tlb := (w.port p).tlb.filter fun t => !t.dropped n q, walks := (w.port p).walks.filter fun t => !t.dropped n q } :=
  (Tab.get_map (fun v : HPort => ({ v with tlb := v.tlb.filter fun t => !t.dropped n q, walks := v.walks.filter fun t => !t.dropped n q } : HPort))
    {} w.ports p).trans rfl

end

theorem not_dropped_of_filtered {l m : List TlbEntry} {n : Nat} {q : List Byte} {x : TlbEntry}
    (h : x ∈ (l.filter fun t => !t.dropped n q) ++ m.filter fun t => !t.dropped n q) : x.dropped n q = false := by
  rw [← List.filter_append] at h
  simpa using (List.mem_filter.1 h).2

/-! ## Saves (R291) -/

theorem Resid.coreList_nodup (r : Resid) : r.coreList.Nodup := List.pairwise_map.2 (List.nodup_range.imp fun hne h => hne (Nat.add_left_cancel h))

/-- The cores of a list changed: each once, and nothing else of the world. -/
theorem World.foldl_setCore_at (f : Core → Core) {l : List Nat} (hl : l.Nodup) (w : World) :
    (∀ c ∈ l, (l.foldl (fun w c => w.setCore c (f (w.core c))) w).core c = f (w.core c)) ∧
      l.foldl (fun w c => w.setCore c (f (w.core c))) w = { w with cores := (l.foldl (fun w c => w.setCore c (f (w.core c))) w).cores } := by
  induction l generalizing w with
  | nil => exact ⟨nofun, rfl⟩
  | cons d l ih =>
    obtain ⟨hd, hl⟩ := List.nodup_cons.1 hl
    obtain ⟨hin, hrest⟩ := ih hl (w.setCore d (f (w.core d)))
    have hout : ∀ (l : List Nat) (u : World), d ∉ l → (l.foldl (fun w c => w.setCore c (f (w.core c))) u).core d = u.core d := by
      intro l
      induction l with
      | nil => exact fun _ _ => rfl
      | cons e l ih =>
        intro u h
        obtain ⟨hne, h⟩ := not_or.1 (mt List.mem_cons.2 h)
        exact (ih _ h).trans (World.core_setCore_ne _ _ hne)
    refine ⟨fun c hc => ?_, hrest⟩
    by_cases hcd : c = d
    · subst hcd
      exact (hout l _ hd).trans (World.core_setCore ..)
    · refine (hin c ((List.mem_cons.1 hc).resolve_left hcd)).trans ?_
      rw [World.core_setCore_ne _ _ hcd]

theorem World.clearGroup_holds (w : World) (r : Resid) :
    (∀ c ∈ r.coreList, (w.clearGroup r).core c = (w.core c).cleared) ∧ (w.clearGroup r).ctxs = w.ctxs ∧ (w.clearGroup r).seam = w.seam := by
  obtain ⟨hcores, hrest⟩ := World.foldl_setCore_at Core.cleared r.coreList_nodup w
  unfold World.clearGroup
  dsimp only
  generalize r.coreList.foldl (fun w c => w.setCore c (w.core c).cleared) w = u at hcores hrest ⊢
  have hchans := foldl_same (fun w : World => (w.cores, w.ctxs, w.seam)) (f := fun w d => w.setChan d (w.chan d).cleared) (fun _ _ => rfl) r.chans u
  generalize r.chans.foldl (fun w d => w.setChan d (w.chan d).cleared) u = v at hchans ⊢
  obtain ⟨hc, hx⟩ := Prod.mk.inj hchans
  obtain ⟨hx, hs⟩ := Prod.mk.inj hx
  refine ⟨fun c hmem => ?_, ?_, ?_⟩
  · rw [World.core, hc]
    exact hcores c hmem
  · rw [hx, hrest]
  · rw [hs, hrest]

/-- What a save of a core does: a read of its memories, then its image into the slot. -/
theorem World.saveCore_eq (w : World) (n j c : Nat) :
    ∃ (u : World) (len : Nat) (new : List Host.Cell) (bad : List Nat), w.OnlyRead u ∧ w.saveCore n j c = u.blit (coreImageBase n j) len new bad :=
  ⟨_, 491520, _, _, (World.touch_touched ..).only.trans (World.touch_touched ..).only, rfl⟩

theorem World.saveCore_same (w : World) (n j c : Nat) : (w.saveCore n j c).ctxs = w.ctxs ∧ (w.saveCore n j c).seam = w.seam := by
  obtain ⟨u, len, new, bad, hread, hsave⟩ := World.saveCore_eq w n j c
  have hblit := World.blit_side u (coreImageBase n j) len new bad
  rw [hsave]
  exact ⟨hblit.fields.2.2.1.trans hread.samePlace.ctxs, hblit.fields.2.2.2.2.1.trans hread.seam⟩

theorem World.landed_fields (w w0 : World) (n lo len : Nat) :
    (w.landed w0 n lo len).cores = w.cores ∧ (w.landed w0 n lo len).ctxs = w.ctxs ∧ (w.landed w0 n lo len).seam = w.seam := by
  unfold World.landed
  dsimp only
  generalize w0.busRange lo len = hit
  generalize EccMem.keepSome 64 w0.hbm.mem w.hbm.mem hit w.free = x
  have hside := World.meetBus_side { w with hbm := { w.hbm with mem := x.1 }, free := x.2 } (some n) hit
  exact ⟨hside.fields.1, hside.fields.2.2.1, hside.fields.2.2.2.2.1⟩

theorem World.saveCores_same (n base : Nat) (l : List Nat) (w : World) :
    (l.foldl (fun w j => w.saveCore n j (base + j)) w).ctxs = w.ctxs ∧ (l.foldl (fun w j => w.saveCore n j (base + j)) w).seam = w.seam := by
  induction l generalizing w with
  | nil => exact ⟨rfl, rfl⟩
  | cons j l ih =>
    obtain ⟨hctxs, hseam⟩ := ih (w.saveCore n j (base + j))
    obtain ⟨hctxs', hseam'⟩ := World.saveCore_same w n j (base + j)
    exact ⟨hctxs.trans hctxs', hseam.trans hseam'⟩

/-- What an image in the slot leaves. -/
theorem World.landed_put_fields (w w0 : World) (n lo len : Nat) (bs : List Byte) :
    ((w.hbmPut lo bs).landed w0 n lo len).cores = w.cores ∧ ((w.hbmPut lo bs).landed w0 n lo len).ctxs = w.ctxs ∧
      ((w.hbmPut lo bs).landed w0 n lo len).seam = w.seam := by
  obtain ⟨hcores, hctxs, hseam⟩ := World.landed_fields (w.hbmPut lo bs) w0 n lo len
  have hput := World.hbmPut_side w lo bs
  exact ⟨hcores.trans hput.fields.1, hctxs.trans hput.fields.2.2.1, hseam.trans hput.fields.2.2.2.2.1⟩

theorem State.withW_thrice (s : State) (u v x : World) : ((s.withW u).withW v).withW x = s.withW x := rfl

theorem State.saveCtx_withW (s : State) (n : Nat) : ∃ u, s.saveCtx n = s.withW u := by
  unfold State.saveCtx State.putHeader
  dsimp only
  exact ⟨_, State.withW_thrice ..⟩

theorem State.saveCtx_rest (s : State) (n : Nat) : s.saveCtx n = { s with w := (s.saveCtx n).w } := by
  obtain ⟨u, hu⟩ := State.saveCtx_withW s n
  rw [hu]
  rfl

theorem State.ofWorld_saved {s : State} {n saves : Nat} {seam : Seam} {l : List Nat} {w : World} (hsaves : (w.ctx n).saves = saves)
    (hcores : ∀ c ∈ l, ∃ k : Core, w.core c = { k.cleared with savedCtx := some n }) (hseam : w.seam = seam) :
    ((s.withW w).w.ctx n).saves = saves ∧ (∀ c ∈ l, ∃ k : Core, (s.withW w).w.core c = { k.cleared with savedCtx := some n }) ∧
      (s.withW w).w.seam = seam := ⟨hsaves, hcores, hseam⟩

/-- A save counts itself, and leaves the group's cores cleared and named after the context. -/
theorem State.saveCtx_holds (s : State) (n : Nat) :
    ((s.saveCtx n).w.ctx n).saves = bump 32 (s.w.ctx n).saves 1 ∧
      (∀ c ∈ (s.ent n).coreList, ∃ k : Core, (s.saveCtx n).w.core c = { k.cleared with savedCtx := some n }) ∧ (s.saveCtx n).w.seam = s.w.seam := by
  unfold State.saveCtx State.putHeader
  dsimp only
  rw [State.withW_thrice]
  generalize dmaImageBase n = at_
  generalize slotBase n = base
  generalize 0x20000000 = len
  obtain ⟨hctxs, hseam⟩ := World.saveCores_same n (s.ent n).core0 (List.range (s.ent n).cores) s.w
  generalize (List.range (s.ent n).cores).foldl (fun w j => w.saveCore n j ((s.ent n).core0 + j)) s.w = w1 at hctxs hseam ⊢
  have hput := World.hbmPut_side w1 at_ ((s.ent n).chans.flatMap fun d => (w1.chan d).image (s.ent n).core0)
  generalize w1.hbmPut at_ ((s.ent n).chans.flatMap fun d => (w1.chan d).image (s.ent n).core0) = w2 at hput ⊢
  have hsaves : (w2.ctx n).saves = (s.w.ctx n).saves := by rw [hput.ctx, World.ctx, hctxs, World.ctx]
  generalize hw3 : w2.setCtx n _ = w3
  have hw3ctx : (w3.ctx n).saves = bump 32 (s.w.ctx n).saves 1 := by
    rw [← hw3, World.ctx_setCtx, hsaves]
  have hw3seam : w3.seam = s.w.seam := hw3 ▸ hput.fields.2.2.2.2.1.trans hseam
  obtain ⟨hclear, hclearctx, hclearseam⟩ := World.clearGroup_holds w3 (s.ent n)
  generalize w3.clearGroup (s.ent n) = w4 at hclear hclearctx hclearseam ⊢
  obtain ⟨hnamed, hrest⟩ := World.foldl_setCore_at (fun k => { k with savedCtx := some n }) (s.ent n).coreList_nodup w4
  generalize (s.ent n).coreList.foldl (fun w c => w.setCore c { w.core c with savedCtx := some n }) w4 = w5 at hnamed hrest ⊢
  generalize hw6 : ({ w5 with ctxCtr := _, free := _ } : World) = w6
  obtain ⟨hcores, hctxs', hseam'⟩ := World.landed_put_fields w6 s.w n base len ((w6.ctx n).header (s.ent n).cores)
  refine (State.ofWorld_saved (w := (w6.hbmPut base ((w6.ctx n).header (s.ent n).cores)).landed s.w n base len) ?_ (fun c hc => ⟨w3.core c, ?_⟩) ?_ : _)
  · rw [World.ctx, hctxs', ← hw6, hrest, hclearctx]
    exact hw3ctx
  · rw [World.core, hcores, ← hw6, ← hclear c hc]
    exact hnamed c hc
  · rw [hseam', ← hw6, hrest, hclearseam, hw3seam]

/-! ## Restores (R294) -/

/-- HBM's bytes, the contexts' holds and the count of restores are as they were. -/
structure World.Probes (w u : World) : Prop where
  cells : u.hbm.mem.cells = w.hbm.mem.cells
  hold : ∀ n, (u.ctx n).hold = (w.ctx n).hold
  restores : u.ctxCtr.restores = w.ctxCtr.restores

namespace World.Probes

theorem refl (w : World) : w.Probes w := ⟨rfl, fun _ => rfl, rfl⟩

theorem trans {w u v : World} (a : w.Probes u) (b : u.Probes v) : w.Probes v :=
  ⟨b.cells.trans a.cells, fun n => (b.hold n).trans (a.hold n), b.restores.trans a.restores⟩

theorem foldl {α : Type} {f : World → α → World} (h : ∀ (w : World) (x : α), w.Probes (f w x)) (l : List α) (w : World) : w.Probes (l.foldl f w) := by
  induction l generalizing w with
  | nil => exact .refl w
  | cons x l ih => exact (h w x).trans (ih _)

theorem range {w u : World} (h : w.Probes u) (a n : Nat) : u.hbmRange a n = w.hbmRange a n := by rw [World.hbmRange, h.cells, World.hbmRange]

end World.Probes

theorem World.SamePlace.probes {w u : World} (h : w.SamePlace u) (hcells : u.hbm.mem.cells = w.hbm.mem.cells) : w.Probes u :=
  ⟨hcells, fun n => by rw [h.ctx], by rw [h.ctr]⟩

theorem World.Side.probes {w u : World} (h : w.Side u) (hcells : u.hbm.mem.cells = w.hbm.mem.cells) : w.Probes u := h.samePlace.probes hcells

theorem World.OnlyRead.probes {w u : World} (h : w.OnlyRead u) : w.Probes u := h.samePlace.probes h.cells

theorem World.event_probes (w : World) (code idx sub die : Nat) (ctx : Option Nat) (st : Nat) (p : List Byte) : w.Probes (w.event code idx sub die ctx st p) :=
  (World.event_side ..).probes rfl

theorem World.raise_probes (w : World) (cls unit status inst : Nat) (ctx : Option Nat) (die addr : Nat) (detail : List Byte) :
    w.Probes (w.raise cls unit status inst ctx die addr detail) := (World.raise_side ..).probes (World.raise_reads ..).cells

theorem World.putWalker_probes (w : World) (k n : Nat) (x : Walker) : w.Probes (w.putWalker k n x) := by
  unfold World.putWalker
  dsimp only
  refine .trans ?_ (World.onlyRead_readBlocks ..).probes
  refine .trans ?_ ((World.meetBus_side ..).probes (World.meetBus_cells ..))
  exact ⟨rfl, fun _ => rfl, rfl⟩

theorem World.setCtx_probes (w : World) (n : Nat) (x : Ctx) (h : x.hold = (w.ctx n).hold) : w.Probes (w.setCtx n x) := by
  refine ⟨rfl, fun m => ?_, rfl⟩
  by_cases hm : m = n
  · rw [hm, World.ctx_setCtx, h]
  · rw [World.ctx_setCtx_ne _ _ hm]

theorem World.reportFault_probes (w : World) (n va : Nat) (f : XFault) (q : XSource) : w.Probes (w.reportFault n va f q) := by
  unfold World.reportFault
  dsimp only
  refine .trans ?_ (World.event_probes ..)
  generalize hu : w.setCtx n _ = u
  have hctx : w.Probes u := hu ▸ World.setCtx_probes w n _ (by rfl)
  have hcount : w.Probes { u with ctxCtr := { u.ctxCtr with xlateFaults := bump 64 u.ctxCtr.xlateFaults 1 } } := hctx.trans ⟨rfl, fun _ => rfl, rfl⟩
  split
  · exact hcount.trans (World.raise_probes ..)
  · exact hcount

theorem World.checkPage_probes (w : World) (n k root va : Nat) (wr : Bool) (access num : Nat) : w.Probes (w.checkPage n k root va wr access num).2 := by
  unfold World.checkPage
  dsimp only
  split
  · exact World.putWalker_probes ..
  split
  · exact World.putWalker_probes ..
  · exact (World.putWalker_probes ..).trans (World.reportFault_probes ..)

/-- A check that runs where those before it passed. -/
def andCheck (a : Option Nat × World) (f : World → Option Nat × World) : Option Nat × World := match a.1 with | some _ => a | none => f a.2

theorem andCheck_probes {w : World} {a : Option Nat × World} {f : World → Option Nat × World} (ha : w.Probes a.2) (hf : ∀ u : World, u.Probes (f u).2) :
    w.Probes (andCheck a f).2 := by
  unfold andCheck
  split
  · exact ha
  · exact ha.trans (hf _)

/-- The check of a core's ring slot. -/
def ringCheck (n : Nat) (r : Resid) (j : Nat) (w : World) : Option Nat × World :=
  w.checkPage n (r.first + j / 16) r.root (ringAddr r j (leNat (w.hbmBytes (coreImageBase n j + 8) 4))) false 2 (r.core0 + j)

theorem World.checkRings_eq (w : World) (n : Nat) (r : Resid) : w.checkRings n r =
    andCheck (andCheck ((List.range r.cores).foldl (fun a j => andCheck a (ringCheck n r j)) (none, w))
      fun w => w.checkPage n r.first r.root (r.comp + 16 * ((w.ctx n).prod % 2 ^ r.clog)) true 3 r.core0)
      fun w => w.checkPage n r.first r.root r.compIdx true 3 r.core0 := rfl

theorem World.checkRings_probes (w : World) (n : Nat) (r : Resid) : w.Probes (w.checkRings n r).2 := by
  have hcores : ∀ (l : List Nat) (a : Option Nat × World), w.Probes a.2 → w.Probes (l.foldl (fun a j => andCheck a (ringCheck n r j)) a).2 := by
    intro l
    induction l with
    | nil => exact fun _ h => h
    | cons j l ih => exact fun a h => ih _ (andCheck_probes h fun u => World.checkPage_probes ..)
  rw [World.checkRings_eq]
  exact andCheck_probes (andCheck_probes (hcores _ _ (.refl w)) fun u => World.checkPage_probes ..) fun u => World.checkPage_probes ..

theorem Core.ofImage_holds (k : Core) (m : EccMem) (a : Nat) (control stream : List Byte) (held : Option HeldCore) (tail free : Nat) :
    (k.ofImage m a control stream held tail free).nextIdx = le control 8 4 ∧
      (k.ofImage m a control stream held tail free).regs = 0 :: (List.range 31).map (fun i => BitVec.ofNat 64 (le control (72 + 8 * i) 8)) := ⟨rfl, rfl⟩

theorem World.restorePoison_side (w : World) (n c a : Nat) (bad : List Nat) : w.Side (w.restorePoison n c a bad) :=
  .foldl (fun w _ => World.raise_side w ..) bad w

theorem World.restorePoison_probes (w : World) (n c a : Nat) (bad : List Nat) : w.Probes (w.restorePoison n c a bad) :=
  .foldl (fun w _ => World.raise_probes w ..) bad w

theorem World.readRange_probes (w : World) (n : Option Nat) (lo k : Nat) : w.Probes (w.readRange n lo k) := (World.onlyRead_readRange ..).probes

/-- What a restore of a core does: a read of its image, the core as the image brings it back, and a record for each poisoned block. -/
theorem World.restoreCore_eq (w : World) (n j c : Nat) : ∃ (len more : Nat) (stream : List Byte) (held : Option HeldCore) (bad : List Nat),
    let u := w.readRange (some n) (coreImageBase n j) len
    w.restoreCore n j c = ({ u.setCore c ((u.core c).ofImage u.hbm.mem (coreImageBase n j) (u.hbmRange (coreImageBase n j) 6656) stream held
      (u.ctx n).tail u.free) with free := u.free + more } : World).restorePoison n c (coreImageBase n j) bad :=
  ⟨491520, 32, _, _, _, rfl⟩

/-- The core as restored, with a record for each poisoned block. -/
theorem World.putRestored_holds (w : World) (n c a more : Nat) (k : Core) (bad : List Nat) :
    let u := World.restorePoison { w.setCore c k with free := w.free + more } n c a bad
    w.Probes u ∧ u.core c = k ∧ ∀ d, d ≠ c → u.core d = w.core d := by
  intro u
  have hput : w.Probes { w.setCore c k with free := w.free + more } := ⟨rfl, fun _ => rfl, rfl⟩
  have hside := World.restorePoison_side { w.setCore c k with free := w.free + more } n c a bad
  refine ⟨hput.trans (World.restorePoison_probes ..), ?_, fun d hd => ?_⟩
  · exact (hside.core c).trans (World.core_setCore w c k)
  · exact (hside.core d).trans (World.core_setCore_ne w k hd)

/-- A core restored goes on at the index and with the registers of its image; no other core changes. -/
theorem World.restoreCore_holds (w : World) (n j c : Nat) :
    w.Probes (w.restoreCore n j c) ∧ ((w.restoreCore n j c).core c).nextIdx = le (w.hbmRange (coreImageBase n j) 6656) 8 4 ∧
      ((w.restoreCore n j c).core c).regs =
        0 :: (List.range 31).map (fun i => BitVec.ofNat 64 (le (w.hbmRange (coreImageBase n j) 6656) (72 + 8 * i) 8)) ∧
      ∀ d, d ≠ c → (w.restoreCore n j c).core d = w.core d := by
  obtain ⟨len, more, stream, held, bad, heq⟩ := World.restoreCore_eq w n j c
  have hread := World.readRange_probes w (some n) (coreImageBase n j) len
  have hside := World.readRange_side w (some n) (coreImageBase n j) len
  obtain ⟨hprobes, hcore, hothers⟩ := World.putRestored_holds (w.readRange (some n) (coreImageBase n j) len) n c (coreImageBase n j) more
    (((w.readRange (some n) (coreImageBase n j) len).core c).ofImage (w.readRange (some n) (coreImageBase n j) len).hbm.mem (coreImageBase n j)
      ((w.readRange (some n) (coreImageBase n j) len).hbmRange (coreImageBase n j) 6656) stream held
      ((w.readRange (some n) (coreImageBase n j) len).ctx n).tail (w.readRange (some n) (coreImageBase n j) len).free) bad
  rw [← heq] at hprobes hcore hothers
  refine ⟨hread.trans hprobes, ?_, ?_, fun d hd => (hothers d hd).trans (hside.core d)⟩
  · rw [hcore, (Core.ofImage_holds ..).1, hread.range]
  · rw [hcore, (Core.ofImage_holds ..).2, hread.range]

/-- The group's cores restored. -/
theorem World.restoreCores_holds (n base count : Nat) (w : World) :
    w.Probes ((List.range count).foldl (fun w j => w.restoreCore n j (base + j)) w) ∧
      ∀ j, j < count → (((List.range count).foldl (fun w j => w.restoreCore n j (base + j)) w).core (base + j)).nextIdx =
          le (w.hbmRange (coreImageBase n j) 6656) 8 4 ∧
        (((List.range count).foldl (fun w j => w.restoreCore n j (base + j)) w).core (base + j)).regs =
          0 :: (List.range 31).map fun i => BitVec.ofNat 64 (le (w.hbmRange (coreImageBase n j) 6656) (72 + 8 * i) 8) := by
  induction count with
  | zero => exact ⟨.refl w, fun j hj => absurd hj (Nat.not_lt_zero j)⟩
  | succ count ih =>
    obtain ⟨hprobes, hcores⟩ := ih
    rw [List.range_succ, List.foldl_append, List.foldl_cons, List.foldl_nil]
    generalize (List.range count).foldl (fun w j => w.restoreCore n j (base + j)) w = u at hprobes hcores ⊢
    obtain ⟨hlast, hnext, hregs, hothers⟩ := World.restoreCore_holds u n count (base + count)
    refine ⟨hprobes.trans hlast, fun j hj => ?_⟩
    obtain hlt | rfl := Nat.lt_succ_iff_lt_or_eq.1 hj
    · rw [hothers _ (by omega)]
      exact hcores j hlt
    · rw [hnext, hregs, hprobes.range]
      exact ⟨rfl, rfl⟩

theorem World.restoreChans_samePlace (w : World) (n : Nat) (r : Resid) : w.SamePlace (w.restoreChans n r) := by
  unfold World.restoreChans
  refine .foldl (fun w i => ?_) _ w
  dsimp only
  refine .ite ?_ ?_
  · exact .trans (u := w.setChan (8 * r.first + i) _) ⟨rfl, rfl, fun _ => rfl⟩ (World.event_side ..).samePlace
  · exact ⟨rfl, rfl, fun _ => rfl⟩

theorem World.goChans_samePlace (w : World) (n : Nat) (r : Resid) : w.SamePlace (w.goChans n r) :=
  .foldl (fun w _ => .ite (World.event_side ..).samePlace (.refl w)) _ w

/-- The end of a restore, from the world `u` in which its cores were restored: its channels, the context RESIDENT, and what waited. -/
def State.restored (s : State) (n : Nat) (r : Resid) (u : World) : State :=
  let x := u.restoreChans n r
  let y := { x.setCtx n { x.ctx n with held := [], heldPoison := [], heldNext := [], lanes := laneCount, epoch := (x.core r.core0).stream.epoch } with
    ctxCtr := { x.ctxCtr with restores := bump 64 x.ctxCtr.restores 1 } }
  let z := (s.withW y).ctxTo n .resident .stay
  ((z.withW (z.w.goChans n r)).withW ((z.w.goChans n r).resolve (.ctx n) stOk [])).unparked

theorem State.restored_holds {s : State} {n : Nat} (r : Resid) {u : World} (hhold : (u.ctx n).hold = 0) :
    s.restored n r u = { s with res := (s.restored n r u).res, w := (s.restored n r u).w } ∧
      (s.restored n r u).res = s.res.set n { s.ent n with st := .resident, after := .stay } ∧
      ((s.restored n r u).w.ctx n).hold = 0 ∧ ((s.restored n r u).w.ctx n).held = [] ∧
      (s.restored n r u).w.ctxCtr.restores = bump 64 u.ctxCtr.restores 1 ∧ ∀ c, ((s.restored n r u).w.core c).place = (u.core c).place := by
  unfold State.restored
  dsimp only
  have hchans := World.restoreChans_samePlace u n r
  generalize u.restoreChans n r = x at hchans ⊢
  generalize hy : ({ x.setCtx n _ with ctxCtr := _ } : World) = y
  have hcores : y.cores = x.cores := hy ▸ rfl
  have hctr : y.ctxCtr.restores = bump 64 x.ctxCtr.restores 1 := hy ▸ rfl
  have hctx : y.ctx n = { x.ctx n with held := [], heldPoison := [], heldNext := [], lanes := laneCount, epoch := (x.core r.core0).stream.epoch } :=
    hy ▸ World.ctx_setCtx x n _
  have hres := State.ctxTo_side (s.withW y) n .resident .stay
  have hrest : (s.withW y).ctxTo n .resident .stay = { s with
      res := s.res.set n { s.ent n with st := .resident, after := .stay }, w := ((s.withW y).ctxTo n .resident .stay).w } := rfl
  generalize (s.withW y).ctxTo n .resident .stay = z at hres hrest ⊢
  have hend : y.SamePlace (((z.withW (z.w.goChans n r)).withW ((z.w.goChans n r).resolve (.ctx n) stOk [])).unparked).w :=
    hres.samePlace.trans ((World.goChans_samePlace z.w n r).trans ((World.resolve_side (z.w.goChans n r) ..).samePlace.trans (World.unpark_samePlace ..)))
  refine ⟨?_, congrArg State.res hrest, ?_, ?_, ?_,
    fun c => (hend.place c).trans (Eq.trans ?_ (hchans.place c))⟩
  · rw [hrest]
    rfl
  · rw [hend.ctx, hctx]
    exact (congrArg Ctx.hold (hchans.ctx n)).trans hhold
  · rw [hend.ctx, hctx]
  · rw [hend.ctr, hctr, hchans.ctr]
  · rw [World.core, hcores, World.core]

theorem execPreemptSave_stay {s : State} {n : CtxId} (hpart : s.ctl.part = .ready) (hst : (s.ent n).st = .saving) (hafter : (s.ent n).after = .stay)
    (hdrained : s.w.drained (s.ent n) = true) (hruns : s.w.groupRuns (s.ent n) = true) (hwaits : ∀ c ∈ (s.ent n).coreList, (s.w.core c).stepWait = false)
    (hsnap : s.w.snap.st ≠ .copying) (hck : (s.w.ctx n).ck.st ≠ .reading) :
    execPreemptSave n s = .next ((((s.saveCtx n).ctxTo n .saved .stay).withW
      (((s.saveCtx n).ctxTo n .saved .stay).w.resolve (.ctx n) stOk [])).unparked) := by
  have hnowait : ((s.ent n).coreList.any fun c => (s.w.core c).stepWait) = false :=
    List.any_eq_false.2 fun c hc => by rw [hwaits c hc]; decide
  unfold execPreemptSave
  dsimp only
  rw [if_pos ⟨hpart, hst, hdrained, hruns, hnowait, hsnap, hck⟩, hafter]

/-- The context SAVED, its cores idle; what window writes that waited did is in their memories, windows and counters only. -/
theorem State.saved_holds {s x : State} {n : Nat} (hrest : x = { s with w := x.w }) (hsaves : (x.w.ctx n).saves = bump 32 (s.w.ctx n).saves 1)
    (hcores : ∀ c ∈ (s.ent n).coreList, ∃ k : Core, x.w.core c = { k.cleared with savedCtx := some n }) (hseam : x.w.seam = s.w.seam) :
    let t := ((x.ctxTo n .saved .stay).withW ((x.ctxTo n .saved .stay).w.resolve (.ctx n) stOk [])).unparked
    t = { s with res := t.res, w := t.w } ∧ (t.ent n).st = .saved ∧ (t.ent n).cfg = (s.ent n).cfg ∧ (∀ m, m ≠ n → t.ent m = s.ent m) ∧
      (t.w.ctx n).saves = ((s.w.ctx n).saves + 1) % 2 ^ 32 ∧
      (∀ c ∈ (s.ent n).coreList, (t.w.core c).state = .idle ∧ (t.w.core c).savedCtx = some n ∧ (t.w.core c).load = [] ∧ (t.w.core c).matrix = [] ∧
        (t.w.core c).vector = [] ∧ (t.w.core c).store = []) ∧
      (s.w.seam.parked = [] → ∀ c ∈ (s.ent n).coreList, ∀ a, Cells.get (t.w.core c).sp.cells a = 0) := by
  intro t
  have hside : x.w.Side ((x.ctxTo n .saved .stay).w.resolve (.ctx n) stOk []) := (State.ctxTo_side ..).trans (World.resolve_side ..)
  have hunpark := World.unpark_samePlace ((x.ctxTo n .saved .stay).w.resolve (.ctx n) stOk []) (x.ctxTo n .saved .stay).res
  have hsame : x.w.SamePlace t.w := hside.samePlace.trans hunpark
  have hres : x.res = s.res := by rw [hrest]
  refine ⟨?_, ?_, ?_, fun m hm => ?_, ?_, fun c hc => ?_, fun hparked c hc a => ?_⟩
  · have ht : t = { x with res := t.res, w := t.w } := rfl
    exact ht.trans ((congrArg (fun y : State => ({ y with res := t.res, w := t.w } : State)) hrest).trans rfl)
  · exact congrArg Resid.st (State.ctxTo_ent x n .saved .stay)
  · refine (congrArg Resid.cfg (State.ctxTo_ent x n .saved .stay)).trans ?_
    rw [State.ent, hres, State.ent]
  · refine (State.ent_setEnt_ne x _ hm).trans ?_
    rw [State.ent, hres, State.ent]
  · exact (congrArg Ctx.saves (hsame.ctx n)).trans hsaves
  · obtain ⟨k, hk⟩ := hcores c hc
    have hplace := (hsame.place c).trans (congrArg Core.place hk)
    simp only [Core.place, Core.cleared, Prod.mk.injEq] at hplace
    obtain ⟨hstate, hsaved, ⟨hload, hmatrix, hvector, hstore⟩, -, -⟩ := hplace
    exact ⟨hstate, hsaved, hload, hmatrix, hvector, hstore⟩
  · obtain ⟨k, hk⟩ := hcores c hc
    have hnone : ((x.ctxTo n .saved .stay).w.resolve (.ctx n) stOk []).seam.parked = [] := by
      rw [hside.fields.2.2.2.2.1, hseam, hparked]
    have hcore : t.w.core c = x.w.core c := (congrArg (World.core · c) (World.unpark_of_none _ hnone)).trans (hside.core c)
    rw [hcore, hk]
    rfl

/-- A restore that meets no fault runs to its end. -/
theorem execContextRestore_restored {s : State} {n : CtxId} (hpart : s.ctl.part = .ready) (hst : (s.ent n).st = .restoring)
    (hruns : s.w.groupRuns (s.ent n) = true) :
    let r := s.ent n
    let w := (controlRanges n r).foldl (fun w x => w.readRange (some n) x.1 x.2) s.w
    let h := w.hbmRange (slotBase n) 64
    le h 0 2 = 1 → le h 2 2 = laneCount → le h 4 2 = r.cores → (∀ x ∈ controlRanges n r, w.badBlocks x.1 x.2 = []) →
      (∀ x ∈ restoreRanges n r, s.w.busRange x.1 x.2 = []) → (w.checkRings n r).1 = none →
      let u := (List.range r.cores).foldl (fun w j => w.restoreCore n j (r.core0 + j)) (w.checkRings n r).2
      (u.ctx n).hold = 0 → execContextRestore n s = .next (s.restored n r u) := by
  intro r w h hmagic hlanes hcount hgood hbus hrings u hhold
  have hlost : (restoreRanges n r).flatMap (fun x => s.w.busRange x.1 x.2) = [] := List.flatMap_eq_nil_iff.2 hbus
  have hbad : (controlRanges n r).flatMap (fun x => w.badBlocks x.1 x.2) = [] := List.flatMap_eq_nil_iff.2 hgood
  have halien : (le h 2 2 != laneCount) = false := by rw [hlanes]; exact bne_self_eq_false _
  have hdone : ((s.restored n r u).w.ctx n).hold ≠ 1 := by
    rw [(State.restored_holds r hhold).2.2.1]
    decide
  unfold execContextRestore
  dsimp only
  rw [if_pos ⟨hpart, hst, hruns⟩, hlost, if_neg (by decide), if_neg (not_or.2 ⟨Classical.not_not.2 hmagic, Classical.not_not.2 hcount⟩), if_neg (by rw [halien]; simp), hbad]
  have hpass : w.checkRings n r = (none, (w.checkRings n r).2) := Prod.ext hrings rfl
  dsimp only
  rw [hpass]
  dsimp only
  rw [halien]
  exact congrArg Host.Outcome.next (if_neg hdone)

theorem World.readRanges_probes (n : Option Nat) (l : List (Nat × Nat)) (w : World) : w.Probes (l.foldl (fun w x => w.readRange n x.1 x.2) w) := by
  induction l generalizing w with
  | nil => exact .refl w
  | cons x l ih => exact (World.readRange_probes w n x.1 x.2).trans (ih _)

/-- A core goes on at the index and with the registers of an image. -/
def Core.FromImage (k : Core) (control : List Byte) : Prop :=
  k.nextIdx = le control 8 4 ∧ k.regs = 0 :: (List.range 31).map fun i => BitVec.ofNat 64 (le control (72 + 8 * i) 8)

theorem World.restoreAll_holds {s w : World} {n : Nat} (r : Resid) (hread : s.Probes w) :
    let u := (List.range r.cores).foldl (fun w j => w.restoreCore n j (r.core0 + j)) (w.checkRings n r).2
    s.Probes u ∧ ∀ j, j < r.cores → (u.core (r.core0 + j)).FromImage (s.hbmRange (coreImageBase n j) 6656) := by
  intro u
  have hprobes := hread.trans (World.checkRings_probes w n r)
  obtain ⟨hback, hcores⟩ := World.restoreCores_holds n r.core0 r.cores (w.checkRings n r).2
  refine ⟨hprobes.trans hback, fun j hj => ?_⟩
  rw [← hprobes.range]
  exact hcores j hj

theorem State.restored_resident {s : State} {n : Nat} (r : Resid) {u : World} (hprobes : s.w.Probes u)
    (hcores : ∀ j, j < r.cores → (u.core (r.core0 + j)).FromImage (s.w.hbmRange (coreImageBase n j) 6656)) (hhold : (s.w.ctx n).hold = 0) :
    s.restored n r u = { s with res := (s.restored n r u).res, w := (s.restored n r u).w } ∧
      (s.restored n r u).ent n = { s.ent n with st := .resident, after := .stay } ∧ (∀ m, m ≠ n → (s.restored n r u).ent m = s.ent m) ∧
      ((s.restored n r u).w.ctx n).held = [] ∧ (s.restored n r u).w.ctxCtr.restores = (s.w.ctxCtr.restores + 1) % 2 ^ 64 ∧
      ∀ j, j < r.cores → ((s.restored n r u).w.core (r.core0 + j)).FromImage (s.w.hbmRange (coreImageBase n j) 6656) := by
  obtain ⟨hrest, hres, -, hheld, hrestores, hplace⟩ := State.restored_holds (s := s) r ((hprobes.hold n).trans hhold)
  have hent : ∀ m, (s.restored n r u).ent m = (s.setEnt n { s.ent n with st := .resident, after := .stay }).ent m :=
    fun m => congrArg (fun t : Tab Resid => Tab.get ({} : Resid) t m) hres
  generalize s.restored n r u = t at hrest hheld hrestores hplace hent ⊢
  refine ⟨hrest, (hent n).trans (State.ent_setEnt ..), fun m hm => (hent m).trans (State.ent_setEnt_ne _ _ hm), hheld, ?_, fun j hj => ?_⟩
  · rw [hrestores, hprobes.restores]
    rfl
  · obtain ⟨hnext, hregs⟩ := hcores j hj
    have hj' := hplace (r.core0 + j)
    simp only [Core.place, Prod.mk.injEq] at hj'
    obtain ⟨-, -, -, hnext', hregs'⟩ := hj'
    exact ⟨hnext'.trans hnext, hregs'.trans hregs⟩

/-- An invalidation drops what it names, keeps the rest, and counts itself (R281). -/
theorem execTlbInvalidateComplete_holds {s : State} {n : CtxId} {q : List Byte} {rest : List (List Byte)} (hq : (s.w.ctx n).invq = q :: rest)
    (hfree : s.w.pageInUse (s.ent n) q = false) :
    ∃ t, execTlbInvalidateComplete n s = .next t ∧ t = { s with w := t.w } ∧ (t.w.ctx n).invq = rest ∧
      (t.w.ctx n).invDone = ((s.w.ctx n).invDone + 1) % 2 ^ 32 ∧ (∀ k, t.w.cluster k = (s.w.dropTlb n q).cluster k) ∧
      (∀ p, t.w.port p = (s.w.dropTlb n q).port p) ∧ t.w.hbm = s.w.hbm ∧ t.w.cores = s.w.cores := by
  unfold execTlbInvalidateComplete
  dsimp only
  rw [hq]
  dsimp only
  rw [if_neg (by rw [hfree]; decide)]
  generalize hu : (s.w.dropTlb n q).setCtx n _ = u
  have hctx : u.ctx n = { s.w.ctx n with invq := rest, invDone := bump 32 (s.w.ctx n).invDone 1 } := hu ▸ World.ctx_setCtx ..
  have hside := World.event_side u 0x0103 (0x3100 + n) 0x0B dieNone (some n) stOk (leBytes 4 (bump 32 (s.w.ctx n).invDone 1))
  refine ⟨_, rfl, rfl, ?_, ?_, fun k => ?_, fun p => ?_, ?_, ?_⟩
  · exact (congrArg Ctx.invq (hside.ctx n)).trans (congrArg Ctx.invq hctx)
  · exact (congrArg Ctx.invDone (hside.ctx n)).trans (congrArg Ctx.invDone hctx)
  · exact (hside.cluster k).trans (by rw [← hu]; rfl)
  · exact (hside.at_ p).2.2.2.2.2.1.trans (by rw [← hu]; rfl)
  · rw [← hu]
    rfl
  · exact hside.fields.1.trans (by rw [← hu]; rfl)

/-- Settles O43: what a save, a restore and an invalidation change, and what the window writes that waited leave of it. -/
theorem contextMovesComplete : Obligations.ContextMovesComplete := by
  unfold Obligations.ContextMovesComplete
  intro s n
  refine ⟨fun hpart hst hafter hdrained hruns hwaits hsnap hck => ?_, fun hpart hst hruns hhold => ?_, fun q rest hq hfree => ?_, rfl⟩
  · obtain ⟨hsaves, hcores, hseam⟩ := State.saveCtx_holds s n
    exact ⟨_, execPreemptSave_stay hpart hst hafter hdrained hruns hwaits hsnap hck, State.saved_holds (State.saveCtx_rest s n) hsaves hcores hseam⟩
  · intro r w h hmagic hlanes hcount hgood hbus hrings
    have hread : s.w.Probes w := World.readRanges_probes (some n) (controlRanges n r) s.w
    obtain ⟨hprobes, hcores⟩ := World.restoreAll_holds (n := n) r hread
    have hrun := execContextRestore_restored hpart hst hruns hmagic hlanes hcount hgood hbus hrings ((hprobes.hold n).trans hhold)
    obtain ⟨hrest, hent, hothers, hheld, hrestores, hplaces⟩ := State.restored_resident r hprobes hcores hhold
    exact ⟨_, hrun, hrest, by rw [hent], by rw [hent], hothers, hrestores, hheld, hplaces⟩
  · obtain ⟨t, ht, hrest, hqueue, hdone, hclusters, hports, hhbm, hcores⟩ := execTlbInvalidateComplete_holds hq hfree
    refine ⟨t, ht, hrest, hqueue, hdone, fun k x hx => ?_, fun p x hx => ?_, fun k x hx hkeep => ?_, hhbm, hcores⟩
    · rw [hclusters, World.dropTlb_cluster] at hx
      exact not_dropped_of_filtered hx
    · rw [hports, World.dropTlb_port] at hx
      exact not_dropped_of_filtered hx
    · rw [hclusters, World.dropTlb_cluster]
      exact List.mem_filter.2 ⟨hx, by rw [hkeep]; rfl⟩

end Sys2Proof.Machine

/-! PROOFS. CROWN records: arrival at the group, the start of a phase, its end (R92–R94). -/
namespace Sys2Proof.Machine

/-! ## What a phase's end touches -/

/-- Nothing of the Crown or of HBM differs, and no core but those of a list. -/
structure World.Within (cs : List Nat) (w u : World) : Prop where
  crown : u.crown = w.crown
  hbm : u.hbm = w.hbm
  others : ∀ d, d ∉ cs → u.core d = w.core d

theorem World.Within.refl (cs : List Nat) (w : World) : World.Within cs w w := ⟨rfl, rfl, fun _ _ => rfl⟩

theorem World.Within.trans {cs : List Nat} {w u v : World} (a : World.Within cs w u) (b : World.Within cs u v) : World.Within cs w v :=
  ⟨b.crown.trans a.crown, b.hbm.trans a.hbm, fun d h => (b.others d h).trans (a.others d h)⟩

theorem World.Within.mono {cs ds : List Nat} {w u : World} (a : World.Within cs w u) (h : ∀ c ∈ cs, c ∈ ds) : World.Within ds w u :=
  ⟨a.crown, a.hbm, fun d hd => a.others d fun hc => hd (h d hc)⟩

theorem World.Within.ite {cs : List Nat} {w u v : World} {p : Prop} [Decidable p] (a : World.Within cs w u) (b : World.Within cs w v) :
    World.Within cs w (if p then u else v) := by
  split
  · exact a
  · exact b

/-- A step for each item, each within the item's own core. -/
theorem World.Within.foldl {α : Type} {f : World → Nat × α → World} {l : List (Nat × α)} (h : ∀ x ∈ l, ∀ w, World.Within [x.1] w (f w x)) (w : World) :
    World.Within (l.map (·.1)) w (l.foldl f w) := by
  induction l generalizing w with
  | nil => exact .refl _ w
  | cons x l ih =>
    refine .trans ((h x List.mem_cons_self w).mono fun c hc => ?_)
      ((ih (fun y hy => h y (List.mem_cons_of_mem _ hy)) _).mono fun c hc => List.mem_cons_of_mem _ hc)
    rw [List.mem_singleton.1 hc]
    exact List.mem_cons_self

/-- Where each core has one item, what its own step leaves of a core stays. -/
theorem World.foldl_core_within {α : Type} {f : World → Nat × α → World} {l : List (Nat × α)} (h : ∀ x ∈ l, ∀ w, World.Within [x.1] w (f w x))
    (hnodup : (l.map (·.1)).Nodup) {x : Nat × α} (hx : x ∈ l) (w : World) : ∃ v, (l.foldl f w).core x.1 = (f v x).core x.1 := by
  induction l generalizing w with
  | nil => cases hx
  | cons y l ih =>
    obtain ⟨hy, hl⟩ := List.nodup_cons.1 hnodup
    have hrest : ∀ x ∈ l, ∀ w, World.Within [x.1] w (f w x) := fun z hz => h z (List.mem_cons_of_mem _ hz)
    rcases List.mem_cons.1 hx with rfl | hx
    · exact ⟨w, (World.Within.foldl hrest _).others _ hy⟩
    · exact ih hrest hl hx _

theorem World.setCore_within (w : World) (c : Nat) (k : Core) : World.Within [c] w (w.setCore c k) :=
  ⟨rfl, rfl, fun _ hd => World.core_setCore_ne _ _ fun h => hd (h ▸ List.mem_singleton_self _)⟩

theorem World.raise_within (cs : List Nat) (w : World) (cls unit status inst : Nat) (ctx : Option Nat) (die addr : Nat) (detail : List Byte) :
    World.Within cs w (w.raise cls unit status inst ctx die addr detail) where
  crown := (World.onlyRead_raise w cls unit status inst ctx die addr detail false).rest ▸ rfl
  hbm := (World.raise_sameMem ..).hbm
  others _ _ := World.raise_at_core ..

theorem World.touch_within (w : World) (c : Nat) (n : Option Nat) (m : CoreMem) (l : List Nat) : World.Within [c] w (w.touch c n m l) where
  crown := (World.onlyRead_touch w c n m l).rest ▸ rfl
  hbm := (World.touch_touched ..).hbm
  others _ hd := World.touch_core_ne _ _ _ _ _ fun h => hd (h ▸ List.mem_singleton_self _)

theorem World.writeCore_within (w : World) (c : Nat) (n : Option Nat) (m : CoreMem) (bs : List BitWrite) : World.Within [c] w (w.writeCore c n m bs) :=
  .ite (.refl _ w) ((World.touch_within ..).trans (World.setCore_within ..))

/-! ## The records of a group -/

theorem map_fst_filterMap_of_all {α : Type} (f : Nat → Option α) (cs : List Nat)
    (h : (cs.map fun c => (f c).map fun t => (c, t)).all Option.isSome = true) :
    ((cs.map fun c => (f c).map fun t => (c, t)).filterMap id).map (·.1) = cs := by
  induction cs with
  | nil => rfl
  | cons c cs ih =>
    obtain ⟨hc, hcs⟩ := Bool.and_eq_true_iff.1 ((List.all_cons ..).symm.trans h)
    obtain ⟨t, ht⟩ : ∃ t, f c = some t := Option.isSome_iff_exists.1 ((Option.isSome_map ..).symm.trans hc)
    simp only [List.map_cons, ht, Option.map_some, List.filterMap_cons, id_eq]
    exact congrArg (c :: ·) (ih hcs)

/-- A group that has all arrived has one record of each of its cores. -/
theorem World.crownGroup_cores {w : World} {first slog : Nat} {l : List (Nat × Entry × Nat)} (h : w.crownGroup first slog = some l) :
    l.map (·.1) = crownCores first slog := by
  unfold World.crownGroup at h
  dsimp only at h
  split at h
  · next hall =>
    rw [← Option.some.inj h]
    exact map_fst_filterMap_of_all _ _ hall
  · cases h

theorem crownCores_nodup (first slog : Nat) : (crownCores first slog).Nodup :=
  List.pairwise_map.2 (List.nodup_range.imp fun hne h => hne (Nat.add_left_cancel h))

/-- The result of a good record goes to a scratchpad or a Partial-Sum Store, at a multiple of 64. -/
theorem crownBad_result {e : Env} {t : Entry} (h : crownBad e t = false) :
    (refSpace t.cmd.p1 = 1 ∨ refSpace t.cmd.p1 = 3) ∧ refAddr t.cmd.p1 (t.ind.getD 1 0) % 64 = 0 := by
  unfold crownBad at h
  have hregion := (Bool.or_eq_false_iff.1 h).2
  rw [Bool.not_eq_false'] at hregion
  unfold regionOk at hregion
  simp only [Bool.and_eq_true, decide_eq_true_eq, beq_iff_eq, List.mem_cons, List.not_mem_nil, or_false] at hregion
  exact ⟨hregion.1.1.1.2, hregion.1.2⟩

/-! ## The result in a region (R94) -/

/-- The containers of a region. -/
def crownWrites (a : Nat) (vals : List (Nat × Bool)) : List BitWrite := vals.zipIdx.map fun v => ⟨8 * (a + 8 * v.2), 64, v.1.1, false⟩

theorem World.writeSpace_eq_writeCore (w : World) (e : Env) {space : Nat} (h : space ≠ 0) (bs : List BitWrite) :
    w.writeSpace e [] space bs = w.writeCore e.c (some e.n) (memOfSpace space) bs := by
  unfold World.writeSpace
  split
  · next hbs => rw [World.writeCore, if_pos hbs]
  · rfl

/-- Containers written one after another, each read as its five bytes. -/
theorem World.writeCore_container (w : World) (c : Nat) (n : Option Nat) {m : CoreMem} (hm : m = .scratch ∨ m = .psum) {a : Nat} (ha : a % 64 = 0)
    {vals : List (Nat × Bool)} {k : Nat} {v : Nat × Bool} (hk : vals[k]? = some v) :
    Cells.read (((w.writeCore c n m (crownWrites a vals)).core c).mem m).cells (a + 8 * k) 5 = leBytes 5 v.1 := by
  have hmem : (v, k) ∈ vals.zipIdx := by
    rw [List.mk_mem_zipIdx_iff_getElem?]
    exact hk
  have hwrite : (⟨8 * (a + 8 * k), 64, v.1, false⟩ : BitWrite) ∈ crownWrites a vals := List.mem_map_of_mem hmem
  obtain ⟨u, -, hu, -⟩ := World.writeCore_eq (w := w) (c := c) (n := n) (m := m) (List.ne_nil_of_mem hwrite)
  rw [hu c m, if_pos ⟨rfl, rfl⟩]
  have hcells : Cells.read (writeMem m ((u.core c).mem m) (crownWrites a vals)).cells (a + 8 * k) 5 =
      Cells.read ((crownWrites a vals).foldl Cells.setBits ((u.core c).mem m).cells) (a + 8 * k) 5 := by
    rcases hm with rfl | rfl
    · rfl
    · exact read_writeMem_psum _ _ (by omega)
  rw [hcells]
  refine Cells.read_setBitsAll _ (.inl hwrite) (fun m => ?_) fun b hb hne i hi => ?_
  · have h := Cells.read_container m (v := v.1) false (show 8 * (a + 8 * k) % 64 = 0 by omega)
    rwa [Nat.mul_div_cancel_left _ (by decide)] at h
  · obtain ⟨⟨v', j⟩, hj, rfl⟩ := List.mem_map.1 hb
    have hjk : j ≠ k := by
      rintro rfl
      have hv' := (List.mk_mem_zipIdx_iff_getElem?).1 hj
      rw [hk] at hv'
      exact hne (by rw [Option.some.inj hv'])
    refine BitWrite.not_touches ?_
    dsimp only [BitWrite.span]
    omega

/-! ## One core at the end of a phase -/

theorem World.crownStore_within (w : World) (n first : Nat) (e : Env) (vals : List (Nat × Bool)) (x : Nat × Entry × Nat)
    (hp1 : refSpace x.2.1.cmd.p1 ≠ 0) : World.Within [x.1] w (w.crownStore n first e vals x) := by
  unfold World.crownStore
  dsimp only
  refine .trans (.trans (.ite ?_ (.refl _ w)) (.ite (World.raise_within ..) (.refl _ _))) (World.setCore_within ..)
  rw [World.writeSpace_eq_writeCore _ _ hp1]
  exact World.writeCore_within ..

/-- The core's record is done, and where it gets the result its region holds it. -/
theorem World.crownStore_core (w : World) (n first : Nat) (e : Env) (vals : List (Nat × Bool)) (x : Nat × Entry × Nat)
    (hspace : refSpace x.2.1.cmd.p1 = 1 ∨ refSpace x.2.1.cmd.p1 = 3) (haddr : refAddr x.2.1.cmd.p1 (x.2.1.ind.getD 1 0) % 64 = 0) :
    let gets := x.1 == first || crownBcast x.2.1.cmd
    (∀ y ∈ ((w.crownStore n first e vals x).core x.1).matrix, y.id = x.2.1.id →
        y.st = .done (if gets && vals.any (·.2) then stPoison else stOk) (crownElems x.2.1.cmd) 0) ∧
      (gets = true → ∀ k v, vals[k]? = some v →
        Cells.read (((w.crownStore n first e vals x).core x.1).mem (memOfSpace (refSpace x.2.1.cmd.p1))).cells
          (refAddr x.2.1.cmd.p1 (x.2.1.ind.getD 1 0) + 8 * k) 5 = leBytes 5 v.1) := by
  intro gets
  unfold World.crownStore
  dsimp only
  rw [World.core_setCore]
  refine ⟨fun y hy hid => (Core.mark_frame _ .matrix _ _).1 y hy hid, fun hgets k v hk => ?_⟩
  rw [(Core.mark_frame _ .matrix _ _).2.2]
  have hraise : ∀ (u : World) (p : Bool), (if p = true then u.raise clsUe uCrown stPoison first (some n) 1 0 (leBytes 2 (crownTag x.2.1.cmd)) else u).core x.1 =
      u.core x.1 := by
    intro u p
    split
    · exact World.raise_at_core ..
    · rfl
  have h0 : refSpace x.2.1.cmd.p1 ≠ 0 := by omega
  rw [hraise, if_pos hgets, World.writeSpace_eq_writeCore _ _ h0]
  refine World.writeCore_container _ _ _ ?_ haddr hk
  rcases hspace with h | h
  · exact .inl (congrArg memOfSpace h)
  · exact .inr (congrArg memOfSpace h)

/-! ## The three commands -/

/-- The reads of what a phase combines. -/
def World.crownReads (w : World) (e : Env) (l : List (Nat × Entry × Nat)) : World :=
  l.foldl (fun w x => w.touch x.1 (some e.n) (memOfSpace (refSpace x.2.1.cmd.p0))
    (wordsOf 16 (refAddr x.2.1.cmd.p0 (x.2.1.ind.getD 0 0)) (8 * crownWords x.2.1.cmd))) w

theorem World.crownReads_within (w : World) (e : Env) (l : List (Nat × Entry × Nat)) : World.Within (l.map (·.1)) w (w.crownReads e l) :=
  .foldl (fun _ _ _ => World.touch_within ..) w

/-- A good record arrives, and its group fails where it clashes (R92). -/
theorem State.crownArrive_of_good {s : State} {c : CoreId} {e : Env} {t : Entry} {kind : Nat} (hstart : s.starting c .matrix = some (e, t))
    (hop : t.cmd.op.toNat = 0x3A) (hkind : crownKind t.cmd = kind) (hgood : crownBad e t = false) :
    let acc := if t.cmd.accMode = 7 then s.w.nums.accMode else t.cmd.accMode
    let w := s.w.softStart c
    let w := w.setCore c ((w.core c).mark .matrix t.id (.arrived acc))
    (w.crownClash c = none → s.crownArrive c kind = w) ∧ ∀ l, w.crownClash c = some l → s.crownArrive c kind = w.crownFail l stState := by
  intro acc w0 w
  have hrow : ¬(t.cmd.op ≠ 0x3A ∨ crownKind t.cmd ≠ kind) := by
    rintro (h | h)
    · exact h (BitVec.eq_of_toNat_eq hop)
    · exact h hkind
  have hbad : ¬ crownBad e t = true := by rw [hgood]; decide
  unfold State.crownArrive
  rw [hstart]
  dsimp only
  rw [if_neg hrow, if_neg hbad]
  exact ⟨fun h => by rw [h], fun l h => by rw [h]⟩

/-- No group clashes where each that its last core completes agrees, or has a record with a phase of its own. -/
theorem World.crownClash_none {w : World} {c : Nat}
    (h : ∀ g, g ≤ 10 → ∀ l, w.crownGroup (crownFirst c g) g = some l → (∃ x ∈ l, x.2.1.cmd.slog = g) →
      crownAgree l = true ∨ ∃ x ∈ l, w.hasPhase x.1 = true) : w.crownClash c = none := by
  unfold World.crownClash
  rw [List.findSome?_eq_none_iff]
  intro g hg
  split
  · next l hl =>
    refine if_neg fun hclash => ?_
    simp only [Bool.and_eq_true, Bool.not_eq_true', List.any_eq_true, List.any_eq_false, beq_iff_eq] at hclash
    obtain ⟨⟨hnames, hagree⟩, hnone⟩ := hclash
    rcases h g (Nat.lt_succ_iff.1 (List.mem_range.1 hg)) l hl hnames with ha | ⟨x, hx, hphase⟩
    · rw [ha] at hagree
      cases hagree
    · exact hnone x hx hphase
  · rfl

/-- The end of a phase whose arrivals lie close enough. -/
theorem World.crownEnd_eq {w : World} {e : Env} {p : CrownPhase} {l : List (Nat × Entry × Nat)} (hl : w.crownGroup p.first p.slog = some l)
    (hskew : crownSkew p.slog (l.map fun x => crownOffset x.2.1.cmd) ≠ none) :
    w.crownEnd e p = l.foldl (fun u x => u.crownStore e.n p.first e (w.crownResult e l) x)
      (World.crownReads { w with crown := w.crown.filter fun q => q.first != p.first } e l) := by
  unfold World.crownEnd
  rw [hl]
  dsimp only
  split
  · next h => exact absurd h hskew
  · rfl

/-- The start pulse is sent (R93). -/
theorem execCrownPhaseStart_of_ready {s : State} {c : CoreId} {e : Env} {t : Entry} {acc : Nat} {l : List (Nat × Entry × Nat)} (henv : s.env c = some e)
    (hst : e.st = .resident) (hsnap : s.w.snapHolds e.n = false) (harr : s.w.arrived c = some (t, acc))
    (hl : s.w.crownGroup (crownFirst c t.cmd.slog) t.cmd.slog = some l) (hagree : crownAgree l = true)
    (hnew : ∀ p ∈ s.w.crown, p.first ≠ crownFirst c t.cmd.slog) :
    exec (.crownPhaseStart c) s =
      .next (s.withW { s.w with crown := s.w.crown ++ [{ first := crownFirst c t.cmd.slog, slog := t.cmd.slog, started := true }] }) := by
  have hnone : (s.w.crown.any fun p => p.first == crownFirst c t.cmd.slog) = false :=
    List.any_eq_false.2 fun p hp => by rw [beq_iff_eq]; exact hnew p hp
  have hready : s.w.crownReady c = some (crownFirst c t.cmd.slog, t.cmd.slog) := by
    unfold World.crownReady
    rw [harr]
    dsimp only
    rw [hl]
    dsimp only
    rw [hagree, hnone]
    rfl
  have hexec : exec (.crownPhaseStart c) s = execCrownPhaseStart c s := rfl
  rw [hexec, execCrownPhaseStart, hready, henv]
  exact if_pos ⟨hst, hsnap⟩

/-- The end of a phase (R93, R94). -/
theorem execCrownPhaseEnd_of_good {s : State} {c : CoreId} {e : Env} {p : CrownPhase} {l : List (Nat × Entry × Nat)} (henv : s.env c = some e)
    (hp : s.w.crown.find? (fun p => p.started && decide (c.val ∈ crownCores p.first p.slog)) = some p) (hl : s.w.crownGroup p.first p.slog = some l)
    (hgood : ∀ x ∈ l, crownBad { e with c := x.1 } x.2.1 = false) (hskew : crownSkew p.slog (l.map fun x => crownOffset x.2.1.cmd) ≠ none) :
    let vals := s.w.crownResult e l
    let gets (x : Nat × Entry × Nat) : Bool := x.1 == p.first || crownBcast x.2.1.cmd
    ∃ u, exec (.crownPhaseEnd c) s = .next u ∧ u = { s with w := u.w } ∧ (∀ q ∈ u.w.crown, q.first ≠ p.first) ∧ u.w.hbm = s.w.hbm ∧
      (∀ d, d ∉ crownCores p.first p.slog → u.w.core d = s.w.core d) ∧
      ∀ x ∈ l,
        (∀ y ∈ (u.w.core x.1).matrix, y.id = x.2.1.id →
          y.st = .done (if gets x && vals.any (·.2) then stPoison else stOk) (crownElems x.2.1.cmd) 0) ∧
        (gets x = true → ∀ k v, vals[k]? = some v →
          Cells.read ((u.w.core x.1).mem (memOfSpace (refSpace x.2.1.cmd.p1))).cells (refAddr x.2.1.cmd.p1 (x.2.1.ind.getD 1 0) + 8 * k) 5 =
            leBytes 5 v.1) := by
  intro vals gets
  have hexec : exec (.crownPhaseEnd c) s = .next (s.withW (s.w.crownEnd e p)) := by
    have h : exec (.crownPhaseEnd c) s = execCrownPhaseEnd c s := rfl
    rw [h, execCrownPhaseEnd, hp, henv]
  have hresult : ∀ x ∈ l, (refSpace x.2.1.cmd.p1 = 1 ∨ refSpace x.2.1.cmd.p1 = 3) ∧ refAddr x.2.1.cmd.p1 (x.2.1.ind.getD 1 0) % 64 = 0 :=
    fun x hx => crownBad_result (hgood x hx)
  have hcores := World.crownGroup_cores hl
  have hstores : ∀ x ∈ l, ∀ w, World.Within [x.1] w (w.crownStore e.n p.first e vals x) := fun x hx w =>
    World.crownStore_within w e.n p.first e vals x (by have := (hresult x hx).1; omega)
  refine ⟨_, hexec, rfl, ?_⟩
  have hw : (s.withW (s.w.crownEnd e p)).w = _ := World.crownEnd_eq hl hskew
  rw [hw]
  have hreads := World.crownReads_within { s.w with crown := s.w.crown.filter fun q => q.first != p.first } e l
  generalize World.crownReads { s.w with crown := s.w.crown.filter fun q => q.first != p.first } e l = v at hreads ⊢
  have hframe := hreads.trans (World.Within.foldl hstores v)
  refine ⟨fun q hq => ?_, hframe.hbm, fun d hd => hframe.others d (by rwa [hcores]), fun x hx => ?_⟩
  · rw [hframe.crown] at hq
    exact of_decide_eq_true (by simpa using (List.mem_filter.1 hq).2)
  · obtain ⟨v', hv'⟩ := World.foldl_core_within hstores (by rw [hcores]; exact crownCores_nodup ..) hx v
    rw [hv']
    exact World.crownStore_core v' e.n p.first e vals x (hresult x hx).1 (hresult x hx).2

/-- Settles O37: a record arrives by its own checks, the start pulse asks for an agreeing group, and the end stores one result core by core. -/
theorem crownRecordsComplete : Obligations.CrownRecordsComplete := by
  unfold Obligations.CrownRecordsComplete
  refine ⟨fun i kind hi s c e t hstart hop hkind hgood => ?_, fun s c e t acc l henv hst hsnap harr hl hagree hnew =>
    execCrownPhaseStart_of_ready henv hst hsnap harr hl hagree hnew, fun s c e p l henv hp hl hgood hskew =>
    execCrownPhaseEnd_of_good henv hp hl hgood hskew⟩
  intro acc w0 w
  have hexec : exec (i c) s = .next (s.withW (s.crownArrive c kind)) := by
    simp only [List.mem_cons, Prod.mk.injEq, List.not_mem_nil, or_false] at hi
    obtain ⟨rfl, rfl⟩ | ⟨rfl, rfl⟩ | ⟨rfl, rfl⟩ := hi <;> rfl
  obtain ⟨hnone, hclash⟩ := State.crownArrive_of_good hstart hop hkind hgood
  rw [hexec]
  exact ⟨fun h => by rw [hnone (World.crownClash_none h)], fun l h => by rw [hclash l h]⟩

end Sys2Proof.Machine

/-! PROOFS. RDMA requests: WRITE, READ and SEND in order, and a request that is not valid (R376–R384). -/
namespace Sys2Proof.Machine

/-! ## What a port's accesses leave -/

/-- HBM's bytes, the cores and the queue pairs are as they were, and nothing that waits to go out is lost. -/
structure World.Served (w u : World) : Prop where
  cells : u.hbm.mem.cells = w.hbm.mem.cells
  cores : u.cores = w.cores
  qps : u.qps = w.qps
  posts : w.outbox <+: u.outbox

namespace World.Served

theorem refl (w : World) : w.Served w := ⟨rfl, rfl, rfl, List.prefix_rfl⟩

theorem trans {w u v : World} (a : w.Served u) (b : u.Served v) : w.Served v :=
  ⟨b.cells.trans a.cells, b.cores.trans a.cores, b.qps.trans a.qps, a.posts.trans b.posts⟩

theorem foldl {α : Type} {f : World → α → World} (h : ∀ (w : World) (x : α), w.Served (f w x)) (l : List α) (w : World) : w.Served (l.foldl f w) := by
  induction l generalizing w with
  | nil => exact .refl w
  | cons x l ih => exact (h w x).trans (ih _)

theorem ite {w u v : World} {p : Prop} [Decidable p] (a : w.Served u) (b : w.Served v) : w.Served (if p then u else v) := by
  split
  · exact a
  · exact b

/-- A change beside HBM, the cores, the queue pairs and what is sent. -/
theorem of_same {w u : World} (hhbm : u.hbm.mem.cells = w.hbm.mem.cells) (hcores : u.cores = w.cores) (hqps : u.qps = w.qps) (hout : u.outbox = w.outbox) :
    w.Served u := ⟨hhbm, hcores, hqps, hout ▸ List.prefix_rfl⟩

end World.Served

theorem World.Served.event {w u : World} (h : w.Served u) (code idx sub die : Nat) (ctx : Option Nat) (st : Nat) (p : List Byte) :
    w.Served (u.event code idx sub die ctx st p) := h.trans ⟨rfl, rfl, rfl, List.prefix_append ..⟩

theorem World.Served.raise {w u : World} (h : w.Served u) (cls unit status inst : Nat) (ctx : Option Nat) (die addr : Nat) (detail : List Byte) :
    w.Served (u.raise cls unit status inst ctx die addr detail) := by
  unfold World.raise
  dsimp only
  split
  · exact .event (by exact h.trans (.of_same rfl rfl rfl rfl)) ..
  · exact h.trans (.of_same rfl rfl rfl rfl)

theorem World.touchBlock_served (w : World) (n : Option Nat) (b : Nat) : w.Served (w.touchBlock n b) := by
  unfold World.touchBlock
  dsimp only
  split
  · exact .refl w
  split
  · exact .ite (.raise (by exact .of_same rfl rfl rfl rfl) ..) (.of_same rfl rfl rfl rfl)
  · exact .raise (by exact .of_same rfl rfl rfl rfl) ..

theorem World.readBlocks_served (w : World) (n : Option Nat) (l : List Nat) : w.Served (w.readBlocks n l) :=
  .foldl (fun w b => (World.touchBlock_served w n b).trans (by exact .of_same rfl rfl rfl rfl)) l w

theorem World.busFail_served (w : World) (n : Option Nat) (b : Nat) (own : Bool) : w.Served (w.busFail n b own) := by
  unfold World.busFail
  dsimp only
  generalize hu : (if own = true then _ else _ : World) = u
  have hfirst : w.Served u := hu ▸ .ite (.of_same rfl rfl rfl rfl) (.raise (by exact .of_same rfl rfl rfl rfl) ..)
  exact .ite (.raise hfirst ..) hfirst

theorem World.meetBus_served (w : World) (n : Option Nat) (l : List Nat) : w.Served (w.meetBus n l) := .foldl (fun w b => World.busFail_served w n b false) _ w

theorem World.reportFault_served (w : World) (n va : Nat) (f : XFault) (q : XSource) : w.Served (w.reportFault n va f q) := by
  unfold World.reportFault
  dsimp only
  refine .event (.ite (.raise ?_ ..) ?_) .. <;> exact .of_same rfl rfl rfl rfl

theorem World.rocePages_served (w : World) (p q n root : Nat) (wr : Bool) (va len : Nat) : w.Served (w.rocePages p q n root wr va len).2 := by
  unfold World.rocePages
  dsimp only
  have hwalk : ∀ (u : World) (l : List Nat), w.Served u → w.Served ((u.meetBus (some n) l).readBlocks (some n) l) := fun u l hu =>
    hu.trans ((World.meetBus_served ..).trans (World.readBlocks_served ..))
  split
  · exact hwalk _ _ (by exact .of_same rfl rfl rfl rfl)
  split
  · exact hwalk _ _ (by exact .of_same rfl rfl rfl rfl)
  · exact (hwalk _ _ (by exact .of_same rfl rfl rfl rfl)).trans (World.reportFault_served ..)

/-- A write into HBM loses nothing that waits to go out. -/
theorem World.writeHbm_posts (w : World) (n : Option Nat) (bs : List BitWrite) : w.outbox <+: (w.writeHbm n bs).outbox := by
  have hcount : ∀ u : World, ((touchedWords 64 bs).foldl (fun w b =>
      w.setStack (stackOf (64 * b)) { w.stack (stackOf (64 * b)) with
        bytesW := bump 64 (w.stack (stackOf (64 * b))).bytesW ((List.range 64).filter fun i => bs.any fun x => x.touches (64 * b + i)).length }) u).outbox =
      u.outbox := foldl_same World.outbox (fun _ _ => by rfl) _
  have hlines : ∀ u : World, ((touchedWords 256 bs).foldl (fun w l => w.invalidateLine l) u).outbox = u.outbox := foldl_same World.outbox (fun _ _ => by rfl) _
  refine (World.Served.foldl (fun w b => World.touchBlock_served w n b) (mergedWords 64 bs) w).posts.trans ?_
  exact ((hlines _).trans (hcount _)).symm ▸ List.prefix_rfl

/-! ## Reads of an HBM without errors -/

/-- No block is marked, holds an error, or fails on the bus. -/
structure World.Clean (w : World) : Prop where
  marks : w.hbm.mem.marks = []
  upsets : w.hbm.mem.upsets = []
  bus : w.hbm.busBad = []

theorem World.Clean.of_same {w u : World} (h : w.Clean) (hmem : u.hbm.mem = w.hbm.mem) (hbus : u.hbm.busBad = w.hbm.busBad) : u.Clean :=
  ⟨by rw [hmem, h.marks], by rw [hmem, h.upsets], by rw [hbus, h.bus]⟩

theorem World.Clean.busHits {w : World} (h : w.Clean) (l : List Nat) : w.busHits l = false :=
  List.any_eq_false.2 fun b _ => by rw [h.bus]; simp

theorem World.Clean.firstPoison {w : World} (h : w.Clean) (a n : Nat) : w.firstPoison a n = none := by
  have hgood : w.hbm.mem.bad = fun _ => false := by
    funext k
    simp [EccMem.bad, h.marks, h.upsets]
  rw [World.firstPoison, hgood]
  simp

theorem World.Clean.touchBlock {w : World} (h : w.Clean) (n : Option Nat) (b : Nat) : w.touchBlock n b = w := by
  simp [World.touchBlock, EccMem.upset, h.upsets]

/-- Reading counts bytes and does no more. -/
theorem World.Clean.readBlocks {w : World} (h : w.Clean) (n : Option Nat) (l : List Nat) :
    (w.readBlocks n l).Clean ∧ (w.readBlocks n l).outbox = w.outbox ∧ (w.readBlocks n l).hbm.mem = w.hbm.mem := by
  refine ⟨h.of_same (World.readBlocks_mem _ _ _ h.upsets) (World.readBlocks_busBad ..), ?_, World.readBlocks_mem _ _ _ h.upsets⟩
  unfold World.readBlocks
  induction l generalizing w with
  | nil => rfl
  | cons b l ih =>
    rw [List.foldl_cons, h.touchBlock]
    exact (ih (by exact h.of_same rfl rfl)).trans (by rfl)

/-- A translation that succeeds sends nothing. -/
theorem World.Clean.rocePages {w : World} (h : w.Clean) {p q n root : Nat} {wr : Bool} {va len : Nat} {pages : List (Nat × Nat)}
    (hok : (w.rocePages p q n root wr va len).1 = .ok pages) :
    (w.rocePages p q n root wr va len).2.Clean ∧ (w.rocePages p q n root wr va len).2.outbox = w.outbox ∧
      (w.rocePages p q n root wr va len).2.hbm.mem = w.hbm.mem := by
  have hwalk : ∀ (u : World) (l : List Nat), u.hbm = w.hbm → u.outbox = w.outbox →
      ((u.meetBus (some n) l).readBlocks (some n) l).Clean ∧ ((u.meetBus (some n) l).readBlocks (some n) l).outbox = w.outbox ∧
        ((u.meetBus (some n) l).readBlocks (some n) l).hbm.mem = w.hbm.mem := by
    intro u l hhbm hout
    have hu : u.Clean := h.of_same (by rw [hhbm]) (by rw [hhbm])
    rw [World.meetBus_none _ _ _ (hu.busHits l), ← hout, ← hhbm]
    exact hu.readBlocks ..
  unfold World.rocePages at hok ⊢
  dsimp only at hok ⊢
  split
  · exact hwalk _ _ (by rfl) (by rfl)
  · next hmet =>
    rw [if_neg hmet] at hok
    split
    · exact hwalk _ _ (by rfl) (by rfl)
    · next herr =>
      rw [herr] at hok
      cases hok

/-! ## What a request finds when it begins -/

/-- The port's bookkeeping and the congestion notification are done when a request runs. -/
structure State.Begun (s : State) (p : PortId) (q : Nat) (ce : Bool) (w : World) : Prop where
  rest : w = { s.w with ports := w.ports, outbox := w.outbox, free := w.free, qps := w.qps }
  qp : w.qp q = { s.w.qp q with cnpAt := (w.qp q).cnpAt }
  ready : (s.w.qp q).st = .ready
  cnp : ce = true → s.w.cnpDue p q = true → .cnp p q ∈ w.outbox

theorem State.Serves.begun {s : State} {p : PortId} {q : Nat} {net : NetHdr} {w : World} (h : s.Serves p q net w) (ce : Bool) :
    s.Begun p q ce (w.congested p q ce) := by
  obtain ⟨-, -, -, -, harrive, -, -, hready, -⟩ := h
  have honly : s.w.PortOnly w := World.arrive_only harrive
  have hqp : w.qp q = s.w.qp q := by
    rw [honly]
    rfl
  have hdue : w.cnpDue p q = s.w.cnpDue p q := by
    rw [honly]
    rfl
  refine ⟨?_, ?_, hready, fun hce hs => ?_⟩
  · rw [World.congested_only, honly]
  · unfold World.congested
    split
    · generalize w.tick.getD (dieOfPort p) 0 = now
      have hset : (w.setQp q { w.qp q with cnpAt := some now }).qp q = { s.w.qp q with cnpAt := some now } :=
        (World.qp_setQp ..).trans (by rw [hqp])
      have hat : ((w.setQp q { w.qp q with cnpAt := some now }).qp q).cnpAt = some now := congrArg Qp.cnpAt hset
      exact hset.trans (congrArg (fun t => ({ s.w.qp q with cnpAt := t } : Qp)) hat.symm)
    · rw [hqp]
  · rw [World.congested_outbox, if_pos (by rw [hce, hdue, hs]; rfl)]
    exact List.mem_append_right _ (List.mem_singleton_self _)

namespace State.Begun

variable {s : State} {p : PortId} {q : Nat} {ce : Bool} {w : World}

theorem fields (h : s.Begun p q ce w) : w.hbm = s.w.hbm ∧ w.cores = s.w.cores ∧ w.regions = s.w.regions := by
  rw [h.rest]
  exact ⟨rfl, rfl, rfl⟩

theorem psn (h : s.Begun p q ce w) : (w.qp q).psn = (s.w.qp q).psn := by rw [h.qp]

theorem target (h : s.Begun p q ce w) (rkey va n right : Nat) : w.target q rkey va n right = s.w.target q rkey va n right := by
  have hctx : (w.qp q).ctx = (s.w.qp q).ctx := by rw [h.qp]
  have hregion : w.region (rkey % 256) = s.w.region (rkey % 256) := by
    rw [World.region, h.fields.2.2, World.region]
  rw [World.target, hctx, hregion, World.target]

theorem clean (h : s.Begun p q ce w) (hclean : s.w.Clean) : w.Clean := hclean.of_same (by rw [h.fields.1]) (by rw [h.fields.1])

end State.Begun

theorem World.inOrder_next {w : World} {p q psn : Nat} (h : psn = (w.qp q).psn) (again run : World → World) : w.inOrder p q psn again run = run w := by
  have hat : (w.qp q).psnAt psn = .next := if_pos h
  rw [World.inOrder, hat]

/-! ## WRITE (R380, R381) -/

/-- A packet that nothing refuses is placed and acknowledged. -/
theorem World.placeWrite_eq {w : World} {res : Tab Resid} {p : Nat} {k : WritePkt} {m : WriteTo} {kind n : Nat} {pages : List (Nat × Nat)} {u : World}
    (hto : k.to (w.qp k.qp) = some m) (hfits : k.fits m = true) (htarget : w.target k.qp m.rkey m.va k.data.length 1 = some (kind, n))
    (hpages : w.rocePages p k.qp n (Tab.get {} res n : Resid).root true m.va k.data.length = (.ok pages, u))
    (hbus : u.busHits (touchedWords 64 (k.data.zipIdx.map fun x => (bytesAt (m.va + x.2) [x.1]).phys pages)) = false) :
    let v := u.writeHbm (some n) (k.data.zipIdx.map fun x => (bytesAt (m.va + x.2) [x.1]).phys pages)
    w.placeWrite res p k = (v.setQp k.qp { v.qp k.qp with psn := ((v.qp k.qp).psn + 1) % 2 ^ 24, write := m.after k }).ackQp p k.qp k.psn := by
  intro v
  have hfit : ¬ k.fits m = false := by rw [hfits]; decide
  have hclear : ¬ u.busHits (touchedWords 64 (k.data.zipIdx.map fun x => (bytesAt (m.va + x.2) [x.1]).phys pages)) = true := by rw [hbus]; decide
  unfold World.placeWrite
  rw [hto]
  dsimp only
  rw [if_neg hfit, htarget]
  dsimp only
  rw [hpages]
  dsimp only
  rw [if_neg hclear]

/-- A queue pair moved on, and the acknowledgement posted. -/
theorem World.ackQp_holds (v : World) (p q psn : Nat) (x : Qp) :
    let u := (v.setQp q x).ackQp p q psn
    u.qp q = x ∧ u.cores = v.cores ∧ u.hbm = v.hbm ∧ .ack p q psn ∈ u.outbox ∧ v.outbox <+: u.outbox :=
  ⟨World.qp_setQp .., rfl, rfl, List.mem_append_right _ (List.mem_singleton_self _), List.prefix_append ..⟩

/-- Bytes placed beside a queue pair: they are all that changes in HBM. -/
theorem World.writeHbm_places (w : World) (n : Option Nat) (bs : List BitWrite) :
    (w.writeHbm n bs).hbm.mem.cells = bs.foldl Cells.setBits w.hbm.mem.cells ∧ (w.writeHbm n bs).cores = w.cores ∧ (w.writeHbm n bs).qps = w.qps ∧
      w.outbox <+: (w.writeHbm n bs).outbox := by
  have hside := World.writeHbm_side w n bs
  exact ⟨World.writeHbm_cells .., (World.writeHbm_wrote ..).cores, hside.fields.2.2.2.2.2.2.2.2.1, World.writeHbm_posts ..⟩

theorem execRdmaWrite_placed {s : State} {p : PortId} {k : WritePkt} {m : WriteTo} {kind n : Nat} {pages : List (Nat × Nat)} {w0 w : World}
    (hserves : s.Serves p k.qp k.net w0) (hpsn : k.psn = (s.w.qp k.qp).psn) (hto : k.to (s.w.qp k.qp) = some m) (hfits : k.fits m = true)
    (htarget : s.w.target k.qp m.rkey m.va k.data.length 1 = some (kind, n))
    (hpages : (w0.congested p k.qp k.ce).rocePages p k.qp n (s.ent n).root true m.va k.data.length = (.ok pages, w))
    (hbus : w.busHits (touchedWords 64 (k.data.zipIdx.map fun x => (bytesAt (m.va + x.2) [x.1]).phys pages)) = false) :
    let bs := k.data.zipIdx.map fun x => (bytesAt (m.va + x.2) [x.1]).phys pages
    ∃ t, exec (.rdmaWrite p k) s = .next t ∧ t = { s with w := t.w } ∧ t.w.hbm.mem.cells = bs.foldl Cells.setBits s.w.hbm.mem.cells ∧
      (∀ a, (∀ b ∈ bs, b.touches a = false) → Cells.get t.w.hbm.mem.cells a = Cells.get s.w.hbm.mem.cells a) ∧
      (t.w.qp k.qp).psn = (k.psn + 1) % 2 ^ 24 ∧ (t.w.qp k.qp).st = .ready ∧ (t.w.qp k.qp).write = m.after k ∧ t.w.cores = s.w.cores ∧
      .ack p k.qp k.psn ∈ t.w.outbox ∧ (k.ce = true → s.w.cnpDue p k.qp = true → .cnp p k.qp ∈ t.w.outbox) := by
  intro bs
  have hbegun := hserves.begun k.ce
  obtain ⟨hhbm, hcores, -⟩ := hbegun.fields
  have hread := World.rocePages_served (w0.congested p k.qp k.ce) p k.qp n (s.ent n).root true m.va k.data.length
  rw [hpages] at hread
  obtain ⟨hwrote, hwrotecores, hwroteqps, hposts⟩ := World.writeHbm_places w (some n) bs
  have hqp : (w.writeHbm (some n) bs).qp k.qp = (w0.congested p k.qp k.ce).qp k.qp := by
    rw [World.qp, hwroteqps, hread.qps, World.qp]
  have hexec : exec (.rdmaWrite p k) s = .next (s.withW ((w0.congested p k.qp k.ce).inOrder p k.qp k.psn (fun w => w.ackQp p k.qp k.psn)
      fun w => w.placeWrite s.res p k)) := by
    have hrun : exec (.rdmaWrite p k) s = execRdmaWrite p k s := rfl
    rw [hrun, execRdmaWrite, State.roce_of_serves hserves]
  rw [World.inOrder_next (by rw [hbegun.psn, hpsn]), World.placeWrite_eq (res := s.res) (by rw [hbegun.qp]; exact hto) hfits
    ((hbegun.target ..).trans htarget) hpages hbus] at hexec
  have hcells : (w.writeHbm (some n) bs).hbm.mem.cells = bs.foldl Cells.setBits s.w.hbm.mem.cells := hwrote.trans (by rw [hread.cells, hhbm])
  obtain ⟨hset, hsetcores, hsethbm, hack, hsetposts⟩ := World.ackQp_holds (w.writeHbm (some n) bs) p k.qp k.psn
    { (w.writeHbm (some n) bs).qp k.qp with psn := (((w.writeHbm (some n) bs).qp k.qp).psn + 1) % 2 ^ 24, write := m.after k }
  generalize (World.setQp (w.writeHbm (some n) bs) k.qp _).ackQp p k.qp k.psn = u at hexec hset hsetcores hsethbm hack hsetposts
  have hucells : u.hbm.mem.cells = bs.foldl Cells.setBits s.w.hbm.mem.cells := by rw [hsethbm, hcells]
  refine ⟨s.withW u, hexec, rfl, hucells, fun a ha => ?_, ?_, ?_, ?_, ?_, hack, fun hce hdue => ?_⟩
  · exact (congrArg (Cells.get · a) hucells).trans (Cells.get_setBitsAll _ _ _ ha)
  · exact (congrArg Qp.psn hset).trans (by rw [hqp, hbegun.psn, hpsn])
  · exact (congrArg Qp.st hset).trans (by rw [hqp, hbegun.qp]; exact hbegun.ready)
  · exact congrArg Qp.write hset
  · exact hsetcores.trans (hwrotecores.trans (hread.cores.trans hcores))
  · exact ((hread.posts.trans hposts).trans hsetposts).subset (hbegun.cnp hce hdue)

/-! ## SEND (R383) -/

/-- What a SEND writes into its slot of the ring. -/
def Qp.slot (v : Qp) (k : SendPkt) (pages : List (Nat × Nat)) : List BitWrite :=
  (leBytes 4 k.data.length ++ leBytes 4 v.msn ++ leBytes 56 0 ++ k.data).zipIdx.map fun x =>
    (bytesAt (v.ringBase + 4096 * (v.prod % 2 ^ v.ringLog) + x.2) [x.1]).phys pages

/-- A queue pair that has taken a SEND. -/
def Qp.taken (v : Qp) : Qp := { v with prod := add32 v.prod 1, msn := add32 v.msn 1, psn := (v.psn + 1) % 2 ^ 24 }

/-- A SEND that nothing refuses goes into the next slot of the ring. -/
theorem World.takeSend_eq {w : World} {res : Tab Resid} {p : Nat} {k : SendPkt} {pages : List (Nat × Nat)} {u : World}
    (hlen : k.data.length ≤ 4032) (hwrite : (w.qp k.qp).write = none)
    (hroom : sub32 (w.qp k.qp).prod (w.qp k.qp).cons < 2 ^ (w.qp k.qp).ringLog)
    (hpages : w.rocePages p k.qp (w.qp k.qp).ctx (Tab.get {} res (w.qp k.qp).ctx : Resid).root true
      ((w.qp k.qp).ringBase + 4096 * ((w.qp k.qp).prod % 2 ^ (w.qp k.qp).ringLog)) (64 + k.data.length) = (.ok pages, u))
    (hbus : u.busHits (touchedWords 64 ((w.qp k.qp).slot k pages)) = false) :
    let x := u.writeHbm (some (w.qp k.qp).ctx) ((w.qp k.qp).slot k pages)
    ∃ v, (x.setQp k.qp (x.qp k.qp).taken).Served v ∧ w.takeSend res p k = v.ackQp p k.qp k.psn := by
  intro x
  have hgood : ¬(4032 < k.data.length ∨ (w.qp k.qp).write ≠ none) := by
    rw [hwrite]
    simpa using hlen
  have hclear : ¬ u.busHits (touchedWords 64 ((w.qp k.qp).slot k pages)) = true := by rw [hbus]; decide
  unfold World.takeSend
  dsimp only
  rw [if_neg hgood, if_neg (Nat.not_le.2 hroom), hpages]
  dsimp only
  exact ⟨_, .ite (.event (by exact .refl _) ..) (by exact .refl _), if_neg hclear⟩

theorem execSend_taken {s : State} {p : PortId} {k : SendPkt} {pages : List (Nat × Nat)} {w0 w : World} (hserves : s.Serves p k.qp k.net w0)
    (hpsn : k.psn = (s.w.qp k.qp).psn) (hwrite : (s.w.qp k.qp).write = none) (hlen : k.data.length ≤ 4032)
    (hroom : sub32 (s.w.qp k.qp).prod (s.w.qp k.qp).cons < 2 ^ (s.w.qp k.qp).ringLog)
    (hpages : (w0.congested p k.qp k.ce).rocePages p k.qp (s.w.qp k.qp).ctx (s.ent (s.w.qp k.qp).ctx).root true
      ((s.w.qp k.qp).ringBase + 4096 * ((s.w.qp k.qp).prod % 2 ^ (s.w.qp k.qp).ringLog)) (64 + k.data.length) = (.ok pages, w))
    (hbus : w.busHits (touchedWords 64 ((s.w.qp k.qp).slot k pages)) = false) :
    let v := s.w.qp k.qp
    let bs := v.slot k pages
    ∃ t, exec (.send p k) s = .next t ∧ t = { s with w := t.w } ∧ t.w.hbm.mem.cells = bs.foldl Cells.setBits s.w.hbm.mem.cells ∧
      (∀ a, (∀ b ∈ bs, b.touches a = false) → Cells.get t.w.hbm.mem.cells a = Cells.get s.w.hbm.mem.cells a) ∧
      t.w.qp k.qp = { (w0.congested p k.qp k.ce).qp k.qp with prod := add32 v.prod 1, msn := add32 v.msn 1, psn := (k.psn + 1) % 2 ^ 24 } ∧
      .ack p k.qp k.psn ∈ t.w.outbox ∧ (k.ce = true → s.w.cnpDue p k.qp = true → .cnp p k.qp ∈ t.w.outbox) := by
  intro v bs
  have hbegun := hserves.begun k.ce
  obtain ⟨hhbm, -, -⟩ := hbegun.fields
  have hread := World.rocePages_served (w0.congested p k.qp k.ce) p k.qp (s.w.qp k.qp).ctx (s.ent (s.w.qp k.qp).ctx).root true
    ((s.w.qp k.qp).ringBase + 4096 * ((s.w.qp k.qp).prod % 2 ^ (s.w.qp k.qp).ringLog)) (64 + k.data.length)
  rw [hpages] at hread
  obtain ⟨at_, hat⟩ : ∃ t, (w0.congested p k.qp k.ce).qp k.qp = { s.w.qp k.qp with cnpAt := t } := ⟨_, hbegun.qp⟩
  obtain ⟨y, hy, htake⟩ := World.takeSend_eq (w := w0.congested p k.qp k.ce) (res := s.res) (p := p) (k := k) (pages := pages) (u := w) hlen
    (by rw [hat]; exact hwrite) (by rw [hat]; exact hroom) (by rw [hat]; exact hpages) (by rw [hat]; exact hbus)
  have hslot : ((w0.congested p k.qp k.ce).qp k.qp).slot k pages = bs := by rw [hat]; rfl
  rw [hslot] at hy
  generalize ((w0.congested p k.qp k.ce).qp k.qp).ctx = n at hy
  obtain ⟨hwrote, -, hwroteqps, hposts⟩ := World.writeHbm_places w (some n) bs
  have hqp : (w.writeHbm (some n) bs).qp k.qp = (w0.congested p k.qp k.ce).qp k.qp := by
    rw [World.qp, hwroteqps, hread.qps, World.qp]
  have hexec : exec (.send p k) s = .next (s.withW ((w0.congested p k.qp k.ce).inOrder p k.qp k.psn (fun w => w.ackQp p k.qp k.psn)
      fun w => w.takeSend s.res p k)) := by
    have hrun : exec (.send p k) s = execSend p k s := rfl
    rw [hrun, execSend, State.roce_of_serves hserves]
  rw [World.inOrder_next (by rw [hbegun.psn, hpsn]), htake] at hexec
  have hcells : y.hbm.mem.cells = bs.foldl Cells.setBits s.w.hbm.mem.cells := hy.cells.trans (hwrote.trans (by rw [hread.cells, hhbm]))
  have hyqp : y.qp k.qp = ((w0.congested p k.qp k.ce).qp k.qp).taken := by
    rw [World.qp, hy.qps]
    exact (World.qp_setQp ..).trans (by rw [hqp])
  refine ⟨s.withW (y.ackQp p k.qp k.psn), hexec, rfl, hcells, fun a ha => ?_, ?_, List.mem_append_right _ (List.mem_singleton_self _), fun hce hdue => ?_⟩
  · exact (congrArg (Cells.get · a) hcells).trans (Cells.get_setBitsAll _ _ _ ha)
  · refine hyqp.trans ?_
    rw [hat, hpsn]
    rfl
  · exact List.mem_append_left _ (hy.posts.subset ((hread.posts.trans hposts).subset (hbegun.cnp hce hdue)))

/-! ## Requests that are not valid (R377) -/

/-- A NAK that ends a queue pair. -/
theorem World.failQp_holds (w : World) (p q psn syn : Nat) :
    (w.failQp p q psn syn).qp q = { w.qp q with st := .error, naks := bump 32 (w.qp q).naks 1 } ∧
      (w.failQp p q psn syn).hbm = w.hbm ∧ (w.failQp p q psn syn).cores = w.cores ∧
      .nak p q psn syn ∈ (w.failQp p q psn syn).outbox ∧ w.outbox <+: (w.failQp p q psn syn).outbox := by
  unfold World.failQp World.nakQp
  dsimp only
  refine ⟨?_, rfl, rfl, ?_, ?_⟩
  · exact (World.qp_setQp ..).trans (congrArg (fun v : Qp => ({ v with st := QpSt.error } : Qp)) (World.qp_setQp w q _))
  · exact List.mem_append_left _ (List.mem_append_right _ (List.mem_singleton_self _))
  · exact (List.prefix_append ..).trans (List.prefix_append ..)

theorem execRoceInvalidRequest_naks {s : State} {p : PortId} {q : QpId} {k : InvalidPkt} {w0 : World} (hserves : s.Serves p q k.net w0) :
    ∃ t, exec (.roceInvalidRequest p q k) s = .next t ∧ t = { s with w := t.w } ∧
      t.w.qp q = { (w0.congested p q k.ce).qp q with st := .error, naks := bump 32 (s.w.qp q).naks 1 } ∧
      .nak p q k.psn nakInvalid ∈ t.w.outbox ∧ (k.ce = true → s.w.cnpDue p q = true → .cnp p q ∈ t.w.outbox) := by
  have hbegun := hserves.begun k.ce
  have hexec : exec (.roceInvalidRequest p q k) s = .next (s.withW ((w0.congested p q k.ce).failQp p q k.psn nakInvalid)) := by
    have hrun : exec (.roceInvalidRequest p q k) s = execRoceInvalidRequest p q k s := rfl
    rw [hrun, execRoceInvalidRequest, State.roce_of_serves hserves]
  obtain ⟨hqp, -, -, hnak, hposts⟩ := World.failQp_holds (w0.congested p q k.ce) p q k.psn nakInvalid
  have hnaks : ((w0.congested p q k.ce).qp q).naks = (s.w.qp q).naks := by rw [hbegun.qp]
  refine ⟨_, hexec, rfl, hqp.trans (by rw [hnaks]), hnak, fun hce hdue => hposts.subset (hbegun.cnp hce hdue)⟩

/-! ## READ (R381, R382) -/

/-- HBM's bytes, the cores and the sequence numbers of the queue pairs are as they were. -/
structure World.Responds (w u : World) : Prop where
  cells : u.hbm.mem.cells = w.hbm.mem.cells
  cores : u.cores = w.cores
  psn : ∀ q, (u.qp q).psn = (w.qp q).psn

theorem World.Responds.refl (w : World) : w.Responds w := ⟨rfl, rfl, fun _ => rfl⟩

theorem World.Responds.trans {w u v : World} (a : w.Responds u) (b : u.Responds v) : w.Responds v :=
  ⟨b.cells.trans a.cells, b.cores.trans a.cores, fun q => (b.psn q).trans (a.psn q)⟩

theorem World.Served.responds {w u : World} (h : w.Served u) : w.Responds u := ⟨h.cells, h.cores, fun q => by rw [World.qp, h.qps, World.qp]⟩

theorem World.setQp_responds (w : World) (q : Nat) (x : Qp) (h : x.psn = (w.qp q).psn) : w.Responds (w.setQp q x) := by
  refine ⟨rfl, rfl, fun r => ?_⟩
  by_cases hr : r = q
  · rw [hr, World.qp_setQp, h]
  · rw [World.qp_setQp_ne _ _ hr]

theorem World.failQp_responds (w : World) (p q psn syn : Nat) : w.Responds (w.failQp p q psn syn) := by
  unfold World.failQp World.nakQp
  dsimp only
  generalize hu : ({ w.setQp q { w.qp q with naks := bump 32 (w.qp q).naks 1 } with outbox := w.outbox ++ [.nak p q psn syn] } : World) = u
  have hfirst : w.Responds u := hu ▸ (World.setQp_responds w q { w.qp q with naks := bump 32 (w.qp q).naks 1 } rfl).trans ⟨rfl, rfl, fun _ => rfl⟩
  exact (hfirst.trans (World.setQp_responds u q { u.qp q with st := .error } rfl)).trans (World.Served.event (.refl _) ..).responds

namespace World.Responds

variable {w u : World}

theorem fail (h : w.Responds u) (p q psn syn : Nat) : w.Responds (u.failQp p q psn syn) := h.trans (World.failQp_responds ..)

theorem event (h : w.Responds u) (code idx sub die : Nat) (ctx : Option Nat) (st : Nat) (p : List Byte) : w.Responds (u.event code idx sub die ctx st p) :=
  h.trans (World.Served.event (.refl u) ..).responds

theorem post (h : w.Responds u) (l : List OutMsg) : w.Responds { u with outbox := l } := h.trans ⟨rfl, rfl, fun _ => rfl⟩

end World.Responds

/-- The pieces of a packet's range. -/
def readCuts (k : ReadPkt) (kind : Nat) (pages : List (Nat × Nat)) (i : Nat) : List (Nat × Nat) :=
  (pageCuts 3 (k.va + 4096 * i) (min 4096 (k.len - 4096 * i))).map fun c => (if kind = 1 then 0xB000000000 + c.1 else physOf pages c.1, c.2)

/-- A response packet with the bytes of its pieces. -/
def World.readPacket (w : World) (p : Nat) (k : ReadPkt) (cuts : List (Nat × Nat)) (i : Nat) : OutMsg :=
  .readResp p k.qp ((k.psn + i) % 2 ^ 24) (decide (k.len ≤ 4096 * i + 4096)) (cuts.flatMap fun c => w.hbmRange c.1 c.2)

/-- One packet's pieces read, and the packet sent before what follows. -/
def World.respond (w : World) (p : Nat) (k : ReadPkt) (ctx : Option Nat) (cuts : List (Nat × Nat)) (i : Nat) (next : World → World) : World :=
  let blks := distinct (cuts.flatMap fun c => wordsOf 64 c.1 c.2)
  if w.busHits blks then (w.meetBus ctx blks).failQp p k.qp ((k.psn + i) % 2 ^ 24) nakOperational else
  let w := w.readBlocks ctx blks
  match (cuts.filterMap fun c => w.firstPoison c.1 c.2).head? with
  | some a =>
    let w := w.failQp p k.qp ((k.psn + i) % 2 ^ 24) nakOperational
    w.event 0x0603 (0x6A00 + k.qp) 1 (dieOfPort p) (some (w.qp k.qp).ctx) stPoison (leBytes 2 k.qp ++ leBytes 8 a)
  | none => next { w with outbox := w.outbox ++ [w.readPacket p k cuts i] }

/-- The pages of a packet's range, or the syndrome of the NAK. -/
def World.readPages (w : World) (res : Tab Resid) (p : Nat) (k : ReadPkt) (kind n i : Nat) : Except Nat (List (Nat × Nat)) × World :=
  if kind = 1 then (.ok [], w) else w.rocePages p k.qp n (Tab.get {} res n : Resid).root false (k.va + 4096 * i) (min 4096 (k.len - 4096 * i))

/-- A packet answered from its pages, or the NAK in its place. -/
def World.respondFrom (x : Except Nat (List (Nat × Nat)) × World) (p : Nat) (k : ReadPkt) (kind n i : Nat) (next : World → World) : World :=
  match x with
  | (.error e, u) => u.failQp p k.qp ((k.psn + i) % 2 ^ 24) e
  | (.ok pages, u) => u.respond p k (if kind = 1 then none else some n) (readCuts k kind pages i) i next

theorem World.readPackets_succ (res : Tab Resid) (p : Nat) (k : ReadPkt) (kind n f : Nat) (w : World) (i : Nat) :
    World.readPackets res p k kind n (f + 1) w i = if k.len ≤ 4096 * i ∧ i ≠ 0 then w else
      World.respondFrom (w.readPages res p k kind n i) p k kind n i fun v => World.readPackets res p k kind n f v (i + 1) := rfl

theorem World.respond_responds (w : World) (p : Nat) (k : ReadPkt) (ctx : Option Nat) (cuts : List (Nat × Nat)) (i : Nat) {next : World → World}
    (hnext : ∀ v : World, v.Responds (next v)) : w.Responds (w.respond p k ctx cuts i next) := by
  unfold World.respond
  dsimp only
  generalize distinct (cuts.flatMap fun c => wordsOf 64 c.1 c.2) = blks
  have hblocks := (World.readBlocks_served w ctx blks).responds
  split
  · exact (World.meetBus_served w ctx blks).responds.fail ..
  split
  · exact (hblocks.fail ..).event ..
  · exact (hblocks.post _).trans (hnext _)

theorem World.readPackets_responds (res : Tab Resid) (p : Nat) (k : ReadPkt) (kind n f : Nat) (w : World) (i : Nat) :
    w.Responds (World.readPackets res p k kind n f w i) := by
  induction f generalizing w i with
  | zero => exact .refl w
  | succ f ih =>
    have hread : w.Responds (w.readPages res p k kind n i).2 := by
      unfold World.readPages
      split
      · exact .refl w
      · exact (World.rocePages_served ..).responds
    rw [World.readPackets_succ]
    generalize w.readPages res p k kind n i = x at hread
    split
    · exact .refl w
    match x, hread with
    | (.error e, u), hread => exact hread.fail ..
    | (.ok pages, u), hread => exact hread.trans (World.respond_responds _ _ _ _ _ _ fun v => ih v (i + 1))

/-- Where no block has an error, a packet goes out with the bytes there, and what follows runs. -/
theorem World.Clean.respond {w : World} (h : w.Clean) (p : Nat) (k : ReadPkt) (ctx : Option Nat) (cuts : List (Nat × Nat)) (i : Nat) (next : World → World) :
    ∃ v, v.Clean ∧ v.hbm.mem = w.hbm.mem ∧ v.qps = w.qps ∧ v.outbox = w.outbox ++ [w.readPacket p k cuts i] ∧ w.respond p k ctx cuts i next = next v := by
  unfold World.respond
  dsimp only
  generalize distinct (cuts.flatMap fun c => wordsOf 64 c.1 c.2) = blks
  obtain ⟨hclean, hout, hmem⟩ := h.readBlocks ctx blks
  have hqps := (World.readBlocks_served w ctx blks).qps
  rw [if_neg (by rw [h.busHits]; decide)]
  generalize w.readBlocks ctx blks = u at hclean hout hmem hqps
  have hpoison : (cuts.filterMap fun c => u.firstPoison c.1 c.2) = [] := List.filterMap_eq_nil_iff.2 fun c _ => hclean.firstPoison ..
  have hpacket : u.readPacket p k cuts i = w.readPacket p k cuts i := by
    unfold World.readPacket World.hbmRange
    rw [hmem]
  rw [hpoison, hout, hpacket]
  exact ⟨{ u with outbox := w.outbox ++ [w.readPacket p k cuts i] }, hclean.of_same rfl rfl, hmem, hqps, rfl, rfl⟩

/-- The snapshot region's packets, one after another, where no block has an error. -/
theorem World.Clean.readPackets_snapshot {w : World} (h : w.Clean) (res : Tab Resid) (p : Nat) (k : ReadPkt) (n : Nat) {f i : Nat} (hcount : i + f = readCount k) :
    (World.readPackets res p k 1 n f w i).qps = w.qps ∧
      (World.readPackets res p k 1 n f w i).outbox = w.outbox ++ (List.range' i f).map fun j => w.readPacket p k (readCuts k 1 [] j) j := by
  induction f generalizing w i with
  | zero => exact ⟨rfl, (List.append_nil _).symm⟩
  | succ f ih =>
    have hmore : ¬(k.len ≤ 4096 * i ∧ i ≠ 0) := by
      unfold readCount cdiv at hcount
      omega
    obtain ⟨v, hclean, hmem, hqps, hout, hnext⟩ := h.respond p k none (readCuts k 1 [] i) i fun v => World.readPackets res p k 1 n f v (i + 1)
    have hrun : World.readPackets res p k 1 n (f + 1) w i = World.readPackets res p k 1 n f v (i + 1) := by
      rw [World.readPackets_succ, if_neg hmore]
      exact hnext
    obtain ⟨hrestqps, hrestout⟩ := ih hclean (i := i + 1) (by omega)
    have hpacket : ∀ j, v.readPacket p k (readCuts k 1 [] j) j = w.readPacket p k (readCuts k 1 [] j) j := fun j => by
      unfold World.readPacket World.hbmRange
      rw [hmem]
    rw [hrun, hrestqps, hrestout, hout, hqps, List.range'_succ, List.map_cons]
    refine ⟨rfl, ?_⟩
    simp only [hpacket, List.append_assoc, List.singleton_append]

/-- A request of one packet from a context's region, where no block has an error. -/
theorem World.Clean.readPackets_one {w u : World} (h : w.Clean) {res : Tab Resid} {p : Nat} {k : ReadPkt} {n : Nat} {pages : List (Nat × Nat)}
    (hlen : k.len ≤ 4096) (hpages : w.rocePages p k.qp n (Tab.get {} res n : Resid).root false k.va k.len = (.ok pages, u)) :
    (World.readPackets res p k 0 n 1 w 0).qps = w.qps ∧
      (World.readPackets res p k 0 n 1 w 0).outbox = w.outbox ++ [w.readPacket p k (readCuts k 0 pages 0) 0] := by
  have hserved := World.rocePages_served w p k.qp n (Tab.get {} res n : Resid).root false k.va k.len
  obtain ⟨hclean, hout, hmem⟩ := h.rocePages (congrArg Prod.fst hpages)
  rw [hpages] at hserved hclean hout hmem
  have hread : w.readPages res p k 0 n 0 = (.ok pages, u) := by
    have hmin : min 4096 (k.len - 4096 * 0) = k.len := by omega
    rw [World.readPages, if_neg (by decide), hmin]
    exact hpages
  obtain ⟨v, -, -, hvqps, hvout, hnext⟩ := hclean.respond p k (some n) (readCuts k 0 pages 0) 0 fun v => World.readPackets res p k 0 n 0 v 1
  have hrun : World.readPackets res p k 0 n 1 w 0 = v := by
    rw [World.readPackets_succ, if_neg fun h => h.2 rfl, hread]
    exact hnext
  have hpacket : u.readPacket p k (readCuts k 0 pages 0) 0 = w.readPacket p k (readCuts k 0 pages 0) 0 := by
    unfold World.readPacket World.hbmRange
    rw [hmem]
  rw [hrun, hvqps, hserved.qps, hvout, hout, hpacket]
  exact ⟨rfl, rfl⟩

/-- A READ in order that nothing refuses. -/
theorem execRdmaRead_runs {s : State} {p : PortId} {k : ReadPkt} {kind n : Nat} {w0 : World} (hserves : s.Serves p k.qp k.net w0)
    (hpsn : k.psn = (s.w.qp k.qp).psn) (hwrite : (s.w.qp k.qp).write = none) (hlen : k.len ≤ 2 ^ 31)
    (hwaiting : (w0.congested p k.qp k.ce).readsWaiting k.qp < 16) (htarget : s.w.target k.qp k.rkey k.va k.len 0 = some (kind, n)) :
    exec (.rdmaRead p k) s = .next (s.withW (World.readPackets s.res p k kind n (readCount k) ((w0.congested p k.qp k.ce).setQp k.qp
      { (w0.congested p k.qp k.ce).qp k.qp with psn := (k.psn + readCount k) % 2 ^ 24 }) 0)) := by
  have hbegun := hserves.begun k.ce
  have hexec : exec (.rdmaRead p k) s = .next (s.withW ((w0.congested p k.qp k.ce).inOrder p k.qp k.psn (fun w => w.runRead s.res p k) fun w =>
      if (w.qp k.qp).write ≠ none then w.failQp p k.qp k.psn nakInvalid
      else (w.setQp k.qp { w.qp k.qp with psn := ((w.qp k.qp).psn + readCount k) % 2 ^ 24 }).runRead s.res p k)) := by
    have hrun : exec (.rdmaRead p k) s = execRdmaRead p k s := rfl
    rw [hrun, execRdmaRead, State.roce_of_serves hserves]
  have hnone : ¬((w0.congested p k.qp k.ce).qp k.qp).write ≠ none := by
    rw [hbegun.qp]
    exact Classical.not_not.2 hwrite
  rw [World.inOrder_next (by rw [hbegun.psn, hpsn]), if_neg hnone, hbegun.psn, ← hpsn] at hexec
  rw [hexec]
  generalize hv : (w0.congested p k.qp k.ce).setQp k.qp _ = v
  have hfits : ¬(2 ^ 31 < k.len ∨ 16 ≤ v.readsWaiting k.qp) := by
    have hsame : v.readsWaiting k.qp = (w0.congested p k.qp k.ce).readsWaiting k.qp := by rw [← hv]; rfl
    rw [hsame]
    omega
  have hvtarget : v.target k.qp k.rkey k.va k.len 0 = some (kind, n) := by
    rw [← htarget, ← hbegun.target]
    have hctx : (v.qp k.qp).ctx = ((w0.congested p k.qp k.ce).qp k.qp).ctx := by rw [← hv, World.qp_setQp]
    have hregion : v.region (k.rkey % 256) = (w0.congested p k.qp k.ce).region (k.rkey % 256) := by rw [← hv]; rfl
    rw [World.target, hctx, hregion, World.target]
  rw [World.runRead, if_neg hfits, hvtarget]

/-- Settles O52: one equation for each request that nothing refuses, the frames of its accesses, and the packets of a READ by induction. -/
theorem rdmaRequestsComplete : Obligations.RdmaRequestsComplete := by
  unfold Obligations.RdmaRequestsComplete
  refine fun s p => ⟨fun k m kind n pages w0 w hserves hpsn hto hfits htarget hpages => execRdmaWrite_placed hserves hpsn hto hfits htarget hpages,
    fun k kind n w0 hserves hpsn hwrite hlen hwaiting htarget => ?_,
    fun k pages w0 w hserves hpsn hwrite hlen hroom hpages => execSend_taken hserves hpsn hwrite hlen hroom hpages,
    fun q k w0 hserves => execRoceInvalidRequest_naks hserves⟩
  have hbegun := hserves.begun k.ce
  have hexec := execRdmaRead_runs hserves hpsn hwrite hlen hwaiting htarget
  obtain ⟨hhbm, hcores, -⟩ := hbegun.fields
  have hready : ((w0.congested p k.qp k.ce).qp k.qp).st = .ready := by
    rw [hbegun.qp]
    exact hbegun.ready
  generalize hw : w0.congested p k.qp k.ce = w at hexec hhbm hcores hready
  generalize hv : w.setQp k.qp { w.qp k.qp with psn := (k.psn + readCount k) % 2 ^ 24 } = v at hexec
  have hvhbm : v.hbm = s.w.hbm := by rw [← hv]; exact hhbm
  have hvqp : v.qp k.qp = { w.qp k.qp with psn := (k.psn + readCount k) % 2 ^ 24 } := by rw [← hv, World.qp_setQp]
  have hvout : v.outbox = w.outbox := by rw [← hv]; rfl
  have hready' : ∀ u : World, u.qps = v.qps → (u.qp k.qp).st = .ready := fun u hu => by
    rw [World.qp, hu]
    exact (congrArg Qp.st hvqp).trans hready
  refine ⟨⟨_, hexec, rfl, ?_, ?_, ?_⟩, fun hmarks hups hbus => ?_⟩
  · exact ((World.readPackets_responds ..).psn k.qp).trans (congrArg Qp.psn hvqp)
  · exact (World.readPackets_responds ..).cells.trans (by rw [hvhbm])
  · exact (World.readPackets_responds ..).cores.trans (by rw [← hv]; exact hcores)
  have hclean : v.Clean := World.Clean.of_same (w := s.w) ⟨hmarks, hups, hbus⟩ (by rw [hvhbm]) (by rw [hvhbm])
  have hdata : ∀ a n, v.hbmRange a n = s.w.hbmRange a n := fun a n => by rw [World.hbmRange, hvhbm, World.hbmRange]
  refine ⟨fun hkind => ?_, fun pages u hkind hshort hpages => ?_⟩
  · subst hkind
    obtain ⟨hqps, hout⟩ := hclean.readPackets_snapshot s.res p k n (Nat.zero_add (readCount k))
    refine ⟨_, hexec, hready' _ hqps, hout.trans ?_⟩
    rw [hvout, ← List.range_eq_range']
    refine congrArg (w.outbox ++ ·) (List.map_congr_left fun i _ => ?_)
    unfold World.readPacket readCuts
    rw [List.flatMap_map]
    simp only [hdata, if_true]
  · subst hkind
    have hcount : readCount k = 1 := by
      unfold readCount cdiv
      omega
    rw [hcount] at hexec hv
    rw [hv] at hpages
    obtain ⟨hqps, hout⟩ := hclean.readPackets_one (res := s.res) hshort hpages
    refine ⟨_, hexec, hready' _ hqps, hout.trans ?_⟩
    rw [hvout]
    have hmin : min 4096 (k.len - 4096 * 0) = k.len := by omega
    unfold World.readPacket readCuts
    rw [List.flatMap_map, hmin]
    simp [hdata, hshort]

end Sys2Proof.Machine

/-! PROOFS. Checkpoints between the parts: reading at the source, the ward's image, a pulled image (R501–R506). -/
namespace Sys2Proof.Machine

/-! ## Messages (R504) -/

theorem World.ckptAnswer_side (w : World) (rank answer ctx step entry granule : Nat) : w.Side (w.ckptAnswer rank answer ctx step entry granule) :=
  World.ckptSend_side ..

theorem World.ckptBegin_side (w : World) (rank ctx step : Nat) (table : List Byte) : w.Side (w.ckptBegin rank ctx step table) := World.ckptSend_side ..

/-- A message touches no byte of HBM. -/
theorem World.ckptSend_hbm (w : World) (rank i op : Nat) (k : CkptHdr) (data : List Byte) : (w.ckptSend rank i op k data).hbm = w.hbm := by
  unfold World.ckptSend
  dsimp only
  split
  · obtain ⟨_, h⟩ := World.sendLink_only w _ rank (.ckpt op k data)
    rw [h]
  · rfl

theorem World.ckptAnswer_hbm (w : World) (rank answer ctx step entry granule : Nat) : (w.ckptAnswer rank answer ctx step entry granule).hbm = w.hbm :=
  World.ckptSend_hbm ..

theorem World.Side.buddy {w u : World} (h : w.Side u) : u.buddy = w.buddy := h.fields.2.2.2.2.2.2.2.2.2.2.2.2.1

/-! ## Reading at the source (R501) -/

/-- The step of a context's checkpoint. -/
def World.ckStep (w : World) (n : Nat) : Nat := (w.ctx n).ck.step

theorem World.Side.ckStep {w u : World} (h : w.Side u) (n : Nat) : u.ckStep n = w.ckStep n := by rw [World.ckStep, h.ctx, World.ckStep]

theorem World.setCtx_ckStep (w : World) {m : Nat} {x : Ctx} (n : Nat) (h : x.ck.step = (w.ctx m).ck.step) : (w.setCtx m x).ckStep n = w.ckStep n := by
  unfold World.ckStep
  by_cases hn : n = m
  · rw [hn, World.ctx_setCtx, h]
  · rw [World.ctx_setCtx_ne _ _ hn]

theorem World.putWalker_ckStep (w : World) (k m : Nat) (x : Walker) (n : Nat) : (w.putWalker k m x).ckStep n = w.ckStep n :=
  ((World.putWalker_side w k m x).ckStep n).trans rfl

theorem World.reportFault_ckStep (w : World) (m va : Nat) (f : XFault) (q : XSource) (n : Nat) : (w.reportFault m va f q).ckStep n = w.ckStep n := by
  unfold World.reportFault
  dsimp only
  refine ((World.event_side ..).ckStep n).trans ?_
  generalize hu : w.setCtx m _ = u
  have hctx : u.ckStep n = w.ckStep n := hu ▸ World.setCtx_ckStep w n (by rfl)
  split
  · exact ((World.raise_side ..).ckStep n).trans hctx
  · exact hctx

theorem World.stagePiece_ckStep (w : World) (m entry gran : Nat) (data : List Byte) (bad : List Nat) (n : Nat) :
    (w.stagePiece m entry gran data bad).ckStep n = w.ckStep n := by
  unfold World.stagePiece World.putPiece
  dsimp only
  exact (World.setCtx_ckStep _ n (by rfl)).trans ((World.blit_side ..).ckStep n)

theorem World.getCrcs_ckStep (w : World) (m : Nat) (l : List GranCrc) (n : Nat) : (w.getCrcs m l).1.ckStep n = w.ckStep n :=
  ((World.meetBus_side ..).trans (World.readRange_side ..)).ckStep n

theorem State.readGranule_ckStep (s : State) (m : Nat) (e : List Byte) (g n : Nat) : (s.readGranule m e g).2.w.ckStep n = s.w.ckStep n := by
  unfold State.readGranule
  dsimp only
  split
  · split
    · exact (World.reportFault_ckStep ..).trans (World.putWalker_ckStep ..)
    · split <;> exact (((World.meetBus_side ..).trans (World.readRange_side ..)).ckStep n).trans (World.putWalker_ckStep ..)
  split
  · rfl
  · exact congrArg (fun x : Ctx => x.ck.step) ((World.onlyRead_touch ..).ctx n)

/-- A granule staged where it goes out. -/
theorem State.stageIf_ckStep (s : State) (p : Bool) (m i g : Nat) (data : List Byte) (bad : List Nat) (n : Nat) :
    (if p = true then s.withW (s.w.stagePiece m i g data bad) else s).w.ckStep n = s.w.ckStep n := by
  split
  · exact World.stagePiece_ckStep ..
  · rfl

theorem CkRead.granule_ckStep (a : CkRead) (m : Nat) (k : Ckpt) (i : Nat) (e : List Byte) (g n : Nat) : (a.granule m k i e g).s.w.ckStep n = a.s.w.ckStep n := by
  unfold CkRead.granule
  split
  · rfl
  dsimp only
  split
  · rfl
  have hread := State.readGranule_ckStep a.s m e g n
  split
  · next heq =>
    rw [heq] at hread
    exact hread
  · next heq =>
    rw [heq] at hread
    exact (State.stageIf_ckStep ..).trans hread

theorem World.wakeSteps_side (w : World) (r : Resid) : w.Side (w.wakeSteps r) := by
  refine .foldl (fun w c => ?_) _ _
  split
  · exact .ite (World.wake_side ..) (.refl w)
  · exact .refl w

/-- The granules of some entries read one after another. -/
def CkRead.entries (a : CkRead) (n : Nat) (ck : Ckpt) (l : List (Nat × List Byte)) : CkRead :=
  l.foldl (fun a e => (List.range (ceCount e.2)).foldl (fun a g => a.granule n ck e.1 e.2 g) a) a

theorem CkRead.entries_ckStep (a : CkRead) (n : Nat) (ck : Ckpt) (l : List (Nat × List Byte)) (m : Nat) : (a.entries n ck l).s.w.ckStep m = a.s.w.ckStep m := by
  have hentry : ∀ (e : Nat × List Byte) (gs : List Nat) (a : CkRead), (gs.foldl (fun a g => a.granule n ck e.1 e.2 g) a).s.w.ckStep m = a.s.w.ckStep m := by
    intro e gs
    induction gs with
    | nil => exact fun _ => rfl
    | cons g gs ih => exact fun a => (ih _).trans (CkRead.granule_ckStep ..)
  unfold CkRead.entries
  induction l generalizing a with
  | nil => rfl
  | cons e l ih => exact (ih _).trans (hentry e _ a)

/-- What the reading of a checkpoint's granules collects. -/
def State.ckptReads (s : State) (n : Nat) : CkRead :=
  let old := s.w.getCrcs n (if (s.w.ctx n).ck.valid then (s.w.ctx n).ck.baseline else [])
  CkRead.entries { s := s.withW old.1 } n { (s.w.ctx n).ck with baseline := old.2 } (ckEntries (s.w.ctx n).ck.table)

theorem State.ckptReads_ckStep (s : State) (n : Nat) : (s.ckptReads n).s.w.ckStep n = s.w.ckStep n :=
  (CkRead.entries_ckStep ..).trans (World.getCrcs_ckStep ..)

/-- A context whose checkpoint begins to be sent. -/
def World.ckptSends (w : World) (n : Nat) (a : CkRead) : World :=
  w.setCtx n { w.ctx n with ck := { (w.ctx n).ck with st := .sending, crcs := a.crcs, granules := a.sent } }

/-- Granules that can be read go out after BEGIN. -/
theorem execCheckpointReadDone_sends {s : State} {n : CtxId} (hst : (s.w.ctx n).ck.st = .reading) (hres : (s.ent n).st = .resident)
    (hpart : s.ctl.part = .ready) (hawake : s.w.sleepers (s.ent n).core0 (s.w.ctx n).ck.table = []) (hfault : (s.ckptReads n).fault = none) :
    ∃ v u : World, v.ctx n = (s.ckptReads n).s.w.ctx n ∧ (v.ckptSends n (s.ckptReads n)).Side u ∧ exec (.checkpointReadDone n) s = .next (s.withW u) := by
  have hexec : exec (.checkpointReadDone n) s = execCheckpointReadDone n s := rfl
  rw [hexec]
  unfold execCheckpointReadDone
  dsimp only
  rw [if_pos ⟨hst, .inl hres, hpart⟩, if_neg (Classical.not_not.2 hawake)]
  have hreads : (ckEntries (s.w.ctx n).ck.table).foldl (fun a e => (List.range (ceCount e.2)).foldl (fun a g => a.granule n
      { (s.w.ctx n).ck with baseline := (s.w.getCrcs n (if (s.w.ctx n).ck.valid = true then (s.w.ctx n).ck.baseline else [])).2 } e.1 e.2 g) a)
      { s := s.withW (s.w.getCrcs n (if (s.w.ctx n).ck.valid = true then (s.w.ctx n).ck.baseline else [])).1 : CkRead } = s.ckptReads n := rfl
  rw [hreads]
  generalize s.ckptReads n = a at hfault
  rw [hfault]
  generalize hv : (if le (s.w.ctx n).ck.cfg 4 1 = 0xFF then a.s.w else _ : World) = v
  refine ⟨v, _, ?_, (World.ckptBegin_side ..).trans (World.wakeSteps_side ..), rfl⟩
  rw [← hv]
  split <;> rfl

/-! ## The ward's checkpoint (R501) -/

theorem State.ckptIn_ward {s : State} {l : Nat} {h : SeamHdr} {op : Nat} {k : CkptHdr} {data : List Byte} {w : World}
    (hok : s.w.receive l h (.ckpt op k data) false = .ok w) (hmine : s.w.mine h = true) (hnone : s.w.pulling h.src k = none)
    (hward : s.w.isWard h.src = true) (ward : World → World) (pull : State → Nat → State) :
    s.ckptIn l h op k data ward pull = .next (s.withW (ward w)) := by
  have hm : ¬ w.mine h = false := by rw [World.mine_of_receive hok, hmine]; decide
  have hp : w.pulling h.src k = none := by
    obtain ⟨x, rfl, -⟩ := World.receive_ok hok
    exact hnone
  have hw : w.isWard h.src = true := by
    obtain ⟨x, rfl, -⟩ := World.receive_ok hok
    exact hward
  unfold State.ckptIn
  rw [hok]
  dsimp only
  rw [if_neg hm, hp]
  exact if_pos hw

theorem State.ckptIn_pull {s : State} {l : Nat} {h : SeamHdr} {op : Nat} {k : CkptHdr} {data : List Byte} {w : World} {n : Nat}
    (hok : s.w.receive l h (.ckpt op k data) false = .ok w) (hmine : s.w.mine h = true) (hpull : s.w.pulling h.src k = some n)
    (ward : World → World) (pull : State → Nat → State) : s.ckptIn l h op k data ward pull = .next (pull (s.withW w) n) := by
  have hm : ¬ w.mine h = false := by rw [World.mine_of_receive hok, hmine]; decide
  have hp : w.pulling h.src k = some n := by
    obtain ⟨x, rfl, -⟩ := World.receive_ok hok
    exact hpull
  unfold State.ckptIn
  rw [hok]
  dsimp only
  rw [if_neg hm, hp]

/-- The link that took a message is all that differs. -/
theorem World.receive_side {w u : World} {l : Nat} {h : SeamHdr} {b : FrameBody} {keep : Bool} (hok : w.receive l h b keep = .ok u) :
    w.Side u ∧ u.hbm = w.hbm := by
  obtain ⟨x, rfl, -⟩ := World.receive_ok hok
  exact ⟨World.setLink_side .., rfl⟩

/-- BEGIN opens a transfer. -/
theorem World.wardBegin_opens {w : World} (src : Nat) {k : CkptHdr} {table : List Byte} (hfree : ∀ i, w.buddy.inbound = some i → i.ctx = k.ctx)
    (hcrc : crc64 table = k.crc) :
    (w.wardBegin src k table).buddy = { w.buddy with inbound := some { ctx := k.ctx, step := k.step, table } } := by
  have hbusy : ¬(match w.buddy.inbound with | some i => i.ctx != k.ctx | none => false) = true := by
    cases hi : w.buddy.inbound with
    | none => exact Bool.false_ne_true
    | some i => simp [hfree i hi]
  have hopens : w.wardBegin src k table =
      World.ckptAnswer { w with buddy := { w.buddy with inbound := some { ctx := k.ctx, step := k.step, table } } } src 0 k.ctx k.step ceState gBegin :=
    (if_neg hbusy).trans (if_pos hcrc)
  rw [hopens]
  exact (World.ckptAnswer_side ..).buddy

/-! ## Pieces in their areas (R498) -/

theorem Cells.get_append_left {x : List Host.Cell} {a : Nat} (y : List Host.Cell) (h : ∀ c ∈ x, c.1 ≠ a) : Cells.get (x ++ y) a = Cells.get y a := by
  induction x with
  | nil => rfl
  | cons c x ih =>
    obtain ⟨j, b⟩ := c
    rw [List.cons_append, Cells.get, if_neg (h _ List.mem_cons_self)]
    exact ih fun c hc => h c (List.mem_cons_of_mem _ hc)

theorem Cells.get_absent {x : List Host.Cell} {a : Nat} (h : ∀ c ∈ x, c.1 ≠ a) : Cells.get x a = 0 := by
  have := Cells.get_append_left [] h
  rwa [List.append_nil] at this

theorem Cells.get_append_right (x : List Host.Cell) {y : List Host.Cell} {a : Nat} (h : ∀ c ∈ y, c.1 ≠ a) : Cells.get (x ++ y) a = Cells.get x a := by
  induction x with
  | nil => exact Cells.get_absent h
  | cons c x ih =>
    obtain ⟨j, b⟩ := c
    rw [List.cons_append, Cells.get, Cells.get, ih]

theorem Cells.get_cellsOf (bs : List Byte) (a i : Nat) (h : i < bs.length) : Cells.get (cellsOf a bs) (a + i) = bs[i] := by
  induction bs generalizing a i with
  | nil => cases h
  | cons b bs ih =>
    cases i with
    | zero =>
      rw [Nat.add_zero, cellsOf]
      split
      · next hb =>
        rw [Cells.get_absent fun c hc => by have := cellsOf_range bs (a + 1) c hc; omega]
        exact hb.symm
      · exact if_pos rfl
    | succ i =>
      have hrest : Cells.get (cellsOf (a + 1) bs) (a + (i + 1)) = bs[i]'(Nat.lt_of_succ_lt_succ h) := by
        rw [← ih (a + 1) i (Nat.lt_of_succ_lt_succ h)]
        congr 1
        omega
      rw [cellsOf]
      split
      · exact hrest
      · rw [Cells.get, if_neg (by omega)]
        exact hrest

/-- A string spliced in at the beginning of a range is read back. -/
theorem Cells.read_splice (m : List Host.Cell) {lo hi : Nat} {bs : List Byte} (h : lo + bs.length ≤ hi) :
    Cells.read (Cells.splice m lo hi (cellsOf lo bs)) lo bs.length = bs := by
  refine List.ext_getElem (Cells.read_length ..) fun i hi' hbs => ?_
  rw [Cells.read_length] at hi'
  simp only [Cells.read, List.getElem_map, List.getElem_range, Cells.splice]
  rw [Cells.get_append_right _ fun c hc => by have := of_decide_eq_true (List.mem_filter.1 hc).2; omega,
    Cells.get_append_left _ fun c hc => by have := of_decide_eq_true (List.mem_filter.1 hc).2; omega]
  exact Cells.get_cellsOf bs lo i hbs

/-- A piece written is read back, and nothing beside its blocks changes. -/
theorem World.putPiece_holds (w : World) (base : Nat) (p : CkPiece) (data : List Byte) (bad : List Nat) (hlen : data.length = p.len) :
    w.Side (w.putPiece base p data bad) ∧
      Cells.read (w.putPiece base p data bad).hbm.mem.cells (base + 65536 * p.place) data.length = data ∧
      ∀ a, a < base + 65536 * p.place ∨ base + 65536 * p.place + alignUp p.len 64 ≤ a →
        Cells.get (w.putPiece base p data bad).hbm.mem.cells a = Cells.get w.hbm.mem.cells a := by
  have hfits := le_alignUp p.len
  unfold World.putPiece
  dsimp only
  generalize base + 65536 * p.place = lo
  refine ⟨World.blit_side .., ?_, fun a ha => World.blit_get _ _ (fun c hc => ?_) ha⟩
  · unfold World.blit
    dsimp only
    rw [World.countHbm_cells]
    exact Cells.read_splice _ (by omega)
  · have := cellsOf_range data lo c hc
    omega

/-- A piece received is kept in inbound staging. -/
theorem World.wardData_keeps {w : World} (src : Nat) {k : CkptHdr} {data : List Byte} {i : CkImage} (hin : w.inboundOf k = some i) (hcrc : crc64 data = k.crc)
    (hnamed : ckNamed i.table k.entry k.granule = true) (hlen : data.length ≤ 65536) :
    let place := (i.held.findIdx? fun p => p.entry == k.entry && p.gran == k.granule).getD i.held.length
    let piece : CkPiece := { entry := k.entry, gran := k.granule, place, len := data.length, crc := k.crc }
    place < stagePlaces →
    (w.wardData src k data).buddy = { w.buddy with inbound := some { i with held := i.held.take place ++ [piece] ++ i.held.drop (place + 1) } } ∧
      (w.wardData src k data).hbm = (w.putPiece inboundBase piece data []).hbm := by
  intro place piece hplace
  have hgood : ¬(ckNamed i.table k.entry k.granule = false ∨ 65536 < data.length ∨ stagePlaces ≤ place) := by
    rw [hnamed]
    simp only [Bool.true_eq_false, false_or]
    omega
  have hkeeps : w.wardData src k data = World.ckptAnswer { w.putPiece inboundBase piece data [] with
      buddy := { (w.putPiece inboundBase piece data []).buddy with
        inbound := some { i with held := i.held.take place ++ [piece] ++ i.held.drop (place + 1) } } } src 0 k.ctx k.step k.entry k.granule := by
    unfold World.wardData
    rw [hin]
    exact (if_neg (Classical.not_not.2 hcrc)).trans (if_neg hgood)
  have hside := (World.putPiece_holds w inboundBase piece data [] rfl).1
  rw [hkeeps]
  refine ⟨?_, World.ckptAnswer_hbm ..⟩
  exact (World.ckptAnswer_side ..).buddy.trans (by rw [hside.buddy])

/-! ## The image (R501, R506) -/

theorem World.getPiece_reads (w : World) (base : Nat) (p : CkPiece) :
    w.Side (w.getPiece base p).1 ∧ (w.getPiece base p).1.hbm.mem.cells = w.hbm.mem.cells ∧ (w.getPiece base p).2.1 = w.hbmRange (base + 65536 * p.place) p.len := by
  have hcells : (w.getPiece base p).1.hbm.mem.cells = w.hbm.mem.cells := (World.readRange_reads ..).cells.trans (World.meetBus_cells ..)
  refine ⟨(World.meetBus_side ..).trans (World.readRange_side ..), hcells, ?_⟩
  have h : (w.getPiece base p).2.1 = (w.getPiece base p).1.hbmRange (base + 65536 * p.place) p.len := rfl
  rw [h, World.hbmRange, hcells, World.hbmRange]

theorem cellRun_length (m : List Host.Cell) (a n : Nat) : (cellRun m a n).length = n := by
  induction n generalizing m a with
  | zero => rw [cellRun, List.length_nil]
  | succ n ih =>
    cases m with
    | nil => rw [cellRun, List.length_cons, ih]
    | cons c m =>
      obtain ⟨j, b⟩ := c
      rw [cellRun]
      split <;> rw [List.length_cons, ih]

theorem World.hbmRange_length (w : World) (a n : Nat) : (w.hbmRange a n).length = n := cellRun_length ..

/-- Inbound staging copied into the image changes no byte before it. -/
theorem World.commitImage_holds (w : World) (i : CkImage) :
    w.Side (w.commitImage i) ∧ ∀ a, a < imageBase → Cells.get (w.commitImage i).hbm.mem.cells a = Cells.get w.hbm.mem.cells a := by
  unfold World.commitImage
  generalize i.held = l
  induction l generalizing w with
  | nil => exact ⟨.refl w, fun _ _ => rfl⟩
  | cons p l ih =>
    obtain ⟨hread, hcells, hdata⟩ := World.getPiece_reads w inboundBase p
    obtain ⟨hput, -, hout⟩ := World.putPiece_holds (w.getPiece inboundBase p).1 imageBase { p with place := ckPlace i.table p.entry p.gran }
      (w.getPiece inboundBase p).2.1 (w.getPiece inboundBase p).2.2 (by rw [hdata, World.hbmRange_length])
    obtain ⟨hside, hrest⟩ := ih ((w.getPiece inboundBase p).1.putPiece imageBase { p with place := ckPlace i.table p.entry p.gran }
      (w.getPiece inboundBase p).2.1 (w.getPiece inboundBase p).2.2)
    refine ⟨(hread.trans hput).trans hside, fun a ha => (hrest a ha).trans ((hout a (.inl ?_)).trans (by rw [hcells]))⟩
    exact Nat.lt_of_lt_of_le ha (Nat.le_add_right ..)

/-- The pieces received make the image. -/
theorem World.wardEnd_commits {w : World} (src : Nat) {k : CkptHdr} {i : CkImage} (hin : w.inboundOf k = some i)
    (hwhole : (i.onto w.buddy.image).complete = true) :
    (w.wardEnd src k).buddy = { w.buddy with image := some (i.onto w.buddy.image), inbound := none } ∧
      ∀ a, a < imageBase → Cells.get (w.wardEnd src k).hbm.mem.cells a = Cells.get w.hbm.mem.cells a := by
  obtain ⟨hside, hcells⟩ := World.commitImage_holds w i
  have hends : w.wardEnd src k = World.ckptAnswer { w.commitImage i with
      buddy := { (w.commitImage i).buddy with image := some (i.onto (w.commitImage i).buddy.image), inbound := none } } src 4 k.ctx k.step ceState gEnd := by
    unfold World.wardEnd
    rw [hin]
    exact if_neg (by rw [hwhole]; decide)
  rw [hends]
  refine ⟨(World.ckptAnswer_side ..).buddy.trans (by rw [hside.buddy]), fun a ha => ?_⟩
  rw [World.ckptAnswer_hbm]
  exact hcells a ha

/-- A replay value joins the image of its step. -/
theorem World.wardReplay_stores {w : World} {k : CkptHdr} {data : List Byte} {i : CkImage} (himage : w.buddy.image = some i) (hctx : i.ctx = k.ctx)
    (hstep : i.step = k.step) (hcrc : crc64 data = k.crc) :
    w.wardReplay k data = { w with buddy := { w.buddy with image := some { i with replay := some data } } } := by
  unfold World.wardReplay
  rw [himage]
  exact if_pos ⟨hctx, hstep, hcrc⟩

/-! ## A pulled image (R506) -/

/-- HBM is read: its bytes and its marking stay, and latent errors only go. -/
structure World.Reading (w u : World) : Prop where
  side : w.Side u
  cells : u.hbm.mem.cells = w.hbm.mem.cells
  marks : u.hbm.mem.marks = w.hbm.mem.marks
  upsets : ∀ e ∈ u.hbm.mem.upsets, e ∈ w.hbm.mem.upsets

namespace World.Reading

theorem refl (w : World) : w.Reading w := ⟨.refl w, rfl, rfl, fun _ h => h⟩

theorem trans {w u v : World} (a : w.Reading u) (b : u.Reading v) : w.Reading v :=
  ⟨a.side.trans b.side, b.cells.trans a.cells, b.marks.trans a.marks, fun e h => a.upsets e (b.upsets e h)⟩

/-- A block that was good is still. -/
theorem good {w u : World} (h : w.Reading u) {b : Nat} (hb : w.hbm.mem.bad b = false) : u.hbm.mem.bad b = false := by
  unfold EccMem.bad at hb ⊢
  obtain ⟨hmark, hupset⟩ := Bool.or_eq_false_iff.1 hb
  rw [h.marks]
  exact Bool.or_eq_false_iff.2 ⟨hmark, List.any_eq_false.2 fun e he => List.any_eq_false.1 hupset e (h.upsets e he)⟩

end World.Reading

/-- The raise of a record is no matter of HBM. -/
theorem World.Reading.raise {w u : World} (h : w.Reading u) (cls unit status inst : Nat) (ctx : Option Nat) (die addr : Nat) (detail : List Byte) :
    w.Reading (u.raise cls unit status inst ctx die addr detail) := by
  have hhbm : (u.raise cls unit status inst ctx die addr detail).hbm = u.hbm := (World.raise_sameMem ..).hbm
  exact h.trans ⟨World.raise_side .., by rw [hhbm], by rw [hhbm], fun e he => by rwa [hhbm] at he⟩

/-- A good block that is read loses its corrected error. -/
theorem World.touchBlock_reading (w : World) (n : Option Nat) {b : Nat} (hb : w.hbm.mem.bad b = false) : w.Reading (w.touchBlock n b) := by
  unfold World.touchBlock
  dsimp only
  split
  · exact .refl w
  · next u hu =>
    have hmild : u.fatal = false := by
      obtain ⟨e, he, rfl⟩ := Option.map_eq_some_iff.1 hu
      have hkey := List.find?_some he
      have hmem := List.mem_of_find?_eq_some he
      have hnot := List.any_eq_false.1 (Bool.or_eq_false_iff.1 hb).2 e hmem
      simp only [decide_eq_true_eq] at hkey
      simpa [hkey] using hnot
    rw [if_pos hmild]
    have hcorrected : ∀ v : World, w.Side v → v.hbm.mem = { w.hbm.mem with upsets := w.hbm.mem.upsets.filter fun e => e.1 != b } → w.Reading v :=
      fun v hv hmem => ⟨hv, by rw [hmem], by rw [hmem], fun e he => by
        rw [hmem] at he
        exact (List.mem_filter.1 he).1⟩
    split
    · exact .raise (hcorrected _ (by exact World.setHbm_side ..) (by rfl)) ..
    · exact hcorrected _ (by exact World.setHbm_side ..) (by rfl)

theorem World.meetBus_reading (w : World) (n : Option Nat) (l : List Nat) : w.Reading (w.meetBus n l) := by
  have hside := World.meetBus_side w n l
  obtain ⟨_, _, _, _, _, h⟩ := World.meetBus_frame w n l
  rw [h] at hside ⊢
  exact ⟨hside, rfl, rfl, fun _ h => h⟩

theorem World.countHbm_reading (w : World) (lo n : Nat) (wr : Bool) : w.Reading (w.countHbm lo n wr) := by
  have hmem := World.countHbm_mem w lo n wr
  exact ⟨World.countHbm_side .., by rw [hmem], by rw [hmem], fun e he => by rwa [hmem] at he⟩

/-- A range of good blocks read. -/
theorem World.readRange_reading (w : World) (n : Option Nat) {lo k : Nat} (hgood : ∀ b, lo ≤ 64 * b → 64 * b < lo + k → w.hbm.mem.bad b = false) :
    w.Reading (w.readRange n lo k) := by
  have hblocks : ∀ (l : List Nat) (w : World), (∀ b ∈ l, w.hbm.mem.bad b = false) → w.Reading (l.foldl (fun w b => w.touchBlock n b) w) := by
    intro l
    induction l with
    | nil => exact fun w _ => .refl w
    | cons b l ih =>
      intro w hl
      have hfirst := World.touchBlock_reading w n (hl b List.mem_cons_self)
      exact hfirst.trans (ih _ fun c hc => hfirst.good (hl c (List.mem_cons_of_mem _ hc)))
  unfold World.readRange
  refine (hblocks _ w fun b hb => ?_).trans (World.countHbm_reading ..)
  have hin := (List.mem_filter.1 hb).2
  rw [Bool.and_eq_true] at hin
  exact hgood b (of_decide_eq_true hin.1) (of_decide_eq_true hin.2)

/-- A piece of good blocks is read without a mark. -/
theorem World.getPiece_good (w : World) {base : Nat} {p : CkPiece}
    (hgood : ∀ b, base + 65536 * p.place ≤ 64 * b → 64 * b < base + 65536 * p.place + alignUp p.len 64 → w.hbm.mem.bad b = false) :
    w.Reading (w.getPiece base p).1 ∧ (w.getPiece base p).2.2 = [] := by
  have hmet := World.meetBus_reading w none (w.busRange (base + 65536 * p.place) (alignUp p.len 64))
  have hread : w.Reading (w.getPiece base p).1 := hmet.trans (World.readRange_reading _ none fun b hlo hhi => hmet.good (hgood b hlo hhi))
  have hmarks : (w.getPiece base p).1.badBlocks (base + 65536 * p.place) (alignUp p.len 64) = [] := by
    unfold World.badBlocks
    rw [List.filter_eq_nil_iff]
    intro b hb hin
    rw [Bool.and_eq_true] at hin
    have hnot := hgood b (of_decide_eq_true hin.1) (of_decide_eq_true hin.2)
    rw [hread.marks] at hb
    exact absurd (decide_eq_true hb) (Bool.eq_false_iff.1 (Bool.or_eq_false_iff.1 hnot).1)
  refine ⟨hread, ?_⟩
  have h : (w.getPiece base p).2.2 = ((w.getPiece base p).1.badBlocks (base + 65536 * p.place) (alignUp p.len 64)).map (· - (base + 65536 * p.place) / 64) := rfl
  rw [h, hmarks, List.map_nil]

/-- What a piece's CRC tells. -/
def World.pieceStatus (y : World × List Byte × List Nat) (p : CkPiece) : Option Nat :=
  if y.2.2.isEmpty = false then some stPoison else if crc64 y.2.1 = p.crc then none else some stDigestMismatch

/-- An image whose blocks and CRCs are good is read whole. -/
theorem World.readImage_good (w : World) (i : CkImage)
    (hgood : ∀ p ∈ i.held, ∀ b, imageBase + 65536 * p.place ≤ 64 * b → 64 * b < imageBase + 65536 * p.place + alignUp p.len 64 → w.hbm.mem.bad b = false)
    (hcrc : ∀ p ∈ i.held, crc64 (w.hbmRange (imageBase + 65536 * p.place) p.len) = p.crc) :
    ∃ u, w.Reading u ∧ w.readImage i = (u, none) := by
  unfold World.readImage
  generalize i.held = l at hgood hcrc
  induction l generalizing w with
  | nil => exact ⟨w, .refl w, rfl⟩
  | cons p l ih =>
    obtain ⟨hread, hnobad⟩ := World.getPiece_good w (hgood p List.mem_cons_self)
    have hdata := (World.getPiece_reads w imageBase p).2.2
    have hrange : ∀ a n, (w.getPiece imageBase p).1.hbmRange a n = w.hbmRange a n := fun a n => by rw [World.hbmRange, hread.cells, World.hbmRange]
    have hstatus : World.pieceStatus (w.getPiece imageBase p) p = none := by
      unfold World.pieceStatus
      rw [hnobad, hdata, if_neg (by decide), if_pos (hcrc p List.mem_cons_self)]
    obtain ⟨u, hu, hrest⟩ := ih (w.getPiece imageBase p).1 (fun q hq b hlo hhi => hread.good (hgood q (List.mem_cons_of_mem _ hq) b hlo hhi))
      fun q hq => by rw [hrange]; exact hcrc q (List.mem_cons_of_mem _ hq)
    refine ⟨u, hread.trans hu, ?_⟩
    rw [List.foldl_cons]
    have hfirst : (((w.getPiece imageBase p).1, (none : Option Nat).or (World.pieceStatus (w.getPiece imageBase p) p)) : World × Option Nat) =
        ((w.getPiece imageBase p).1, none) := by rw [hstatus]; rfl
    exact (congrArg (fun x => l.foldl _ x) hfirst).trans hrest

/-- A good image is kept to be sent, BEGIN first. -/
theorem World.pull_sends {w : World} (src : Nat) {k : CkptHdr} {i : CkImage} (himage : w.buddy.image = some i) (hctx : i.ctx = k.ctx)
    (hstep : k.step = 0xFFFFFFFF ∨ i.step = k.step)
    (hgood : ∀ p ∈ i.held, ∀ b, imageBase + 65536 * p.place ≤ 64 * b → 64 * b < imageBase + 65536 * p.place + alignUp p.len 64 → w.hbm.mem.bad b = false)
    (hcrc : ∀ p ∈ i.held, crc64 (w.hbmRange (imageBase + 65536 * p.place) p.len) = p.crc) :
    (w.pull src k).buddy =
      { w.buddy with out := some { rank := src, left := (ceState, gBegin) :: i.held.map fun (p : CkPiece) => (p.entry, p.gran) } } := by
  have hasked : ¬(i.ctx ≠ k.ctx ∨ (k.step ≠ 0xFFFFFFFF ∧ i.step ≠ k.step)) := by
    rintro (h | ⟨h1, h2⟩)
    · exact h hctx
    · exact hstep.elim h1 h2
  obtain ⟨u, hu, hread⟩ := World.readImage_good w i hgood hcrc
  have hpull : w.pull src k = World.ckptBegin { u with buddy := { u.buddy with
      out := some { rank := src, left := (ceState, gBegin) :: i.held.map fun (p : CkPiece) => (p.entry, p.gran) } } } src i.ctx i.step i.table := by
    unfold World.pull
    rw [himage]
    dsimp only
    rw [if_neg hasked, hread]
  rw [hpull]
  exact (World.ckptBegin_side ..).buddy.trans (by rw [hu.side.buddy])

/-! ## The buddy's word, and a restore (R501, R506) -/

/-- An answer that concerns a checkpoint of this part. -/
theorem State.answered_buddy {s : State} {src : Nat} {k : CkptHdr} (hkeeps : s.w.wardAbandons src k = false) (hrefuses : s.w.pullRefused src k = none)
    (hpulls : s.w.pullOf src k = none) (hsrc : s.w.buddy.buddy = src) : s.answered src k = s.withW (s.w.ckptAnswered src k) := by
  unfold State.answered
  dsimp only
  rw [if_neg (by rw [hkeeps]; decide), hrefuses, hpulls]
  exact if_pos hsrc

/-- The word of the commit commits at the source. -/
theorem execCkptAnswer_commits {s : State} {l : LinkId} {h : SeamHdr} {k : CkptHdr} {w : World} (hok : s.w.receive l h (.ckpt 5 k []) false = .ok w)
    (hmine : s.w.mine h = true) (hsrc : h.src = s.w.buddy.buddy) (hout : s.w.buddy.out = none) (hward : s.w.isWard h.src = false)
    (hst : (s.w.ctx k.ctx).ck.st = .committing) (hstep : (s.w.ctx k.ctx).ck.step = k.step) (hending : (s.w.ctx k.ctx).ck.ending = true)
    (hanswer : k.answer = 4) :
    exec (.ckptAnswer l h k) s =
      .next (s.withW ((w.setCtx k.ctx { s.w.ctx k.ctx with ck := (s.w.ctx k.ctx).ck.commit }).putCrcs k.ctx (s.w.ctx k.ctx).ck.crcs)) := by
  have hm : ¬ w.mine h = false := by rw [World.mine_of_receive hok, hmine]; decide
  have hside := (World.receive_side hok).1
  have hctx := hside.ctx k.ctx
  have hbuddy := hside.buddy
  have hwward : w.isWard h.src = false := by rw [World.isWard, hbuddy]; exact hward
  have hkeeps : w.wardAbandons h.src k = false := by simp [World.wardAbandons, hwward]
  have hrefuses : w.pullRefused h.src k = none := by simp [World.pullRefused, hanswer]
  have hpulls : w.pullOf h.src k = none := by simp [World.pullOf, hbuddy, hout]
  have hbusy : (w.ctx k.ctx).ck.busy = true := by rw [hctx, Ckpt.busy, hst]
  have hcounts : ¬((w.ctx k.ctx).ck.busy = false ∨ (w.ctx k.ctx).ck.st = .reading ∨ (w.ctx k.ctx).ck.step ≠ k.step) := by
    rw [hbusy, hctx, hst, hstep]
    simp
  have hcommit : w.ckptAnswered h.src k =
      (w.setCtx k.ctx { s.w.ctx k.ctx with ck := (s.w.ctx k.ctx).ck.commit }).putCrcs k.ctx (s.w.ctx k.ctx).ck.crcs := by
    unfold World.ckptAnswered
    dsimp only
    rw [if_neg hcounts, hanswer, hctx]
    exact if_pos hending
  have hexec : exec (.ckptAnswer l h k) s = execCkptAnswer l h k s := rfl
  rw [hexec, execCkptAnswer, hok]
  dsimp only
  have hanswered : (s.withW w).answered h.src k = (s.withW w).withW (w.ckptAnswered h.src k) :=
    State.answered_buddy (s := s.withW w) hkeeps hrefuses hpulls (by exact (congrArg Buddy.buddy hbuddy).trans hsrc.symm)
  rw [if_neg hm, if_pos (.inl (by rw [hbuddy, hsrc])), hanswered, hcommit, State.withW_withW]

/-- BEGIN of a pulled image brings table and step. -/
theorem State.pullBegin_takes {s : State} (src : Nat) {n : Nat} {k : CkptHdr} {table : List Byte} (hst : (s.w.ctx n).rst.st = .checking)
    (hctx : k.ctx = (s.w.ctx n).rst.srcCtx) (hstep : (s.w.ctx n).rst.step = 0xFFFFFFFF ∨ k.step = (s.w.ctx n).rst.step) (hcrc : crc64 table = k.crc) :
    ((s.pullBegin src n k table).w.ctx n).rst = { (s.w.ctx n).rst with table, step := k.step, state := [] } := by
  have hasked : ¬(k.ctx ≠ (s.w.ctx n).rst.srcCtx ∨ ((s.w.ctx n).rst.step ≠ 0xFFFFFFFF ∧ k.step ≠ (s.w.ctx n).rst.step)) := by
    rintro (h | ⟨h1, h2⟩)
    · exact h hctx
    · exact hstep.elim h1 h2
  have htakes : s.pullBegin src n k table = s.withW ((s.w.setCtx n { s.w.ctx n with rst := { (s.w.ctx n).rst with table, step := k.step, state := [] } }).ckptAnswer
      src 0 k.ctx k.step ceState gBegin) :=
    (if_neg (Classical.not_not.2 hst)).trans ((if_neg hasked).trans (if_neg (Classical.not_not.2 hcrc)))
  rw [htakes]
  exact congrArg Ctx.rst (((World.ckptAnswer_side ..).ctx n).trans (World.ctx_setCtx ..))

/-- A piece of a pulled state block is kept, while more are to come. -/
theorem State.pullState_keeps {s : State} (src : Nat) {n : Nat} {k : CkptHdr} {data : List Byte} (hst : (s.w.ctx n).rst.st = .checking) (hcrc : crc64 data = k.crc) :
    let state := (s.w.ctx n).rst.state.filter (fun (p : Nat × List Byte) => p.1 != k.granule) ++ [(k.granule, data)]
    sumN (state.map (·.2.length)) < stateBytes (s.ent n).cores →
    ((s.pullState src n k data).w.ctx n).rst = { (s.w.ctx n).rst with state } := by
  intro state hmore
  have hkeeps : s.pullState src n k data = s.withW ((s.w.setCtx n { s.w.ctx n with rst := { (s.w.ctx n).rst with state } }).ckptAnswer
      src 0 k.ctx k.step k.entry k.granule) :=
    (if_neg (Classical.not_not.2 hst)).trans ((if_neg (Classical.not_not.2 hcrc)).trans (if_pos hmore))
  rw [hkeeps]
  exact congrArg Ctx.rst (((World.ckptAnswer_side ..).ctx n).trans (World.ctx_setCtx ..))

/-- A context's streams seeded anew. -/
theorem State.seedAt_ctx (s : State) (n epoch : Nat) : ∃ e l, (s.seedAt n epoch).w.ctx n = { s.w.ctx n with epoch := e, lanes := l } := by
  unfold State.seedAt
  dsimp only
  split
  · exact ⟨epoch, (s.w.ctx n).lanes, World.ctx_setCtx ..⟩
  · exact ⟨epoch, laneCount, ((State.putHeader_side ..).ctx n).trans (World.ctx_setCtx ..)⟩

/-- A restore of a context is done. -/
def World.RestoreEnds (w : World) (n step : Nat) : Prop := (w.ctx n).rst.st = .done ∧ (w.ctx n).hold = 0 ∧ (w.ctx n).step = step

theorem World.Side.restoreEnds {w u : World} {n step : Nat} (h : w.Side u) (hw : w.RestoreEnds n step) : u.RestoreEnds n step := by
  unfold World.RestoreEnds
  rw [h.ctx]
  exact hw

/-- The state block in the slot ends a restore. -/
theorem State.pullEnd_ends {s : State} (src : Nat) {n : Nat} (k : CkptHdr) (hst : (s.w.ctx n).rst.st = .transferring) :
    (s.pullEnd src n k).w.RestoreEnds n (le (s.w.ctx n).rst.block 8 4) := by
  unfold State.pullEnd
  dsimp only
  rw [if_neg (Classical.not_not.2 hst)]
  generalize hw : ((s.w.hbmPut _ _).hbmPut _ _).setCtx n _ = w
  have hends : w.RestoreEnds n (le (s.w.ctx n).rst.block 8 4) := by
    rw [← hw, World.RestoreEnds, World.ctx_setCtx]
    exact ⟨rfl, rfl, rfl⟩
  have hanswer : ∀ (t : State) (step : Nat), t.w.RestoreEnds n step → (t.withW (t.w.ckptAnswer src 0 k.ctx k.step ceState gEnd)).w.RestoreEnds n step :=
    fun t _ ht => (World.ckptAnswer_side t.w src 0 k.ctx k.step ceState gEnd).restoreEnds ht
  refine hanswer _ _ ?_
  split
  · refine (State.putHeader_side ..).restoreEnds ?_
    refine (World.Side.foldl (fun w j => ?_) _ w).restoreEnds hends
    exact World.hbmPut_side ..
  · refine (World.event_side ..).restoreEnds ?_
    generalize hv : s.withW _ = v
    have hv' : v.w.RestoreEnds n (le (s.w.ctx n).rst.block 8 4) := by rw [← hv]; exact hends
    obtain ⟨e, l, hctx⟩ := State.seedAt_ctx v n (le (s.w.ctx n).rst.block 8 4)
    rw [World.RestoreEnds, hctx]
    exact hv'

/-- The ward's pieces: what a state piece and a granule both do. -/
theorem World.wardData_kept {s : State} {l : LinkId} {h : SeamHdr} {k : CkptHdr} {data : List Byte} {w : World} {op : Nat} {i : CkImage}
    (hok : s.w.receive l h (.ckpt op k data) false = .ok w) (hin : s.w.inboundOf k = some i) (hcrc : crc64 data = k.crc)
    (hnamed : ckNamed i.table k.entry k.granule = true) (hlen : data.length ≤ 65536) :
    let place := (i.held.findIdx? fun p => p.entry == k.entry && p.gran == k.granule).getD i.held.length
    let at_ := inboundBase + 65536 * place
    let piece : CkPiece := { entry := k.entry, gran := k.granule, place, len := data.length, crc := k.crc }
    place < stagePlaces →
    let t := s.withW (w.wardData h.src k data)
    t = { s with w := t.w } ∧
      t.w.buddy = { s.w.buddy with inbound := some { i with held := i.held.take place ++ [piece] ++ i.held.drop (place + 1) } } ∧
      Cells.read t.w.hbm.mem.cells at_ data.length = data ∧
      ∀ a, a < at_ ∨ at_ + alignUp data.length 64 ≤ a → Cells.get t.w.hbm.mem.cells a = Cells.get s.w.hbm.mem.cells a := by
  intro place at_ piece hplace t
  obtain ⟨hside, hhbm⟩ := World.receive_side hok
  have hbuddy := hside.buddy
  have hwin : w.inboundOf k = some i := by rw [World.inboundOf, hbuddy]; exact hin
  obtain ⟨hkept, hwhere⟩ := World.wardData_keeps h.src hwin hcrc hnamed hlen hplace
  obtain ⟨-, hread, hout⟩ := World.putPiece_holds w inboundBase piece data [] rfl
  rw [← hwhere] at hread hout
  exact ⟨rfl, hkept.trans (by rw [hbuddy]), hread, fun a ha => (hout a ha).trans (by rw [hhbm])⟩

/-- Settles O50: what is read keeps its step, pieces go to their places, and a good image is read without a mark. -/
theorem checkpointFramesComplete : Obligations.CheckpointFramesComplete := by
  unfold Obligations.CheckpointFramesComplete
  refine fun s l h k data w hmine => ⟨fun n hst hres hpart => ?_, fun hward hnone => ⟨fun hok hfree hcrc => ?_, fun i hin hcrc hnamed hlen => ?_,
    fun i hin hwhole hok => ?_, fun i himage hctx hstep hcrc hok => ?_⟩, fun i hok hward himage hctx hstep hgood hcrc => ?_,
    fun hok hsrc hout hward hst hstep hending hanswer => execCkptAnswer_commits hok hmine hsrc hout hward hst hstep hending hanswer,
    fun n hpull => ⟨fun hok hst hctx hstep hcrc => ?_, fun hok hst hcrc => ?_, fun hok hst => ?_⟩⟩
  · intro old ck a hawake hfault
    obtain ⟨v, u, hv, hside, hexec⟩ := execCheckpointReadDone_sends hst hres hpart hawake hfault
    have hctx := (hside.ctx n).trans (World.ctx_setCtx ..)
    refine ⟨_, hexec, congrArg (·.ck.st) hctx, congrArg (·.ck.crcs) hctx, congrArg (·.ck.granules) hctx, ?_, rfl, rfl⟩
    refine (congrArg (·.ck.step) hctx).trans ((congrArg (·.ck.step) hv).trans ?_)
    exact State.ckptReads_ckStep s n
  · have hbuddy := (World.receive_side hok).1.buddy
    have hexec : exec (.ckptBegin l h k data) s = .next (s.withW (w.wardBegin h.src k data)) :=
      State.ckptIn_ward hok hmine hnone hward (fun w => w.wardBegin h.src k data) fun s n => s.pullBegin h.src n k data
    exact ⟨_, hexec, rfl, (World.wardBegin_opens h.src (by rw [hbuddy]; exact hfree) hcrc).trans (by rw [hbuddy])⟩
  · intro place at_ piece kept hplace
    refine ⟨fun hok => ?_, fun hok => ?_⟩
    · have hexec : exec (.ckptState l h k data) s = .next (s.withW (w.wardData h.src k data)) :=
        State.ckptIn_ward hok hmine hnone hward (fun w => w.wardData h.src k data) fun s n => s.pullState h.src n k data
      exact ⟨_, hexec, World.wardData_kept hok hin hcrc hnamed hlen hplace⟩
    · have hawake : s.granuleSleeper h k = none := by rw [State.granuleSleeper, hnone]
      have hexec : exec (.ckptGranule l h k data) s = .next (s.withW (w.wardData h.src k data)) := by
        have hrun : exec (.ckptGranule l h k data) s = execCkptGranule l h k data s := rfl
        rw [hrun, execCkptGranule, hawake]
        exact State.ckptIn_ward hok hmine hnone hward (fun w => w.wardData h.src k data) fun s n => s.pullGranule h.src n k data
      exact ⟨_, hexec, World.wardData_kept hok hin hcrc hnamed hlen hplace⟩
  · obtain ⟨hside, hhbm⟩ := World.receive_side hok
    have hbuddy := hside.buddy
    have hwin : w.inboundOf k = some i := by rw [World.inboundOf, hbuddy]; exact hin
    obtain ⟨hends, hcells⟩ := World.wardEnd_commits h.src hwin (by rw [hbuddy]; exact hwhole)
    have hexec : exec (.ckptEnd l h k) s = .next (s.withW (w.wardEnd h.src k)) :=
      State.ckptIn_ward hok hmine hnone hward (fun w => w.wardEnd h.src k) fun s n => s.pullEnd h.src n k
    exact ⟨_, hexec, rfl, hends.trans (by rw [hbuddy]), fun a ha => (hcells a ha).trans (by rw [hhbm])⟩
  · have hbuddy := (World.receive_side hok).1.buddy
    have hexec : exec (.ckptReplay l h k data) s = .next (s.withW (w.wardReplay k data)) :=
      State.ckptIn_ward hok hmine hnone hward (fun w => w.wardReplay k data) fun s n => s.pullReplay n k data
    have hstores := World.wardReplay_stores (w := w) (by rw [hbuddy]; exact himage) hctx hstep hcrc
    exact ⟨_, hexec, rfl, (congrArg World.buddy hstores).trans (by rw [hbuddy])⟩
  · obtain ⟨hside, hhbm⟩ := World.receive_side hok
    have hbuddy := hside.buddy
    have hexec : exec (.ckptPull l h k) s = .next (s.withW (w.pull h.src k)) := by
      have hm : ¬ w.mine h = false := by rw [World.mine_of_receive hok, hmine]; decide
      have hrun : exec (.ckptPull l h k) s = execCkptPull l h k s := rfl
      rw [hrun, execCkptPull, hok]
      exact (if_neg hm).trans (if_pos (by rw [World.isWard, hbuddy]; exact hward))
    refine ⟨_, hexec, rfl, (World.pull_sends h.src (by rw [hbuddy]; exact himage) hctx hstep (fun p hp b hlo hhi => ?_) fun p hp => ?_).trans (by rw [hbuddy])⟩
    · rw [hhbm]
      exact (hgood p hp b hlo hhi).1
    · rw [World.hbmRange, hhbm]
      exact hcrc p hp
  · have hw : (s.withW w).w.ctx n = s.w.ctx n := (World.receive_side hok).1.ctx n
    have hexec : exec (.ckptBegin l h k data) s = .next ((s.withW w).pullBegin h.src n k data) :=
      State.ckptIn_pull hok hmine hpull (fun w => w.wardBegin h.src k data) fun s n => s.pullBegin h.src n k data
    rw [← hw] at hst hctx hstep ⊢
    exact ⟨_, hexec, State.pullBegin_takes h.src hst hctx hstep hcrc⟩
  · intro state hmore
    have hw : (s.withW w).w.ctx n = s.w.ctx n := (World.receive_side hok).1.ctx n
    have hexec : exec (.ckptState l h k data) s = .next ((s.withW w).pullState h.src n k data) :=
      State.ckptIn_pull hok hmine hpull (fun w => w.wardData h.src k data) fun s n => s.pullState h.src n k data
    have hkeeps := State.pullState_keeps (s := s.withW w) h.src (by rw [hw]; exact hst) hcrc (by rw [hw]; exact hmore)
    rw [hw] at hkeeps
    exact ⟨_, hexec, hkeeps⟩
  · have hw : (s.withW w).w.ctx n = s.w.ctx n := (World.receive_side hok).1.ctx n
    have hexec : exec (.ckptEnd l h k) s = .next ((s.withW w).pullEnd h.src n k) :=
      State.ckptIn_pull hok hmine hpull (fun w => w.wardEnd h.src k) fun s n => s.pullEnd h.src n k
    obtain ⟨hdone, hhold, hstep⟩ := State.pullEnd_ends (s := s.withW w) h.src k (by rw [hw]; exact hst)
    rw [hw] at hstep
    have hkept : ((s.withW w).pullEnd h.src n k).res = s.res := congrArg Kept.table (State.pullEnd_kept (s.withW w) h.src n k)
    exact ⟨_, hexec, hdone, hhold, hstep, State.pullEnd_otp .., hkept⟩

end Sys2Proof.Machine

/-! PROOFS. DMA channels: what leaves every byte as it was, how channels end and halt, plans, copies and reads ahead. -/
namespace Sys2Proof.Machine

/-! ## What leaves the bytes of every memory -/

/-- HBM and the core memories list the same bytes. -/
def World.SameCells (u v : World) : Prop :=
  u.hbm.mem.cells = v.hbm.mem.cells ∧ ∀ e m, ((u.core e).mem m).cells = ((v.core e).mem m).cells

/-- No channel and no byte of a memory differs. -/
structure World.Still (w u : World) : Prop where
  dma : u.dma = w.dma
  same : u.SameCells w

theorem World.SameCells.trans {u v w : World} (a : u.SameCells v) (b : v.SameCells w) : u.SameCells w :=
  ⟨a.1.trans b.1, fun e m => (a.2 e m).trans (b.2 e m)⟩

theorem World.sameCells_of_eq {u w : World} (hbm : u.hbm = w.hbm) (cores : u.cores = w.cores) : u.SameCells w :=
  ⟨by rw [hbm], fun e m => by rw [World.core, cores, World.core]⟩

theorem World.setChan_sameCells (w : World) (d : Nat) (c : Chan) : (w.setChan d c).SameCells w := ⟨rfl, fun _ _ => rfl⟩

namespace World.Still

theorem refl (w : World) : w.Still w := ⟨rfl, rfl, fun _ _ => rfl⟩
theorem trans {w u v : World} (a : w.Still u) (b : u.Still v) : w.Still v := ⟨b.dma.trans a.dma, b.same.trans a.same⟩
theorem chan {w u : World} (a : w.Still u) (d : Nat) : u.chan d = w.chan d := by rw [World.chan, a.dma, World.chan]
theorem ite {w u v : World} {p : Prop} [Decidable p] (a : w.Still u) (b : w.Still v) : w.Still (if p then u else v) := by
  split
  · exact a
  · exact b

end World.Still

theorem World.Side.still {w u : World} (h : w.Side u) (hcells : u.hbm.mem.cells = w.hbm.mem.cells) : w.Still u :=
  ⟨h.fields.2.2.2.1, hcells, fun e m => by rw [h.core]⟩

theorem World.Quiet.still {w u : World} (h : w.Quiet u) (hcells : u.hbm.mem.cells = w.hbm.mem.cells) : w.Still u :=
  ⟨h.dma, hcells, fun e m => by rw [h.core]⟩

theorem World.event_still (w : World) (code idx sub die : Nat) (ctx : Option Nat) (st : Nat) (p : List Byte) : w.Still (w.event code idx sub die ctx st p) :=
  (World.event_side ..).still rfl

theorem World.raise_still (w : World) (cls unit status inst : Nat) (ctx : Option Nat) (die addr : Nat) (detail : List Byte) (peer : Bool) :
    w.Still (w.raise cls unit status inst ctx die addr detail peer) :=
  (World.raise_side ..).still (World.onlyRead_raise ..).cells

theorem World.putWalker_still (w : World) (k n : Nat) (x : Walker) : w.Still (w.putWalker k n x) :=
  (World.putWalker_quiet ..).still (World.putWalker_cells ..)

theorem World.chanPages_still (w : World) (n d root : Nat) (wr : Bool) (l : List Nat) : w.Still (w.chanPages n d root wr l).2 :=
  World.putWalker_still ..

theorem World.busFail_still (w : World) (n : Option Nat) (b : Nat) (own : Bool) : w.Still (w.busFail n b own) := by
  obtain ⟨_, _, _, _, h⟩ := World.busFail_frame w n b own
  rw [h]
  exact ⟨rfl, rfl, fun _ _ => rfl⟩

theorem World.chanBus_still (w : World) (n d root : Nat) (wr : Bool) (a : Nat) : w.Still (w.chanBus n d root wr a) := by
  have hpages := World.chanPages_still w n d root wr (pagesOf (dAddr a) 1)
  unfold World.chanBus
  refine .ite ?_ (.refl w)
  split
  · next heq =>
    rw [heq] at hpages
    exact hpages.trans (World.busFail_still ..)
  · exact .refl w

theorem World.reportFault_still (w : World) (n va : Nat) (f : XFault) (q : XSource) : w.Still (w.reportFault n va f q) :=
  (World.reportFault_quiet ..).still (World.reportFault_reads ..).cells

theorem World.foldl_reply_hbm (f : Waiter → Answer) (l : List Waiter) (w : World) :
    (l.foldl (fun w x => w.reply x.port x.src x.sid (f x)) w).hbm = w.hbm := by
  induction l generalizing w with
  | nil => rfl
  | cons x l ih => rw [List.foldl_cons, ih, World.reply_frame]

theorem World.resolve_hbm (w : World) (what : WaitFor) (st : Nat) (value : List Byte) : (w.resolve what st value).hbm = w.hbm :=
  World.foldl_reply_hbm ..

/-- A core once the drain that its DMAGO waits for has ended. -/
def Core.drained (d st : Nat) (k : Core) : Core :=
  match k.dmaWait with
  | some (x, none) => if x = d then { k with dmaWait := some (d, some st) } else k
  | _ => k

theorem Core.drained_mem (d st : Nat) (k : Core) (m : CoreMem) : (k.drained d st).mem m = k.mem m := by
  unfold Core.drained
  split
  · split
    · cases m <;> rfl
    · rfl
  · rfl

theorem World.chanDone_still (w : World) (d st : Nat) : w.Still (w.chanDone d st) := by
  have hside := World.resolve_side w (.dma d) st []
  refine ⟨hside.fields.2.2.2.1, congrArg (fun h : Hbm => h.mem.cells) (World.resolve_hbm ..), fun e m => ?_⟩
  have hcores : (w.chanDone d st).cores = w.cores.map fun x => (x.1, x.2.drained d st) := by
    unfold World.chanDone
    dsimp only
    rw [hside.fields.1]
    refine List.map_congr_left fun x _ => ?_
    unfold Core.drained
    rcases x.2.dmaWait with _ | ⟨y, _ | v⟩
    · rfl
    · exact (apply_ite (Prod.mk x.1) (y = d) { x.2 with dmaWait := some (d, some st) } x.2).symm
    · rfl
  have hcore : (w.chanDone d st).core e = (w.core e).drained d st := by
    unfold World.core
    rw [hcores]
    exact Tab.get_map (Core.drained d st) (Core.fresh e) w.cores e
  rw [hcore, Core.drained_mem]

/-! ## Channels that end and halt -/

theorem World.chanEvent_still (w : World) (n d : Nat) (c : Chan) (st : Nat) : w.Still (w.chanEvent n d c st) := World.event_still ..

theorem World.chanSignal_still (w : World) (r : Resid) (c : Chan) : w.Still (w.chanSignal r c) := by
  unfold World.chanSignal
  exact .ite ⟨rfl, rfl, fun _ _ => rfl⟩ (.refl w)

/-- A channel as its descriptor's end leaves it, before what comes next. -/
def Chan.ended (c : Chan) (st : Nat) : Chan :=
  { c with lastStatus := st, done := bump 64 c.done 1, have_ := false, desc := List.replicate 64 0, nextDesc := none, ahead := []
           latStatus := 0, latAddr := 0, latDir := 0, latKind := 0, poisoned := false, aborting := false, by_ := .nobody }

/-- A chain that goes on, at the descriptor fetched already or at the one to be fetched. -/
def Chan.goesOn (c : Chan) (st next : Nat) : Chan :=
  let out := { c.ended st with st := .running, cur := BitVec.ofNat 64 next }
  match c.nextDesc with
  | some b => out.load b
  | none => out

theorem World.endDescriptor_idle {w : World} {r : Resid} {n d : Nat} {c : Chan} {st : Nat} {last : Bool} (h : last = true ∨ ddNext c.desc = 0) :
    (w.endDescriptor r n d c st last).chan d = { c.ended st with st := .idle } ∧ (w.endDescriptor r n d c st last).SameCells w := by
  have hnext : (if last || !c.known then 0 else ddNext c.desc) = 0 := by
    obtain h | h := h <;> simp [h]
  unfold World.endDescriptor
  dsimp only
  rw [if_pos hnext]
  generalize hu : (if (c.known && ddEvt c.desc) = true then (w.chanSignal r c).chanEvent n d c st else w.chanSignal r c) = u
  have hstill : w.Still u := hu ▸ (World.chanSignal_still ..).trans (.ite (World.chanEvent_still ..) (.refl _))
  have hset : (u.setChan d { c.ended st with st := .idle }).Still ((if (w.chan d).st = .idle then u.setChan d { c.ended st with st := .idle }
      else (u.setChan d { c.ended st with st := .idle }).chanEvent n d c st).chanDone d stOk) :=
    .trans (.ite (.refl _) (World.chanEvent_still ..)) (World.chanDone_still ..)
  exact ⟨(hset.chan d).trans (World.chan_setChan ..), hset.same.trans ((World.setChan_sameCells ..).trans hstill.same)⟩

theorem World.endDescriptor_goesOn {w : World} {r : Resid} {n d : Nat} {c : Chan} {st : Nat} (hknown : c.have_ = true) (h : ddNext c.desc ≠ 0) :
    (w.endDescriptor r n d c st false).chan d = c.goesOn st (ddNext c.desc) ∧
      (w.endDescriptor r n d c st false).cores = w.cores ∧ (w.endDescriptor r n d c st false).hbm = w.hbm ∧
      (w.endDescriptor r n d c st false).free = w.free := by
  have hnext : (if false || !c.known then 0 else ddNext c.desc) = ddNext c.desc := by
    rw [Chan.known, hknown]
    rfl
  unfold World.endDescriptor
  dsimp only
  rw [hnext, if_neg h]
  generalize hu : (if (c.known && ddEvt c.desc) = true then (w.chanSignal r c).chanEvent n d c st else w.chanSignal r c) = u
  have hframe : u.cores = w.cores ∧ u.hbm = w.hbm ∧ u.free = w.free := by
    rw [← hu]
    unfold World.chanSignal
    dsimp only
    split <;> split <;> exact ⟨rfl, rfl, rfl⟩
  split
  · exact ⟨World.chan_setChan .., hframe⟩
  · exact ⟨World.chan_setChan .., hframe⟩

/-- A halt latches its failure (R313). -/
theorem World.haltChan_latches {w : World} {r : Resid} {n d : Nat} {c : Chan} {st : Nat} {addr : Word} {dir kind : Nat} (h : c.aborting = false) :
    ((w.haltChan r n d c st addr dir kind).chan d).st = .halted ∧ ((w.haltChan r n d c st addr dir kind).chan d).latStatus = st ∧
      ((w.haltChan r n d c st addr dir kind).chan d).latAddr = addr ∧ ((w.haltChan r n d c st addr dir kind).chan d).latDir = dir ∧
      ((w.haltChan r n d c st addr dir kind).chan d).latKind = kind ∧ (w.haltChan r n d c st addr dir kind).SameCells w := by
  unfold World.haltChan
  dsimp only
  rw [h, if_neg Bool.false_ne_true]
  generalize hk : ({ c with st := .halted, latStatus := st, latAddr := addr, latDir := dir, latKind := kind, aborting := false, ahead := [] } : Chan) = k
  have hmove : (w.moveChan n d k st).SameCells w := by
    obtain ⟨hcores, hhbm, -, -⟩ := World.moveChan_frame w n d k st
    exact World.sameCells_of_eq hhbm hcores
  have hstill : (w.moveChan n d k st).Still ((if st = stBusError then (w.moveChan n d k st).raise clsUe uDma st d (some n) (dieOfChan d) addr.toNat
      [BitVec.ofNat 8 dir] else w.moveChan n d k st).chanDone d stState) :=
    .trans (.ite (World.raise_still ..) (.refl _)) (World.chanDone_still ..)
  rw [hstill.chan, World.moveChan_chan]
  subst hk
  exact ⟨rfl, rfl, rfl, rfl, rfl, hstill.same.trans hmove⟩

/-! ## Plans and copies -/

theorem World.chanWalk_still (n d root : Nat) (wr : Bool) (l : List Nat) (w : World) : w.Still (w.chanWalk n d root wr l).2 := by
  induction l generalizing w with
  | nil => exact .refl w
  | cons va l ih =>
    have hpages := World.chanPages_still w n d root wr [va]
    unfold World.chanWalk
    dsimp only
    split
    · exact hpages
    split
    · exact hpages
    · split
      · exact hpages.trans (ih _)
      · exact hpages.trans (ih _)

theorem World.planSide_still (w : World) (n d root dir space : Nat) (at_ : RowRun → Nat) (l : List RowRun) :
    w.Still (w.planSide n d root dir space at_ l).2 := by
  have hwalk := World.chanWalk_still n d root (dir == 1) (sidePages space at_ l) w
  unfold World.planSide
  dsimp only
  split
  · exact hwalk
  · exact hwalk
  · split <;> exact hwalk

theorem World.planCopy_still (w : World) (n d root : Nat) (c : Chan) (l : List RowRun) : w.Still (w.planCopy n d root c l).2 := by
  have hsrc := World.planSide_still w n d root 0 (dSpace c.src.toNat) (·.src) (restBytes c.aheadBytes l)
  have hdst := fun u : World => World.planSide_still u n d root 1 (dSpace c.dst.toNat) (·.dst) l
  unfold World.planCopy
  dsimp only
  split
  · exact hsrc.trans (hdst _)
  · exact hsrc
  · exact hsrc.trans (hdst _)
  · split
    · exact hsrc
    · exact hdst w

/-- Only the registers move (R313). -/
theorem Chan.moveOn_frame (c : Chan) (k : Nat) :
    c.moveOn k = { c with src := (c.moveOn k).src, dst := (c.moveOn k).dst, rowLeft := (c.moveOn k).rowLeft, rowsLeft := (c.moveOn k).rowsLeft } := by
  unfold Chan.moveOn
  dsimp only
  split
  · rfl
  · split
    · rfl
    · split <;> rfl

theorem World.chanCopy_frame (w : World) (n : Nat) (c : Chan) (sp dp : List (Nat × Nat)) (l : List RowRun) :
    (w.chanCopy n c sp dp l).2 = { c with
      src := (c.moveOn (runBytes l)).src, dst := (c.moveOn (runBytes l)).dst, rowLeft := (c.moveOn (runBytes l)).rowLeft
      rowsLeft := (c.moveOn (runBytes l)).rowsLeft, poisoned := (w.chanCopy n c sp dp l).2.poisoned
      bytes := bump 64 c.bytes (runBytes l), ahead := [] } := by
  have hframe := Chan.moveOn_frame c (runBytes l)
  unfold World.chanCopy
  dsimp only
  rw [hframe]

/-! ## Copies into one memory leave the others -/

/-- Weight Stores and scratchpads list the same bytes. -/
def World.SameStores (u w : World) : Prop := ∀ e, (u.core e).ws.cells = (w.core e).ws.cells ∧ (u.core e).sp.cells = (w.core e).sp.cells

theorem World.SameStores.trans {u v w : World} (a : u.SameStores v) (b : v.SameStores w) : u.SameStores w :=
  fun e => ⟨(a e).1.trans (b e).1, (a e).2.trans (b e).2⟩

theorem World.SameCells.stores {u w : World} (h : u.SameCells w) : u.SameStores w := fun e => ⟨h.2 e .weight, h.2 e .scratch⟩

theorem World.Side.stores {w u : World} (h : w.Side u) : u.SameStores w := fun e => by rw [h.core]; exact ⟨rfl, rfl⟩

theorem World.setMem_stores (w : World) (c : Nat) (m : CoreMem) {v : EccMem} (h : m = .psum ∨ v.cells = ((w.core c).mem m).cells)
    (q : List (CoreMem × Nat)) (d : Nat) : (w.setCore c { (w.core c).setMem m v with wbq := q, wbDropped := d }).SameStores w := by
  intro e
  by_cases he : e = c
  · subst he
    rw [World.core_setCore]
    cases m with
    | weight => exact ⟨h.resolve_left (nomatch ·), rfl⟩
    | scratch => exact ⟨rfl, h.resolve_left (nomatch ·)⟩
    | psum => exact ⟨rfl, rfl⟩
  · rw [World.core_setCore_ne _ _ he]
    exact ⟨rfl, rfl⟩

theorem World.touchWord_stores (w : World) (c : Nat) (n : Option Nat) (m : CoreMem) (k : Nat) : (w.touchWord c n m k).SameStores w := by
  unfold World.touchWord
  dsimp only
  split
  · exact fun _ => ⟨rfl, rfl⟩
  · next b seen _ =>
    have hset := fun q d => World.setMem_stores w c m (v := ((w.core c).mem m).seen k b) (.inr rfl) q d
    generalize hu : ((w.core c).setMem m (((w.core c).mem m).seen k b)) = u at hset
    have hqueue : (w.setCore c (u.queueWb m k)).SameStores w := by
      unfold Core.queueWb
      split
      · exact hset u.wbq u.wbDropped
      split
      · exact hset _ u.wbDropped
      · exact hset u.wbq _
    split
    · exact hqueue
    · exact (World.raise_side ..).stores.trans hqueue
  · refine (World.raise_side ..).stores.trans (World.setMem_stores w c m ?_ ((w.core c).setMem m _).wbq ((w.core c).setMem m _).wbDropped)
    by_cases hm : m = .psum
    · exact .inl hm
    · rw [if_neg hm]
      exact .inr rfl

theorem World.touch_stores (w : World) (c : Nat) (n : Option Nat) (m : CoreMem) (l : List Nat) : (w.touch c n m l).SameStores w := by
  unfold World.touch
  induction l generalizing w with
  | nil => exact fun _ => ⟨rfl, rfl⟩
  | cons k l ih => exact (ih _).trans (World.touchWord_stores w c n m k)

theorem World.chanReads_stores (w : World) (n : Nat) (c : Chan) (sp : List (Nat × Nat)) (l : List RowRun) : (w.chanReads n c sp l).SameStores w := by
  unfold World.chanReads
  dsimp only
  split
  · exact (World.readBlocks_side ..).stores
  · exact World.touch_stores _ _ _ _ _

theorem World.chanReads_hbm (w : World) (n : Nat) (c : Chan) (sp : List (Nat × Nat)) (l : List RowRun) :
    (w.chanReads n c sp l).hbm.mem.cells = w.hbm.mem.cells := by
  unfold World.chanReads
  dsimp only
  split
  · exact World.readBlocks_cells ..
  · exact (World.onlyRead_touch ..).cells

theorem World.writeCore_hbm (w : World) (c : Nat) (n : Option Nat) (m : CoreMem) (bs : List BitWrite) :
    (w.writeCore c n m bs).hbm.mem.cells = w.hbm.mem.cells := by
  unfold World.writeCore
  split
  · rfl
  · exact (World.onlyRead_touch ..).cells

theorem foldl_keeps {α β : Type} {f : World → α → World} {p : World → β} (h : ∀ w x, p (f w x) = p w) (l : List α) (w : World) :
    p (l.foldl f w) = p w := by
  induction l generalizing w with
  | nil => rfl
  | cons x l ih => exact (ih _).trans (h w x)

/-- A copy into a core memory changes no byte of HBM. -/
theorem World.chanCopy_hbm (w : World) (n : Nat) {c : Chan} (h : dSpace c.dst.toNat ≠ 0) (sp dp : List (Nat × Nat)) (l : List RowRun) :
    (w.chanCopy n c sp dp l).1.hbm.mem.cells = w.hbm.mem.cells := by
  unfold World.chanCopy
  dsimp only
  refine Eq.trans (foldl_keeps (p := fun w : World => w.hbm.mem.cells) (fun w r => ?_) _ _) (World.chanReads_hbm ..)
  rw [if_neg h]
  exact World.writeCore_hbm ..

/-- A copy into HBM changes no byte of a Weight Store or a scratchpad. -/
theorem World.chanCopy_stores (w : World) (n : Nat) {c : Chan} (h : dSpace c.dst.toNat = 0) (sp dp : List (Nat × Nat)) (l : List RowRun) :
    (w.chanCopy n c sp dp l).1.SameStores w := by
  unfold World.chanCopy
  dsimp only
  refine World.SameStores.trans (fun e => ?_) (World.chanReads_stores w n c sp (restBytes c.aheadBytes l))
  rw [foldl_keeps (p := fun w : World => w.core e) fun w r => ?_]
  · exact ⟨rfl, rfl⟩
  · rw [if_pos h]
    exact (World.writeHbm_side ..).core e

/-! ## Reads ahead (R307) -/

/-- Reads ahead of the current descriptor, of so many of its bytes as are given. -/
def World.readFirst (w old : World) (n d root k : Nat) : World :=
  let c := w.chan d
  if !c.have_ || dsWaitEn (ddSync c.desc) then w
  else
    let l := firstBytes (accessFloor (·.src) (min k (runBytes c.runs)) c.runs) c.runs
    match w.planSide n d root 0 (dSpace c.src.toNat) (·.src) l with
    | (.error _, _) => w
    | (.ok sp, w) =>
      let acc := l.flatMap (old.runAccesses sp (dSpace c.src.toNat) (dCore c.src.toNat))
      (w.chanReads n c sp l).setChan d { c with ahead := (acc.map (·.2)).take 64 }

/-- How many bytes a channel reads ahead is a free value (log entry 186). -/
theorem World.readAhead_eq (w old : World) (n d root : Nat) :
    w.readAhead old n d root = { w with free := w.free + 1 }.readFirst old n d root (Config.freeNat w.free % 4097) := rfl

theorem accessFloor_zero (at_ : RowRun → Nat) (l : List RowRun) : accessFloor at_ 0 l = 0 := by
  induction l with
  | nil => rfl
  | cons r l ih =>
    unfold accessFloor
    split
    · next h =>
      rw [Nat.zero_sub, ih]
      omega
    · dsimp only
      rw [if_pos (by omega)]

theorem firstBytes_zero (l : List RowRun) : firstBytes 0 l = [] := by cases l <;> rfl

theorem World.planSide_nil (w : World) (n d root dir space : Nat) (at_ : RowRun → Nat) : w.planSide n d root dir space at_ [] = (.ok [], w) := by
  have hpages : sidePages space at_ [] = [] := by
    unfold sidePages
    split <;> rfl
  unfold World.planSide
  rw [hpages]
  dsimp only [World.chanWalk]
  split
  · next h =>
    split at h <;> cases h
  · rfl

theorem World.chanReads_nil (w : World) (n : Nat) (c : Chan) (sp : List (Nat × Nat)) : w.chanReads n c sp [] = w := by
  unfold World.chanReads
  dsimp only
  split <;> rfl

/-- Where nothing is read ahead, the channel holds nothing read ahead. -/
theorem World.readFirst_zero (w old : World) (n d root : Nat) :
    w.readFirst old n d root 0 = w ∨ w.readFirst old n d root 0 = w.setChan d { w.chan d with ahead := [] } := by
  unfold World.readFirst
  dsimp only
  split
  · exact .inl rfl
  · rw [Nat.zero_min, accessFloor_zero, firstBytes_zero, World.planSide_nil]
    dsimp only
    rw [World.chanReads_nil]
    exact .inr rfl

end Sys2Proof.Machine

/-! PROOFS. The commands of a DMA channel: halts and pauses after whole accesses, descriptors fetched and completed. -/
namespace Sys2Proof.Machine

/-! ## Halts and pauses after whole accesses (R313) -/

/-- The registers after the first bytes of what is left of a descriptor. -/
def Chan.after (c : Chan) (k : Nat) : Chan := if k = 0 then c else c.moveOn (runBytes (firstBytes k c.runs))

/-- The world after those bytes have been copied. -/
def World.movedBy (w : World) (n : Nat) (c : Chan) (sp dp : List (Nat × Nat)) (k : Nat) : World :=
  if k = 0 then w else (w.chanCopy n c sp dp (firstBytes k c.runs)).1

/-- A failure latched by a halted channel. -/
structure Chan.Halted (c : Chan) (status : Nat) (addr : Word) (dir kind : Nat) : Prop where
  st : c.st = .halted
  latStatus : c.latStatus = status
  latAddr : c.latAddr = addr
  latDir : c.latDir = dir
  latKind : c.latKind = kind

theorem World.haltChan_halted (w : World) (r : Resid) (n d : Nat) {c : Chan} (st : Nat) (addr : Word) (dir kind : Nat) (h : c.aborting = false) :
    ((w.haltChan r n d c st addr dir kind).chan d).Halted st addr dir kind ∧ (w.haltChan r n d c st addr dir kind).SameCells w := by
  obtain ⟨h1, h2, h3, h4, h5, hsame⟩ := World.haltChan_latches (w := w) (r := r) (n := n) (d := d) (st := st) (addr := addr) (dir := dir) (kind := kind) h
  exact ⟨⟨h1, h2, h3, h4, h5⟩, hsame⟩

theorem World.moved_eq (w : World) (n : Nat) (c : Chan) (sp dp : List (Nat × Nat)) (k : Nat) :
    let x := if k = 0 then (w, c) else w.chanCopy n c sp dp (firstBytes k c.runs)
    x.1 = w.movedBy n c sp dp k ∧ x.2.src = (c.after k).src ∧ x.2.dst = (c.after k).dst ∧ x.2.aborting = c.aborting ∧
      (k ≠ 0 → x.2.bytes = bump 64 c.bytes (runBytes (firstBytes k c.runs))) := by
  by_cases hk : k = 0
  · rw [World.movedBy, Chan.after, if_pos hk, if_pos hk, if_pos hk]
    exact ⟨rfl, rfl, rfl, rfl, fun h => absurd hk h⟩
  · have hframe := World.chanCopy_frame w n c sp dp (firstBytes k c.runs)
    rw [World.movedBy, Chan.after, if_neg hk, if_neg hk, if_neg hk]
    refine ⟨rfl, ?_, ?_, ?_, fun _ => ?_⟩
    all_goals rw [hframe]

theorem World.haltAfter_halts {w w' : World} {r : Resid} {n d : Nat} {c : Chan} {moved dir k : Nat} {sp dp : List (Nat × Nat)} (st kind : Nat) (walk : Bool)
    (hk : k = if dir = 0 then max c.aheadBytes (accessFloor (·.src) moved c.runs) else accessFloor (·.dst) moved c.runs)
    (hmoved : moved < runBytes c.runs) (hless : k < runBytes c.runs)
    (hplan : w.planCopy n d r.root c (firstBytes k c.runs) = (.clear sp dp, w')) (habort : c.aborting = false) :
    ∃ u, w.haltAfter r n d c moved dir st kind walk = some u ∧
      (u.chan d).Halted st (if dir = 0 then (c.after k).src else (c.after k).dst) dir kind ∧ u.SameCells (w'.movedBy n c sp dp k) := by
  obtain ⟨hworld, hsrc, hdst, hab, -⟩ := World.moved_eq w' n c sp dp k
  unfold World.haltAfter
  dsimp only
  rw [← hk, if_neg (by omega), hplan]
  dsimp only
  generalize (if k = 0 then (w', c) else w'.chanCopy n c sp dp (firstBytes k c.runs)) = x at hworld hsrc hdst hab
  obtain ⟨u, x⟩ := x
  dsimp only at hworld hsrc hdst hab ⊢
  subst hworld
  rw [hsrc, hdst]
  generalize (if dir = 0 then (c.after k).src else (c.after k).dst) = a
  obtain ⟨hhalted, hsame⟩ := World.haltChan_halted (if st = stBusError ∧ walk = false then (w'.movedBy n c sp dp k).chanBus n d r.root (dir == 1) a.toNat
    else w'.movedBy n c sp dp k) r n d st a dir kind (hab.trans habort)
  exact ⟨_, rfl, hhalted, hsame.trans (World.Still.ite (World.chanBus_still ..) (.refl _)).same⟩

/-! ## The commands of a channel -/

/-- A command of a channel of a context's cluster that does not sleep runs. -/
theorem State.chanRun_runs {s : State} {d n : Nat} {r : Resid} (hctx : s.chanCtx d = some (n, r)) (hawake : s.w.asleep (chanCluster d) = false)
    (f : Nat → Resid → Out) : s.chanRun d f = f n r := by
  simp only [State.chanRun, hctx, hawake, Bool.false_eq_true, and_false, if_false]

theorem World.issueReads_core {w w0 : World} {n d root : Nat} {c c0 : Chan} (h : w.issueReads n d root c = some (w0, c0)) : c0.core = c.core := by
  unfold World.issueReads at h
  split at h
  · next sp dp u _ =>
    dsimp only at h
    generalize (if beforeLast c.runs = 0 then 0 else max c.aheadBytes (beforeLast c.runs)) = k at h
    generalize hx : (if k = 0 then (u, c) else u.chanCopy n c sp dp (firstBytes k c.runs)) = x at h
    obtain ⟨-, rfl⟩ := Prod.mk.inj (Option.some.inj h)
    dsimp only
    rw [← hx]
    split
    · rfl
    · exact (congrArg Chan.core (World.chanCopy_frame ..)).trans rfl
  · cases h

section
variable {s : State} {d : ChanId} {n : Nat} {r : Resid} (hctx : s.chanCtx d = some (n, r)) (hawake : s.w.asleep (chanCluster d) = false)
include hctx hawake

/-- A good descriptor is loaded (R304). -/
theorem exec_fetchCurrent {b : List Byte} {w : World} (hst : (s.w.chan d).st = .running) (hnone : (s.w.chan d).have_ = false)
    (hnext : dNextBad (s.w.chan d).core (s.w.chan d).cur.toNat = false) (halign : (s.w.chan d).cur.toNat % 64 = 0)
    (hlost : s.w.descriptorLost n d r (s.w.chan d).cur.toNat = false)
    (hread : s.w.readDescriptor n d r (s.w.chan d).cur.toNat = (.ok (b, false), w)) (hbus : World.busMet s.w w = false)
    (hgood : descriptorBad r (chanCluster d) (s.w.chan d).core b = false) :
    exec (.dmaDescriptorFetch d) s = .next (s.withW (w.setChan d ((s.w.chan d).load b))) := by
  have hexec : exec (.dmaDescriptorFetch d) s = execDmaDescriptorFetch d s := rfl
  have hfetch : s.w.fetchCurrent n d r (s.w.chan d) = w.setChan d ((s.w.chan d).load b) := by
    simp only [World.fetchCurrent, hnext, halign, hlost, hread, hbus, hgood, Bool.false_eq_true, if_false, ne_eq, not_true_eq_false]
  rw [hexec, execDmaDescriptorFetch, State.chanRun_runs hctx hawake]
  dsimp only
  rw [if_neg (Classical.not_not.2 hst), hnone, if_neg Bool.false_ne_true, hfetch]

/-- The next descriptor of a chain is read while the current one still writes (R306). -/
theorem exec_fetchNext {b : List Byte} {w0 w : World} {c0 : Chan} (hst : (s.w.chan d).st = .running) (hhave : (s.w.chan d).have_ = true)
    (hbar : ddBar (s.w.chan d).desc = false) (hnext : ddNext (s.w.chan d).desc ≠ 0) (halign : ddNext (s.w.chan d).desc % 64 = 0)
    (hnone : (s.w.chan d).nextDesc = none) (hready : s.w.chanReady (s.w.chan d) = true)
    (hlost : s.w.descriptorLost n d r (ddNext (s.w.chan d).desc) = false) (hissue : s.w.issueReads n d r.root (s.w.chan d) = some (w0, c0))
    (hread : w0.readDescriptor n d r (ddNext (s.w.chan d).desc) = (.ok (b, false), w)) (hbus : World.busMet w0 w = false)
    (hgood : descriptorBad r (chanCluster d) (s.w.chan d).core b = false) :
    exec (.dmaDescriptorFetch d) s = .next (s.withW (w.setChan d { c0 with nextDesc := some b })) := by
  have hexec : exec (.dmaDescriptorFetch d) s = execDmaDescriptorFetch d s := rfl
  rw [← World.issueReads_core hissue] at hgood
  have hfetch : s.w.fetchNext n d r (s.w.chan d) = w.setChan d { c0 with nextDesc := some b } := by
    have hfirst : (ddNext (s.w.chan d).desc == 0) = false := beq_eq_false_iff_ne.2 hnext
    simp only [World.fetchNext, hbar, hfirst, hnone, Option.isSome_none, hready, Bool.not_true, halign, bne_self_eq_false, hlost, Bool.or_false,
      Bool.false_eq_true, if_false, hissue, hread, hgood, hbus]
  rw [hexec, execDmaDescriptorFetch, State.chanRun_runs hctx hawake]
  dsimp only
  rw [if_neg (Classical.not_not.2 hst), hhave, if_pos rfl, hfetch]

/-- A descriptor that meets no fault is copied and ended, and reads of the next one may come ahead (R307). -/
theorem exec_descriptorComplete {sp dp : List (Nat × Nat)} {w : World} (hst : (s.w.chan d).st = .running) (hhave : (s.w.chan d).have_ = true)
    (hready : s.w.chanReady (s.w.chan d) = true) (hplan : s.w.planCopy n d r.root (s.w.chan d) (s.w.chan d).runs = (.clear sp dp, w)) :
    let x := w.chanCopy n (s.w.chan d) sp dp (s.w.chan d).runs
    let y := x.1.endDescriptor r n d x.2 (if x.2.poisoned then stPoison else stOk) false
    exec (.dmaDescriptorComplete d) s = .next (s.withW (if ddBar (s.w.chan d).desc then y else y.readAhead s.w n d r.root)) := by
  intro x y
  have hexec : exec (.dmaDescriptorComplete d) s = execDmaDescriptorComplete d s := rfl
  have hdesc : x.2.desc = (s.w.chan d).desc := (congrArg Chan.desc (World.chanCopy_frame w n (s.w.chan d) sp dp (s.w.chan d).runs)).trans rfl
  rw [hexec, execDmaDescriptorComplete, State.chanRun_runs hctx hawake]
  dsimp only
  rw [if_neg (by simp [hst, hhave, hready]), hplan]
  exact congrArg (fun c => Host.Outcome.next (s.withW (if ddBar c then y else y.readAhead s.w n d r.root))) hdesc

end

/-- The condition of a halt at an access. -/
theorem State.chan_moving {s : State} {d : ChanId} (hst : (s.w.chan d).st = .running ∨ (s.w.chan d).st = .pausing) (hhave : (s.w.chan d).have_ = true)
    (hready : s.w.chanReady (s.w.chan d) = true) :
    (((s.w.chan d).st == .running || (s.w.chan d).st == .pausing) && (s.w.chan d).have_ && s.w.chanReady (s.w.chan d)) = true := by
  rw [hhave, hready]
  obtain h | h := hst <;> rw [h] <;> rfl

section
variable {s : State} {d : ChanId} {n : Nat} {r : Resid} (hctx : s.chanCtx d = some (n, r)) (hawake : s.w.asleep (chanCluster d) = false)
include hctx hawake

/-- A copy that meets a bus error halts its channel there (R312). -/
theorem exec_descriptorComplete_broken {before dir k : Nat} {walk : Bool} {w w' : World} {sp dp : List (Nat × Nat)} (hst : (s.w.chan d).st = .running)
    (hhave : (s.w.chan d).have_ = true) (hready : s.w.chanReady (s.w.chan d) = true)
    (hplan : s.w.planCopy n d r.root (s.w.chan d) (s.w.chan d).runs = (.broken before dir walk, w)) (hbefore : before < runBytes (s.w.chan d).runs)
    (hk : k = if dir = 0 then max (s.w.chan d).aheadBytes (accessFloor (·.src) before (s.w.chan d).runs) else accessFloor (·.dst) before (s.w.chan d).runs)
    (hless : k < runBytes (s.w.chan d).runs) (hclear : w.planCopy n d r.root (s.w.chan d) (firstBytes k (s.w.chan d).runs) = (.clear sp dp, w'))
    (habort : (s.w.chan d).aborting = false) :
    ∃ t, exec (.dmaDescriptorComplete d) s = .next t ∧
      (t.w.chan d).Halted stBusError (if dir = 0 then ((s.w.chan d).after k).src else ((s.w.chan d).after k).dst) dir 0 ∧
      t.w.SameCells (w'.movedBy n (s.w.chan d) sp dp k) := by
  have hexec : exec (.dmaDescriptorComplete d) s = execDmaDescriptorComplete d s := rfl
  obtain ⟨u, hhalt, hhalted, hsame⟩ := World.haltAfter_halts stBusError 0 walk hk hbefore hless hclear habort
  refine ⟨s.withW u, ?_, hhalted, hsame⟩
  rw [hexec, execDmaDescriptorComplete, State.chanRun_runs hctx hawake]
  dsimp only
  rw [if_neg (by simp [hst, hhave, hready]), hplan]
  dsimp only
  rw [World.breakChan, hhalt]
  rfl

/-- A pause that has drained: the channel is PAUSED, or its descriptor ends under ABORT (R301, R313). -/
theorem exec_pauseDrained {moved k : Nat} {w : World} {sp dp : List (Nat × Nat)} (hst : (s.w.chan d).st = .pausing)
    (hmoved : moved = 0 ∨ ((s.w.chan d).have_ = true ∧ s.w.chanReady (s.w.chan d) = true)) (hle : moved ≤ runBytes (s.w.chan d).runs)
    (hk : k = max (s.w.chan d).aheadBytes (accessFloor (·.src) moved (s.w.chan d).runs))
    (hplan : s.w.planCopy n d r.root (s.w.chan d) (firstBytes k (s.w.chan d).runs) = (.clear sp dp, w)) :
    ∃ u, exec (.dmaPauseDrained d moved) s = .next (s.withW u) ∧ (u.chan d).st = (if (s.w.chan d).aborting then .idle else .paused) ∧
      (k ≠ 0 → (u.chan d).bytes = bump 64 (s.w.chan d).bytes (runBytes (firstBytes k (s.w.chan d).runs))) ∧
      ((s.w.chan d).aborting = false → (u.chan d).src = ((s.w.chan d).after k).src ∧ (u.chan d).dst = ((s.w.chan d).after k).dst) ∧
      u.SameCells (w.movedBy n (s.w.chan d) sp dp k) := by
  have hexec : exec (.dmaPauseDrained d moved) s = execDmaPauseDrained d moved s := rfl
  have hgo : ¬ ((s.w.chan d).st ≠ .pausing ∨ (moved ≠ 0 ∧ ((s.w.chan d).have_ = false ∨ s.w.chanReady (s.w.chan d) = false)) ∨
      runBytes (s.w.chan d).runs < moved) := by
    rintro (h | ⟨hne, h⟩ | h)
    · exact h hst
    · obtain ⟨hhave, hready⟩ := hmoved.resolve_left hne
      rw [hhave, hready] at h
      exact h.elim (nomatch ·) (nomatch ·)
    · omega
  obtain ⟨hworld, hsrc, hdst, hab, hbytes⟩ := World.moved_eq w n (s.w.chan d) sp dp k
  rw [hexec, execDmaPauseDrained, State.chanRun_runs hctx hawake]
  dsimp only
  rw [if_neg hgo, ← hk, hplan]
  dsimp only
  generalize (if k = 0 then (w, s.w.chan d) else w.chanCopy n (s.w.chan d) sp dp (firstBytes k (s.w.chan d).runs)) = x at hworld hsrc hdst hab hbytes
  obtain ⟨u, x⟩ := x
  dsimp only at hworld hsrc hdst hab hbytes ⊢
  subst hworld
  have hmove (y : Chan) (st : Nat) : ((w.movedBy n (s.w.chan d) sp dp k).moveChan n d y st).SameCells (w.movedBy n (s.w.chan d) sp dp k) := by
    obtain ⟨hcores, hhbm, -, -⟩ := World.moveChan_frame (w.movedBy n (s.w.chan d) sp dp k) n d y st
    exact World.sameCells_of_eq hhbm hcores
  cases habort : (s.w.chan d).aborting with
  | true =>
    obtain ⟨hend, hcells⟩ := World.endDescriptor_idle
      (w := (w.movedBy n (s.w.chan d) sp dp k).moveChan n d { x with st := .paused, aborting := true } x.lastStatus)
      (r := r) (n := n) (d := d) (c := x) (st := if x.latStatus = 0 then stState else x.latStatus) (last := true) (.inl rfl)
    rw [if_pos (hab.trans habort)]
    refine ⟨_, rfl, ?_, fun h => ?_, fun h => (nomatch h), hcells.trans (hmove ..)⟩
    · rw [hend]
      rfl
    · rw [hend]
      exact hbytes h
  | false =>
    rw [if_neg (by rw [hab, habort]; exact Bool.false_ne_true)]
    have hdone := World.chanDone_still ((w.movedBy n (s.w.chan d) sp dp k).moveChan n d { x with st := .paused } x.lastStatus) d stOk
    refine ⟨_, rfl, ?_, fun h => ?_, fun _ => ?_, hdone.same.trans (hmove ..)⟩
    · rw [hdone.chan, World.moveChan_chan]
      rfl
    · rw [hdone.chan, World.moveChan_chan]
      exact hbytes h
    · rw [hdone.chan, World.moveChan_chan]
      exact ⟨hsrc, hdst⟩

/-- A bus error that a moving channel meets halts it (R312, R330). -/
theorem exec_halt_bus {moved dir k : Nat} {w : World} {sp dp : List (Nat × Nat)} {cause : HaltCause}
    (hcause : cause = .busRead moved ∧ dir = 0 ∨ cause = .busWrite moved ∧ dir = 1)
    (hst : (s.w.chan d).st = .running ∨ (s.w.chan d).st = .pausing) (hhave : (s.w.chan d).have_ = true)
    (hready : s.w.chanReady (s.w.chan d) = true) (habort : (s.w.chan d).aborting = false) (hmoved : moved < runBytes (s.w.chan d).runs)
    (hk : k = if dir = 0 then max (s.w.chan d).aheadBytes (accessFloor (·.src) moved (s.w.chan d).runs) else accessFloor (·.dst) moved (s.w.chan d).runs)
    (hless : k < runBytes (s.w.chan d).runs) (hplan : s.w.planCopy n d r.root (s.w.chan d) (firstBytes k (s.w.chan d).runs) = (.clear sp dp, w)) :
    ∃ t, exec (.dmaHalt d cause) s = .next t ∧
      (t.w.chan d).Halted stBusError (if dir = 0 then ((s.w.chan d).after k).src else ((s.w.chan d).after k).dst) dir 0 ∧
      t.w.SameCells (w.movedBy n (s.w.chan d) sp dp k) := by
  have hexec : exec (.dmaHalt d cause) s = execDmaHalt d cause s := rfl
  obtain ⟨u, hhalt, hhalted, hsame⟩ := World.haltAfter_halts stBusError 0 false hk hmoved hless hplan habort
  refine ⟨s.withW u, ?_, hhalted, hsame⟩
  rw [hexec, execDmaHalt, State.chanRun_runs hctx hawake]
  dsimp only
  rw [State.chan_moving hst hhave hready]
  obtain ⟨rfl, rfl⟩ | ⟨rfl, rfl⟩ := hcause
  · dsimp only
    rw [if_pos rfl, hhalt]
  · dsimp only
    rw [if_pos rfl, hhalt]

/-- A translation fault that a moving channel meets halts it (R312). -/
theorem exec_halt_translation {before dir va k : Nat} {f : XFault} {w w' : World} {sp dp : List (Nat × Nat)}
    (hst : (s.w.chan d).st = .running ∨ (s.w.chan d).st = .pausing) (hhave : (s.w.chan d).have_ = true)
    (hready : s.w.chanReady (s.w.chan d) = true) (habort : (s.w.chan d).aborting = false)
    (hplan : s.w.planCopy n d r.root (s.w.chan d) (s.w.chan d).runs = (.faulty before dir va f, w)) (hbefore : before < runBytes (s.w.chan d).runs)
    (hk : k = if dir = 0 then max (s.w.chan d).aheadBytes (accessFloor (·.src) before (s.w.chan d).runs) else accessFloor (·.dst) before (s.w.chan d).runs)
    (hless : k < runBytes (s.w.chan d).runs)
    (hclear : (w.reportFault n va f (chanSource d dir)).planCopy n d r.root (s.w.chan d) (firstBytes k (s.w.chan d).runs) = (.clear sp dp, w')) :
    ∃ t, exec (.dmaHalt d .translation) s = .next t ∧
      (t.w.chan d).Halted f.status (if dir = 0 then ((s.w.chan d).after k).src else ((s.w.chan d).after k).dst) dir f.kind ∧
      t.w.SameCells (w'.movedBy n (s.w.chan d) sp dp k) := by
  have hexec : exec (.dmaHalt d .translation) s = execDmaHalt d .translation s := rfl
  obtain ⟨u, hhalt, hhalted, hsame⟩ := World.haltAfter_halts f.status f.kind false hk hbefore hless hclear habort
  refine ⟨s.withW u, ?_, hhalted, hsame⟩
  rw [hexec, execDmaHalt, State.chanRun_runs hctx hawake]
  dsimp only
  rw [State.chan_moving hst hhave hready, hplan]
  dsimp only
  rw [if_neg (by decide), hhalt]

/-- A bus error on a descriptor halts the channel (R312). -/
theorem exec_halt_fetch (hst : (s.w.chan d).st = .running) (hnone : (s.w.chan d).have_ = false) (habort : (s.w.chan d).aborting = false) :
    ∃ t, exec (.dmaHalt d .busFetch) s = .next t ∧ (t.w.chan d).Halted stBusError (s.w.chan d).cur 2 0 ∧ t.w.SameCells s.w := by
  have hexec : exec (.dmaHalt d .busFetch) s = execDmaHalt d .busFetch s := rfl
  obtain ⟨hhalted, hsame⟩ := World.haltChan_halted (s.w.chanBus n d r.root false (s.w.chan d).cur.toNat) r n d stBusError (s.w.chan d).cur 2 0 habort
  refine ⟨s.withW ((s.w.chanBus n d r.root false (s.w.chan d).cur.toNat).haltChan r n d (s.w.chan d) stBusError (s.w.chan d).cur 2 0), ?_, hhalted,
    hsame.trans (World.chanBus_still ..).same⟩
  rw [hexec, execDmaHalt, State.chanRun_runs hctx hawake]
  dsimp only
  rw [if_pos ⟨hst, hnone⟩]

end

/-- A wait that lasts too long halts the channel (R305). -/
theorem exec_waitTimeout_halts {s : State} {d : ChanId} {n : Nat} {r : Resid} (hctx : s.chanCtx d = some (n, r))
    (hst : (s.w.chan d).st = .running) (hhave : (s.w.chan d).have_ = true)
    (hready : s.w.chanReady (s.w.chan d) = false) (habort : (s.w.chan d).aborting = false) :
    ∃ u, exec (.dmaWaitTimeout d) s = .next (s.withW u) ∧ (u.chan d).Halted stTimeout (s.w.chan d).cur 3 0 ∧ u.SameCells s.w := by
  have hexec : exec (.dmaWaitTimeout d) s = execDmaWaitTimeout d s := rfl
  refine ⟨_, ?_, World.haltChan_halted s.w r n d stTimeout (s.w.chan d).cur 3 0 habort⟩
  rw [hexec, execDmaWaitTimeout, hctx]
  dsimp only
  rw [if_pos ⟨hst, hhave, hready⟩]

end Sys2Proof.Machine

/-! PROOFS. What O44 comes down to: each of its clauses, and the free value that decides the one on a completed descriptor. -/
namespace Sys2Proof.Machine

/-- Reading a descriptor changes no byte of HBM and no channel. -/
theorem World.readDescriptor_frame {w u : World} {n d a : Nat} {r : Resid} {x : Except (Nat × XFault) (List Byte × Bool)}
    (h : w.readDescriptor n d r a = (x, u)) : u.hbm.mem.cells = w.hbm.mem.cells ∧ ∀ e, u.chan e = w.chan e := by
  have hpages := World.chanPages_still w n d r.root false (pagesOf (dAddr a) 64)
  unfold World.readDescriptor at h
  split at h
  · split at h
    · next heq =>
      rw [heq] at hpages
      rw [← (Prod.mk.inj h).2]
      exact ⟨hpages.same.1, hpages.chan⟩
    · next v heq =>
      rw [heq] at hpages
      rw [← (Prod.mk.inj h).2]
      exact ⟨(World.readBlocks_cells ..).trans hpages.same.1, fun e => ((World.readBlocks_side ..).chan e).trans (hpages.chan e)⟩
  · have htouch := World.onlyRead_touch w (dCore a) (some n) .scratch (wordsOf 16 (dAddr a) 64)
    rw [← (Prod.mk.inj h).2]
    exact ⟨htouch.cells, htouch.chan⟩

theorem accessFloor_le (at_ : RowRun → Nat) (moved : Nat) (l : List RowRun) : accessFloor at_ moved l ≤ moved := by
  induction l generalizing moved with
  | nil => exact Nat.zero_le _
  | cons r l ih =>
    have hrest := ih (moved - r.len)
    unfold accessFloor
    dsimp only
    split
    · omega
    split
    · exact Nat.zero_le _
    · omega

/-! ## A descriptor that is completed (R301, R307) -/

/-- What the completion of a descriptor leaves of its channel: counted, with its status, and the chain at its end or at its next descriptor. -/
structure Chan.Completed (c : Chan) (st : Nat) (x : Chan) : Prop where
  done : x.done = (c.done + 1) % 2 ^ 64
  status : x.lastStatus = st
  ends : ddNext c.desc = 0 → x.st = .idle
  goesOn : ddNext c.desc ≠ 0 → x.st = .running ∧ x.cur.toNat = ddNext c.desc ∧ (x.have_ = true ↔ c.nextDesc ≠ none)

theorem ddNext_lt (b : List Byte) : ddNext b < 2 ^ 64 := Nat.lt_of_lt_of_eq (le_lt b 16 8) (by decide)

theorem Chan.goesOn_completed {c : Chan} (st : Nat) (h : ddNext c.desc ≠ 0) : c.Completed st (c.goesOn st (ddNext c.desc)) := by
  have hcur : (BitVec.ofNat 64 (ddNext c.desc)).toNat = ddNext c.desc := (BitVec.toNat_ofNat ..).trans (Nat.mod_eq_of_lt (ddNext_lt _))
  unfold Chan.goesOn
  dsimp only
  split
  · next hnext => exact ⟨rfl, rfl, fun hz => absurd hz h, fun _ => ⟨rfl, hcur, by simp [hnext, Chan.load]⟩⟩
  · next hnext => exact ⟨rfl, rfl, fun hz => absurd hz h, fun _ => ⟨rfl, hcur, by simp [hnext, Chan.ended]⟩⟩

theorem World.endDescriptor_completes (w : World) (r : Resid) (n d : Nat) {c : Chan} (st : Nat) (hhave : c.have_ = true) :
    c.Completed st ((w.endDescriptor r n d c st false).chan d) ∧ (w.endDescriptor r n d c st false).SameCells w := by
  by_cases h : ddNext c.desc = 0
  · obtain ⟨hchan, hsame⟩ := World.endDescriptor_idle (w := w) (r := r) (n := n) (d := d) (c := c) (st := st) (last := false) (.inr h)
    rw [hchan]
    exact ⟨⟨rfl, rfl, fun _ => rfl, fun hne => absurd h hne⟩, hsame⟩
  · obtain ⟨hchan, hcores, hhbm, -⟩ := World.endDescriptor_goesOn (w := w) (r := r) (n := n) (d := d) (st := st) hhave h
    rw [hchan]
    exact ⟨Chan.goesOn_completed st h, World.sameCells_of_eq hhbm hcores⟩

theorem World.readFirst_zero_completed {w old : World} {n d root st : Nat} {c : Chan} (h : c.Completed st (w.chan d)) :
    c.Completed st ((w.readFirst old n d root 0).chan d) ∧ (w.readFirst old n d root 0).SameCells w := by
  obtain heq | heq := World.readFirst_zero w old n d root
  · rw [heq]
    exact ⟨h, rfl, fun _ _ => rfl⟩
  · rw [heq, World.chan_setChan]
    exact ⟨⟨h.done, h.status, h.ends, h.goesOn⟩, World.setChan_sameCells ..⟩

/-- A descriptor completed with nothing read ahead. -/
theorem World.descriptorEnd_completes (hfree : ∀ f, Config.freeNat f % 4097 = 0) (w old : World) (r : Resid) (n d root : Nat) {c : Chan} (st : Nat)
    (hhave : c.have_ = true) (bar : Bool) :
    let y := w.endDescriptor r n d c st false
    let u := if bar then y else y.readAhead old n d root
    c.Completed st (u.chan d) ∧ u.SameCells w := by
  intro y u
  obtain ⟨hchan, hsame⟩ := World.endDescriptor_completes w r n d st hhave
  cases bar with
  | true => exact ⟨hchan, hsame⟩
  | false =>
    have hu : u = ({ y with free := y.free + 1 } : World).readFirst old n d root 0 := by
      rw [← hfree y.free]
      rfl
    obtain ⟨hread, hcells⟩ := World.readFirst_zero_completed (w := { y with free := y.free + 1 }) (old := old) (n := n) (root := root) hchan
    rw [hu]
    exact ⟨hread, hcells.trans hsame⟩

/-! ## Reads ahead of a Partial-Sum Store -/

/-- A descriptor of one byte of a Partial-Sum Store. -/
def byteOfTags : List Byte := List.replicate 7 0 ++ [0x60] ++ List.replicate 24 0 ++ [1] ++ List.replicate 31 0

/-- A channel with nothing left to move, before that descriptor. -/
def emptyBefore : Chan :=
  { st := .running, have_ := true, desc := List.replicate 16 0 ++ [64] ++ List.replicate 47 0, nextDesc := some byteOfTags }

/-- A part with that channel, whose Partial-Sum Store has an uncorrectable error in its first word. -/
def aheadOfTags (f : Nat) : State :=
  { pending := [], otp := {}, flash := {}, ctl := { part := .ready }, res := [(5, oneCluster)]
    w := { clusters := [(0, { power := .run })], dma := [(0, emptyBefore)], free := f
           cores := [(0, { state := .running, ps := { upsets := [(0, .ue)] } })] } }

/-- The channel at the descriptor of the byte. -/
def atTags : Chan := emptyBefore.goesOn stOk 64

theorem atTags_runs : atTags.runs = [⟨0, 0, 1⟩] := by decide
theorem atTags_space : dSpace atTags.src.toNat = 3 := by decide
theorem atTags_core : dCore atTags.src.toNat = 0 := by decide

theorem touch_tags {w : World} (h : w.core 0 = { state := .running, ps := { upsets := [(0, .ue)] } }) :
    Cells.get ((w.touch 0 (some 5) .psum [0]).core 0).ps.cells 4 = 0x10 := by
  have hps : ((w.touch 0 (some 5) .psum [0]).core 0).ps = (({ upsets := [(0, .ue)] } : EccMem).mark 0).psTags 0 := by
    have htouch : w.touch 0 (some 5) .psum [0] = w.touchWord 0 (some 5) .psum 0 := rfl
    rw [htouch]
    unfold World.touchWord
    rw [h]
    refine (congrArg Core.ps ((World.raise_side ..).core 0)).trans ?_
    exact (congrArg Core.ps (World.core_setCore ..)).trans rfl
  rw [hps]
  decide

/-- However many bytes are read ahead, the poison tag is set. -/
theorem readFirst_tags {w old : World} {k : Nat} (hk : k ≠ 0) (hchan : w.chan 0 = atTags)
    (hcore : w.core 0 = { state := .running, ps := { upsets := [(0, .ue)] } }) :
    Cells.get (((w.readFirst old 5 0 oneCluster.root k).core 0).ps.cells) 4 = 0x10 := by
  have hgo : (!atTags.have_ || dsWaitEn (ddSync atTags.desc)) = false := by decide
  have hone : firstBytes (accessFloor (·.src) (min k (runBytes atTags.runs)) atTags.runs) atTags.runs = [⟨0, 0, 1⟩] := by
    have hmin : min k (runBytes atTags.runs) = 1 := by
      rw [atTags_runs]
      exact (Nat.min_eq_right (Nat.pos_of_ne_zero hk))
    rw [hmin, atTags_runs]
    decide
  have hplan : w.planSide 5 0 oneCluster.root 0 3 (·.src) [⟨0, 0, 1⟩] = (.ok [], w) := rfl
  have hreads : w.chanReads 5 atTags [] [⟨0, 0, 1⟩] = w.touch 0 (some 5) .psum [0] := by
    unfold World.chanReads
    dsimp only
    rw [atTags_space, atTags_core, if_neg (by decide)]
    rfl
  unfold World.readFirst
  dsimp only
  rw [hchan, hgo, if_neg Bool.false_ne_true, hone, atTags_space, hplan]
  dsimp only
  rw [hreads]
  exact touch_tags hcore

theorem aheadOfTags_ready (f : Nat) : (aheadOfTags f).w.chanReady emptyBefore = true := by
  have hwait : dsWaitEn (ddSync emptyBefore.desc) = false := by decide
  unfold World.chanReady
  dsimp only
  rw [hwait]
  rfl

/-- The completion of that channel's descriptor. -/
theorem aheadOfTags_exec (f : Nat) : ∃ u, exec (.dmaDescriptorComplete 0) (aheadOfTags f) = .next ((aheadOfTags f).withW
    (World.readFirst u (aheadOfTags f).w 5 0 oneCluster.root (Config.freeNat f % 4097))) ∧
    u.chan 0 = atTags ∧ u.core 0 = { state := .running, ps := { upsets := [(0, .ue)] } } := by
  have hplan : (aheadOfTags f).w.planCopy 5 0 oneCluster.root emptyBefore emptyBefore.runs = (.clear [] [], (aheadOfTags f).w) := rfl
  have hcopy : (aheadOfTags f).w.chanCopy 5 emptyBefore [] [] emptyBefore.runs = ((aheadOfTags f).w, emptyBefore) := rfl
  have hexec := exec_descriptorComplete (s := aheadOfTags f) (d := 0) (n := 5) (r := oneCluster) rfl rfl rfl rfl (aheadOfTags_ready f) hplan
  have hchan : (aheadOfTags f).w.chan (0 : ChanId).val = emptyBefore := rfl
  have hbar : ddBar emptyBefore.desc = false := by decide
  rw [hchan, hcopy, hbar] at hexec
  dsimp only at hexec
  rw [if_neg Bool.false_ne_true, World.readAhead_eq] at hexec
  obtain ⟨hnext, hcores, -, hfree⟩ := World.endDescriptor_goesOn (w := (aheadOfTags f).w) (r := oneCluster) (n := 5) (d := 0) (c := emptyBefore) (st := stOk)
    rfl (by decide)
  generalize hy : World.endDescriptor (aheadOfTags f).w oneCluster 5 0 emptyBefore stOk false = y at hnext hcores hfree
  have hend : World.endDescriptor (aheadOfTags f).w oneCluster 5 (0 : ChanId).val
      emptyBefore (if emptyBefore.poisoned = true then stPoison else stOk) false = y := hy
  rw [hend, hfree] at hexec
  refine ⟨{ y with free := f + 1 }, hexec, hnext.trans ?_, ?_⟩
  · exact congrArg (emptyBefore.goesOn stOk) (by decide)
  · exact (congrArg (Tab.get (Core.fresh 0) · 0) hcores).trans rfl

/-- O44 asks that no descriptor is read ahead, whatever the free values are. -/
theorem freeNat_of_channelEventsComplete (h : Obligations.ChannelEventsComplete) (f : Nat) : Config.freeNat f % 4097 = 0 := by
  refine Decidable.byContradiction fun hk => ?_
  unfold Obligations.ChannelEventsComplete at h
  obtain ⟨-, -, hcomplete, -⟩ := h (aheadOfTags f) 0 5 oneCluster rfl rfl
  have hplan : (aheadOfTags f).w.planCopy 5 0 oneCluster.root emptyBefore emptyBefore.runs = (.clear [] [], (aheadOfTags f).w) := rfl
  obtain ⟨t, hexec, -, -, -, hsame, -⟩ := hcomplete [] [] (aheadOfTags f).w rfl rfl (aheadOfTags_ready f) hplan
  obtain ⟨u, hexec', hchan, hcore⟩ := aheadOfTags_exec f
  rw [hexec'] at hexec
  cases hexec
  have htag := readFirst_tags (old := (aheadOfTags f).w) hk hchan hcore
  have hcopy : (aheadOfTags f).w.chanCopy 5 emptyBefore [] [] emptyBefore.runs = ((aheadOfTags f).w, emptyBefore) := rfl
  have hcells : ((u.readFirst (aheadOfTags f).w 5 0 oneCluster.root (Config.freeNat f % 4097)).core 0).ps.cells = [] :=
    (hsame.2 0 .psum).trans (congrArg (fun x : World × Chan => ((x.1.core 0).mem .psum).cells) hcopy)
  rw [hcells] at htag
  cases htag

/-- O44 is what is left to the free values: its clauses hold of every state where no descriptor is read ahead. -/
theorem channelEventsComplete_of_freeNat (hfree : ∀ f, Config.freeNat f % 4097 = 0) : Obligations.ChannelEventsComplete := by
  unfold Obligations.ChannelEventsComplete
  intro s d n r hctx hawake
  refine ⟨fun b w hst hnone hnext halign hlost hread hbus hgood => ?_, fun b w0 c0 w hst hhave hbar hnext halign hnone hready hlost hissue hread hbus hgood => ?_,
    fun sp dp w hst hhave hready hplan => ?_, fun before dir walk w sp dp w' hst hhave hready hplan hbefore hless hclear habort => ?_,
    fun moved sp dp w hst hmoved hle hplan => ?_, fun moved sp dp w hmoving hmoved hless hplan => ?_, fun moved sp dp w hmoving hmoved hplan => ?_,
    fun hst hnone habort => ?_, fun before dir va f w sp dp w' hmoving hplan hbefore hless hclear => ?_, fun hst hhave hready habort => ?_⟩
  · have hexec := exec_fetchCurrent hctx hawake hst hnone hnext halign hlost hread hbus hgood
    have hreads := World.readDescriptor_frame hread
    refine ⟨_, hexec, rfl, hreads.1, World.chan_setChan .., fun e he => ?_⟩
    exact (World.chan_setChan_ne _ _ he).trans (hreads.2 e)
  · exact exec_fetchNext hctx hawake hst hhave hbar hnext halign hnone hready hlost hissue hread hbus hgood
  · have hexec := exec_descriptorComplete hctx hawake hst hhave hready hplan
    have hstill : s.w.Still w := by
      have h := World.planCopy_still s.w n d r.root (s.w.chan d) (s.w.chan d).runs
      rw [hplan] at h
      exact h
    intro x st y
    have hframe := World.chanCopy_frame w n (s.w.chan d) sp dp (s.w.chan d).runs
    have hhave' : x.2.have_ = true := (congrArg Chan.have_ hframe).trans hhave
    have hdesc : x.2.desc = (s.w.chan d).desc := (congrArg Chan.desc hframe).trans rfl
    have hnext : x.2.nextDesc = (s.w.chan d).nextDesc := (congrArg Chan.nextDesc hframe).trans rfl
    have hdone : x.2.done = (s.w.chan d).done := (congrArg Chan.done hframe).trans rfl
    obtain ⟨hcompleted, hsame⟩ := World.descriptorEnd_completes hfree x.1 s.w r n d r.root st hhave' (ddBar (s.w.chan d).desc)
    obtain ⟨h1, h2, h3, h4⟩ := hcompleted
    rw [hdesc] at h3 h4
    rw [hnext] at h4
    rw [hdone] at h1
    refine ⟨_, hexec, rfl, h1, h2, hsame, h3, h4, fun hdst => ?_, fun hdst => ?_⟩
    · exact hsame.1.trans ((World.chanCopy_hbm w n hdst sp dp _).trans hstill.same.1)
    · exact hsame.stores.trans ((World.chanCopy_stores w n hdst sp dp _).trans hstill.same.stores)
  · obtain ⟨t, hexec, ⟨h1, h2, h3, h4, h5⟩, hsame⟩ := exec_descriptorComplete_broken hctx hawake hst hhave hready hplan hbefore rfl hless hclear habort
    exact ⟨t, hexec, ⟨h1, h2, h3, h4, h5⟩, hsame⟩
  · obtain ⟨u, hexec, hu, hbytes, hregs, hsame⟩ := exec_pauseDrained hctx hawake hst hmoved hle rfl hplan
    exact ⟨_, hexec, rfl, hu, hbytes, hregs, hsame⟩
  · obtain ⟨hst, hhave, hready, habort⟩ := hmoving
    obtain ⟨t, hexec, ⟨h1, h2, h3, h4, h5⟩, hsame⟩ := exec_halt_bus hctx hawake (.inl ⟨rfl, rfl⟩) hst hhave hready habort hmoved rfl hless hplan
    exact ⟨t, hexec, ⟨h1, h2, h3, h4, h5⟩, hsame⟩
  · obtain ⟨hst, hhave, hready, habort⟩ := hmoving
    obtain ⟨t, hexec, ⟨h1, h2, h3, h4, h5⟩, hsame⟩ := exec_halt_bus hctx hawake (.inr ⟨rfl, rfl⟩) hst hhave hready habort hmoved rfl
      (Nat.lt_of_le_of_lt (accessFloor_le ..) hmoved) hplan
    exact ⟨t, hexec, ⟨h1, h2, h3, h4, h5⟩, hsame⟩
  · obtain ⟨t, hexec, ⟨h1, h2, h3, h4, h5⟩, hsame⟩ := exec_halt_fetch hctx hawake hst hnone habort
    exact ⟨t, hexec, ⟨h1, h2, h3, h4, h5⟩, hsame⟩
  · obtain ⟨hst, hhave, hready, habort⟩ := hmoving
    obtain ⟨t, hexec, ⟨h1, h2, h3, h4, h5⟩, hsame⟩ := exec_halt_translation hctx hawake hst hhave hready habort hplan hbefore rfl hless hclear
    exact ⟨t, hexec, ⟨h1, h2, h3, h4, h5⟩, hsame⟩
  · obtain ⟨u, hexec, ⟨h1, h2, h3, h4, h5⟩, hsame⟩ := exec_waitTimeout_halts hctx hst hhave hready habort
    exact ⟨_, hexec, rfl, ⟨h1, h2, h3, h4, h5⟩, hsame⟩

/-- O44 is neither proved nor refuted: of every part it holds exactly where the free value of log entry 186 never reads ahead. A read ahead of a
Partial-Sum Store word with an uncorrectable error sets the word's poison tags (R105), which the clause on a completed descriptor does not allow. -/
theorem channelEventsComplete_iff : Obligations.ChannelEventsComplete ↔ ∀ f, Config.freeNat f % 4097 = 0 :=
  ⟨freeNat_of_channelEventsComplete, channelEventsComplete_of_freeNat⟩

end Sys2Proof.Machine
